-- ==== Sys2Proof/Word.lean ====
section
/-! DEFINITION. The words of the block: bytes, 32-bit registers and 64-bit values (00_scope R8). -/

namespace Sys2Proof

/-- One byte. -/
abbrev Byte := BitVec 8

/-- One 32-bit register word (15_register_map R536). -/
abbrev Word := BitVec 32

/-- One 64-bit value: a counter, a latch, a check value. -/
abbrev Dword := BitVec 64

/-- TIME_IN in nanoseconds (16_integration Table 16-3), kept as a number below 2^64. -/
abbrev Time := Nat

end Sys2Proof
end

