-- ==== Sys2Proof/Syntax.lean ====
section
/-! DEFINITION. The commands of the block: one constructor of `Instr` for each row of spec/opcode_table.json, with what the
row takes from outside. Every command carries TIME_IN (log 3). -/

namespace Sys2Proof

/-- The two ports that reach the register window (15_register_map R535). -/
inductive Port where
  | host
  | mgmt
  deriving DecidableEq, Repr

/-- The clocks whose edges are counted (13_clocks_power_lifecycle R491), in the bit order of DJ_CLK_STAT. -/
inductive Clk where
  | eclk | mclk0 | mclk1 | mclk2 | mclk3 | lclk | hclk | dclk
  deriving DecidableEq, Repr

/-- The kinds of port that DJ_FN_SEL names (13_clocks_power_lifecycle Table 13-6). -/
inductive PortKind where
  | memory | delivery | intake | link
  deriving DecidableEq, Repr

/-- A function that shuts down and is enabled by Table 5-29 (05_streams_and_order R197). -/
inductive FnId where
  | core (c : Fin 16)
  | port (k : PortKind) (i : Fin 8)
  | stream (n : Nat)
  | cluster
  deriving DecidableEq, Repr

/-- What a current ramp or an SRAM wipe belongs to (13_clocks_power_lifecycle R496, R500, R501, R513). -/
inductive Scope where
  | fn (f : FnId)          -- the shut-down of one function
  | warm                   -- a cluster warm reset
  | cold                   -- step 5 of Table 13-4
  | held                   -- the wipe on entering HELD (R482), and the ramps of a cluster that is ON (R504)
  | life                   -- a life-cycle change
  | test (c : Fin 16)      -- the wipe that ends a core test
  | shared                 -- the wipe after a shared-SRAM MBIST
  | wipeCore (c : Fin 16)  -- a WIPE descriptor with SCOPE CORE
  deriving DecidableEq, Repr

/-- What the memory ports return to the reads that a step makes: bytes by address (an address that is not listed reads
as zero: the list leaves zero bytes out), and the 64-byte sectors that arrive with poison (10_memory_channels R379). -/
structure Image where
  cells : List (Nat × Byte)
  poison : List Nat
  deriving DecidableEq, Repr

/-- The store that holds a faulty SRAM word (11_integrity Table 11-2). -/
inductive SramStore where
  | engine (core eng : Nat)          -- window, dictionary, lane queues or delivery buffer: the work of that engine
  | checker (core : Nat)
  | tables (core : Nat)              -- code-table or seed-dictionary store
  | accumulator (acc : Nat)
  | atoll
  | retained (wjob : Nat)            -- retained image of a tile being compressed
  | readAhead (rjob : Nat)           -- REDUCE source or read-ahead payload
  | addendChunk (stream chunk : Nat) -- accepted collective chunk held as an addend
  | sentChunk (stream chunk : Nat)   -- staged outgoing chunk
  | delivery (port : Nat)            -- the delivery buffers of a port
  | context (stream : Nat)
  | dirCache (entryAddr : Nat)
  | allocator (pool : Nat)
  | history (stream : Nat)
  deriving DecidableEq, Repr

/-- A hardware fault that a step meets (11_integrity R414 to R420): an input of the model. -/
inductive HwFault where
  | correctable (store : SramStore) (arr : Nat)             -- a single-bit error, corrected on read (R415)
  | uncorrectable (store : SramStore) (arr word : Nat)      -- R416
  | parity (path : Nat)                                     -- R417
  | quant (group elem : Nat) (again : Bool)                 -- R419: a group fails its bound check, once or twice
  | dupMismatch                                             -- R420
  | residue (elem : Nat)                                    -- R307, R332
  | sumCheck (elem : Nat) (delta : Int)                     -- R353: an adder has moved an element of a hop's sum
  | madePayload (part : Nat) (bytes : List Byte)            -- what a faulty engine coded for part `part` of a tile
  deriving DecidableEq, Repr

/-- What a checker decoder saw (11_integrity R425): an image, or an error with its reason code. -/
inductive Seen where
  | image (bytes : List Byte)
  | error (reason : Nat)
  deriving DecidableEq, Repr

/-- What a message for the home cluster's commit queue asks: a commit, or the lock of a Causeway's tile and its end (10_memory_channels
R397). -/
inductive CommitOp where
  | write | lock | unlock
  deriving DecidableEq, Repr

/-- A commit that reaches the home cluster over the die ring (05_streams_and_order R188; format: log 15). -/
structure RemoteCommit where
  op : CommitOp
  cluster : Nat
  job : Nat
  pool : Nat
  recAddr : Nat
  tile : Nat
  entryAddr : Nat
  mapAddr : Nat
  entry : BitVec 128
  seq : Word
  handle : Word
  expect : Option (BitVec 128)  -- a Causeway's: the entry that must still stand (10_memory_channels R397 step 7)
  skipZero : Bool               -- a MIGRATE's: no commit over a tile that is ZERO (10_memory_channels R407)
  cls : Nat                     -- arbitration class of the work (05_streams_and_order Table 5-26)
  deriving DecidableEq, Repr

/-- A sector request from another cluster (01_five_levels R21; format: log 15). -/
structure RemoteRequest where
  cluster : Nat
  job : Nat
  pool : Nat
  recAddr : Nat
  tile : Nat
  sizes : List (Nat × Nat)    -- offset from the starting list position (R384), sectors
  cls : Nat                   -- rank of the work (05_streams_and_order R192, R193): class, deadline within its window, stream, weight
  urgent : Option Nat
  stream : Nat
  weight : Nat
  deriving DecidableEq, Repr

/-- An answer over the die ring (01_five_levels R23; format: log 15). -/
inductive RingAnswer where
  | grant (starts : List Nat)
  | noSpace
  | committed (old : Option (Nat × Nat))   -- sectors of the replaced entry: first, count (07_compression Table 7-3 step 8)
  | superseded
  | failed
  | unavailable
  deriving DecidableEq, Repr

/-- The identity of a running cluster of the die (12_chart R28, R457, R463). -/
structure Peer where
  fleet : Word
  rank : Nat
  die : Nat
  cluster : Nat
  poolsScrc : Word
  deriving DecidableEq, Repr

/-- What MBIST finds in one SRAM instance (14_field_test R526): the failing cells, the address of the first failing word, and whether
the instance fails again after its repair. -/
structure MbistResult where
  arr : Nat
  cells : List (Nat × Nat)           -- row and column addresses
  addr : Nat
  again : Bool
  deriving DecidableEq, Repr

/-- What the chains of a core give for one pattern record of a SCAN part (14_field_test Table 14-1): its index, and the observed bits in the
order of EXPECT. -/
structure ScanSeen where
  index : Nat
  bits : List Byte
  deriving DecidableEq, Repr

/-- The source of a completion record: a descriptor that failed step 1, 2 or 3 on a queue, or the head of a stream
(05_streams_and_order R177). -/
inductive CmplOf where
  | early (q : Fin 64)
  | stream (n : Nat)
  deriving DecidableEq, Repr

/-- The test access that a segment insertion bit leads to (14_field_test R532). -/
inductive TestAccess where
  | bist (core : Option (Fin 16))    -- the instruments of a core, or those of the shared SRAMs
  | directScan (core : Fin 16)
  | identification
  deriving DecidableEq, Repr

/-- The commands, in the order of spec/opcode_table.json. `t` is TIME_IN; `w` is the value written; `par` is the path on which the
command meets a parity error, if it meets one (13_clocks_power_lifecycle R490; log 83). -/
inductive Instr where
  -- resets, power and life cycle
  | coldResetAssert (t : Time)
  | coldResetRelease (t : Time) (lcIn : BitVec 3)
  | repairWord (t : Time) (w : Word)
  | repairDone (t : Time)
  | warmRstN (t : Time)
  | warmRst (t : Time) (p : Port) (par : Option Nat)
  | mgRstN (t : Time)
  | clusterDisable (t : Time) (p : Port) (par : Option Nat)
  | clusterEnable (t : Time) (p : Port) (par : Option Nat)
  | clkLost (t : Time) (c : Clk)
  | clkLostRepeat (t : Time)
  | pwrGrantChange (t : Time) (level : Bool) (par : Option Nat)
  | intentLeadExpiry (t : Time)
  | currentRampDone (t : Time) (sc : Scope)
  | sramWipeDone (t : Time) (sc : Scope)
  | drainDone (t : Time)
  | fnEnable (t : Time) (w : Word) (par : Option Nat)
  | fnDisable (t : Time) (w : Word) (par : Option Nat)
  | fnReset (t : Time) (w : Word) (par : Option Nat)
  | shutDownCompletes (t : Time) (f : FnId)
  -- queues and streams
  | queueEnable (t : Time) (q : Fin 64) (w : Word) (par : Option Nat)
  | queueDisable (t : Time) (q : Fin 64) (w : Word) (par : Option Nat)
  | qbaseWrite (t : Time) (q : Fin 64) (hi : Bool) (w : Word) (par : Option Nat)
  | cbaseWrite (t : Time) (q : Fin 64) (hi : Bool) (w : Word) (par : Option Nat)
  | qtailWrite (t : Time) (q : Fin 64) (w : Word) (par : Option Nat)
  | cheadWrite (t : Time) (q : Fin 64) (w : Word) (par : Option Nat)
  | openStream (t : Time) (w : Word) (par : Option Nat)
  | closeStream (t : Time) (w : Word) (par : Option Nat)
  | descriptorFetch (t : Time) (q : Fin 64) (img : Image) (par : Option Nat)
  | contextFetchDone (t : Time) (q : Fin 64) (img : Image) (par : Option Nat)
  -- descriptors at work
  | expand (t : Time) (stream : Nat)
  | compress (t : Time) (stream : Nat)
  | resume (t : Time) (stream : Nat)
  | exportTiles (t : Time) (stream : Nat)
  | reduce (t : Time) (stream : Nat)
  | scatterAcc (t : Time) (stream : Nat)
  | merge (t : Time) (stream : Nat)
  | collectiveSend (t : Time) (stream : Nat)
  | collectiveRecv (t : Time) (stream : Nat)
  | migrate (t : Time) (stream : Nat)
  | scrub (t : Time) (stream : Nat)
  | fenceStreams (t : Time) (stream : Nat)
  | fenceBarrier (t : Time) (stream : Nat)
  | wipeStreamData (t : Time) (stream : Nat)
  | wipeCore (t : Time) (stream : Nat)
  | wipeIdleSram (t : Time) (stream : Nat)
  | testLbist (t : Time) (stream : Nat)
  | testMbist (t : Time) (stream : Nat)
  | testMbistShared (t : Time) (stream : Nat)
  | ferryNow (t : Time) (stream : Nat)
  | loadPackage (t : Time) (stream : Nat) (img : Image) (par : Option Nat)
  | lifecycle (t : Time) (stream : Nat)
  | descriptorCompletion (t : Time) (src : CmplOf)
  -- memory responses and the tile pipeline
  | memoryReadResponse (t : Time) (port : Fin 8) (tag : Nat) (img : Image) (hw : List HwFault)
  | memoryWriteResponse (t : Time) (port : Fin 8) (tag : Nat) (err : Bool) (par : Option Nat)
  | readRestart (t : Time) (job : Nat)
  | tileDecodeDone (t : Time) (core : Fin 16) (eng : Fin 8) (hw : List HwFault)
  | deliveryBeat (t : Time) (port : Fin 8) (hw : List HwFault)
  | portStall (t : Time) (port : Fin 8)
  | intakeBeat (t : Time) (port : Fin 4) (side : Word) (data : List Byte) (hw : List HwFault)
  | intakeStall (t : Time) (port : Fin 4)
  | tileCodeDone (t : Time) (core : Fin 16) (eng : Fin 8) (hw : List HwFault)
  | checkerOutcome (t : Time) (core : Fin 16) (seen : Option Seen) (hw : List HwFault)
  | thirdEvaluation (t : Time) (core : Fin 16) (seen : Option Seen) (hw : List HwFault)
  | allocationRequest (t : Time) (job : Nat)
  | tileCommit (t : Time) (img : Image) (par : Option Nat)
  -- the die ring
  | dieRingCommit (t : Time) (c : RemoteCommit) (hw : List HwFault)
  | dieRingSectorRequest (t : Time) (r : RemoteRequest) (par : Option Nat)
  | dieRingInvalidate (t : Time) (entryAddr : Nat) (par : Option Nat)
  | remoteWaitRetry (t : Time) (job : Nat)
  | epochBoundary (t : Time)
  -- accumulation
  | accumulatorAdd (t : Time) (acc : Nat) (k : Nat) (hw : List HwFault)
  | recomputeDone (t : Time) (acc : Nat) (pass : Bool)
  | accumulatorDrain (t : Time) (acc : Nat) (hw : List HwFault)
  | atollUpdate (t : Time) (lanes : Nat) (hw : List HwFault)
  | atollDrain (t : Time) (hw : List HwFault)
  | mergeWalk (t : Time) (group : Nat) (hw : List HwFault)
  -- collectives
  | chunk (t : Time) (port : Fin 2) (rank : Nat) (man : List Byte) (payload : List Byte) (par : Option Nat)
  | ack (t : Time) (port : Fin 2) (rank : Nat) (man : List Byte) (par : Option Nat)
  | nack (t : Time) (port : Fin 2) (rank : Nat) (man : List Byte) (par : Option Nat)
  | notice (t : Time) (port : Fin 2) (rank : Nat) (man : List Byte) (par : Option Nat)
  | chunkSend (t : Time) (port : Fin 2) (par : Option Nat)
  | noSpaceResend (t : Time) (stream : Nat) (chunk : Nat)
  | recvTimeout (t : Time) (stream : Nat)
  | sendTimeout (t : Time) (stream : Nat) (chunk : Nat)
  | collProjection (t : Time) (stream : Nat)
  | rateMeasure (t : Time) (group : Nat)
  -- channels and the Causeway
  | chHold (t : Time) (ev : Dword) (par : Option Nat)
  | chRelease (t : Time) (ev : Dword) (par : Option Nat)
  | chDead (t : Time) (ev : Dword) (par : Option Nat)
  | thermNormal (t : Time) (ev : Dword) (par : Option Nat)
  | thermWarn (t : Time) (ev : Dword) (par : Option Nat)
  | thermCrit (t : Time) (ev : Dword) (par : Option Nat)
  | holdLong (t : Time) (channel : Nat)
  | mapOut (t : Time) (w : Word) (img : Image) (par : Option Nat)
  | mapIn (t : Time) (w : Word) (par : Option Nat)
  | causewayTile (t : Time) (img : Image) (par : Option Nat)
  | causewaySpace (t : Time)
  -- the Chart
  | chartStart (t : Time) (w : Word) (par : Option Nat)
  | chartData (t : Time) (w : Word) (par : Option Nat)
  | chartFinish (t : Time) (w : Word) (par : Option Nat)
  | chartAbort (t : Time) (w : Word) (par : Option Nat)
  | chartValidationDone (t : Time) (peers : List Peer) (img : Image) (par : Option Nat)
  | updateSwitch (t : Time)
  -- errors, service and stalls
  | errAckWrite (t : Time) (p : Port) (w : Word) (par : Option Nat)
  | svcAckWrite (t : Time) (p : Port) (w : Word) (par : Option Nat)
  | svcRepeat (t : Time)
  | spillFull (t : Time) (stream : Nat)
  | roleWait (t : Time) (stream : Nat)
  | ceWindowExpiry (t : Time)
  | mgRecordOut (t : Time) (par : Option Nat)
  -- field test
  | ferryTimer (t : Time)
  | coreTestStart (t : Time)
  | lbistDone (t : Time) (misr : Dword)
  | mbistDone (t : Time) (results : List MbistResult)
  | scanDone (t : Time) (seen : List ScanSeen)
  | ppResponse (t : Time) (data : List Byte) (err : Bool) (par : Option Nat)
  | testAccess (t : Time) (bit : Nat) (kind : TestAccess) (par : Option Nat)
  -- registers
  | cntClear (t : Time) (w : Word) (par : Option Nat)
  | ctxdbgBankWrite (t : Time) (w : Word) (par : Option Nat)
  | ctxdbgSnapshot (t : Time) (off : BitVec 20) (par : Option Nat)
  | loRegisterRead (t : Time) (p : Port) (off : BitVec 20) (be : BitVec 4) (par : Option Nat)
  | irqStatClear (t : Time) (w : Word) (setNow : Word) (par : Option Nat)
  | cqPendClear (t : Time) (hi : Bool) (w : Word) (setNow : Word) (par : Option Nat)
  | registerWrite (t : Time) (p : Port) (off : BitVec 20) (be : BitVec 4) (w : Word) (par : Option Nat)
  | clockReturn (t : Time) (c : Clk)
  | supplyLoss (t : Time)
  | dieRingContribution (t : Time) (acc : Nat) (k : Nat) (entry : BitVec 128) (payload : List Byte) (par : Option Nat)
  | dieRingIdentCheck (t : Time) (p : Peer) (par : Option Nat)
  | dieRingSectorRelease (t : Time) (pool start size : Nat) (unnamed : Bool) (par : Option Nat)
  | dieRingResponse (t : Time) (job : Nat) (a : RingAnswer) (par : Option Nat)
  deriving DecidableEq, Repr

end Sys2Proof
end

