-- ==== Sys2Proof/Decode.lean ====
section
/-! DEFINITION. The command that a word spells. The rows of spec/opcode_table.json give no bits (98_reader), so no word
spells a command. -/

namespace Sys2Proof

/-- The command of a word: none, because the table gives no row any bits. -/
def decodeTableWord (_nbits _w : Nat) : Option Instr := none

end Sys2Proof
end

