-- ==== Sys2Proof/Machine/Bits.lean ====
section
/-! DEFINITION. Bit fields, little-endian byte strings and the two CRCs (00_scope R8, 02_tile_container Table 2-6,
12_chart Table 12-3). -/

namespace Sys2Proof.Machine

/-- Bits [hi:lo] of a number (00_scope R8). -/
def bits (x hi lo : Nat) : Nat := (x / 2 ^ lo) % 2 ^ (hi + 1 - lo)

/-- Bit i of a number. -/
def bit (x i : Nat) : Bool := x.testBit i

/-- One bit as a number. -/
def b2n (b : Bool) : Nat := if b then 1 else 0

/-- A little-endian byte string as a number (00_scope R8). -/
def leNat : List Byte → Nat
  | [] => 0
  | b :: bs => b.toNat + 256 * leNat bs

/-- The low n bytes of a number, little-endian. -/
def leBytes : Nat → Nat → List Byte
  | 0, _ => []
  | n + 1, x => BitVec.ofNat 8 x :: leBytes n (x / 256)

/-- Fields (width, value) packed from bit 0 upward. -/
def pack : List (Nat × Nat) → Nat
  | [] => 0
  | (w, v) :: fs => v % 2 ^ w + 2 ^ w * pack fs

/-- The first n groups of k items of a list. -/
def groupsOf {α : Type} (k : Nat) : Nat → List α → List (List α)
  | 0, _ => []
  | n + 1, l => l.take k :: groupsOf k n (l.drop k)

/-- n bytes of a list from position i, completed with zero bytes. -/
def slice (l : List Byte) (i n : Nat) : List Byte :=
  let r := (l.drop i).take n
  r ++ List.replicate (n - r.length) 0

/-- True when every byte is zero. -/
def allZero (l : List Byte) : Bool := l.all (· == 0)

/-- ceil(a / b) for b above 0. -/
def ceilDiv (a b : Nat) : Nat := (a + b - 1) / b

/-- The number of one bits among the low n bits. -/
def popcount : Nat → Nat → Nat
  | 0, _ => 0
  | n + 1, x => x % 2 + popcount n (x / 2)

/-- The positions of the one bits among the low n bits, ascending, counted from p. -/
def onesFrom : Nat → Nat → Nat → List Nat
  | 0, _, _ => []
  | n + 1, p, x => if x % 2 = 1 then p :: onesFrom n (p + 1) (x / 2) else onesFrom n (p + 1) (x / 2)

/-- One bit step of a reflected CRC with reflected polynomial `poly`. -/
def crcBit (poly c : Nat) : Nat := if c % 2 = 1 then (c / 2) ^^^ poly else c / 2

/-- One byte of a reflected CRC. -/
def crcByte (poly c : Nat) (b : Byte) : Nat :=
  Nat.iterate (crcBit poly) 8 (c ^^^ b.toNat)

/-- CRC-64 of Table 2-6; the polynomial is written reflected. -/
def crc64 (l : List Byte) : Dword :=
  BitVec.ofNat 64 (l.foldl (crcByte 0xC96C5795D7870F42) 0xFFFFFFFFFFFFFFFF ^^^ 0xFFFFFFFFFFFFFFFF)

/-- CRC-32C of Table 12-3; the polynomial is written reflected. -/
def crc32c (l : List Byte) : Word :=
  BitVec.ofNat 32 (l.foldl (crcByte 0x82F63B78) 0xFFFFFFFF ^^^ 0xFFFFFFFF)

/-- The CRC-64 of 4,096 zero bytes, the check value of a ZERO tile (02_tile_container R58). -/
def zeroCheck : Dword := crc64 (List.replicate 4096 0)

/-- Modular "later than" of sequence numbers (05_streams_and_order R185). -/
def laterSeq (a b : Word) : Bool :=
  let d := (a - b).toNat
  decide (1 ≤ d) && decide (d ≤ 2 ^ 31 - 1)

/-- Rounding of m / 2^k to nearest, ties to even. -/
def rneShift (m k : Nat) : Nat :=
  if k = 0 then m
  else
    let q := m / 2 ^ k
    let r := m % 2 ^ k
    let half := 2 ^ (k - 1)
    if half < r || (r == half && q % 2 == 1) then q + 1 else q

/-- Rounding of an integer divided by 2^k to nearest, ties to even. -/
def rneShiftInt (m : Int) (k : Nat) : Int :=
  if m < 0 then - (Int.ofNat (rneShift m.natAbs k)) else Int.ofNat (rneShift m.natAbs k)

/-- m · 2^d rounded to an integer, to nearest with ties to even; exact for d from 0 up. -/
def rneScale (m : Int) (d : Int) : Int :=
  if 0 ≤ d then m * 2 ^ d.toNat else rneShiftInt m (-d).toNat

/-- True when m · 2^d is an integer. -/
def scaleExact (m : Int) (d : Int) : Bool :=
  decide (0 ≤ d) || decide (m % 2 ^ (-d).toNat = 0)

/-- m · 2^d truncated toward zero. -/
def truncScale (m : Int) (d : Int) : Int :=
  if 0 ≤ d then m * 2 ^ d.toNat
  else if m < 0 then - (Int.ofNat (m.natAbs / 2 ^ (-d).toNat)) else Int.ofNat (m.natAbs / 2 ^ (-d).toNat)

/-- floor(log2) of |m| · 2^e for m other than 0. -/
def log2Of (m e : Int) : Int := Int.ofNat m.natAbs.log2 + e

/-- An element of a list by position, or a default. -/
def nth {α : Type} (l : List α) (i : Nat) (d : α) : α := l.getD i d

/-- A byte string read 16 bits at a time and so on: the number of the i-th unit of k bytes. -/
def unitNat (l : List Byte) (k i : Nat) : Nat := leNat (slice l (k * i) k)

end Sys2Proof.Machine
end

