-- ==== Sys2Proof/Config.lean ====
section
/-! DEFINITION. The values the spec leaves open: constants without a body. A statement about one of them holds
whatever its value is. -/

namespace Sys2Proof.Config

/-- The n-th free choice of the block: a core, an engine, a memory port, a tag or a context slot that the spec lets the
block choose (07_compression R263, 10_memory_channels R375, 16_integration R560). DESIGN CHOICE, log 7. -/
opaque choice : Nat → Nat

/-- The n-th free byte sequence: data that the spec does not state (the beats of a failing tile that have left before
its failure is found, 06_expansion R221). DESIGN CHOICE, log 7. -/
opaque bytes : Nat → List Byte

/-- The n-th optimal Huffman code of a histogram (03_lossless_coding R570: which one among equal weights is not promised). DESIGN
CHOICE, log 10. -/
opaque codeLengths : Nat → List Nat → List Nat

/-- Which of the codes that may be taken the k-th step of the n-th limiting lengthens or shortens (03_lossless_coding R570: the exact
steps are not promised). DESIGN CHOICE, log 10. -/
opaque codeStep : Nat → Nat → Nat

/-- The n-th split of code lengths into code-length symbols with their extra values (03_lossless_coding R96, R570: which
of the splits that Table 3-4 allows is not stated). DESIGN CHOICE, log 10. -/
opaque codeRuns : Nat → List Nat → List (Nat × Nat)

/-- The bytes of the n-th message on the die ring (16_integration R562: no format is stated). DESIGN CHOICE, log 15. -/
opaque ringForm : Nat → List Byte

/-- One step of the free-running 32-bit LFSR; its polynomial is not stated (07_compression R267). DESIGN CHOICE, log 5. -/
opaque lfsrStep : Word → Word


/-- DJ_LBIST_REF of a hardening code (14_field_test Table 14-7: per hardening, no figure given). DESIGN CHOICE, log 6. -/
opaque lbistRef : Nat → Dword

/-- The number of SRAM arrays of a hardening with a core count (14_field_test R527, 11_integrity Table 11-8: not stated).
DESIGN CHOICE, log 12. -/
opaque sramCount : Nat → Nat → Nat

/-- The core that an SRAM instance of a hardening with a core count belongs to, or none for a shared SRAM (14_field_test R534, 11_integrity
Table 11-8: the numbering is not stated). DESIGN CHOICE, log 12. -/
opaque sramCore : Nat → Nat → Nat → Option (Fin 16)

/-- The governor's n-th estimate of the current of a working cluster, in mA (13_clocks_power_lifecycle R504: coefficients
not stated). DESIGN CHOICE, log 13. -/
opaque loadCurrent : Nat → Nat

/-- The n-th projected delay of a collective of which no chunk had ended before the warning (09_collectives R366: there is then no rate
measured before it, and the spec states none). DESIGN CHOICE, log 14. -/
opaque projectedDelay : Nat → Nat

end Sys2Proof.Config
end

