-- ==== Sys2Proof/Machine/State.lean ====
section
/-! DEFINITION. Everything the spec gives one cluster: registers, queues, streams, work in flight, stores, timers and ports,
as plain data, with the machine right after a cold reset. -/

namespace Sys2Proof.Machine

/-! ### Functions, phases, records -/

/-- States of a core, port, stream or cluster (05_streams_and_order Table 5-28). -/
inductive FnState where
  | off | on | shutting | pendingOn
  deriving DecidableEq, Repr

/-- Where a shut-down stands (13_clocks_power_lifecycle Table 13-5): the work before the ramp, the ramp, the wipe, wiped. -/
inductive ShutStage where
  | idle | before | ramp | wipe | wiped
  deriving DecidableEq, Repr

/-- A function with its shut-down stage. -/
structure Fn where
  st : FnState
  stage : ShutStage
  deriving DecidableEq, Repr

/-- The stages of a cluster warm reset (R496), a cluster shut-down (R501) or a life-cycle change (R513). -/
inductive SeqStage where
  | quiesce | rampWipe | wipe | wiped | rampHeld
  deriving DecidableEq, Repr

/-- The power and reset phase of the cluster (13_clocks_power_lifecycle R493, R496). -/
inductive Phase where
  | off                              -- the supply is removed (R509)
  | coldLow                          -- COLD_RST_N is low
  | repair                           -- step 4 of Table 13-4
  | coldWipe                         -- step 5
  | run
  | warm (stage : SeqStage) (src ended : Nat)   -- source, descriptors ended without a record
  | life (stage : SeqStage) (stream : Nat) (target : Nat)
  deriving DecidableEq, Repr

/-- Why the streams drain (12_chart R481, 13_clocks_power_lifecycle R501, R513). -/
inductive DrainFor where
  | updateFailed (reason : Nat) | disable (src : Nat) | life (stream target : Nat)
  deriving DecidableEq, Repr

/-- Severity of a record (11_integrity Table 11-7). -/
inductive Sev where
  | corrected | contained | uncontained | service
  deriving DecidableEq, Repr

/-- Units named by a record (11_integrity Table 11-6). -/
inductive UnitId where
  | cluster | core | memoryPort | deliveryPort | intakePort | linkPort | eventPort | dieRing | atoll | harbour
  | allocator | streamTracker
  deriving DecidableEq, Repr

/-- An error record (11_integrity Table 11-6); the fixed fields and RCRC are added when it is laid out as bytes. -/
structure Rec where
  reason : Nat
  sev : Sev
  rep : Bool
  loss : Bool
  unit : UnitId
  unitIndex : Nat
  recSeq : Word
  fleet : Word
  rank : Nat
  die : Nat
  cluster : Nat
  timestamp : Time
  handle : Word
  seq : Word
  addr : Nat
  tile : Word
  detailA : Word
  detailB : Word
  group : Word
  step : Word
  deriving DecidableEq, Repr

/-- The error log, the management queue and the health registers (11_integrity R441 to R449). -/
structure ErrState where
  log : List Rec            -- the last 64 records, oldest first
  head : Word               -- DJ_ERR_HEAD
  ack : Word                -- DJ_ERR_ACK
  logLost : Nat
  mgDrop : Nat
  mgq : List Rec            -- the management queue, oldest first
  loss : Bool               -- the loss mark
  mgOut : List (Dword × Bool)   -- the beats of the record sent last on the management port: MG_REC_DATA and MG_REC_LAST
  svcAck : Word
  svcOpen : Bool
  svcRecs : List Word       -- REC_SEQ of the records of the open request
  svcNext : Time            -- when the next repeat is due
  byCore : Bool
  byChannel : Bool
  byCe : Bool
  bySram : Bool
  ceCount : Nat
  ceStart : Time
  ceHit : Bool              -- CE_LIMIT has been reached in the current CE window
  ceSent : List (Nat × Time × Nat)   -- per SRAM array: time of the last SRAM_CE record, corrections not yet reported
  busSent : List (Nat × Time × Nat)  -- the same per internal path (R417)
  irqError : Bool
  irqService : Bool
  irqTest : Bool
  deriving DecidableEq, Repr

/-! ### Registers with a value of their own -/

/-- Registers that software writes, and the latches of the two ports (15_register_map). -/
structure Regs where
  scratch : Word
  ctxdbgBank : Word
  irqEn : Word
  cqPend : Dword
  badSize : Bool
  badOffset : Bool
  mgDenied : Bool
  lastPort : Port
  chanArg : Word
  chanListLo : Word
  chanListHi : Word
  chanLcount : Word
  chanResult : Nat
  poolSel : Word
  sctlArg0 : Word
  sctlArg1 : Word
  sctlArg2 : Word
  sctlResult : Nat
  fnSel : Word
  fnResult : Nat
  clkMhz0 : Word
  clkMhz1 : Word
  clkMhz2 : Word
  clkMhz3 : Word
  clkStat : BitVec 8
  coreFaultSel : Word
  chartCtl : Word
  chartAddrLo : Word
  chartAddrHi : Word
  chartLen : Word
  hostLatch : Option (Nat × Word)
  mgLatch : Option (Nat × Word)
  dbgLatch : Option (Nat × BitVec 512)
  hostRsp : Word
  mgRsp : Word
  deriving DecidableEq, Repr

/-! ### Queues and streams -/

/-- Why a fetched descriptor waits at its queue (05_streams_and_order R165, R166, R169). -/
inductive WaitWhy where
  | context | parked | full
  deriving DecidableEq, Repr

/-- One command queue (05_streams_and_order Tables 5-1 to 5-4). -/
structure Queue where
  base : Nat
  enable : Bool
  fmtD3 : Bool
  log2 : Nat
  qtail : Nat
  qhead : Nat
  cbase : Nat
  clog2 : Nat
  irqAll : Bool
  chead : Nat
  ctail : Nat
  phase : Bool
  badCfg : Bool
  wait : Option (WaitWhy × BitVec 512)           -- a fetched descriptor waiting for its stream
  early : List (BitVec 512 × Nat)                -- failed steps 1 to 3: descriptor and status, waiting for the ring
  deriving DecidableEq, Repr

/-- The stop record of a stream (07_compression R274). -/
structure StopRec where
  seq : Word
  unit : Nat                         -- the unit at which the descriptor stopped
  recAddr : Nat
  tile : Nat
  remaining : Nat
  source : Nat
  srcAddr : Nat
  firstTile : Nat
  accepted : Nat
  deriving DecidableEq, Repr

/-- The conditions of a descriptor that decide its STATUS (05_streams_and_order R179). -/
structure RunFlags where
  countLimit : Bool
  parked : Bool
  spaceStop : Bool
  dirCorrupt : Bool
  tileError : Bool
  superseded : Bool
  fenceBroken : Bool
  replay : Bool
  catchup : Bool
  deriving DecidableEq, Repr

/-- A fetched descriptor of a stream with its progress. `total` counts its units: tiles, accumulator tiles, groups,
updates or chunks. -/
structure Run where
  desc : BitVec 512                 -- in D4 form (R175)
  queue : Fin 64
  status : Nat                      -- status of a failed check, 0 when all passed
  rec1 : BitVec 1024                -- the named tensor record
  rec2 : BitVec 1024                -- the second record it names: W, updates, destination of MIGRATE, else residual
  rec3 : BitVec 1024                -- the residual record of a SCATTER_ACC table
  srcs : List (Nat × BitVec 1024 × Nat)   -- REDUCE source list: record address, record, first tile
  started : Bool
  head : Option Time                -- when it reached the head of its stream (R203)
  total : Nat
  issued : Nat                      -- units started
  sub : Nat                         -- reads issued of the current unit
  doneUnits : Nat                   -- units ended, in order
  finished : Bool
  inBytes : Nat
  outCount : Nat
  errTiles : Nat
  quality : Nat
  flags : RunFlags
  unverified : Nat                  -- tiles committed without a checker (R568)
  stopAt : Option Nat               -- the unit at which allocation failed (R273)
  cursor : Nat × Nat × Nat          -- MERGE: tile row, first row and rows of the group started last
  cont : Option StopRec             -- the stop record that a RESUME continues (R275)
  exportData : List Byte            -- EXPORT: the data streams so far
  unloaded : List (Nat × Nat)       -- CODE_UNLOADED records sent: 0 table or 1 seed, id (R564)
  outBytes : List (Nat × Nat × Nat × Nat × Dword)  -- EXPORT index: offset, length, state, word 0 fields, check
  words : List (Nat × Nat)          -- presence words read: address, bits; newest first (06_expansion Table 6-13)
  order : Nat                       -- place among the descriptors fetched (14_field_test R518)
  inSeq : Bool                      -- it carried the SEQ that its stream expected (R164)
  deriving DecidableEq, Repr

/-- Prediction history of one layer key (06_expansion R245): tile index and entry. -/
structure History where
  key : Word
  pages : List Nat                  -- pages of 1,024 entries allocated in the Lagoon
  entries : List (Nat × Word)
  deriving DecidableEq, Repr

/-- A stream that is not OFF (05_streams_and_order R160 to R169, 15_register_map Table 15-10). -/
structure Stream where
  num : Nat
  fn : Fn
  queue : Fin 64
  weight : Nat
  slot : Option Nat                 -- none: the context is parked in the Lagoon
  sharedCtx : Bool                  -- the context is from the shared pool
  expectSeq : Word
  deadline : Bool
  pin : Bool
  storeFwd : Bool
  windowUs : Nat
  lateness : Nat
  lastCmpl : Time
  lastSeq : Option Word             -- SEQ of the most recent completion record of this opening (R184)
  sample : BitVec 16
  tideN : Nat
  tideRun : Nat
  tideAge : Nat
  tideLo : Int
  tideHi : Int
  stop : Option StopRec
  latched : Option (Word × Word × Word)   -- arguments of a latched OPEN (R199)
  todo : List (BitVec 512)                -- descriptors of this opening that waited for it and have still to be checked (R199)
  waiting : List (BitVec 512)             -- descriptors that wait for the reopening, in fetch order
  refused : List (Fin 64 × BitVec 512)    -- those whose reopening a CLOSE has discarded, with their queue (R199)
  runs : List Run                         -- fetched descriptors, oldest first
  hist : List History                     -- most recently used key first
  beat : Nat                              -- next intake beat of the tile in progress (R258)
  discard : Bool                          -- beats are discarded until one with BEAT 0 (R258)
  stallRole : Option (Nat × Nat × Time)   -- ROLE_WAIT: role bit, port or 0xFFFF_FFFF, time of the last record
  stallSpill : Option (Nat × Time)        -- SPILL_FULL: pool, time of the last record (R35)
  wasParked : Bool                        -- its last collective completed PARKED (09_collectives R370)
  deriving DecidableEq, Repr

/-! ### Tiles in flight -/

/-- What became of a tile's reading: the image, ZERO, or a failure with reason and details (06_expansion R220). -/
inductive Dec where
  | zero
  | ok (img : List Byte)
  | err (reason : Nat) (a b : Nat)
  deriving DecidableEq, Repr

/-- What a tile is read for. -/
inductive Use where
  | deliver                          -- EXPAND
  | mergeA (group kb : Nat)
  | mergeW (group kb : Nat)
  | preload (acc part : Nat)
  | addend (acc k part : Nat)
  | send (chunk i : Nat)             -- COLLECTIVE_SEND
  | update (u : Nat)                 -- an update tile of SCATTER_ACC
  | scrub
  | migrate
  | exportT
  | carry (wjob j : Nat)             -- a residual tile read for carry
  deriving DecidableEq, Repr

/-- Where the reading of a tile stands (06_expansion R211 to R214). -/
inductive RStage where
  | held                             -- waits for the commit of an earlier descriptor of its stream
  | presence
  | entry
  | payload (missing : Nat)
  | ready
  | onEngine (core : Fin 16) (eng : Fin 8)
  deriving DecidableEq, Repr

/-- A tile being read. -/
structure RJob where
  id : Nat
  stream : Nat
  seq : Word
  unit : Nat
  use : Use
  recAddr : Nat
  trec : BitVec 1024
  tile : Nat
  stage : RStage
  entryAt : Time
  entry : BitVec 128
  buf : List (Nat × List Byte)       -- sectors that have arrived
  bad : Option (Nat × Nat × Fin 8)   -- a poisoned sector: reason, byte address, memory port
  replay : Bool
  avoid : Option (Fin 16)            -- the core that it must not run on again (R205)
  noFill : Bool                      -- its entry has changed since it was asked for: the cache does not take what comes
  alone : Bool                       -- its presence word serves it alone: another tile of the 64 had still to be committed
  deriving DecidableEq, Repr

/-- Verification of a coded part (07_compression R266 to R268, 11_integrity R426); `settled` when the majority of Table 11-3 has stored
it RAW from the retained image. -/
inductive Verify where
  | none
  | waiting
  | checking (core : Fin 16)
  | disagreed (b : Fin 16) (seen : Seen)
  | third (b c : Fin 16) (seen : Seen)
  | passed
  | settled
  deriving DecidableEq, Repr

/-- One tile of a write job: the tensor's tile, or a residual tile of it. `state` is a code of Table 2-5. -/
structure Part where
  recAddr : Nat
  trec : BitVec 1024
  tile : Nat
  img : List Byte
  check : Dword
  state : Nat
  payload : List Byte
  quality : Nat
  template : Option (BitVec 64)      -- MIGRATE and SCRUB: word 0 of the source entry, kept but for SECTOR_ADDR
  place : Option (Nat × Nat × Nat)   -- pool, first sector, sectors
  acks : Nat                         -- payload and map writes not yet acknowledged
  verify : Verify
  committed : Bool
  skipZero : Bool                    -- MIGRATE of a tile without a presence bit: no commit over a ZERO tile (10_memory_channels R407)
  deriving DecidableEq, Repr

/-- Where a write job stands (07_compression Table 7-3). -/
inductive WStage where
  | beats | source (missing : Nat) | carry (missing : Nat) | ready
  | onEngine (core : Fin 16) (eng : Fin 8)
  | space | spaceWait | remoteWait (ask : Nat) | mapping (left : Nat) | writing | queued (part : Nat) | done
  deriving DecidableEq, Repr

/-- What a write job came from. -/
inductive WFrom where
  | intake (port : Fin 4) | memory (addr : Nat) | drain (acc : Nat) | copy | received (chunk : Nat)
  deriving DecidableEq, Repr

/-- A tile being written. -/
structure WJob where
  id : Nat
  stream : Nat
  seq : Word
  unit : Nat
  src : WFrom
  recAddr : Nat
  trec : BitVec 1024
  tile : Nat
  stage : WStage
  data : List Byte                   -- dense input bytes, as far as they have come
  buf : List (Nat × List Byte)
  fail : Option Nat                  -- reason of a failure at the source (R260)
  carry : List (Nat × Option (List Byte))   -- residual tiles read: index and image, none when unreadable
  parts : List Part
  coder : Fin 16
  quality0 : Nat                     -- its QUALITY (04_bounded_loss R131, 08_accumulation Table 8-4)
  flagged : Bool                     -- flagged by R423 at its drain
  carryLost : Bool                   -- a residual tile of it was unreadable (04_bounded_loss R147)
  issued : Bool                      -- it has taken an engine: the measures of Table 5-30 that it keeps are in `catchup`
  catchup : Bool
  waitedSpace : Bool                 -- ALLOC_WAIT has been counted
  olds : List (Nat × Nat × Nat)      -- replaced sectors, given back when every part is committed (Table 7-3 step 8): pool, first, sectors
  replay : Bool
  avoid : Option (Fin 16)            -- the core that it must not run on again (R205)
  deriving DecidableEq, Repr

/-! ### Accumulators, the Atoll and merge groups -/

/-- A number as mantissa and binary exponent (value `m * 2^e`), or a non-finite one by the tag of Table 8-2. -/
structure Num where
  m : Int
  e : Int
  tag : Nat                          -- 0 finite, 1 +INF, 2 -INF, 3 NAN
  neg : Bool                         -- sign bit, for zeros and NaNs
  deriving DecidableEq, Repr

/-- An addend that comes from an Atoll entry or a spill record (08_accumulation R326): first element position, elements,
E_c. -/
structure FixedAdd where
  pos : Nat
  nums : List Num
  ec : Option Int
  sat : Bool
  inexact : Bool
  deriving DecidableEq, Repr

/-- An addend of an accumulator tile: its tiles in order and whether it has been added. -/
structure Addend where
  k : Nat
  etype : Nat
  need : Nat
  tiles : List (Nat × Dec × Nat)     -- part, outcome, MAX_EXP
  added : Bool
  lost : Bool                        -- its Harbour copy is uncorrectable (Table 11-2)
  deriving DecidableEq, Repr

/-- The numeric content of an accumulator tile (08_accumulation R295, R300; Table 8-2). -/
structure AccData where
  integer : Bool
  content : List Int
  residue : List Nat                 -- RESIDUE of each element
  tag : List Nat                     -- 0 finite, 1 +INF, 2 -INF, 3 NAN
  sat : List Bool
  scale : List (Option Nat)          -- MXINT8: declared scale of each block
  c : Option Int
  h : Nat
  addends : Nat                      -- COUNT plus one, 0 when nothing has been added
  inexact : Bool
  dropped : Bool
  deriving DecidableEq, Repr

/-- An accumulator tile at work on a core. -/
structure AccTile where
  id : Nat
  stream : Nat
  seq : Word
  unit : Nat                         -- unit of its first destination tile
  core : Fin 16
  etype : Nat                        -- destination element type
  nacc : Nat
  dests : List Nat                   -- destination tiles
  acc : AccData
  preload : Option Addend
  preloaded : Bool
  want : Nat                         -- addends that the work names
  held : List Addend
  fixedAdds : List FixedAdd          -- Atoll addends not yet added
  failed : Bool
  full : Bool                        -- COUNT_LIMIT (R305)
  tries : Nat                        -- recomputations made
  cores : List (Fin 16)              -- cores that computed a failed result
  faulted : Option (Nat × Nat × Nat) -- a residue or sum fault is open: reason, DETAIL_A, DETAIL_B
  chunk : Option (Nat × Nat)         -- the collective chunk and logical tile that it belongs to
  replay : Bool
  away : Bool                        -- its core has left, and no other has taken it yet
  deriving DecidableEq, Repr

/-- One Atoll entry (08_accumulation Table 8-6). -/
structure AtollEntry where
  bucket : Nat
  way : Nat
  key : Word
  anchor : Nat
  count : Nat
  sat : Bool
  inexact : Bool
  acc : List Int
  residue : List Nat
  tag : List Nat
  deriving DecidableEq, Repr

/-- A SCATTER_ACC that holds the Atoll, or reads ahead of its first update (08_accumulation R320 to R332). -/
structure Scatter where
  stream : Nat
  seq : Word
  indices : List (Nat × Word)        -- update number, row-segment index
  badIndex : List Nat                -- index sectors that arrived with poison
  tiles : List (Nat × Dec)           -- update tiles read
  next : Nat                         -- next update to enter
  spill : List (Word × List Num)     -- spill records: key and elements
  dropped : Bool
  draining : Bool
  parts : List Nat                   -- drain partitions not yet finished, ascending
  running : Option Nat               -- the partition that drains now
  limit : Bool
  second : Bool                      -- an SRAM fault of the Atoll has occurred (Table 11-2)
  todo : List Nat                    -- table tiles of the running partition that have no accumulator tile yet
  counted : List Nat                 -- failed update tiles that have counted in ERR_TILES
  lostParts : List Nat               -- partitions that Table 11-2 leaves uncommitted
  replay : Bool
  deriving DecidableEq, Repr

/-- A MERGE row group at work (06_expansion R235 to R242). -/
structure MGroup where
  id : Nat
  stream : Nat
  seq : Word
  num : Nat
  row : Nat                          -- tile row of A
  first : Nat                        -- first row of the group within the tile row
  mg : Nat                           -- rows of the group
  core : Fin 16
  tiles : List (Bool × Nat × Dec)    -- operand (true: weight), K block, outcome, or the image that streams from its engine
  started : Nat                      -- K blocks whose reading has started
  paths : Nat                        -- K blocks whose path has been chosen
  walked : Nat                       -- K blocks walked
  left : List Nat                    -- positions of the current K-mask still to move
  dense : List Nat                   -- K blocks on the dense path (R247)
  entries : List (Nat × Nat)         -- matched positions in the lane queues: K block, position
  half : Bool                        -- two groups run at once, 8 entries of each lane (R247)
  slab : Nat                         -- slabs formed
  matched : Nat                      -- positions matched so far
  failed : Bool
  ended : Bool                       -- the last slab has been formed
  avoid : Option (Fin 16)            -- the core that it must not run on again (R205)
  away : Bool                        -- its core has left, and no other has taken it yet (05_streams_and_order R567)
  deriving DecidableEq, Repr

/-! ### Ports -/

/-- A tile or MERGE group on its way out of a delivery port (06_expansion R215 to R224): its beats with the sideband bits that
do not depend on the outcome, data and scales. -/
structure DUnit where
  id : Nat
  stream : Nat
  seq : Word
  unit : Nat                         -- tile or group number within the descriptor
  beats : List (BitVec 128 × List Byte × List Byte)
  next : Nat
  decoded : Bool                     -- the outcome is known and every beat is formed
  poison : Bool
  bad : Bool                         -- the failure was known before the first beat: every beat carries POISON
  replay : Bool
  again : Bool                       -- the tile or group is delivered again after its tail beat (R206)
  quality : Nat
  counts : Bool                      -- counts against the limit of R218
  job : Option Nat                   -- the read job that it comes from
  deriving DecidableEq, Repr

/-- One delivery port: the beat on the bus with its unit, since when it waits, the beat that passed last, and the time of the
last PORT_STALL record. -/
structure DPort where
  fn : Fn
  units : List DUnit
  bus : Option (Nat × BitVec 128 × List Byte × List Byte)
  since : Time
  last : Option (BitVec 128 × List Byte × List Byte)
  stall : Option Time
  deriving DecidableEq, Repr

/-- One intake port: the beat that waits, since when, and the time of the last INTAKE_STALL record. -/
structure IPort where
  fn : Fn
  wait : Option (Word × Time)
  stall : Option Time
  deriving DecidableEq, Repr

/-- A message of a link port (09_collectives R345): destination or source rank, manifest, payload. -/
structure LinkMsg where
  rank : Nat
  man : List Byte
  payload : List Byte
  deriving DecidableEq, Repr

/-- A beat of a link port: DATA and the fields of LP_TX_META (09_collectives Table 9-1). -/
structure LinkBeat where
  som : Bool
  eom : Bool
  bytes : Nat
  rank : Nat
  data : List Byte
  deriving DecidableEq, Repr

/-- One link port. -/
structure LPort where
  fn : Fn
  tx : List (Bool × Nat × Nat × LinkMsg)   -- waiting messages: CHUNK or not, stream, chunk, message
  out : List LinkBeat                      -- the beats of the message sent last, in order
  rx : List LinkBeat                       -- the beats of the message received last
  early : List LinkMsg                     -- early chunks (R357)
  deriving DecidableEq, Repr

/-- Where a chunk of a COLLECTIVE_SEND stands (09_collectives R357 to R361). -/
inductive ChunkState where
  | reading | ready | sent (at_ : Time) | noSpace (at_ : Time) | acked | givenUp
  deriving DecidableEq, Repr

/-- One chunk of a SEND: its message, its resends and its NACKs. -/
structure SendChunk where
  chunk : Nat
  st : ChunkState
  tiles : List (Nat × Dec × BitVec 128 × List Byte)   -- tile, outcome, entry, payload
  cores : List (Nat × Fin 16)        -- the core that decoded each tile (R205)
  msg : LinkMsg
  nacks : Nat
  sends : Nat                        -- sendings not answered
  failed : Bool
  flagged : List Nat                 -- transported tiles that R423 flagged at their drain
  replay : Bool
  deriving DecidableEq, Repr

/-- One chunk of a RECV that has been accepted and not yet added or committed. -/
structure RecvChunk where
  chunk : Nat
  wide : Bool
  elem : Nat
  failed : Bool
  spoilt : Bool                      -- its Harbour copy is uncorrectable (11_integrity Table 11-2)
  tiles : List (BitVec 128 × List Byte × List Byte)   -- entry, payload, image
  sigs : List Dword
  deriving DecidableEq, Repr

/-- The collective side of a descriptor: chunks, timers, announced delays (09_collectives R357 to R371). -/
structure Coll where
  stream : Nat
  seq : Word
  isSend : Bool
  send : List SendChunk
  recv : List RecvChunk
  accepted : List Nat                -- chunks accepted or given up
  gone : Nat                         -- chunks given up or accepted as failed
  timer : Time                       -- start of the timer of the next expected chunk (R360)
  expiries : Nat
  sums : List AccTile                -- forwarding pair: sums formed and not yet drained for the SEND
  paired : Option Word               -- SEQ of the paired descriptor (R338)
  pairKnown : Bool                   -- the descriptor behind a FORWARD RECV has been checked (R343)
  late : Nat                         -- LATE_NS announced last
  lateSent : Bool
  pauseSent : Bool
  spoke : Bool                       -- it has sent its peer a message (R370)
  relayed : Bool                     -- a SEND has passed the pause of its RECV's peer on (R368)
  crit : List Nat                    -- channel groups that entered THERM_CRIT while it stood (R369)
  tilesRead : Nat                    -- stored tiles that it has read, and their payload bytes
  bytesRead : Nat
  before : Option (Nat × Nat)        -- measured before the warning: nanoseconds at the head, dense tiles done (R366)
  projAt : Time                      -- the last projection, or the warning
  deriving DecidableEq, Repr

/-! ### Memory requests, pools and channels -/

/-- Kinds of memory request (10_memory_channels Table 10-1). -/
inductive ReqKind where
  | read | write | write16
  deriving DecidableEq, Repr

/-- What the write of a completion record ends (05_streams_and_order R184, R186): the SEQ that it carries, and the barrier instance of
its FENCE. -/
structure CmplDone where
  seq : Word
  bar : Option (Nat × Word)
  deriving DecidableEq, Repr

/-- What a memory request belongs to. -/
inductive Purpose where
  | presence (job : Nat) | entry (job : Nat) | payload (job base : Nat) | source (wjob base : Nat)
  | index (stream base : Nat) | chart (base : Nat)
  | partWrite (wjob part : Nat) | partMap (wjob : Nat) | remoteMap (cluster job cls : Nat) | entryWrite (commit : Nat)
  | mapBit | presenceWrite (commit : Nat) | cmpl (src : CmplOf) (addr : Nat) (rest : List Byte) (irq : Option (Fin 64)) (fin : CmplDone)
  | exportWrite (stream : Nat) | spillMap (id : Nat) | spillWrite (id : Nat) | spillRead (id : Nat)
  | spillAgain (id : Nat)             -- a held source tile is read again from its own sectors
  | discarded                        -- the work was withdrawn: the answer is discarded
  deriving DecidableEq, Repr

/-- An outstanding or held memory request (10_memory_channels R375, R390). -/
structure MemReq where
  port : Fin 8
  tag : Nat
  kind : ReqKind
  addr : Nat
  sectors : Nat
  data : List Byte
  purpose : Purpose
  tries : Nat
  deriving DecidableEq, Repr

/-- A channel's state outside SRAM (10_memory_channels R386, R402). -/
structure Chan where
  id : Nat
  held : Bool
  holdUs : Word
  holdAt : Time
  holdReps : Nat                     -- HOLD_LONG records sent in this hold
  dead : Bool
  out : Bool
  unfinished : Bool
  deriving DecidableEq, Repr

/-- Thermal state of a group (10_memory_channels Table 10-4). -/
inductive Therm where
  | normal | warn | crit
  deriving DecidableEq, Repr

/-- A channel group that has had a thermal event (10_memory_channels R411): its state, the read rate granted in the last window of 10 µs
in bytes per second, none before the first one, and the bytes read in the running window with its start. -/
structure GroupTherm where
  group : Nat
  st : Therm
  rate : Option Nat
  bytes : Nat
  since : Time
  deriving DecidableEq, Repr

/-- A pool that this cluster allocates (10_memory_channels R382 to R385). -/
structure PoolSt where
  id : Nat
  free : List (Nat × Nat)            -- free runs: first sector, sectors; ascending
  used : List (Nat × Nat)            -- runs whose map bits are set
  delayed : List (Nat × Nat × Nat)   -- epoch of release, first sector, sectors
  readyEpoch : Nat
  waiting : List Nat                 -- write jobs whose request waits (R272), oldest first
  deriving DecidableEq, Repr

/-- A commit in the home cluster's queue (05_streams_and_order R188). -/
structure Commit where
  id : Nat
  job : Nat
  part : Nat
  remote : Option Nat                -- the cluster it came from
  pool : Nat                         -- the tensor's pool
  recAddr : Nat
  tile : Nat
  entryAddr : Nat
  mapAddr : Nat
  entry : BitVec 128
  old : BitVec 128                   -- the entry that it replaces, once written
  presence : List Byte               -- the presence sector as read
  seq : Word
  handle : Word
  expect : Option (BitVec 128)       -- the Causeway's: the entry that must still stand (R397 step 7)
  skipZero : Bool                    -- a MIGRATE of a tile without a presence bit: no commit over a tile that is ZERO (R407)
  cls : Nat                          -- arbitration class of the work (Table 5-26)
  written : Bool
  acked : Bool                       -- the entry write is acknowledged
  tries : Nat
  deriving DecidableEq, Repr

/-- A running Causeway (10_memory_channels R397). -/
structure Causeway where
  chan : Nat
  list : List Nat                    -- tensor record addresses still to take; the first is current
  tile : Nat
  spaceSent : Bool                   -- CAUSEWAY_SPACE has been sent for this wait
  locked : Option Nat                -- entry address of the locked tile (R397)
  job : Option Nat                   -- the write job that moves it
  expect : BitVec 128                -- its entry as read in step 2
  lock : Option (Nat × RemoteCommit) -- the lock asked of another home cluster (step 3), with that cluster
  askedAt : Nat                      -- epoch in which it asked for space last (R399)
  deriving DecidableEq, Repr

/-- A message that this cluster has put on the die ring (16_integration R562; formats: log 15). -/
inductive RingMsg where
  | commit (c : RemoteCommit)
  | request (r : RemoteRequest)
  | release (pool start size : Nat) (unnamed : Bool)   -- unnamed: no entry ever named the sectors
  | invalidate (entryAddr : Nat)
  | answer (cluster job : Nat) (a : RingAnswer)
  | identAnswer (p : Peer)
  | identCheck                         -- sent by a cluster that loads a Chart: it asks for the identity of the others (01_five_levels R28)
  deriving DecidableEq, Repr

/-- A wait for another cluster (01_five_levels R23). -/
structure RemoteWait where
  job : Nat
  commit : Bool
  cluster : Nat
  last : Time                        -- time of the last request
  recAt : Time                       -- time of the last record
  deriving DecidableEq, Repr

/-- An open barrier group (05_streams_and_order R186, R187). -/
structure Barrier where
  group : Nat
  epoch : Word
  count : Nat
  members : List Nat
  isDone : Bool
  deriving DecidableEq, Repr

/-! ### Chart -/

/-- A channel entry of a pool record (12_chart Table 12-10). -/
structure ChanEntry where
  chan : Nat
  group : Nat
  start : Nat
  size : Nat
  deriving DecidableEq, Repr

/-- A pool record (12_chart Table 12-9). -/
structure Pool where
  id : Nat
  far : Bool
  allocCluster : Nat
  holdLimitUs : Nat
  base : Nat
  size : Nat
  mapBase : Nat
  chans : List ChanEntry
  deriving DecidableEq, Repr

/-- The sections of a Chart, parsed (12_chart Tables 12-5 to 12-12). -/
structure Chart where
  chartId : Word
  fleet : Word
  rank : Nat
  die : Nat
  cluster : Nat
  baseId : Word
  active : BitVec 16
  roles : BitVec 64
  fabric : List (BitVec 16)
  mpGen : BitVec 8
  memEn : BitVec 8
  dpEn : BitVec 8
  ipEn : BitVec 4
  lpEn : BitVec 2
  lagoonPool : Nat
  stagingPool : Nat
  pools : List Pool
  poolsScrc : Word
  epochUs : Nat
  reserve : List Nat
  tables : List (Nat × List Nat)
  seeds : List (Nat × List Byte)
  lfsrSeed : Word
  policy : List Dword
  iFull : Nat
  stepDiv : Nat
  iCap : Nat
  intentLead : Nat
  grantEn : Bool
  ferryInterval : Nat
  faultWindow : Nat
  patterns : Bool
  svcInterval : Nat
  ceLimit : Nat
  ceWindow : Nat
  collTimeoutUs : Nat
  deriving DecidableEq, Repr

/-- State of a Chart load (12_chart Table 12-15). -/
inductive LoadSt where
  | none | loading | validating | switching | draining
  deriving DecidableEq, Repr

/-- The Chart-load state and the applied Chart (12_chart R471 to R486). -/
structure ChartSt where
  held : Bool
  load : LoadSt
  isUpdate : Bool                    -- KIND of the load that START opened
  result : Nat
  reason : Nat
  errOff : Word
  count : Word
  chartId : Word
  staged : List Byte
  overflow : Bool                    -- bytes beyond the limit of R450 arrived
  len : Nat                          -- bytes of a DMA load, as its START found DJ_CHART_LEN
  dmaLeft : Nat                      -- sectors of it still to come
  dmaNext : List (Nat × List Byte)   -- DMA sectors that have arrived
  poisoned : Bool
  applied : Option Chart
  update : Option (Chart × Bool × List Nat)  -- a validated UPDATE: new sections, stops assignment, tags
  drain : Option DrainFor
  tcPast : List (Time × Nat)         -- values of T_C that an UPDATE has replaced, with the time (R485)
  svcPast : List (Time × Nat)        -- the same of the SERVICE interval
  deriving DecidableEq, Repr

/-! ### Cores, power and test -/

/-- A core outside its work (01_five_levels R13, 11_integrity R429 to R431, 15_register_map Table 15-12). -/
structure Core where
  fn : Fn
  faults : List Time                 -- times of the fault counts since they were cleared
  lifetime : Nat
  out : Bool                         -- out of service under R430
  retired : Bool                     -- the core's bit of DJ_CORE_RETIRED
  keepOff : Bool                     -- a DISABLE kept while out (R520)
  decN : Nat
  encN : Nat
  chkN : Nat
  replayN : Nat
  ceN : Nat
  deriving DecidableEq, Repr

/-- The governor's view (13_clocks_power_lifecycle R503 to R507). -/
structure Power where
  est : Nat                          -- I_EST_MA
  target : Nat
  grant : Bool
  intent : Option (Bool × Nat × Time)   -- an announced change: up, target in mA, time of PWR_INTENT
  leadOver : Bool
  ballast : Bool
  small : Option (Nat × Time)        -- current before the changes that were not announced, time of the first (R506)
  deriving DecidableEq, Repr

/-- A core test that waits or runs (14_field_test Table 14-1, R518, R524). -/
structure CoreTest where
  core : Nat                         -- 16: the shared SRAMs (R525); 17: the next Ferry core, not chosen yet
  cause : Nat                        -- 0 Ferry, 1 fault, 2 descriptor
  lbist : Bool
  mbist : Bool
  scan : Bool
  stream : Nat
  part : Nat                         -- 0 LBIST, 1 MBIST, 2 SCAN, 3 wipe; 4 before the ramp is over
  failed : List Nat
  ran : Nat                          -- parts run, bits of TEST_PASS
  man : Option (List Byte)           -- manifest of the package it started with (14_field_test R529)
  order : Nat                        -- of a descriptor: its place among those fetched
  deriving DecidableEq, Repr

/-- A pattern package that is being read (14_field_test R528 to R530). -/
structure PkgLoad where
  stream : Option Nat                -- the LOAD_PACKAGE descriptor; none for a SCAN part
  manifest : List Byte
  bytes : List Byte
  err : Bool
  offset : Nat                       -- PP_REQ_OFFSET and PP_REQ_LEN of its read request (16_integration Table 16-6)
  len : Nat
  deriving DecidableEq, Repr

/-- The registers of a core's IEEE 1500 wrapper, and what its parallel port puts out (14_field_test R532; 16_integration Table 16-6). -/
structure Wrapper where
  core : Fin 16
  instr : List Byte
  bypass : Bool
  boundary : List Byte
  wpo : BitVec 128                   -- TA_WPO
  deriving DecidableEq, Repr

/-- Field test (14_field_test R517 to R533). -/
structure TestSt where
  running : Option CoreTest
  waiting : List CoreTest
  ferryLast : Option Nat             -- the core that the Ferry tested last
  ferryAt : Time                     -- start of the last Ferry test, or application of TEST
  ferryStart : Option Time           -- start of the last Ferry test since the last reset
  misr : Dword
  mbistFail : BitVec 17
  pkgValid : Bool
  pkgId : Nat
  pkgVersion : Nat
  pkgCount : Nat
  pkgManifest : List Byte
  pkg : Option PkgLoad
  repair : List Word                 -- DJ_REPAIR, at most 64
  failLog : List (Word × Nat × Nat)
  spares : List (Nat × Nat × Nat)    -- used spares: array, kind, spare
  repairBad : List Word              -- REPAIR_BAD records to send after HELD is entered
  lastRefusal : Option Time
  segments : List (Nat × TestAccess) -- segment insertion bits that are open (14_field_test R532)
  wrappers : List Wrapper            -- those that a direct scan has opened; every other wrapper holds zeros
  taSo : Bool                        -- TA_SO
  deriving DecidableEq, Repr

/-- Arbitration state of one shared resource (05_streams_and_order R193 to R195). -/
structure Arb where
  res : Nat
  pointer : Nat
  used : List (Nat × Nat)            -- tiles granted in this round, by stream
  starve : List (Nat × Nat)          -- grants to higher classes while a stream waits
  deriving DecidableEq, Repr

/-- Static inputs and parameters of the delivered block (16_integration Table 16-1). -/
structure Params where
  hardening : Nat                    -- 0 DJ4-C, 1 DJ4-M, 2 DJ4-X
  cores : Nat
  dclkSync : Bool
  drCount : Nat
  deriving DecidableEq, Repr

/-! ### The state -/

/-- What spilled data is (01_five_levels Table 1-11; 06_expansion R245; 08_accumulation R324). -/
inductive SpillOf where
  | spare (staging : Bool)             -- space that another cluster has granted and that nothing holds yet
  | context (stream : Nat)
  | history (stream : Nat) (key : Word) (page : Nat)
  | wiped (space : Nat)                -- a history page of a stream that has closed, while its zeros are written: its space
  | directory                          -- of the SCATTER_ACC that holds the Atoll
  | records (part page : Nat)          -- spill records of a drain partition
  | image (wjob : Nat)                 -- a retained image
  | payload (rjob : Nat)               -- a payload read ahead
  | addend (acc i : Nat)               -- a source tile of an accumulator tile, held until the commit: its place among those held
  | received (stream chunk : Nat)
  | outgoing (stream chunk : Nat)
  | early (link : Fin 2) (man : List Byte)
  | sum (acc : Nat)                    -- a sum that waits for the SEND of its pair
  | chartBytes (piece : Nat)           -- staged bytes of an UPDATE
  deriving DecidableEq, Repr

/-- Space of the staging region or the Lagoon (01_five_levels R32 to R35), and how its contents stand in memory. -/
structure Spill where
  id : Nat
  of_ : SpillOf
  pool : Nat
  first : Nat
  sectors : Nat
  asked : Bool                       -- asked of the allocating cluster and not granted yet
  full : Bool                        -- that cluster had no space
  maps : Nat                         -- map writes not yet acknowledged (10_memory_channels R382)
  dirty : List (Nat × Nat)           -- what is to be written once they are: first sector within the space, sectors
  writes : Nat                       -- writes not yet acknowledged
  want : Bool                        -- the contents are asked back
  reads : Nat                        -- reads not yet answered
  came : Bool                        -- the contents are back
  poison : Option Nat                -- address of a poisoned sector among them
  moving : Bool                      -- the Causeway moves it: its requests are class 6 work (10_memory_channels R397)
  deriving DecidableEq, Repr

/-- Who waits for sectors that another cluster allocates (01_five_levels R21). -/
inductive AskOf where
  | job (id : Nat)
  | spill (id : Nat)
  | gone                             -- nothing any more: the sectors go back when they are granted
  deriving DecidableEq, Repr

/-- A sector request of this cluster that has not been answered; its `job` numbers the request. -/
structure OwnAsk where
  of_ : AskOf
  req : RemoteRequest
  deriving DecidableEq, Repr

/-- A stream that asks for a unit of which none is free (05_streams_and_order R192): the resource, the stream, the kind of descriptor. -/
structure UnitWait where
  res : Nat
  stream : Nat
  kind : Nat
  deriving DecidableEq, Repr

/-- Everything one cluster holds, and the commands that wait. -/
structure State where
  pending : List Instr
  params : Params
  time : Time
  phase : Phase
  lc : Nat                           -- STATE of DJ_LC
  lcInvalid : Bool
  lcIn : Nat                         -- LC_IN as sampled last (R510)
  lcReq : Option Nat                 -- the last request driven on LC_REQ
  cluster : Fn
  warmWait : Option Nat              -- a warm reset that waits for the cluster (R495): its source
  offWait : Option Nat               -- the source of a disable whose drain waits for a life-cycle change
  wiping : Bool                      -- the wipe on entering HELD runs
  err : ErrState
  regs : Regs
  counters : List Dword              -- Table 15-9, in offset order
  queues : Vector Queue 64
  streams : List Stream              -- ascending by number; OFF streams have no entry
  rjobs : List RJob
  wjobs : List WJob
  accs : List AccTile
  atoll : List AtollEntry
  scatter : Option Scatter           -- the SCATTER_ACC that holds the Atoll (08_accumulation R320)
  readers : List Scatter             -- those that read ahead of their first update
  groups : List MGroup
  dports : Vector DPort 8
  iports : Vector IPort 4
  lports : Vector LPort 2
  mports : Vector Fn 8
  reqs : List MemReq
  holdq : List MemReq
  colls : List Coll
  peerLate : List (Nat × Nat)        -- LATE_NS last announced by a peer rank
  peerPaused : List Nat
  commits : List Commit
  barriers : List Barrier
  dirCache : List (Nat × BitVec 128) -- entry address and entry, most recently used first
  arbs : List Arb
  pools : List PoolSt
  chans : List Chan
  therms : List GroupTherm
  lost : List (Nat × Nat × Nat)      -- sectors of LOST tiles (R400, R404): pool, first sector, sectors
  causeway : Option Causeway
  cwChannel : Nat
  mapWait : Option Image             -- a MAP_OUT that waits for its list on a held channel (R390), with what the list's reads return
  ring : List RingMsg
  remoteWaits : List RemoteWait
  grants : List (Nat × Nat × List Nat × Nat)   -- grants to other clusters whose map writes are not all acknowledged
  remoteAsks : List RemoteRequest    -- requests of other clusters that wait for space (R272)
  remoteLocks : List (Nat × Nat)     -- tiles that Causeways of other clusters have locked here (R397): cluster, entry address
  contrib : List (Nat × Nat × BitVec 128 × List Byte)   -- source tiles held in the Harbour: accumulator tile, addend, entry, payload
  lagoon : List Spill                -- space allocated in the Lagoon and the staging region
  asks : List OwnAsk                 -- sector requests of this cluster that other clusters have not answered
  unitWaits : List UnitWait
  chart : ChartSt
  lfsr : Word
  cores : Vector Core 16
  power : Power
  test : TestSt
  clkRec : Time                      -- time of the last CLK_LOST record
  freeCtr : Nat
  nextId : Nat
  deriving DecidableEq, Repr

/-- Why the machine stops: the integrator broke a contract and the spec gives no effect. -/
inductive Fault where
  /-- Raised by MEMORY_READ_RESPONSE and MEMORY_WRITE_RESPONSE for a tag that no outstanding request of the port carries
  (10_memory_channels R376: every accepted request is answered exactly once; no effect is given for more). Safe. -/
  | unknownTag
  deriving DecidableEq, Repr

/-- Why a command has no meaning. -/
inductive Refusal where
  /-- Raised by an arm of Dispatch that has no meaning yet. Safe. -/
  | notModelled (mnemonic : String)
  deriving DecidableEq, Repr

/-! ### Reset -/

/-- A function in service. -/
def Fn.isOn : Fn := ⟨.on, .idle⟩
/-- A function that is off and wiped. -/
def Fn.isOff : Fn := ⟨.off, .idle⟩

/-- A queue after reset (05_streams_and_order Table 5-1). -/
def Queue.reset : Queue :=
  { base := 0, enable := false, fmtD3 := false, log2 := 6, qtail := 0, qhead := 0, cbase := 0, clog2 := 6,
    irqAll := false, chead := 0, ctail := 0, phase := true, badCfg := false, wait := none,
    early := [] }

/-- The NO_CHART record of step 6 of Table 13-4 (13_clocks_power_lifecycle R493; 12_chart Table 12-17). -/
def Rec.noChart0 : Rec :=
  { reason := 0x7C, sev := .corrected, rep := false, loss := false, unit := .cluster, unitIndex := 0, recSeq := 0,
    fleet := 0, rank := 0, die := 0, cluster := 0, timestamp := 0, handle := 0, seq := 0, addr := 0,
    tile := 0xFFFFFFFF, detailA := 0, detailB := 0, group := 0, step := 0 }

/-- The error log and health registers after a cold reset, with no record yet (11_integrity Tables 11-10 to 11-12). -/
def ErrState.cold : ErrState :=
  { log := [], head := 0, ack := 0, logLost := 0, mgDrop := 0, mgq := [], loss := false, mgOut := [], svcAck := 0,
    svcOpen := false, svcRecs := [], svcNext := 0, byCore := false, byChannel := false, byCe := false, bySram := false,
    ceCount := 0, ceStart := 0, ceHit := false, ceSent := [], busSent := [], irqError := false, irqService := false, irqTest := false }

/-- ECLK_MHZ and DCLK_MHZ after reset: the hardening's ECLK maximum in both (13_clocks_power_lifecycle Table 13-6). -/
def eclkReset (hardening : Nat) : Word :=
  if hardening = 0 then 0x03E803E8 else if hardening = 1 then 0x03200320 else 0x03840384

/-- The registers after reset (15_register_map Tables 15-2, 15-3; 05, 10, 11, 12, 13 register tables). -/
def Regs.reset (hardening : Nat) : Regs :=
  { scratch := 0, ctxdbgBank := 0, irqEn := 0xE, cqPend := 0, badSize := false, badOffset := false, mgDenied := false,
    lastPort := .host, chanArg := 0, chanListLo := 0, chanListHi := 0, chanLcount := 0, chanResult := 0, poolSel := 0,
    sctlArg0 := 0x01000000, sctlArg1 := 0, sctlArg2 := 0, sctlResult := 0, fnSel := 0, fnResult := 0,
    clkMhz0 := eclkReset hardening, clkMhz1 := 0x01F40640, clkMhz2 := 0x04E204E2, clkMhz3 := 0x04E204E2, clkStat := 0,
    coreFaultSel := 0, chartCtl := 0, chartAddrLo := 0, chartAddrHi := 0, chartLen := 0, hostLatch := none,
    mgLatch := none, dbgLatch := none, hostRsp := 0, mgRsp := 0 }

/-- The Chart-load registers after reset (12_chart Tables 12-14, 12-15): HELD, reason NO_CHART. -/
def ChartSt.reset : ChartSt :=
  { held := true, load := .none, isUpdate := false, result := 0, reason := 0x7C, errOff := 0, count := 0, chartId := 0, staged := [],
    overflow := false, len := 0, dmaLeft := 0, dmaNext := [], poisoned := false, applied := none, update := none, drain := none, tcPast := [], svcPast := [] }

/-- A core after a cold reset. -/
def Core.reset (present : Bool) : Core :=
  { fn := if present then Fn.isOn else Fn.isOff, faults := [], lifetime := 0, out := false, retired := false, keepOff := false, decN := 0,
    encN := 0, chkN := 0, replayN := 0, ceN := 0 }

/-- The test registers after a cold reset (14_field_test Table 14-7). -/
def TestSt.reset : TestSt :=
  { running := none, waiting := [], ferryLast := none, ferryAt := 0, ferryStart := none, misr := 0, mbistFail := 0, pkgValid := false,
    pkgId := 0, pkgVersion := 0, pkgCount := 0, pkgManifest := [], pkg := none, repair := [], failLog := [],
    spares := [], repairBad := [], lastRefusal := none, segments := [], wrappers := [], taSo := false }

/-- The estimated current in HELD (13_clocks_power_lifecycle Table 13-7). -/
def heldCurrent (hardening : Nat) : Nat :=
  if hardening = 0 then 2800 else if hardening = 1 then 1000 else 1600

/-- The governor after reset: DJ_PWR_STAT reads 0 (Table 13-6; log 13). -/
def Power.reset : Power :=
  { est := 0, target := 0, grant := false, intent := none, leadOver := false,
    ballast := false, small := none }

/-- The machine with every SRAM wiped and every register at its reset value, before any record (13_clocks_power_lifecycle
R493), for given static inputs, time and life-cycle state. -/
def State.cold (p : Params) (t : Time) (lc : Nat) (inv : Bool) : State :=
  { pending := [], params := p, time := t, phase := .run, lc := lc, lcInvalid := inv, lcIn := lc, lcReq := none, cluster := Fn.isOn,
    warmWait := none, offWait := none, wiping := false, err := ErrState.cold, regs := Regs.reset p.hardening,
    counters := List.replicate 53 0, queues := Vector.replicate 64 Queue.reset, streams := [], rjobs := [], wjobs := [],
    accs := [], atoll := [], scatter := none, readers := [], groups := [],
    dports := Vector.replicate 8 ⟨Fn.isOn, [], none, 0, none, none⟩,
    iports := Vector.replicate 4 ⟨Fn.isOn, none, none⟩, lports := Vector.replicate 2 ⟨Fn.isOn, [], [], [], []⟩,
    mports := Vector.replicate 8 Fn.isOn, reqs := [], holdq := [], colls := [], peerLate := [], peerPaused := [],
    commits := [], barriers := [], dirCache := [], arbs := [], pools := [], chans := [], therms := [], lost := [], causeway := none,
    cwChannel := 0, mapWait := none, ring := [], remoteWaits := [], grants := [], remoteAsks := [], remoteLocks := [],
    contrib := [], lagoon := [], asks := [], unitWaits := [], chart := ChartSt.reset, lfsr := 0,
    cores := Vector.ofFn fun c => Core.reset (decide (c.val < p.cores)), power := Power.reset,
    test := TestSt.reset, clkRec := 0, freeCtr := 0, nextId := 0 }

/-- The machine right after a cold reset: HELD and ON, the NO_CHART record with REC_SEQ 0 in the log and in the
management queue (13_clocks_power_lifecycle R493 step 6). DESIGN CHOICE for the static inputs (log 2) and TIME_IN (log 3). -/
def State.reset : State :=
  let s := State.cold { hardening := 0, cores := 16, dclkSync := true, drCount := 0 } 0 2 false
  { s with err := { s.err with log := [Rec.noChart0], mgq := [Rec.noChart0], head := 1 } }

end Sys2Proof.Machine
end

