-- ==== Sys2Proof/Machine/Elem.lean ====
section
/-! DEFINITION. Element types, their formats and exact values (02_tile_container Table 2-1, R39 to R41; 04_bounded_loss
Table 4-2). -/

namespace Sys2Proof.Machine

/-- Elements per tile of an element type code (Table 2-1). -/
def elemsPerTile (t : Nat) : Nat :=
  match t with
  | 0 => 1024 | 1 => 2048 | 2 => 2048 | 3 => 4096 | 4 => 4096 | 5 => 4096 | 6 => 8192 | 7 => 3968 | 8 => 3968
  | 9 => 5120 | 10 => 5120 | 11 => 7680 | 12 => 3968 | 13 => 4096 | 14 => 256 | _ => 4096

/-- Bytes of a bitmap unit (Table 2-1, R80). -/
def unitSize (t : Nat) : Nat :=
  match t with
  | 0 => 4 | 1 => 2 | 2 => 2 | 14 => 16 | _ => 1

/-- Units per sector (Table 2-1). -/
def unitsPerSector (t : Nat) : Nat := 64 / unitSize t

/-- Element bitmap bytes (Table 2-1). -/
def bitmapBytes (t : Nat) : Nat := ceilDiv (unitsPerSector t) 8

/-- Oldest container version that holds a type (Table 2-1). -/
def oldestVersion (t : Nat) : Nat :=
  match t with
  | 0 => 2 | 1 => 2 | 2 => 2 | 5 => 2 | 13 => 2 | 14 => 4 | _ => 3

/-- MX types (Table 2-1). -/
def isMx (t : Nat) : Bool := decide (7 ≤ t) && decide (t ≤ 12)

/-- Number of planes (Table 2-1); OPAQUE by its stride code. -/
def planeCount (t stride : Nat) : Nat :=
  match t with
  | 0 => 4 | 1 => 2 | 2 => 2 | 13 => 2 ^ stride | 14 => 16
  | _ => if isMx t then 3 else 1

/-- First byte of the scale area and of the pad area of an MX tile (Table 2-2). -/
def mxAreas (t : Nat) : Nat × Nat :=
  if t = 11 then (3840, 4080) else if t = 9 ∨ t = 10 then (3840, 4000) else (3968, 4092)

/-- Blocks of an MX tile (Table 2-2). -/
def mxBlocks (t : Nat) : Nat := if t = 11 then 240 else if t = 9 ∨ t = 10 then 160 else 124

/-- Bits of one element. -/
def elemBits (t : Nat) : Nat :=
  match t with
  | 0 => 32 | 1 => 16 | 2 => 16 | 6 => 4 | 9 => 6 | 10 => 6 | 11 => 4 | 14 => 128 | _ => 8

/-- A floating format: exponent bits, mantissa bits, bias, whether it has infinities, whether it has a NaN. -/
structure Fmt where
  eb : Nat
  mb : Nat
  bias : Nat
  hasInf : Bool
  hasNan : Bool
  deriving DecidableEq, Repr

/-- The element format of a type (Table 4-2; OCP Microscaling element encodings for the MX types). -/
def fmtOf (t : Nat) : Option Fmt :=
  match t with
  | 0 => some ⟨8, 23, 127, true, true⟩
  | 1 => some ⟨8, 7, 127, true, true⟩
  | 2 => some ⟨5, 10, 15, true, true⟩
  | 3 => some ⟨4, 3, 7, false, true⟩
  | 4 => some ⟨5, 2, 15, true, true⟩
  | 7 => some ⟨4, 3, 7, false, true⟩
  | 8 => some ⟨5, 2, 15, true, true⟩
  | 9 => some ⟨2, 3, 1, false, false⟩
  | 10 => some ⟨3, 2, 3, false, false⟩
  | 11 => some ⟨2, 1, 1, false, false⟩
  | _ => none

/-- The code of the largest finite magnitude of a format. -/
def Fmt.maxCode (f : Fmt) : Nat :=
  if f.hasInf then (2 ^ f.eb - 1) * 2 ^ f.mb - 1
  else if f.hasNan then 2 ^ (f.eb + f.mb) - 2
  else 2 ^ (f.eb + f.mb) - 1

/-- Exponent of the smallest subnormal. -/
def Fmt.eMin (f : Fmt) : Int := 1 - Int.ofNat f.bias - Int.ofNat f.mb

/-- The value of an element code (Table 4-2). -/
def Fmt.value (f : Fmt) (code : Nat) : Num :=
  let mag := code % 2 ^ (f.eb + f.mb)
  let neg := bit code (f.eb + f.mb)
  let ex := mag / 2 ^ f.mb
  let ma := mag % 2 ^ f.mb
  let sign : Int := if neg then -1 else 1
  if f.hasInf && ex == 2 ^ f.eb - 1 then
    if ma = 0 then ⟨0, 0, if neg then 2 else 1, neg⟩ else ⟨0, 0, 3, neg⟩
  else if !f.hasInf && f.hasNan && mag == 2 ^ (f.eb + f.mb) - 1 then ⟨0, 0, 3, neg⟩
  else if ex = 0 then ⟨sign * ma, f.eMin, 0, neg⟩
  else ⟨sign * (2 ^ f.mb + ma : Nat), f.eMin + Int.ofNat ex - 1, 0, neg⟩

/-- The code of the finite value m · 2^e rounded to nearest, ties to even, without its sign bit; it may exceed `maxCode`
(overflow). -/
def Fmt.roundMag (f : Fmt) (m e : Int) : Nat :=
  if m = 0 then 0
  else
    let q := max (log2Of m e - Int.ofNat f.mb) f.eMin
    let n := (rneScale (Int.ofNat m.natAbs) (e - q)).toNat
    (q - f.eMin).toNat * 2 ^ f.mb + n

/-- True when m · 2^e is a value of the format's grid at its own magnitude. -/
def Fmt.roundExact (f : Fmt) (m e : Int) : Bool :=
  m == 0 || scaleExact m (e - max (log2Of m e - Int.ofNat f.mb) f.eMin)

/-- A magnitude code with a sign bit. -/
def Fmt.signed (f : Fmt) (neg : Bool) (mag : Nat) : Nat := mag + (if neg then 2 ^ (f.eb + f.mb) else 0)

/-- The code of an infinity of a sign; the largest magnitude where the format has none. -/
def Fmt.inf (f : Fmt) (neg : Bool) : Nat :=
  f.signed neg (if f.hasInf then (2 ^ f.eb - 1) * 2 ^ f.mb else f.maxCode)

/-- The quiet NaN of a format, sign 0. -/
def Fmt.qnan (f : Fmt) : Nat :=
  if f.hasInf then (2 ^ f.eb - 1) * 2 ^ f.mb + 2 ^ (f.mb - 1) else 2 ^ (f.eb + f.mb) - 1

/-- The element codes of bytes taken as units of a width in bits (R39). -/
def codesOf (w : Nat) (l : List Byte) : List Nat :=
  match w with
  | 4 => l.flatMap fun b => [b.toNat % 16, b.toNat / 16]
  | 6 => (groupsOf 3 (l.length / 3) l).flatMap fun g =>
      let x := leNat g
      [x % 64, x / 64 % 64, x / 4096 % 64, x / 262144 % 64]
  | 8 => l.map BitVec.toNat
  | _ => (groupsOf (w / 8) (l.length / (w / 8)) l).map leNat

/-- The bytes of element codes of a width in bits. -/
def bytesOfCodes (w : Nat) (cs : List Nat) : List Byte :=
  match w with
  | 4 => (groupsOf 2 (cs.length / 2) cs).map fun g => BitVec.ofNat 8 (nth g 0 0 + 16 * nth g 1 0)
  | 6 => (groupsOf 4 (cs.length / 4) cs).flatMap fun g =>
      leBytes 3 (nth g 0 0 + 64 * nth g 1 0 + 4096 * nth g 2 0 + 262144 * nth g 3 0)
  | 8 => cs.map (BitVec.ofNat 8)
  | _ => cs.flatMap (leBytes (w / 8))

/-- The bytes of the element area of a tile image. -/
def elemArea (t : Nat) (img : List Byte) : List Byte :=
  if isMx t then img.take (mxAreas t).1 else img.take 4096

/-- The element codes of a tile image. -/
def tileCodes (t : Nat) (img : List Byte) : List Nat := codesOf (elemBits t) (elemArea t img)

/-- The scale byte of block b of an MX tile image (R40). -/
def mxScale (t : Nat) (img : List Byte) (b : Nat) : Nat := (nth img ((mxAreas t).1 + b) (0 : Byte)).toNat

/-- Two's complement value of a code of w bits. -/
def signedCode (w c : Nat) : Int := if bit c (w - 1) then (c : Int) - 2 ^ w else c

/-- The value of one W96 element (R41; R311 for the three non-finite codes). -/
def w96Value (c : Nat) : Num :=
  let content := signedCode 96 (c % 2 ^ 96)
  let anchor := signedCode 16 (bits c 111 96)
  if content = -(2 ^ 95) then ⟨0, 0, 3, false⟩
  else if content = -(2 ^ 95) + 1 then ⟨0, 0, 1, false⟩
  else if content = -(2 ^ 95) + 2 then ⟨0, 0, 2, true⟩
  else ⟨content, anchor - 82, 0, decide (content < 0)⟩

/-- The value of one element by its type and code; `scale` is the MX block scale byte (R138). -/
def elemValue (t scale code : Nat) : Num :=
  if t = 14 then w96Value code
  else if t = 12 then if scale = 255 then ⟨0, 0, 3, false⟩ else ⟨signedCode 8 code, (scale : Int) - 127 - 6, 0, false⟩
  else if t = 5 then ⟨signedCode 8 code, 0, 0, false⟩
  else if t = 6 then ⟨signedCode 4 code, 0, 0, false⟩
  else match fmtOf t with
    | some f =>
      if isMx t then
        if scale = 255 then ⟨0, 0, 3, false⟩
        else let v := f.value code; { v with e := v.e + (scale : Int) - 127 }
      else f.value code
    | none => ⟨code, 0, 0, false⟩

/-- The values of all elements of a tile image, in element order. -/
def tileValues (t : Nat) (img : List Byte) : List Num :=
  if isMx t then
    (groupsOf 32 (mxBlocks t) (tileCodes t img)).zipIdx.flatMap fun g => g.1.map (elemValue t (mxScale t img g.2))
  else (tileCodes t img).map (elemValue t 127)

/-- True when an element code is an infinity or a NaN of its type. -/
def codeNonfinite (t code : Nat) : Bool :=
  match fmtOf t with
  | some f => (f.value code).tag != 0
  | none => false

/-- True when a tile holds at least one infinity or NaN (02_tile_container Table 2-9 NONFINITE, R138). -/
def tileNonfinite (t : Nat) (img : List Byte) : Bool :=
  if t = 13 then false else (tileValues t img).any fun v => v.tag != 0

/-- Negative zero folded to positive zero in every element (R62); MX scale and pad bytes are not touched. -/
def foldNz (t : Nat) (img : List Byte) : List Byte :=
  match fmtOf t with
  | some f =>
    let w := elemBits t
    let cs := (tileCodes t img).map fun c => if c = 2 ^ (f.eb + f.mb) then 0 else c
    bytesOfCodes w cs ++ (if isMx t then img.drop (mxAreas t).1 else [])
  | none => img

/-- MAX_EXP of a dense image (Table 2-10, R75). -/
def maxExp (t : Nat) (img : List Byte) : Nat :=
  if t = 13 ∨ t = 14 then 0
  else if isMx t then
    ((List.range (mxBlocks t)).map fun b => let s := mxScale t img b; if s = 255 then 0 else s).foldl max 0
  else if t = 5 ∨ t = 6 then
    ((tileCodes t img).map fun c => let a := (signedCode (elemBits t) c).natAbs; if a = 0 then 0 else a.log2 + 1).foldl
      max 0
  else match fmtOf t with
    | some f => ((tileCodes t img).map fun c =>
        if codeNonfinite t c then 0 else c % 2 ^ (f.eb + f.mb) / 2 ^ f.mb).foldl max 0
    | none => 0

/-- floor(log2) of the largest finite magnitude of a list of values; none when no value is finite and non-zero. -/
def maxLog2 : List Num → Option Int
  | [] => none
  | v :: vs =>
    if v.tag = 0 ∧ v.m ≠ 0 then
      match maxLog2 vs with
      | none => some (log2Of v.m v.e)
      | some a => some (max a (log2Of v.m v.e))
    else maxLog2 vs

/-- The contribution exponent E_c of a tile (08_accumulation Table 8-3, R301). -/
def contribExp (t mexp : Nat) (vs : List Num) : Option Int :=
  match t with
  | 0 => some (max (max (mexp : Int) 1 - 127) (-126))
  | 1 => some (max (max (mexp : Int) 1 - 127) (-126))
  | 2 => some (max (mexp : Int) 1 - 15)
  | 4 => some (max (mexp : Int) 1 - 15)
  | 3 => some (max (mexp : Int) 1 - 7)
  | 7 => some (max ((mexp : Int) - 127 + 8) (-126))
  | 8 => some (max ((mexp : Int) - 127 + 15) (-126))
  | 9 => some (max ((mexp : Int) - 127 + 2) (-126))
  | 10 => some (max ((mexp : Int) - 127 + 4) (-126))
  | 11 => some (max ((mexp : Int) - 127 + 2) (-126))
  | 14 => (maxLog2 vs).map (max · (-126))
  | _ => none

end Sys2Proof.Machine
end

