-- ==== Sys2Proof/Machine/Tile.lean ====
section
/-! DEFINITION. The container: directory entries, payload headers and their checks, sector maps, bitmaps and planes
(02_tile_container R48 to R80, R565, R566). -/

namespace Sys2Proof.Machine

/-! ### Directory entries (Table 2-5) -/

/-- Word 0 of an entry by its fields. -/
def entryWord (addr len state cls quality seed ver : Nat) : BitVec 64 :=
  BitVec.ofNat 64 (pack [(36, addr), (7, len), (4, state), (4, cls), (3, quality), (8, seed), (2, ver)])

/-- An entry of word 0 and the check value. -/
def mkEntry (w0 : BitVec 64) (check : Dword) : BitVec 128 := check ++ w0

/-- SECTOR_ADDR. -/
def entAddr (e : BitVec 128) : Nat := bits e.toNat 35 0
/-- LENGTH. -/
def entLen (e : BitVec 128) : Nat := bits e.toNat 42 36
/-- STATE. -/
def entState (e : BitVec 128) : Nat := bits e.toNat 46 43
/-- FID_CLASS. -/
def entClass (e : BitVec 128) : Nat := bits e.toNat 50 47
/-- QUALITY. -/
def entQuality (e : BitVec 128) : Nat := bits e.toNat 53 51
/-- SEED_ID. -/
def entSeed (e : BitVec 128) : Nat := bits e.toNat 61 54
/-- CONT_VER. -/
def entVer (e : BitVec 128) : Nat := bits e.toNat 63 62
/-- Word 1: the check value (R49). -/
def entCheck (e : BitVec 128) : Dword := BitVec.extractLsb' 64 64 e
/-- Word 0. -/
def entWord0 (e : BitVec 128) : BitVec 64 := BitVec.extractLsb' 0 64 e

/-- Word 0 with another SECTOR_ADDR, every other field kept. -/
def withAddr (w0 : BitVec 64) (addr : Nat) : BitVec 64 := BitVec.extractLsb' 36 28 w0 ++ BitVec.ofNat 36 addr

/-- Word 0 with another QUALITY, every other field kept. -/
def withQuality (w0 : BitVec 64) (q : Nat) : BitVec 64 :=
  BitVec.extractLsb' 54 10 w0 ++ (BitVec.ofNat 3 q ++ BitVec.extractLsb' 0 51 w0)

/-- An entry with STATE LOST, every other field kept (10_memory_channels R404). -/
def withState (e : BitVec 128) (st : Nat) : BitVec 128 :=
  BitVec.extractLsb' 47 81 e ++ (BitVec.ofNat 4 st ++ BitVec.extractLsb' 0 43 e)

/-- The first failing check of Table 2-12 by its number in R566; 0 when all pass. CONT_READ of DJ_CAPS is 0x1C: versions
2, 3 and 4, the codes 0 to 2 (00_scope R4). -/
def entryFail (e : BitVec 128) : Nat :=
  let st := entState e
  let len := entLen e
  if 3 < st then 1
  else if (st = 0 ∧ len ≠ 0) ∨ (st = 1 ∧ (len < 1 ∨ 63 < len)) ∨ (st = 2 ∧ len ≠ 64) ∨ (st = 3 ∧ (len < 1 ∨ 64 < len))
    then 2
  else if entVer e = 3 then 3
  else if st = 0 ∧ entCheck e ≠ zeroCheck then 4
  else if 4 < entQuality e then 5
  else 0

/-! ### The payload header (Table 2-9) -/

/-- A payload header by its fields; `rsv` holds the reserved bits. -/
structure Header where
  map : Nat
  maxExp : Nat
  layout : Nat
  stride : Nat
  tableMode : Nat
  tableId : Nat
  ebOmit : Bool
  nonfinite : Bool
  quant : Bool
  ss1 : Nat
  ss2 : Nat
  ss3 : Nat
  rsv : Nat
  deriving DecidableEq, Repr

/-- The header of a payload. -/
def parseHeader (payload : List Byte) : Header :=
  let x := leNat (slice payload 0 16)
  { map := bits x 63 0, maxExp := bits x 71 64, layout := bits x 75 72, stride := bits x 79 76,
    tableMode := bits x 81 80, tableId := bits x 87 82, ebOmit := bit x 88, nonfinite := bit x 89, quant := bit x 90,
    ss1 := bits x 105 96, ss2 := bits x 115 106, ss3 := bits x 125 116,
    rsv := bits x 95 91 + 32 * bits x 127 126 }

/-- The 16 bytes of a header with its reserved bits clear. -/
def Header.bytes (h : Header) : List Byte :=
  leBytes 16 (pack [(64, h.map), (8, h.maxExp), (4, h.layout), (4, h.stride), (2, h.tableMode), (6, h.tableId),
    (1, b2n h.ebOmit), (1, b2n h.nonfinite), (1, b2n h.quant), (5, 0), (10, h.ss1), (10, h.ss2), (10, h.ss3), (2, 0)])

/-- Element types that container version 2 holds (Table 2-13). -/
def inVersion2 (t : Nat) : Bool := t == 0 || t == 1 || t == 2 || t == 5 || t == 13

/-- The Offsets check of Table 2-11; in a version 2 tile a zero value is not an error (R78). -/
def offsetsFail (h : Header) (ver len : Nat) : Bool :=
  if ver = 2 then
    (h.ss1 != 0 && decide (4 * h.ss1 < 16)) || (h.ss2 != 0 && decide (h.ss2 < h.ss1)) ||
      (h.ss3 != 0 && decide (h.ss3 < h.ss2)) || decide (64 * len < 4 * h.ss3)
  else decide (4 * h.ss1 < 16) || decide (h.ss2 < h.ss1) || decide (h.ss3 < h.ss2) || decide (64 * len < 4 * h.ss3)

/-- The first failing check of Table 2-11 by its number in 11_integrity Table 11-8; 0 when all pass. -/
def headerFail (h : Header) (etype stride ver len : Nat) : Nat :=
  if h.layout ≠ etype ∨ (etype = 13 ∧ h.stride ≠ stride) ∨ (etype ≠ 13 ∧ h.stride ≠ 0) then 1
  else if h.map = 0 then 2
  else if 2 ≤ h.tableMode ∨ (h.tableMode = 1 ∧ h.tableId ≠ 0) then 3
  else if offsetsFail h ver len then 4
  else if h.rsv ≠ 0 then 5
  else if ver < oldestVersion etype ∨
      (ver = 2 ∧ (!inVersion2 etype ∨ h.ss1 ≠ 0 ∨ h.ss2 ≠ 0 ∨ h.ss3 ≠ 0 ∨ h.ebOmit ∨ h.quant)) ∨
      (ver = 3 ∧ h.ebOmit) then 6
  else 0

/-! ### Planes (R69 to R72) -/

/-- Zigzag of a two's complement byte (R71). -/
def zigzag (x : Byte) : Byte := (x <<< 1) ^^^ (x.sshiftRight 7)

/-- Inverse of the zigzag (R71). -/
def unzigzag (z : Byte) : Byte := (z >>> 1) ^^^ (0 - (z &&& 1))

/-- The area of an MX tile that holds a dense byte offset: 0 element, 1 scale, 2 pad (R70). -/
def mxArea (t off : Nat) : Nat := if off < (mxAreas t).1 then 0 else if off < (mxAreas t).2 then 1 else 2

/-- The plane bytes of a unit, with their planes (Table 2-7). `off` is the unit's byte offset in the dense image. -/
def planeBytes (t stride off : Nat) (u : List Byte) : List (Nat × Byte) :=
  let x := leNat u
  let b (n : Nat) : Byte := BitVec.ofNat 8 n
  match t with
  | 0 => [(0, b (bits x 30 23)), (1, b (128 * bits x 31 31 + bits x 22 16)), (2, b (bits x 15 8)), (3, b (bits x 7 0))]
  | 1 => [(0, b (bits x 14 7)), (1, b (128 * bits x 15 15 + bits x 6 0))]
  | 2 => [(0, b (bits x 15 8)), (1, b (bits x 7 0))]
  | 5 => [(0, zigzag (b x))]
  | 13 => [(off % 2 ^ stride, b x)]
  | 14 => u.zipIdx.map fun p => (p.2, p.1)
  | _ =>
    if isMx t then
      let a := mxArea t off
      [(a, if t = 12 ∧ a = 0 then zigzag (b x) else b x)]
    else [(0, b x)]

/-- Planes that a unit at an offset takes one byte from, in plane order. -/
def unitPlanes (t stride off : Nat) : List Nat :=
  match t with
  | 0 => [0, 1, 2, 3]
  | 1 => [0, 1]
  | 2 => [0, 1]
  | 13 => [off % 2 ^ stride]
  | 14 => List.range 16
  | _ => if isMx t then [mxArea t off] else [0]

/-- The unit of its plane bytes, in the order of `unitPlanes` (R107). -/
def unitOf (t off : Nat) (p : List Byte) : List Byte :=
  let n (i : Nat) : Nat := (nth p i (0 : Byte)).toNat
  match t with
  | 0 => leBytes 4 (n 3 + 2 ^ 8 * n 2 + 2 ^ 16 * (n 1 % 128) + 2 ^ 23 * n 0 + 2 ^ 31 * (n 1 / 128))
  | 1 => leBytes 2 (n 1 % 128 + 2 ^ 7 * n 0 + 2 ^ 15 * (n 1 / 128))
  | 2 => leBytes 2 (n 1 + 256 * n 0)
  | 5 => [unzigzag (nth p 0 0)]
  | 14 => slice p 0 16
  | _ => if t = 12 ∧ mxArea t off = 0 then [unzigzag (nth p 0 0)] else [nth p 0 0]

/-- The sector map of a dense image (R66). -/
def sectorMap (img : List Byte) : Nat :=
  (groupsOf 64 64 img).zipIdx.foldl (fun m g => if allZero g.1 then m else m + 2 ^ g.2) 0

/-- The units of a sector that enter the planes, with their numbers and bytes. -/
def sectorUnits (t : Nat) (ebOmit : Bool) (sector : List Byte) : List (Nat × List Byte) :=
  (groupsOf (unitSize t) (unitsPerSector t) sector).zipIdx.filterMap fun p =>
    if ebOmit || !allZero p.1 then some (p.2, p.1) else none

/-- The bitmap plane and the tagged plane bytes of a tile, in unit order (R69). -/
def buildUnits (t stride : Nat) (ebOmit : Bool) (img : List Byte) : List Byte × List (Nat × Byte) :=
  let secs := (groupsOf 64 64 img).zipIdx.filter fun g => !allZero g.1
  (if ebOmit then [] else secs.flatMap fun g =>
      leBytes (bitmapBytes t) ((sectorUnits t false g.1).foldl (fun m u => m + 2 ^ u.1) 0),
   secs.flatMap fun g => (sectorUnits t ebOmit g.1).flatMap fun u =>
      planeBytes t stride (64 * g.2 + u.1 * unitSize t) u.2)

/-- The coded sequence of a tile: the bitmap plane, then the planes in order (R72, R79). -/
def codedSequence (t stride : Nat) (ebOmit : Bool) (img : List Byte) : List Byte :=
  let b := buildUnits t stride ebOmit img
  b.1 ++ (List.range (planeCount t stride)).flatMap fun p => b.2.filterMap fun x => if x.1 = p then some x.2 else none

/-- The presence of each unit of the present sectors: dense offsets of the units that enter the planes, ascending. -/
def filledUnits (t map : Nat) (ebOmit : Bool) (bitmaps : List Byte) : List Nat :=
  (onesFrom 64 0 map).zipIdx.flatMap fun s =>
    let bm := if ebOmit then 2 ^ unitsPerSector t - 1 else unitNat bitmaps (bitmapBytes t) s.2
    (onesFrom (unitsPerSector t) 0 bm).map fun u => 64 * s.1 + u * unitSize t

/-- Takes one byte from each of the named planes. -/
def takePlanes (ps : List Nat) (planes : List (List Byte)) : List Byte × List (List Byte) :=
  match ps with
  | [] => ([], planes)
  | p :: rest =>
    let r := takePlanes rest (planes.modify p (List.drop 1))
    ((nth planes p []).headD 0 :: r.1, r.2)

/-- The filled units with their bytes, each plane read from its own next position (R107). -/
def fillUnits (t stride : Nat) : List Nat → List (List Byte) → List (Nat × List Byte)
  | [], _ => []
  | off :: rest, planes =>
    let r := takePlanes (unitPlanes t stride off) planes
    (off, unitOf t off r.1) :: fillUnits t stride rest r.2

/-- Bytes of the planes cut from the coded sequence, by the number of units that each plane takes. -/
def cutPlanes : List Nat → List Byte → List (List Byte)
  | [], _ => []
  | n :: ns, l => l.take n :: cutPlanes ns (l.drop n)

/-- Lays units at ascending offsets over zero bytes, from offset `at_` up to `stop`. -/
def layUnits (at_ stop : Nat) : List (Nat × List Byte) → List Byte
  | [] => List.replicate (stop - at_) 0
  | (off, u) :: rest => List.replicate (off - at_) 0 ++ u ++ layUnits (off + u.length) stop rest

/-- The dense image of the planes of a tile (R107). `out` is the whole coded sequence. -/
def rebuildDense (t stride map : Nat) (ebOmit : Bool) (out : List Byte) : List Byte :=
  let blen := if ebOmit then 0 else popcount 64 map * bitmapBytes t
  let us := filledUnits t map ebOmit (out.take blen)
  let tags := us.flatMap (unitPlanes t stride)
  let sizes := (List.range (planeCount t stride)).map fun p => (tags.filter (· == p)).length
  layUnits 0 4096 (fillUnits t stride us (cutPlanes sizes (out.drop blen)))

end Sys2Proof.Machine
end

