-- ==== Sys2Proof/Machine/Decoder.lean ====
section
/-! DEFINITION. The decoding procedure of a CODED payload: prefix codes, dynamic tables, tokens and the adaptive dictionary
(03_lossless_coding R79 to R111). Errors are the reason codes of Table 3-6. -/

namespace Sys2Proof.Machine

/-! ### Prefix codes (R90 to R92) -/

/-- First code of each length n from 1 up (R91): `counts` holds the number of codes of length n - 1, n, … -/
def firstCodes (prev code : Nat) : List Nat → List Nat
  | [] => []
  | c :: cs => 2 * (code + prev) :: firstCodes c (2 * (code + prev)) cs

/-- Canonical codes of lengths (R91): symbol, code value and bit count. -/
def canonicalCodes (lengths : List Nat) (maxLen : Nat) : List (Nat × Nat × Nat) :=
  let counts := (List.range maxLen).map fun n => (lengths.filter (· == n + 1)).length
  let firsts := firstCodes 0 0 counts
  (List.range maxLen).flatMap fun i =>
    ((lengths.zipIdx.filterMap fun p => if p.1 = i + 1 then some p.2 else none).zipIdx).map fun q =>
      (q.1, nth firsts i 0 + q.2, i + 1)

/-- Kraft sum of lengths, in units of 2^-maxLen. -/
def kraft (lengths : List Nat) (maxLen : Nat) : Nat :=
  (lengths.map fun n => if n = 0 then 0 else 2 ^ (maxLen - n)).sum

/-- A valid code (R92); an empty one only for the distance alphabet. -/
def validCode (lengths : List Nat) (maxLen : Nat) (mayBeEmpty : Bool) : Bool :=
  let used := lengths.filter (· != 0)
  lengths.all (· ≤ maxLen) &&
    match used with
    | [] => mayBeEmpty
    | [n] => n == 1
    | _ => kraft lengths maxLen == 2 ^ maxLen

/-- A code table that meets R90 and R92: 352 token lengths and 25 distance lengths. -/
def validTable (lengths : List Nat) : Bool :=
  lengths.length == 377 && validCode (lengths.take 352) 12 false && validCode (lengths.drop 352) 12 true

/-! ### Bits (R88, R89) -/

/-- The bits of bytes, each byte from bit 0 (R88). -/
def bitsOf (l : List Byte) : List Bool := l.flatMap fun b => (List.range 8).map fun i => b.toNat.testBit i

/-- A sub-stream that is being read: the bits still to come and the number already read. -/
structure Rd where
  rest : List Bool
  used : Nat
  deriving DecidableEq, Repr

/-- n bits, least significant first (R89); `err` when the sub-stream ends. -/
def readBits (err : Nat) : Nat → Rd → Except Nat (Nat × Rd)
  | 0, r => .ok (0, r)
  | n + 1, r =>
    match r.rest with
    | [] => .error err
    | b :: bs => (readBits err n ⟨bs, r.used + 1⟩).map fun p => (b2n b + 2 * p.1, p.2)

/-- A symbol, most significant bit of its code first (R89): `left` bits may still be read, `n` have been read. -/
def readSymbol (short none_ : Nat) (codes : List (Nat × Nat × Nat)) : Nat → Nat → Nat → Rd → Except Nat (Nat × Rd)
  | 0, _, _, _ => .error none_
  | left + 1, n, code, r =>
    match r.rest with
    | [] => .error short
    | b :: bs =>
      let code' := 2 * code + b2n b
      let r' : Rd := ⟨bs, r.used + 1⟩
      match codes.find? (fun c => c.2.1 == code' && c.2.2 == n + 1) with
      | some c => .ok (c.1, r')
      | none => readSymbol short none_ codes left (n + 1) code' r'

/-! ### Dynamic tables (R96 to R99) -/

/-- The sixteen 3-bit fields (R97). -/
def readFields : Nat → Rd → Except Nat (List Nat × Rd)
  | 0, r => .ok ([], r)
  | n + 1, r =>
    match readBits 0x31 3 r with
    | .error e => .error e
    | .ok (x, r1) => (readFields n r1).map fun p => (x :: p.1, p.2)

/-- The lengths that a code-length symbol stands for, and the number of its extra bits (Table 3-4). -/
def clExtra (sym : Nat) : Nat := if sym = 13 then 2 else if sym = 14 then 3 else if sym = 15 then 7 else 0

/-- Code-length symbols until 377 lengths have been produced (R98, R99); `acc` holds the lengths so far, last first. -/
def readLengths (codes : List (Nat × Nat × Nat)) : Nat → List Nat → Rd → Except Nat (List Nat × Rd)
  | 0, _, _ => .error 0x31
  | fuel + 1, acc, r =>
    if acc.length = 377 then .ok (acc.reverse, r)
    else
      match readSymbol 0x31 0x31 codes 7 0 0 r with
      | .error e => .error e
      | .ok (sym, r1) =>
        match readBits 0x31 (clExtra sym) r1 with
        | .error e => .error e
        | .ok (x, r2) =>
          if sym = 13 ∧ acc = [] then .error 0x31
          else
            let more :=
              if sym = 13 then List.replicate (3 + x) (acc.headD 0)
              else if sym = 14 then List.replicate (3 + x) 0
              else if sym = 15 then List.replicate (11 + x) 0
              else [sym]
            if 377 < acc.length + more.length then .error 0x31
            else readLengths codes fuel (more ++ acc) r2

/-- The dynamic table at the start of sub-stream 0. -/
def readTable (r : Rd) : Except Nat (List Nat × Rd) :=
  match readFields 16 r with
  | .error e => .error e
  | .ok (cl, r1) =>
    if validCode cl 7 false then
      match readLengths (canonicalCodes cl 7) 378 [] r1 with
      | .error e => .error e
      | .ok (l, r2) => if validTable l then .ok (l, r2) else .error 0x31
    else .error 0x31

/-! ### Tokens (R81 to R87) -/

/-- Extra bits and base of a match length code (Table 3-2). -/
def lengthCode (c : Nat) : Nat × Nat :=
  if c < 8 then (0, 3 + c)
  else if c < 28 then
    let e := c / 4 - 1
    (e, 3 + 2 ^ (e + 2) + 2 ^ e * (c % 4))
  else if c = 28 then (7, 259) else if c = 29 then (8, 387) else if c = 30 then (9, 643) else (12, 1155)

/-- Extra bits and base of a distance symbol (R83). -/
def distCode (d : Nat) : Nat × Nat :=
  if d < 4 then (0, d + 1) else let e := d / 2 - 1; (e, (2 + d % 2) * 2 ^ e + 1)

/-- An entry of the dictionary moves to the front (R86). -/
def moveToFront (dict : List (List Byte)) (i : Nat) : List (List Byte) := nth dict i [] :: dict.eraseIdx i

/-- Four literals in a row enter the dictionary (R86). -/
def insertQuad (dict : List (List Byte)) (quad : List Byte) : List (List Byte) :=
  match dict.findIdx? (· == quad) with
  | some i => moveToFront dict i
  | none => quad :: dict.eraseIdx 63

/-- The dictionary state of a tile: entries and the literals in a row (R85, R86). -/
structure DictState where
  dict : List (List Byte)
  litRun : Nat
  deriving DecidableEq, Repr

/-- The dictionary of a seed (R85). -/
def DictState.init (seed : List Byte) : DictState := ⟨groupsOf 4 64 seed, 0⟩

/-- After a literal (R86); `rout` is the output so far, last byte first. -/
def DictState.afterLit (d : DictState) (rout : List Byte) : DictState :=
  if (d.litRun + 1) % 4 = 0 then ⟨insertQuad d.dict (rout.take 4).reverse, d.litRun + 1⟩ else ⟨d.dict, d.litRun + 1⟩

/-- After a DICT token (R86). -/
def DictState.afterDict (d : DictState) (i : Nat) : DictState := ⟨moveToFront d.dict i, 0⟩

/-- After a MATCH token (R86). -/
def DictState.afterMatch (d : DictState) : DictState := ⟨d.dict, 0⟩

/-- A MATCH copies byte by byte (R84); the output is kept last byte first. -/
def copyMatch (dist : Nat) : Nat → List Byte → List Byte
  | 0, rout => rout
  | n + 1, rout => copyMatch dist n (nth rout (dist - 1) 0 :: rout)

/-- T from the bitmaps, or BITMAP_ERROR (R80). -/
def planeTotal (t map : Nat) (bitmaps : List Byte) : Except Nat Nat :=
  let bs := (List.range (popcount 64 map)).map fun i => unitNat bitmaps (bitmapBytes t) i
  if bs.any (fun b => b == 0 || decide (2 ^ unitsPerSector t ≤ b)) then .error 0x37
  else .ok (bitmaps.length + (bs.map fun b => popcount 64 b * unitSize t).sum)

/-- The decoder between two tokens: sub-streams, tokens read in each, output last byte first, its length. -/
structure DecSt where
  rds : List Rd
  count : List Nat
  d : DictState
  rout : List Byte
  n : Nat
  deriving DecidableEq, Repr

/-- What a tile's decoding takes from outside its payload. -/
structure DecEnv where
  t : Nat
  map : Nat
  ver : Nat
  tok : List (Nat × Nat × Nat)
  dist : List (Nat × Nat × Nat)
  bitmapLen : Nat
  deriving DecidableEq, Repr

/-- The fields of one token and what it appends (R101, R106). -/
def readToken (env : DecEnv) (st : DecSt) (r : Rd) : Except Nat (DictState × List Byte × Nat × Rd) :=
  match readSymbol 0x36 0x33 env.tok 12 0 0 r with
  | .error e => .error e
  | .ok (s, r1) =>
    if s < 256 then
      let rout := BitVec.ofNat 8 s :: st.rout
      .ok (st.d.afterLit rout, rout, st.n + 1, r1)
    else if s < 320 then
      .ok (st.d.afterDict (s - 256), (nth st.d.dict (s - 256) []).reverse ++ st.rout, st.n + 4, r1)
    else
      let lc := lengthCode (s - 320)
      match readBits 0x36 lc.1 r1 with
      | .error e => .error e
      | .ok (x, r2) =>
        if env.dist = [] then .error 0x33
        else
          match readSymbol 0x36 0x33 env.dist 12 0 0 r2 with
          | .error e => .error e
          | .ok (dsym, r3) =>
            let dc := distCode dsym
            match readBits 0x36 dc.1 r3 with
            | .error e => .error e
            | .ok (y, r4) =>
              let len := lc.2 + x
              let dist := dc.2 + y
              if st.n < dist then .error 0x34
              else .ok (st.d.afterMatch, copyMatch dist len st.rout, st.n + len, r4)

/-- Tokens until T bytes have been produced (R106). -/
def readTokens (env : DecEnv) : Nat → Nat → Option Nat → DecSt → Except Nat DecSt
  | 0, _, _, _ => .error 0x38
  | fuel + 1, j, total, st =>
    if (match total with | some t => decide (t ≤ st.n) | none => false) then .ok st
    else
      let k := j % st.rds.length
      let count := st.count.modify k (· + 1)
      if (if env.ver = 2 then 4096 else 1024) < nth count k 0 then .error 0x38
      else
        match readToken env st (nth st.rds k ⟨[], 0⟩) with
        | .error e => .error e
        | .ok (d, rout, n, r) =>
          let st' : DecSt := ⟨st.rds.set k r, count, d, rout, n⟩
          match (match total with
            | some t => Except.ok (some t)
            | none =>
              if env.bitmapLen ≤ n then (planeTotal env.t env.map (rout.reverse.take env.bitmapLen)).map some
              else Except.ok none) with
          | .error e => .error e
          | .ok total' =>
            if (match total' with | some t => decide (t < n) | none => false) then .error 0x35
            else readTokens env fuel (j + 1) total' st'

/-- The checks behind the last token of a sub-stream (R103, R106). -/
def endCheck (ver : Nat) : List Rd → Except Nat Unit
  | [] => .ok ()
  | r :: rs =>
    if 8192 < r.used ∧ ver ≠ 2 then .error 0x38
    else if r.rest.any id then .error 0x39
    else endCheck ver rs

/-- The sub-streams of a payload (R100, R102). -/
def subStreams (payload : List Byte) (h : Header) (ver len : Nat) : List Rd :=
  let cut (a b : Nat) : Rd := ⟨bitsOf (slice payload a (b - a)), 0⟩
  if ver = 2 then [cut 16 (64 * len)]
  else [cut 16 (4 * h.ss1), cut (4 * h.ss1) (4 * h.ss2), cut (4 * h.ss2) (4 * h.ss3), cut (4 * h.ss3) (64 * len)]

/-- The dense image of a CODED payload, or the first error (R106). -/
def decodeTile (seeds : List (Nat × List Byte)) (tables : List (Nat × List Nat)) (t stride ver len seed : Nat)
    (payload : List Byte) : Except Nat (List Byte) :=
  let h := parseHeader payload
  let rds := subStreams payload h ver len
  let ebOmit := ver == 2 || h.ebOmit
  match seeds.find? (fun p => p.1 == seed) with
  | none => .error 0x32
  | some (_, seedBytes) =>
    match (if h.tableMode = 1 then (readTable (nth rds 0 ⟨[], 0⟩)).map fun p => (p.1, rds.set 0 p.2)
      else match tables.find? (fun p => p.1 == h.tableId) with
        | some (_, l) => Except.ok (l, rds)
        | none => Except.error 0x31) with
    | .error e => .error e
    | .ok (lens, rds1) =>
      let env : DecEnv := ⟨t, h.map, ver, canonicalCodes (lens.take 352) 12, canonicalCodes (lens.drop 352) 12,
        if ebOmit then 0 else popcount 64 h.map * bitmapBytes t⟩
      let total := if ebOmit then some (64 * popcount 64 h.map) else none
      match readTokens env 4200 0 total
        ⟨rds1, List.replicate rds1.length 0, DictState.init seedBytes, [], 0⟩ with
      | .error e => .error e
      | .ok st =>
        match endCheck ver st.rds with
        | .error e => .error e
        | .ok _ => .ok (rebuildDense t stride h.map ebOmit st.rout.reverse)

/-- The outcome of reading a CODED tile: header checks (R76), decoding (R106), check value (R65), MAX_EXP (R418). -/
def checkCoded (seeds : List (Nat × List Byte)) (tables : List (Nat × List Nat)) (t stride : Nat) (e : BitVec 128)
    (payload : List Byte) : Dec :=
  let h := parseHeader payload
  let ver := entVer e + 2
  let hf := headerFail h t stride ver (entLen e)
  if hf ≠ 0 then .err 0x30 hf 0
  else
    match decodeTile seeds tables t stride ver (entLen e) (entSeed e) payload with
    | .error r => .err r 0 0
    | .ok img =>
      if crc64 img ≠ entCheck e then .err 0x3A 0 0
      else
        let m := maxExp t img
        if m ≠ h.maxExp then .err 0x30 7 (h.maxExp + 256 * m) else .ok img

/-- What the decoder of a CODED tile puts out when its payload decodes, whatever the checks that follow find. -/
def codedImage (seeds : List (Nat × List Byte)) (tables : List (Nat × List Nat)) (t stride : Nat) (e : BitVec 128) (payload : List Byte) :
    Option (List Byte) :=
  if headerFail (parseHeader payload) t stride (entVer e + 2) (entLen e) ≠ 0 then none
  else
    match decodeTile seeds tables t stride (entVer e + 2) (entLen e) (entSeed e) payload with
    | .error _ => none
    | .ok img => some img

/-- The outcome of reading a RAW tile: its bytes against the check value (R65). -/
def checkRaw (e : BitVec 128) (payload : List Byte) : Dec :=
  let img := slice payload 0 4096
  if crc64 img ≠ entCheck e then .err 0x3A 0 0 else .ok img

end Sys2Proof.Machine
end

