-- ==== Sys2Proof/Machine/Ops.lean ====
section
/-! DEFINITION. The named operations that every meaning shares: time, counters, error records, service requests, free
choices, and the lookups of queues, streams, jobs and Chart sections. -/

namespace Sys2Proof.Machine

/-! ### Lists -/

/-- Replaces the items of a list that satisfy a condition. -/
def updWhere {α : Type} (p : α → Bool) (f : α → α) (l : List α) : List α := l.map fun x => if p x then f x else x

/-- Replaces the first item of a list that satisfies a condition. -/
def updFirst {α : Type} (p : α → Bool) (f : α → α) : List α → List α
  | [] => []
  | x :: xs => if p x then f x :: xs else x :: updFirst p f xs

/-- Does an operation for every item of a list, in order. -/
def forAll {α σ : Type} (l : List α) (f : α → σ → σ) (s : σ) : σ := l.foldl (fun s x => f x s) s

/-- An operation when a condition holds. -/
def whenB {σ : Type} (b : Bool) (f : σ → σ) (s : σ) : σ := if b then f s else s

/-! ### Time, numbers and free choices -/

/-- TIME_IN as the command carries it (log 3). -/
def State.timed (s : State) (t : Time) : State := { s with time := t }

/-- The next free choice of the block (log 7). -/
def State.choice (s : State) : Nat := Config.choice s.freeCtr

/-- A free choice has been used. -/
def State.chosen (s : State) : State := { s with freeCtr := s.freeCtr + 1 }

/-- An item of a list chosen by the block, or none when the list is empty (log 7). -/
def pick {α : Type} (l : List α) (n : Nat) : Option α := l[n % l.length]?

/-- A job number has been given out (log 8). -/
def State.numbered (s : State) : State := { s with nextId := s.nextId + 1 }

/-- n free choices have been used. -/
def State.choseN (n : Nat) (s : State) : State := { s with freeCtr := s.freeCtr + n }

/-! ### The die ring -/

/-- A message goes out on DR_TX; a cluster that is alone on its die sends nothing (16_integration R562). -/
def State.sendRing (m : RingMsg) (s : State) : State := if s.params.drCount = 0 then s else { s with ring := s.ring ++ [m] }

/-! ### Counters (15_register_map Table 15-9) -/

/-- The counters of the counter page, in offset order. -/
inductive Ctr where
  | ctxFetch | ctxWait | harbourSpill | dirCacheMiss | readRestart | starveGrant | quantDirected | quantNonfinite
  | quantGroups | structDemote | predOff | predMiss | mergeWalked | mergeMatched | verifyDone | verifySkip
  | rawStore | allocWait | spaceStops | intakeErr | accReanchor | accExtended | intSat | scaleReject
  | drainOvf | dropIndex | atollHit | atollNew | atollSpill | atollReanchor | collTxChunks | collRxChunks
  | collResend | collEarly | linkCrcErr | sigSkip | memPoison | holdQfull | allocSkew | causewayTiles
  | tileLost | evBad | sramCe | sramUe | busParity | quantCheck | dupMismatch | plausFlag
  | tideFlag | verifySettle | scrubFail | recDrop | testRefused
  deriving DecidableEq, Repr

/-- Position of a counter in the counter page. -/
def Ctr.index (c : Ctr) : Nat := c.ctorIdx

/-- n increments of a counter, modulo 2^64 (R549). -/
def State.bumpN (c : Ctr) (n : Nat) (s : State) : State :=
  { s with counters := s.counters.modify c.index (· + BitVec.ofNat 64 n) }

/-- One increment of a counter (R549). -/
def State.bump (c : Ctr) (s : State) : State := s.bumpN c 1

/-- The value of a counter. -/
def State.counter (s : State) (c : Ctr) : Dword := s.counters.getD c.index 0

/-! ### The applied Chart -/

/-- A value of the applied Chart, or the default of 12_chart R456. -/
def State.chartVal {α : Type} (s : State) (f : Chart → α) (d : α) : α :=
  match s.chart.applied with
  | some c => f c
  | none => d

/-- SVC_INTERVAL_S in nanoseconds (11_integrity R449). -/
def State.svcInterval (s : State) : Nat := s.chartVal Chart.svcInterval 60 * 1000000000

/-- The interval of a repeat timer that was started at a time: it completes an interval that an UPDATE has replaced (12_chart R485). -/
def State.svcAfter (s : State) (start : Time) : Nat :=
  match s.chart.svcPast.find? fun x => decide (start < x.1) with
  | some x => x.2
  | none => s.svcInterval

/-- CE_LIMIT (11_integrity R448). -/
def State.ceLimit (s : State) : Nat := s.chartVal Chart.ceLimit 1024

/-- CE_WINDOW_S in nanoseconds (11_integrity R448). -/
def State.ceWindow (s : State) : Nat := s.chartVal Chart.ceWindow 3600 * 1000000000

/-- FAULT_WINDOW_S in nanoseconds (11_integrity R430). -/
def State.faultWindow (s : State) : Nat := s.chartVal Chart.faultWindow 3600 * 1000000000

/-! ### Error records (11_integrity R436 to R444) -/

/-- What a rule gives the record that it sends; the fields that no rule mentions keep their values of Table 11-6. -/
structure Note where
  reason : Nat
  sev : Sev
  unit : UnitId := .cluster
  unitIndex : Nat := 0
  rep : Bool := false
  handle : Word := 0
  seq : Word := 0
  addr : Nat := 0
  tile : Word := 0xFFFFFFFF
  detailA : Nat := 0
  detailB : Nat := 0
  group : Word := 0
  step : Word := 0
  deriving DecidableEq, Repr

/-- The record of a note, as it is formed now (R436, R437). -/
def State.formRec (s : State) (n : Note) : Rec :=
  { reason := n.reason, sev := n.sev, rep := n.rep, loss := false, unit := n.unit, unitIndex := n.unitIndex,
    recSeq := s.err.head, fleet := s.chartVal Chart.fleet 0, rank := s.chartVal Chart.rank 0,
    die := s.chartVal Chart.die 0, cluster := s.chartVal Chart.cluster 0, timestamp := s.time, handle := n.handle,
    seq := n.seq, addr := n.addr, tile := n.tile, detailA := BitVec.ofNat 32 n.detailA,
    detailB := BitVec.ofNat 32 n.detailB, group := n.group, step := n.step }

/-- A count that stops at 255 (Table 11-11). -/
def sat255 (n : Nat) : Nat := min n 255

/-- Removes the newest CORRECTED record of the management queue; none when there is no such record (R444 case 2). -/
def dropNewestCorrected (q : List Rec) : Option (List Rec) :=
  match q.reverse.findIdx? (fun r => decide (r.sev = .corrected)) with
  | some i => some ((q.reverse.eraseIdx i).reverse)
  | none => none

/-- True when the next record overwrites an unacknowledged one (R441). -/
def ErrState.overwrites (e : ErrState) : Bool := decide (64 ≤ e.log.length) && decide (64 ≤ (e.head - e.ack).toNat)

/-- The log after a record: the last 64 records (R441). -/
def ErrState.logged (log : List Rec) (r : Rec) : List Rec :=
  if log.length < 64 then log ++ [r] else log.drop 1 ++ [r]

/-- One record enters the log and the management queue (R441, R444), and sets the interrupt bits of its severity (R447). -/
def ErrState.place (e : ErrState) (r0 : Rec) : ErrState × Bool :=
  let hit := e.overwrites
  let mark := e.loss || hit
  let base := { e with
    head := e.head + 1
    logLost := if hit then sat255 (e.logLost + 1) else e.logLost
    irqError := e.irqError || decide (r0.sev = Sev.contained ∨ r0.sev = Sev.uncontained)
    irqService := e.irqService || decide (r0.sev = Sev.service) }
  if e.mgq.length < 32 then
    let r := { r0 with loss := mark }
    ({ base with log := ErrState.logged e.log r, mgq := e.mgq ++ [r], loss := false }, false)
  else if r0.sev = .corrected then
    let r := { r0 with loss := mark }
    ({ base with log := ErrState.logged e.log r, mgDrop := sat255 (e.mgDrop + 1), loss := true }, true)
  else
    match dropNewestCorrected e.mgq with
    | some q =>
      let r := { r0 with loss := true }
      ({ base with log := ErrState.logged e.log r, mgq := q ++ [r], mgDrop := sat255 (e.mgDrop + 1), loss := false },
        true)
    | none =>
      let r := { r0 with loss := mark }
      ({ base with log := ErrState.logged e.log r, mgDrop := sat255 (e.mgDrop + 1), loss := true }, true)

/-- The block sends an error record: it is formed, numbered, logged and queued (R436). -/
def State.report (n : Note) (s : State) : State :=
  let p := s.err.place (s.formRec n)
  let s' := { s with err := p.1 }
  if p.2 then s'.bump .recDrop else s'

/-! ### DEGRADED and the service request (11_integrity R448, R449) -/

/-- Causes of DEGRADED. -/
inductive Cause where
  | core | channel | ce | sram
  deriving DecidableEq, Repr

/-- DETAIL_A of a DEGRADED record: the cause bits. -/
def ErrState.causeBits (e : ErrState) : Nat :=
  b2n e.byCore + 2 * b2n e.byChannel + 4 * b2n e.byCe + 8 * b2n e.bySram

/-- A cause bit is set in DJ_HEALTH. -/
def ErrState.withCause (e : ErrState) (c : Cause) : ErrState :=
  match c with
  | .core => { e with byCore := true }
  | .channel => { e with byChannel := true }
  | .ce => { e with byCe := true }
  | .sram => { e with bySram := true }

/-- The DEGRADED record of the open request; `first` is the REC_SEQ of the request's first record. -/
def State.sendDegraded (first : Word) (again : Bool) (s : State) : State :=
  let me := s.err.head
  let s' := s.report
    { reason := 0x11, sev := .service, rep := again, detailA := s.err.causeBits, detailB := first.toNat }
  { s' with err := { s'.err with svcOpen := true, svcRecs := s'.err.svcRecs ++ [me], svcNext := s.time + s.svcInterval } }

/-- The cluster becomes DEGRADED by a cause, which opens a service request or joins the open one. -/
def State.degrade (c : Cause) (s : State) : State :=
  let s' := { s with err := s.err.withCause c }
  if s'.err.svcOpen then s'
  else { s' with err := { s'.err with svcRecs := [] } }.sendDegraded s'.err.head false

/-- One corrected error counts towards CE_LIMIT, which a CE window reaches once (R448); a limit that an UPDATE has lowered is compared at
the next correction (12_chart R485). -/
def State.countCe (s : State) : State :=
  let n := s.err.ceCount + 1
  let hit := decide (s.ceLimit ≤ n) && !s.err.ceHit
  let s' := { s with err := { s.err with ceCount := n, ceHit := s.err.ceHit || hit } }
  if hit then s'.degrade .ce else s'

/-- A limited record of corrected events: at most one per source and millisecond, with the number of events it covers
(R415, R417). `sent` lists the source, the time of its last record and the events not yet reported. -/
def limited (sent : List (Nat × Time × Nat)) (src : Nat) (now : Time) : List (Nat × Time × Nat) × Option Nat :=
  match sent.find? (fun x => x.1 == src) with
  | none => ((src, now, 0) :: sent, some 1)
  | some (_, last, open_) =>
    if last + 1000000 ≤ now then (updWhere (fun x => x.1 == src) (fun _ => (src, now, 0)) sent, some (open_ + 1))
    else (updWhere (fun x => x.1 == src) (fun _ => (src, last, open_ + 1)) sent, none)

/-- A word of SRAM array `arr` is corrected on read and written back (R414, R415). -/
def State.sramCe (u : UnitId) (ui arr : Nat) (s : State) : State :=
  let p := limited s.err.ceSent arr s.time
  let s1 := { s.bump .sramCe with err := { s.err with ceSent := p.1 } }
  let s2 := match p.2 with
    | some n => s1.report { reason := 0x01, sev := .corrected, unit := u, unitIndex := ui, detailA := n, detailB := arr }
    | none => s1
  s2.countCe

/-- A parity error on an internal path (R417). -/
def State.busParity (u : UnitId) (ui path : Nat) (s : State) : State :=
  let p := limited s.err.busSent path s.time
  let s1 := { s.bump .busParity with err := { s.err with busSent := p.1 } }
  let s2 := match p.2 with
    | some n => s1.report { reason := 0x03, sev := .corrected, unit := u, unitIndex := ui, detailA := n, detailB := path }
    | none => s1
  s2.countCe

/-! ### Lookups -/

/-- A queue. -/
def State.queue (s : State) (q : Fin 64) : Queue := s.queues[q]

/-- A queue is replaced. -/
def State.setQueue (s : State) (q : Fin 64) (x : Queue) : State := { s with queues := s.queues.set q x }

/-- A stream that is not OFF. -/
def State.stream? (s : State) (n : Nat) : Option Stream := s.streams.find? (fun x => x.num == n)

/-- The stream of a number is changed. -/
def State.updStream (n : Nat) (f : Stream → Stream) (s : State) : State :=
  { s with streams := updFirst (fun x => x.num == n) f s.streams }

/-- A stream enters the list, which stays ascending by number. -/
def insertStream (x : Stream) : List Stream → List Stream
  | [] => [x]
  | y :: ys => if x.num < y.num then x :: y :: ys else y :: insertStream x ys

/-- The stream of a number leaves the list: it is OFF. -/
def State.dropStream (n : Nat) (s : State) : State := { s with streams := s.streams.filter (fun x => x.num != n) }

/-- True for the run that work of a SEQ belongs to; a descriptor that did not carry the expected SEQ moves no data (05_streams_and_order
R164). -/
def Run.named (seq : Word) (r : Run) : Bool := r.inSeq && BitVec.extractLsb' 64 32 r.desc == seq

/-- The run of a stream with a SEQ is changed. -/
def State.updRun (n : Nat) (seq : Word) (f : Run → Run) (s : State) : State :=
  s.updStream n fun x => { x with runs := updFirst (Run.named seq) f x.runs }

/-- A read job. -/
def State.rjob? (s : State) (id : Nat) : Option RJob := s.rjobs.find? (fun j => j.id == id)

/-- A read job is changed. -/
def State.updR (id : Nat) (f : RJob → RJob) (s : State) : State :=
  { s with rjobs := updFirst (fun j => j.id == id) f s.rjobs }

/-- A read job has ended. -/
def State.dropR (id : Nat) (s : State) : State := { s with rjobs := s.rjobs.filter (fun j => j.id != id) }

/-- A write job. -/
def State.wjob? (s : State) (id : Nat) : Option WJob := s.wjobs.find? (fun j => j.id == id)

/-- A write job is changed. -/
def State.updW (id : Nat) (f : WJob → WJob) (s : State) : State :=
  { s with wjobs := updFirst (fun j => j.id == id) f s.wjobs }

/-- A write job has ended. -/
def State.dropW (id : Nat) (s : State) : State := { s with wjobs := s.wjobs.filter (fun j => j.id != id) }

/-- An accumulator tile. -/
def State.acc? (s : State) (id : Nat) : Option AccTile := s.accs.find? (fun a => a.id == id)

/-- An accumulator tile is changed. -/
def State.updA (id : Nat) (f : AccTile → AccTile) (s : State) : State :=
  { s with accs := updFirst (fun a => a.id == id) f s.accs }

/-- A core. -/
def State.core (s : State) (c : Fin 16) : Core := s.cores[c]

/-- A core is changed. -/
def State.updCore (c : Fin 16) (f : Core → Core) (s : State) : State := { s with cores := s.cores.set c (f s.cores[c]) }

/-! ### Counters of a core page (15_register_map Table 15-12) -/

/-- n tiles decoded by the core's engines. -/
def State.decodedOn (c : Fin 16) (n : Nat) (s : State) : State := s.updCore c fun k => { k with decN := k.decN + n }
/-- n tiles coded by the core's engines. -/
def State.codedOn (c : Fin 16) (n : Nat) (s : State) : State := s.updCore c fun k => { k with encN := k.encN + n }
/-- n tiles decoded by the core's checker decoder. -/
def State.checkedOn (c : Fin 16) (n : Nat) (s : State) : State := s.updCore c fun k => { k with chkN := k.chkN + n }
/-- n tiles in flight on the core are executed again. -/
def State.replayedFrom (c : Fin 16) (n : Nat) (s : State) : State := s.updCore c fun k => { k with replayN := k.replayN + n }
/-- A word is corrected in the core's stores. -/
def State.correctedIn (c : Fin 16) (s : State) : State := s.updCore c fun k => { k with ceN := k.ceN + 1 }

end Sys2Proof.Machine
end

