-- ==== Sys2Proof/Machine/Operands.lean ====
section
/-! DEFINITION. The operands of the block: memory images, tensor records (02_tile_container Tables 2-3, 2-4), descriptors
(05_streams_and_order Tables 5-10 to 5-22) and the parameters of the delivered hardening (01_five_levels Table 1-9). -/

namespace Sys2Proof.Machine

/-! ### What the memory ports return -/

/-- One byte of an image; an address that is not listed reads as zero. -/
def imgByte (img : Image) (a : Nat) : Byte :=
  match img.cells.find? (fun c => c.1 == a) with
  | some c => c.2
  | none => 0

/-- n bytes of an image from an address. -/
def imgRead (img : Image) (a n : Nat) : List Byte := (List.range n).map fun i => imgByte img (a + i)

/-- True when a sector that holds one of n bytes from an address arrives with poison. -/
def imgPoison (img : Image) (a n : Nat) : Bool := img.poison.any fun p => decide (p / 64 * 64 < a + n) && decide (a < p / 64 * 64 + 64)

/-- n bytes as a number. -/
def imgNat (img : Image) (a n : Nat) : Nat := leNat (imgRead img a n)

/-- Poisoned sectors among n sectors from the sector of an address. -/
def poisonedSectors (img : Image) (addr n : Nat) : Nat :=
  ((img.poison.map (· / 64)).eraseDups.filter fun p => decide (addr / 64 ≤ p) && decide (p < addr / 64 + n)).length

/-- Poisoned sectors that a read of n bytes at an address meets (10_memory_channels R379). -/
def spanPoison (img : Image) (a n : Nat) : Nat := poisonedSectors img a ((a % 64 + n + 63) / 64)

/-! ### The hardening -/

/-- Ports of a kind in a hardening (Table 1-9). -/
def portCount (hardening : Nat) (k : PortKind) : Nat :=
  match k with
  | .memory => if hardening = 2 then 4 else 8
  | .delivery => if hardening = 0 then 8 else 0
  | .intake => if hardening = 0 then 4 else 2
  | .link => if hardening = 2 then 2 else 0

/-- DJ_CAPS (00_scope Table 0-2). -/
def capsWord (p : Params) : Word :=
  BitVec.ofNat 32 (pack [(8, 0x1C), (8, 0x18), (2, 3), (2, 3), (2, p.hardening), (5, p.cores), (5, 0)])

/-- DJ_ID (00_scope Table 0-1). -/
def idWord : Word := 0x7E1A4201

/-- Harbour bytes of a hardening (Table 1-9). -/
def harbourBytes (hardening : Nat) : Nat := if hardening = 0 then 4194304 else if hardening = 1 then 2097152 else 6291456

/-! ### Tensor records (Table 2-3) -/

/-- Bits of a tensor record. -/
def rF (r : BitVec 1024) (hi lo : Nat) : Nat := bits r.toNat hi lo

/-- ELEM_TYPE. -/
def recType (r : BitVec 1024) : Nat := rF r 3 0
/-- TILE_ORDER. -/
def recOrder (r : BitVec 1024) : Nat := rF r 5 4
/-- RANK_M1. -/
def recRankM1 (r : BitVec 1024) : Nat := rF r 7 6
/-- POOL. -/
def recPool (r : BitVec 1024) : Nat := rF r 15 8
/-- HOME_DIE. -/
def recHomeDie (r : BitVec 1024) : Nat := rF r 21 16
/-- HOME_CLUSTER. -/
def recHomeCluster (r : BitVec 1024) : Nat := rF r 24 22
/-- CONT_VER. -/
def recVer (r : BitVec 1024) : Nat := rF r 26 25
/-- FOLD_NZ. -/
def recFold (r : BitVec 1024) : Bool := rF r 27 27 == 1
/-- OPAQUE_STRIDE. -/
def recStride (r : BitVec 1024) : Nat := rF r 29 28
/-- DIR_BASE. -/
def recDir (r : BitVec 1024) : Nat := rF r 127 64
/-- TILE_COUNT. -/
def recTiles (r : BitVec 1024) : Nat := rF r 159 128
/-- DIM0 to DIM3. -/
def recDim (r : BitVec 1024) (i : Nat) : Nat := rF r (191 + 32 * i) (160 + 32 * i)
/-- TR. -/
def recTr (r : BitVec 1024) : Nat := rF r 303 288
/-- TC. -/
def recTc (r : BitVec 1024) : Nat := rF r 319 304
/-- FID_CLASS. -/
def recClass (r : BitVec 1024) : Nat := rF r 323 320
/-- LEVEL. -/
def recLevel (r : BitVec 1024) : Nat := rF r 326 324
/-- VERIFY. -/
def recVerify (r : BitVec 1024) : Nat := rF r 328 327
/-- SAMPLE_SHIFT. -/
def recShift (r : BitVec 1024) : Nat := rF r 332 329
/-- SEED_ID. -/
def recSeed (r : BitVec 1024) : Nat := rF r 340 333
/-- STATIC_TABLE. -/
def recTable (r : BitVec 1024) : Nat := rF r 346 341
/-- TABLE_POLICY. -/
def recPolicy (r : BitVec 1024) : Nat := rF r 348 347
/-- ENV_MIN_EXP. -/
def recEnvMin (r : BitVec 1024) : Nat := rF r 359 352
/-- ENV_MAX_EXP. -/
def recEnvMax (r : BitVec 1024) : Nat := rF r 367 360
/-- TIDE_WIDTH. -/
def recTide (r : BitVec 1024) : Nat := rF r 375 368
/-- RESIDUAL_REC. -/
def recResidual (r : BitVec 1024) : Nat := rF r 447 384
/-- LAYER_KEY. -/
def recLayerKey (r : BitVec 1024) : Word := BitVec.ofNat 32 (rF r 479 448)

/-- Element count of a tile of the record's type. -/
def recN (r : BitVec 1024) : Nat := elemsPerTile (recType r)

/-- TILE_COUNT as the tile order computes it (R45, R46). -/
def tileCountOf (r : BitVec 1024) : Nat :=
  if recOrder r = 1 then
    recDim r 3 * recDim r 2 * ceilDiv (recDim r 1) (recTr r) * ceilDiv (recDim r 0) (recTc r)
  else ceilDiv (recDim r 0 * recDim r 1 * recDim r 2 * recDim r 3) (recN r)

/-- True when n is a power of two. -/
def isPow2 (n : Nat) : Bool := n != 0 && n == 2 ^ n.log2

/-- The checks of Table 2-4: true when one fails. `pools` are the pools that the applied Chart declares. -/
def recordBad (pools : List Nat) (r : BitVec 1024) : Bool :=
  let t := recType r
  let v := recVer r + 2
  t == 15 || decide (2 ≤ recOrder r) || recVer r == 0 || recVer r == 3 || decide (7 < recClass r) || recVerify r == 3 ||
    recPolicy r == 3 || rF r 63 30 != 0 || rF r 351 349 != 0 || rF r 383 376 != 0 || rF r 511 480 != 0 ||
    rF r 1023 576 != 0 ||
    decide (v < oldestVersion t) ||
    (recVer r == 1 && decide (4 < recClass r)) ||
    (recClass r != 0 && (t == 5 || t == 6 || t == 12 || t == 13 || t == 14)) ||
    (recOrder r == 1 && (recRankM1 r == 0 || recTr r * recTc r != recN r || !isPow2 (recTr r) || !isPow2 (recTc r) ||
      isMx t || t == 13 || t == 14)) ||
    recTiles r != tileCountOf r ||
    recDir r % 64 != 0 ||
    !pools.contains (recPool r)

/-- The checks of Table 4-5 for a record and its residual record: true when one fails (04_bounded_loss R140). -/
def carryBad (pools : List Nat) (r res : BitVec 1024) : Bool :=
  let t := recType r
  !(t == 0 || t == 1 || t == 2 || t == 3 || t == 4) || recClass r == 0 || recordBad pools res || recType res != 1 ||
    recClass res != 0 || recOrder res != 0 || recDim res 1 != 1 || recDim res 2 != 1 || recDim res 3 != 1 ||
    recDim res 0 != 2048 * recTiles res || recTiles res != (if t = 3 ∨ t = 4 then 2 else 1) * recTiles r ||
    recHomeDie res != recHomeDie r || recHomeCluster res != recHomeCluster r || recResidual res != 0 ||
    recResidual r % 128 != 0

/-- Address of a tile's directory entry (R48). -/
def entryAddr (r : BitVec 1024) (tile : Nat) : Nat := recDir r + 16 * tile

/-- Byte address of the presence-map word of a tile (R48, R56). -/
def presenceAddr (r : BitVec 1024) (tile : Nat) : Nat := ceilDiv (recDir r + 16 * recTiles r) 64 * 64 + tile / 64 * 8

/-- First sector of the presence map that holds a tile's bit. -/
def presenceSector (r : BitVec 1024) (tile : Nat) : Nat := presenceAddr r tile / 64 * 64

/-! ### Descriptors (Tables 5-10 to 5-21) -/

/-- Bits of a descriptor. -/
def dF (d : BitVec 512) (hi lo : Nat) : Nat := bits d.toNat hi lo

/-- KIND. -/
def dKind (d : BitVec 512) : Nat := dF d 7 0
/-- IRQ. -/
def dIrq (d : BitVec 512) : Bool := dF d 8 8 == 1
/-- HANDLE. -/
def dHandle (d : BitVec 512) : Word := BitVec.extractLsb' 32 32 d
/-- Stream number of the handle (01_five_levels Table 1-8). -/
def dStream (d : BitVec 512) : Nat := dF d 47 32
/-- SEQ. -/
def dSeq (d : BitVec 512) : Word := BitVec.extractLsb' 64 32 d
/-- DEADLINE. -/
def dDeadline (d : BitVec 512) : Nat := dF d 191 128
/-- TENSOR. -/
def dTensor (d : BitVec 512) : Nat := dF d 319 256
/-- FIRST_TILE, STOPPED_SEQ, SEG_LIMIT or FIRST_CHUNK. -/
def dFirst (d : BitVec 512) : Nat := dF d 351 320
/-- TILE_COUNT or UPDATE_COUNT. -/
def dCount (d : BitVec 512) : Nat := dF d 383 352
/-- DPORT of an EXPAND. -/
def dDport (d : BitVec 512) : Nat := dF d 386 384
/-- FORM of an EXPAND. -/
def dForm (d : BitVec 512) : Nat := dF d 389 387
/-- WIDEN_TO of an EXPAND. -/
def dWiden (d : BitVec 512) : Nat := dF d 393 390
/-- SOURCE of a COMPRESS or RESUME. -/
def dSource (d : BitVec 512) : Nat := dF d 386 384
/-- SRC_ADDR. -/
def dSrcAddr (d : BitVec 512) : Nat := dF d 511 448
/-- DEST_LIMIT of an EXPORT. -/
def dDestLimit (d : BitVec 512) : Nat := dF d 447 384
/-- SRC_LIST of a REDUCE. -/
def dSrcList (d : BitVec 512) : Nat := dF d 447 384
/-- SRC_COUNT of a REDUCE. -/
def dSrcCount (d : BitVec 512) : Nat := dF d 463 448
/-- PRELOAD of a REDUCE. -/
def dPreload (d : BitVec 512) : Nat := dF d 465 464
/-- INDEX_ADDR of a SCATTER_ACC. -/
def dIndexAddr (d : BitVec 512) : Nat := dF d 447 384
/-- UPDATE_REC of a SCATTER_ACC. -/
def dUpdateRec (d : BitVec 512) : Nat := dF d 511 448
/-- GROUP_COUNT of a MERGE. -/
def dGroups (d : BitVec 512) : Nat := dF d 367 352
/-- DPORT of a MERGE. -/
def dMergePort (d : BitVec 512) : Nat := dF d 370 368
/-- MG of a MERGE. -/
def dMg (d : BitVec 512) : Nat := dF d 372 371
/-- W_TENSOR of a MERGE. -/
def dWTensor (d : BitVec 512) : Nat := dF d 447 384
/-- W_FIRST_TILE of a MERGE. -/
def dWFirst (d : BitVec 512) : Nat := dF d 479 448
/-- CHUNK_COUNT of a collective. -/
def dChunks (d : BitVec 512) : Nat := dF d 367 352
/-- PEER. -/
def dPeer (d : BitVec 512) : Nat := dF d 379 368
/-- LPORT. -/
def dLport (d : BitVec 512) : Nat := dF d 380 380
/-- TRANSPORT is NARROW. -/
def dNarrow (d : BitVec 512) : Bool := dF d 381 381 == 1
/-- ACCUMULATE. -/
def dAccum (d : BitVec 512) : Bool := dF d 382 382 == 1
/-- FORWARD. -/
def dForward (d : BitVec 512) : Bool := dF d 383 383 == 1
/-- GROUP. -/
def dGroup (d : BitVec 512) : Word := BitVec.ofNat 32 (dF d 415 384)
/-- STEP. -/
def dStep (d : BitVec 512) : Word := BitVec.ofNat 32 (dF d 447 416)
/-- SLACK_NS. -/
def dSlack (d : BitVec 512) : Nat := dF d 479 448
/-- MODE of a FENCE is BARRIER. -/
def dBarrier (d : BitVec 512) : Bool := dF d 256 256 == 1
/-- BGROUP. -/
def dBgroup (d : BitVec 512) : Nat := dF d 271 264
/-- BCOUNT. -/
def dBcount (d : BitVec 512) : Nat := dF d 287 272
/-- BEPOCH. -/
def dBepoch (d : BitVec 512) : Word := BitVec.ofNat 32 (dF d 319 288)
/-- The three handles and numbers of a FENCE in STREAMS mode. -/
def dFenceList (d : BitVec 512) : List (Word × Word) :=
  [(BitVec.extractLsb' 320 32 d, BitVec.extractLsb' 352 32 d), (BitVec.extractLsb' 384 32 d, BitVec.extractLsb' 416 32 d),
    (BitVec.extractLsb' 448 32 d, BitVec.extractLsb' 480 32 d)]
/-- ARG_A. -/
def dArgA (d : BitVec 512) : Nat := dF d 447 384
/-- ARG_B. -/
def dArgB (d : BitVec 512) : Nat := dF d 511 448
/-- CORE of a WIPE or TEST. -/
def dCore (d : BitVec 512) : Nat := dF d 327 320
/-- TARGET of a LIFECYCLE. -/
def dTarget (d : BitVec 512) : Nat := dF d 322 320
/-- OP of a TEST. -/
def dOp (d : BitVec 512) : Nat := dF d 391 384
/-- SCOPE of a WIPE. -/
def dScope (d : BitVec 512) : Nat := dF d 385 384
/-- REWRITE of a SCRUB. -/
def dRewrite (d : BitVec 512) : Bool := dF d 384 384 == 1

/-- True when the kind code is listed in Table 5-11. -/
def kindListed (k : Nat) : Bool :=
  k == 1 || k == 2 || k == 3 || k == 4 || k == 0x10 || k == 0x11 || k == 0x12 || k == 0x20 || k == 0x21 || k == 0x30 ||
    k == 0x31 || k == 0x40 || k == 0x41 || k == 0x42 || k == 0x43

/-- True when D3 carries the kind (Table 5-11). -/
def kindInD3 (k : Nat) : Bool := k == 1 || k == 2 || k == 3 || k == 0x31

/-- The handle of a stream of this cluster (01_five_levels R30). -/
def handleOf (die cluster stream : Nat) : Word := BitVec.ofNat 32 (pack [(16, stream), (7, 0), (3, cluster), (6, die)])

/-- A D3 descriptor as the D4 descriptor with the same field values (R175). Reserved bits are carried to reserved bits, so
that step 5 finds them. A RESUME keeps the bits of its TILE_COUNT, which is RSV. DEDUCED: a kind for which Table 5-21 gives PORT, FORM or
WIDEN_TO no meaning has these fields zero, as every field that it does not carry (log 82). -/
def fromD3 (die cluster : Nat) (x : BitVec 256) : BitVec 512 :=
  let f (hi lo : Nat) : Nat := bits x.toNat hi lo
  BitVec.ofNat 512 (pack [(8, f 7 0), (1, f 8 8), (7, f 15 9), (16, 0), (32, (handleOf die cluster (f 31 16)).toNat),
    (32, f 63 32), (160, 0), (64, f 127 64), (32, f 159 128), (32, f 191 160), (3, if f 7 0 < 4 then f 194 192 else 0),
    (3, if f 7 0 = 1 then f 197 195 else 0), (4, if f 7 0 = 1 then f 201 198 else 0), (54, f 255 202)])

/-- True when a reserved bit or a field of a body breaks its range (R173), by kind. `d3` says that the queue's format
is D3 (R175). -/
def bodyBad (d3 : Bool) (d : BitVec 512) : Bool :=
  let k := dKind d
  let aligned := dTensor d % 128 == 0
  if dF d 31 9 ≠ 0 ∨ dF d 127 96 ≠ 0 ∨ dF d 255 192 ≠ 0 then true
  else if k = 1 then
    !aligned || dCount d == 0 || decide (5 ≤ dForm d) || dF d 511 394 != 0 || (d3 && decide (2 ≤ dForm d))
  else if k = 2 then !aligned || dCount d == 0 || decide (5 ≤ dSource d) || dF d 447 387 != 0 || (d3 && dSource d == 4)
  else if k = 3 then !aligned || dCount d != 0 || decide (5 ≤ dSource d) || dF d 447 387 != 0 || (d3 && dSource d == 4)
  else if k = 4 then !aligned || dCount d == 0 || dSrcAddr d % 64 != 0
  else if k = 0x10 then
    !aligned || dCount d == 0 || dSrcList d % 64 != 0 || dSrcCount d == 0 || dPreload d == 3 || dF d 511 466 != 0
  else if k = 0x11 then !aligned || dCount d == 0 || dIndexAddr d % 64 != 0 || dUpdateRec d % 128 != 0
  else if k = 0x12 then
    !aligned || dGroups d == 0 || dF d 383 373 != 0 || dWTensor d % 128 != 0 || dF d 511 480 != 0
  else if k = 0x20 ∨ k = 0x21 then !aligned || dChunks d == 0 || dF d 511 480 != 0
  else if k = 0x30 then !aligned || dCount d == 0 || dArgA d % 128 != 0 || dArgB d != 0
  else if k = 0x31 then !aligned || dCount d == 0 || dF d 447 385 != 0 || dArgB d != 0
  else if k = 0x40 then
    dF d 263 257 != 0 ||
      (if dBarrier d then dF d 511 320 != 0 || decide (dBcount d < 2) || decide (16384 < dBcount d)
       else dF d 319 264 != 0)
  else if k = 0x41 then
    dTensor d != 0 || dF d 351 328 != 0 || dCount d != 0 || dF d 447 386 != 0 || dScope d == 3 || dArgB d != 0
  else if k = 0x42 then dTensor d != 0 || dF d 351 328 != 0 || dCount d != 0 || dF d 447 392 != 0 || decide (3 < dOp d)
  else dTensor d != 0 || dF d 351 323 != 0 || dCount d != 0 || dArgA d != 0 || dArgB d != 0

/-- Classes of Table 5-26; `urgent` says that the effective deadline lies within the stream's window. -/
def kindClass (k : Nat) (urgent : Bool) : Nat :=
  if k = 1 ∨ k = 0x12 then if urgent then 2 else 4
  else if k = 0x10 ∨ k = 0x11 ∨ k = 0x20 ∨ k = 0x21 then 3
  else if k = 2 ∨ k = 3 ∨ k = 4 then 5
  else 6

/-- Pools of the applied Chart. -/
def State.poolIds (s : State) : List Nat := s.chartVal (fun c => c.pools.map Pool.id) []

/-- A pool of the applied Chart. -/
def State.pool? (s : State) (id : Nat) : Option Pool := (s.chartVal Chart.pools []).find? (fun p => p.id == id)

/-- The die and cluster of this cluster. -/
def State.die (s : State) : Nat := s.chartVal Chart.die 0
/-- The cluster's own number on its die. -/
def State.clusterNo (s : State) : Nat := s.chartVal Chart.cluster 0

/-- Roles of a core: bit 0 EXPAND, 1 COMPRESS, 2 REDUCE, 3 MERGE (01_five_levels R16). -/
def State.roles (s : State) (c : Fin 16) : Nat := s.chartVal (fun x => bits x.roles.toNat (4 * c.val + 3) (4 * c.val)) 0

/-- True when a core is active in the applied Chart. -/
def State.active (s : State) (c : Fin 16) : Bool := s.chartVal (fun x => x.active.toNat.testBit c.val) false

/-- True when a pool belongs to the far tier. -/
def State.poolFar (s : State) (id : Nat) : Bool := ((s.pool? id).map Pool.far).getD false

end Sys2Proof.Machine
end

