-- ==== Sys2Proof/Machine/ChartBits.lean ====
section
/-! DEFINITION. The Chart configuration bit-stream and its validation (12_chart R450 to R470, R477; Tables 12-1 to 12-13, 12-16). Where
several fields of one step are wrong, sections are taken in order, in each its reserved bits and then its fields in ascending order
(log 30). -/

namespace Sys2Proof.Machine

/-! ### Failures (R477, R478) -/

/-- A failed check: reason, step of Table 12-16, offset, section tag. -/
structure ChartFail where
  reason : Nat
  step : Nat
  off : Nat
  tag : Nat
  deriving DecidableEq, Repr

/-- The outcome of a check. -/
abbrev Checked (α : Type) := Except ChartFail α

/-- A check: it fails with a given failure unless a condition holds. -/
def need (ok : Bool) (f : ChartFail) : Checked Unit := if ok then .ok () else .error f

/-- A failure of step 8 at an offset of a section (SECTION_CONTENT). -/
def content (tag off : Nat) : ChartFail := ⟨0x77, 8, off, tag⟩

/-- A failure of step 9 (STRUCT_CAPS). -/
def caps (tag off : Nat) : ChartFail := ⟨0x78, 9, off, tag⟩

/-- The byte offset of the first reserved field with a set bit; `rsv` lists the reserved fields as (high, low), ascending. -/
def rsvByte (x : Nat) (rsv : List (Nat × Nat)) : Option Nat :=
  (rsv.find? fun r => bits x r.1 r.2 != 0).map fun r => r.2 / 8

/-- Reserved bits of a field list at a base offset are clear (R456). -/
def rsvClear (tag base x : Nat) (rsv : List (Nat × Nat)) : Checked Unit :=
  match rsvByte x rsv with
  | some k => .error (content tag (base + k))
  | none => .ok ()

/-- A field with a default: a written 0 selects it, and any other value outside the range fails (R456). -/
def ranged (v lo hi dflt : Nat) (f : ChartFail) : Checked Nat :=
  let x := if v = 0 then dflt else v
  (need (decide (lo ≤ x) && decide (x ≤ hi)) f).map fun _ => x

/-! ### Sections (R452, R454, R455; Tables 12-2, 12-4) -/

/-- A section as it stands in the staged bytes: position and bits of its header, its body. -/
structure Sect where
  pos : Nat
  head : Nat
  body : List Byte
  deriving DecidableEq, Repr

/-- TAG. -/
def Sect.tag (x : Sect) : Nat := bits x.head 15 0
/-- VERSION. -/
def Sect.version (x : Sect) : Nat := bits x.head 23 16
/-- SCRC. -/
def Sect.scrc (x : Sect) : Word := BitVec.ofNat 32 (bits x.head 95 64)
/-- Offset of the body. -/
def Sect.base (x : Sect) : Nat := x.pos + 16
/-- The body as a number. -/
def Sect.num (x : Sect) : Nat := leNat x.body
/-- n bytes of the body as a number. -/
def Sect.at_ (x : Sect) (i n : Nat) : Nat := leNat (slice x.body i n)

/-- The sections from a position up to the seal (step 2). -/
def walkSections (rest : List Byte) (fuel pos sealAt : Nat) : Checked (List Sect) :=
  match fuel with
  | 0 => .error ⟨0x71, 2, pos, 0⟩
  | fuel + 1 =>
    if pos = sealAt then .ok []
    else if sealAt < pos + 16 then .error ⟨0x71, 2, pos, 0⟩
    else
      let head := leNat (slice rest 0 16)
      let len := bits head 63 32
      if len = 0 ∨ len % 8 ≠ 0 ∨ sealAt < pos + 16 + len then .error ⟨0x71, 2, pos, bits head 15 0⟩
      else (walkSections (rest.drop (16 + len)) fuel (pos + 16 + len) sealAt).map fun l =>
        ⟨pos, head, (rest.drop 16).take len⟩ :: l

/-- Tags that an UPDATE may carry. -/
def updateTags : List Nat := [1, 7, 8, 9, 0xA, 0xB, 0xC]
/-- Tags that a Chart of a KIND must carry. -/
def requiredTags (upd : Bool) : List Nat := if upd then [1] else [1, 2, 3, 4, 5, 6, 9, 0xA, 0xB, 0xC]
/-- A tag of Table 12-4. -/
def knownTag (t : Nat) : Bool := decide (1 ≤ t) && decide (t ≤ 0xC)

/-- Step 4 for one section after one with a smaller tag. -/
def tagCheck (upd : Bool) (last : Option Nat) (x : Sect) : Checked Unit := do
  need (match last with | some t => decide (t < x.tag) | none => true) ⟨0x73, 4, x.pos, x.tag⟩
  need (knownTag x.tag || decide (0x8000 ≤ x.tag)) ⟨0x73, 4, x.pos, x.tag⟩
  need (!knownTag x.tag || x.version == 1) ⟨0x73, 4, x.pos + 2, x.tag⟩
  need (!upd || !knownTag x.tag || updateTags.contains x.tag) ⟨0x73, 4, x.pos, x.tag⟩

/-- Step 4 for every section in order. -/
def tagChecks (upd : Bool) : Option Nat → List Sect → Checked Unit
  | _, [] => .ok ()
  | last, x :: xs => do
    tagCheck upd last x
    tagChecks upd (some x.tag) xs

/-! ### Bodies (Tables 12-5 to 12-12) -/

/-- A Chart before its sections: no static table and no seed. -/
def Chart.blank : Chart :=
  { chartId := 0, fleet := 0, rank := 0, die := 0, cluster := 0, baseId := 0, active := 0, roles := 0, fabric := [], mpGen := 0,
    memEn := 0, dpEn := 0, ipEn := 0, lpEn := 0, lagoonPool := 0, stagingPool := 0, pools := [], poolsScrc := 0, epochUs := 50,
    reserve := [], tables := [], seeds := [], lfsrSeed := 0, policy := [], iFull := 0, stepDiv := 16, iCap := 0, intentLead := 1000,
    grantEn := false, ferryInterval := 0, faultWindow := 3600, patterns := false, svcInterval := 60, ceLimit := 1024,
    ceWindow := 3600, collTimeoutUs := 2000 }

/-- The body has the length of Table 12-4. -/
def bodyLen (x : Sect) (n : Nat) : Checked Unit := need (x.body.length == n) (content x.tag x.pos)

/-- IDENT (Table 12-5). -/
def readIdent (upd : Bool) (x : Sect) (c : Chart) : Checked Chart := do
  bodyLen x 16
  rsvClear x.tag x.base x.num [(63, 53), (127, 96)]
  let n := x.num
  need (upd || bits n 95 64 == 0) (content x.tag (x.base + 8))
  return { c with
    fleet := BitVec.ofNat 32 (bits n 31 0), rank := bits n 43 32, die := bits n 49 44, cluster := bits n 52 50
    baseId := BitVec.ofNat 32 (bits n 95 64) }

/-- STRUCTURE (Table 12-6). -/
def readStructure (x : Sect) (c : Chart) : Checked Chart := do
  bodyLen x 16
  rsvClear x.tag x.base x.num [(31, 16), (127, 96)]
  return { c with active := BitVec.ofNat 16 (bits x.num 15 0), roles := BitVec.ofNat 64 (bits x.num 95 32) }

/-- FABRIC (R459). -/
def readFabric (x : Sect) (c : Chart) : Checked Chart := do
  bodyLen x 64
  rsvClear x.tag x.base x.num (((List.range 14).map fun e => (32 * e + 31, 32 * e + 16)) ++ [(479, 448), (511, 480)])
  return { c with fabric := (List.range 16).map fun e => BitVec.ofNat 16 (bits x.num (32 * e + 15) (32 * e)) }

/-- PORTS (Table 12-7). -/
def readPorts (x : Sect) (c : Chart) : Checked Chart := do
  bodyLen x 8
  let n := x.num
  rsvClear x.tag x.base n [(63, 30)]
  return { c with
    mpGen := BitVec.ofNat 8 (bits n 7 0), memEn := BitVec.ofNat 8 (bits n 15 8), dpEn := BitVec.ofNat 8 (bits n 23 16)
    ipEn := BitVec.ofNat 4 (bits n 27 24), lpEn := BitVec.ofNat 2 (bits n 29 28) }

/-- True when two spans, given by first and end, overlap. -/
def overlap (a b : Nat × Nat) : Bool := decide (a.1 < b.2) && decide (b.1 < a.2)

/-- Channel entries of a pool (Table 12-10, R381), from body byte `i` on; `groups` lists the channels seen with their groups. -/
def readChans (x : Sect) (size : Nat) : Nat → Nat → List ChanEntry → List (Nat × Nat) → Checked (List ChanEntry × List (Nat × Nat))
  | 0, _, acc, groups => .ok (acc, groups)
  | n + 1, i, acc, groups => do
    need (decide (i + 16 ≤ x.body.length)) (content x.tag (x.base + 2))
    let v := x.at_ i 16
    let off := x.base + i
    rsvClear x.tag off v [(31, 18), (127, 104)]
    let e : ChanEntry := ⟨bits v 11 0, bits v 17 12, bits v 67 32, bits v 103 68⟩
    need (match groups.find? fun g => g.1 == e.chan with | some g => g.2 == e.group | none => true) (content x.tag off)
    need (e.start % 64 == 0 && e.size % 64 == 0 && decide (e.start + e.size ≤ size) &&
      !acc.any fun o => overlap (e.start, e.start + e.size) (o.start, o.start + o.size)) (content x.tag (off + 4))
    readChans x size n (i + 16) (acc ++ [e]) ((e.chan, e.group) :: groups)

/-- Pool records from body byte `i` on (Table 12-9, R462). -/
def readPoolList (x : Sect) : Nat → Nat → List (Nat × Pool) → List (Nat × Nat) → Checked (List (Nat × Pool))
  | 0, i, acc, _ => (need (i == x.body.length) (content x.tag (x.base + 2))).map fun _ => acc
  | n + 1, i, acc, groups => do
    need (decide (i + 32 ≤ x.body.length)) (content x.tag (x.base + 2))
    let v := x.at_ i 32
    let off := x.base + i
    rsvClear x.tag off v [(15, 12), (63, 42)]
    let id := bits v 7 0
    need (acc.all fun p => decide (p.2.id < id)) (content x.tag off)
    let hold ← ranged (bits v 31 16) 100 65535 2000 (content x.tag (off + 2))
    let count := bits v 41 32
    need (decide (1 ≤ count) && decide (count ≤ 512)) (content x.tag (off + 4))
    let base := bits v 127 64
    let size := bits v 191 128
    let map := bits v 255 192
    need (base % 4096 == 0) (content x.tag (off + 8))
    need (decide (64 ≤ size) && decide (size ≤ 2 ^ 36 - 64) && size % 64 == 0) (content x.tag (off + 16))
    need (map % 4096 == 0) (content x.tag (off + 24))
    let ch ← readChans x size count (i + 32) [] groups
    let p : Pool :=
      { id := id, far := bit v 8, allocCluster := bits v 11 9, holdLimitUs := hold, base := base, size := size, mapBase := map,
        chans := ch.1 }
    readPoolList x n (i + 32 + 16 * count) (acc ++ [(off, p)]) ch.2

/-- Bytes of a pool. -/
def Pool.span (p : Pool) : Nat × Nat := (p.base, p.base + 64 * p.size)
/-- Bytes of its allocation map. -/
def Pool.mapSpan (p : Pool) : Nat × Nat := (p.mapBase, p.mapBase + p.size / 8)

/-- Pools do not overlap, and maps lie outside every pool and every other map (R462, Table 10-3). -/
def poolsApart (tag : Nat) (all : List (Nat × Pool)) : List (Nat × Pool) → List (Nat × Pool) → Checked Unit
  | _, [] => .ok ()
  | before, p :: rest => do
    need (!before.any fun q => overlap p.2.span q.2.span) (content tag (p.1 + 8))
    need (!(all.any fun q => overlap p.2.mapSpan q.2.span) && !(before.any fun q => overlap p.2.mapSpan q.2.mapSpan))
      (content tag (p.1 + 24))
    poolsApart tag all (before ++ [p]) rest

/-- POOLS (Tables 12-8 to 12-10, R462). -/
def readPools (x : Sect) (c : Chart) : Checked Chart := do
  need (decide (16 ≤ x.body.length)) (content x.tag x.pos)
  let h := x.at_ 0 16
  rsvClear x.tag x.base h [(127, 48)]
  let pools := bits h 15 0
  let chans := bits h 31 16
  need (decide (1 ≤ pools) && decide (pools ≤ 256)) (content x.tag x.base)
  need (decide (1 ≤ chans) && decide (chans ≤ 4096)) (content x.tag (x.base + 2))
  bodyLen x (16 + 32 * pools + 16 * chans)
  let l ← readPoolList x pools 16 [] []
  poolsApart x.tag l [] l
  let ids := l.map fun p => p.2.id
  need (ids.contains (bits h 39 32)) (content x.tag (x.base + 4))
  need (ids.contains (bits h 47 40)) (content x.tag (x.base + 5))
  return { c with
    pools := l.map Prod.snd, lagoonPool := bits h 39 32, stagingPool := bits h 47 40, poolsScrc := x.scrc }

/-- STREAMS (R464). -/
def readStreams (x : Sect) (c : Chart) : Checked Chart := do
  bodyLen x 136
  rsvClear x.tag x.base (x.at_ 0 8) [(63, 16)]
  let epoch ← ranged (x.at_ 0 2) 10 1000 50 (content x.tag x.base)
  let reserve := (List.range 64).map fun q => x.at_ (8 + 2 * q) 2
  need (decide (reserve.sum ≤ 16384)) (content x.tag (x.base + 8))
  return { c with epochUs := epoch, reserve := reserve }

/-- The entries of TABLES (R465). -/
def readTableList (x : Sect) : Nat → Nat → List (Nat × List Nat) → Checked (List (Nat × List Nat))
  | 0, _, acc => .ok acc
  | n + 1, i, acc => do
    let off := x.base + i
    let e := slice x.body i 192
    let first := leNat (slice e 0 2)
    let id := bits first 5 0
    rsvClear x.tag off first [(15, 6)]
    need (acc.all fun t => decide (t.1 < id)) (content x.tag off)
    let nibbles := e.flatMap fun b => [b.toNat % 16, b.toNat / 16]
    let lengths := (nibbles.drop 4).take 377
    need (validTable lengths) (content x.tag (off + 2))
    need (nth nibbles 381 0 == 0) (content x.tag (off + 190))
    need (nth nibbles 382 0 == 0 && nth nibbles 383 0 == 0) (content x.tag (off + 191))
    readTableList x n (i + 192) (acc ++ [(id, lengths)])

/-- TABLES (R465, R467). -/
def readTables (x : Sect) (c : Chart) : Checked Chart := do
  need (decide (8 ≤ x.body.length)) (content x.tag x.pos)
  let h := x.at_ 0 8
  rsvClear x.tag x.base h [(63, 7)]
  need (decide (bits h 6 0 ≤ 64)) (content x.tag x.base)
  bodyLen x (8 + 192 * bits h 6 0)
  let l ← readTableList x (bits h 6 0) 8 []
  return { c with tables := l }

/-- The entries of SEEDS (R466). -/
def readSeedList (x : Sect) : Nat → Nat → List (Nat × List Byte) → Checked (List (Nat × List Byte))
  | 0, _, acc => .ok acc
  | n + 1, i, acc => do
    let off := x.base + i
    let id := x.at_ i 1
    rsvClear x.tag off (x.at_ i 8) [(63, 8)]
    need (acc.all fun t => decide (t.1 < id)) (content x.tag off)
    readSeedList x n (i + 264) (acc ++ [(id, slice x.body (i + 8) 256)])

/-- SEEDS (R466, R467). -/
def readSeeds (x : Sect) (c : Chart) : Checked Chart := do
  need (decide (8 ≤ x.body.length)) (content x.tag x.pos)
  let h := x.at_ 0 8
  rsvClear x.tag x.base h [(63, 9)]
  need (decide (bits h 8 0 ≤ 256)) (content x.tag x.base)
  bodyLen x (8 + 264 * bits h 8 0)
  let l ← readSeedList x (bits h 8 0) 8 []
  return { c with seeds := l }

/-- The policy entries of NUMERICS (Table 12-11). -/
def readPolicies (x : Sect) : Nat → Nat → List Dword → Checked (List Dword)
  | 0, _, acc => .ok acc
  | n + 1, t, acc => do
    let off := x.base + 8 + 8 * t
    let v := x.at_ (8 + 8 * t) 8
    rsvClear x.tag off v [(15, 13), (63, 40)]
    need (decide (bits v 3 0 ≤ 7)) (content x.tag off)
    need (bits v 8 7 != 3) (content x.tag off)
    need (t != 15 || v == 0) (content x.tag off)
    readPolicies x n (t + 1) (acc ++ [BitVec.ofNat 64 v])

/-- NUMERICS (R468). -/
def readNumerics (x : Sect) (c : Chart) : Checked Chart := do
  bodyLen x 136
  need (x.at_ 0 4 != 0) (content x.tag x.base)
  rsvClear x.tag x.base (x.at_ 0 8) [(63, 32)]
  let l ← readPolicies x 16 0 []
  return { c with lfsrSeed := BitVec.ofNat 32 (x.at_ 0 4), policy := l }

/-- LIMITS (Table 12-12). -/
def readLimits (x : Sect) (c : Chart) : Checked Chart := do
  bodyLen x 16
  let n := x.num
  rsvClear x.tag x.base n [(31, 24), (127, 65)]
  let full := bits n 15 0
  need (full != 0) (content x.tag x.base)
  let div ← ranged (bits n 23 16) 16 255 16 (content x.tag (x.base + 2))
  let cap ← ranged (bits n 47 32) 1 full full (content x.tag (x.base + 4))
  let lead ← ranged (bits n 63 48) 1000 65535 1000 (content x.tag (x.base + 6))
  return { c with iFull := full, stepDiv := div, iCap := cap, intentLead := lead, grantEn := bit n 64 }

/-- TEST (Table 12-12). -/
def readTest (x : Sect) (c : Chart) : Checked Chart := do
  bodyLen x 16
  let n := x.num
  rsvClear x.tag x.base n [(127, 49)]
  let w ← ranged (bits n 47 32) 60 65535 3600 (content x.tag (x.base + 4))
  return { c with ferryInterval := bits n 31 0, faultWindow := w, patterns := bit n 48 }

/-- SERVICE (Table 12-12). -/
def readService (x : Sect) (c : Chart) : Checked Chart := do
  bodyLen x 16
  let n := x.num
  rsvClear x.tag x.base n [(127, 64)]
  let i ← ranged (bits n 15 0) 1 65535 60 (content x.tag x.base)
  let l ← ranged (bits n 31 16) 1 65535 1024 (content x.tag (x.base + 2))
  let w ← ranged (bits n 47 32) 60 65535 3600 (content x.tag (x.base + 4))
  let t ← ranged (bits n 63 48) 100 65535 2000 (content x.tag (x.base + 6))
  return { c with svcInterval := i, ceLimit := l, ceWindow := w, collTimeoutUs := t }

/-- Step 8 for one section: its header's reserved bits, then its body; an unknown optional section is skipped (R455). -/
def readSection (upd : Bool) (c : Chart) (x : Sect) : Checked Chart := do
  rsvClear x.tag x.pos x.head [(31, 24), (127, 96)]
  match x.tag with
  | 1 => readIdent upd x c
  | 2 => readStructure x c
  | 3 => readFabric x c
  | 4 => readPorts x c
  | 5 => readPools x c
  | 6 => readStreams x c
  | 7 => readTables x c
  | 8 => readSeeds x c
  | 9 => readNumerics x c
  | 0xA => readLimits x c
  | 0xB => readTest x c
  | 0xC => readService x c
  | _ => return c

/-! ### Steps 9 to 11 -/

/-- Offset of the body of a section. -/
def bodyOf (l : List Sect) (tag : Nat) : Nat := ((l.find? fun x => x.tag == tag).map Sect.base).getD 0

/-- A core takes part in a role of a port: active, in its mask, and its role mask meets `role`. -/
def Chart.serves (c : Chart) (mask role k : Nat) : Bool :=
  c.active.toNat.testBit k && mask.testBit k && (bits c.roles.toNat (4 * k + 3) (4 * k) &&& role) != 0

/-- The entry of one port is as R460 asks. -/
def Chart.fabricOk (c : Chart) (enabled : Bool) (role e : Nat) : Bool :=
  let mask := (nth c.fabric e 0).toNat
  if enabled then (List.range 16).any (c.serves mask role) else mask == 0

/-- FABRIC entries with the ports that they name: entry, enabled and present, role bits. -/
def Chart.fabricPorts (c : Chart) (hardening : Nat) : List (Nat × Bool × Nat) :=
  ((List.range 8).map fun i => (i, c.dpEn.toNat.testBit i && decide (i < portCount hardening .delivery), 9)) ++
    ((List.range 4).map fun i => (8 + i, c.ipEn.toNat.testBit i && decide (i < portCount hardening .intake), 2)) ++
    ((List.range 2).map fun i => (12 + i, c.lpEn.toNat.testBit i && decide (i < portCount hardening .link), 4))

/-- Step 9 (R458, R460, R461); `retired` lists the retired cores. Both memory-port generations are in DJ_CAPS (00_scope Table 0-2). -/
def structCheck (p : Params) (retired : List Nat) (l : List Sect) (c : Chart) : Checked Unit := do
  let st := bodyOf l 2
  need (decide (c.active.toNat < 2 ^ p.cores)) (caps 2 st)
  need (retired.all fun k => !c.active.toNat.testBit k) (caps 2 st)
  match (List.range 16).find? fun k => !c.active.toNat.testBit k && bits c.roles.toNat (4 * k + 3) (4 * k) != 0 with
  | some k => .error (caps 2 (st + 4 + k / 2))
  | none => .ok ()
  match (c.fabricPorts p.hardening).find? fun e => !c.fabricOk e.2.1 e.2.2 e.1 with
  | some e => .error (caps 3 (bodyOf l 3 + 4 * e.1))
  | none => .ok ()
  let po := bodyOf l 4
  need (decide (c.mpGen.toNat < 2 ^ portCount p.hardening .memory)) (caps 4 po)
  need (decide (c.memEn.toNat < 2 ^ portCount p.hardening .memory) && c.memEn != 0) (caps 4 (po + 1))
  need (decide (c.dpEn.toNat < 2 ^ portCount p.hardening .delivery)) (caps 4 (po + 2))
  need (decide (c.ipEn.toNat < 2 ^ portCount p.hardening .intake) && decide (c.lpEn.toNat < 2 ^ portCount p.hardening .link))
    (caps 4 (po + 3))

/-- A failure of step 10 (IDENT_MISMATCH). -/
def identFail (off : Nat) : ChartFail := ⟨0x79, 10, off, 1⟩

/-- Step 10 for an UPDATE: the identity against the applied Chart (R457). -/
def updateIdent (old c : Chart) (at_ : Nat) : Checked Unit := do
  need (c.fleet == old.fleet) (identFail at_)
  need (c.rank == old.rank) (identFail (at_ + 4))
  need (c.die == old.die) (identFail (at_ + 5))
  need (c.cluster == old.cluster) (identFail (at_ + 6))

/-- Step 10 for every Chart: the identity against the running clusters of the die (R28, R457). -/
def peerIdent (peers : List Peer) (c : Chart) (at_ : Nat) : Checked Unit := do
  need (peers.all fun p => p.fleet == c.fleet) (identFail at_)
  need (peers.all fun p => p.rank == c.rank) (identFail (at_ + 4))
  need (peers.all fun p => p.die == c.die) (identFail (at_ + 5))
  need (peers.all fun p => p.cluster != c.cluster) (identFail (at_ + 6))

/-! ### Validation (R477, Table 12-16) -/

/-- Limit of R450 on the length of a Chart. -/
def chartLimit (upd : Bool) : Nat := if upd then 131072 else 262144

/-- What a validation compares with: static inputs, retired cores, the applied Chart, and the running clusters of the die. -/
structure ChartCtx where
  params : Params
  retired : List Nat
  applied : Option Chart
  peers : List Peer
  deriving DecidableEq, Repr

/-- The staged bytes through the steps of Table 12-16: the Chart in force after its application, and the tags it carries. `surplus` says
that bytes beyond the limit arrived (R474). -/
def validateChart (x : ChartCtx) (upd surplus : Bool) (data : List Byte) : Checked (Chart × List Nat) := do
  let n := data.length
  let head := leNat (slice data 0 16)
  need (decide (16 ≤ n) && bits head 31 0 == 0x48434A44) ⟨0x70, 1, 0, 0⟩
  need (bits head 39 32 == 1) ⟨0x70, 1, 4, 0⟩
  need (bits head 41 40 == b2n upd) ⟨0x70, 1, 5, 0⟩
  need (!surplus && n % 8 == 0 && decide (n ≤ chartLimit upd) && decide (48 ≤ n)) ⟨0x71, 2, min n (chartLimit upd), 0⟩
  let sealAt := n - 32
  let l ← walkSections (data.drop 16) n 16 sealAt
  match l.find? fun s => crc32c s.body != s.scrc with
  | some s => .error ⟨0x72, 3, s.pos, s.tag⟩
  | none => .ok ()
  tagChecks upd none l
  let tags := l.map Sect.tag
  match (requiredTags upd).find? fun t => !tags.contains t with
  | some t => .error ⟨0x73, 4, sealAt, t⟩
  | none => .ok ()
  need (!upd || decide (2 ≤ l.length)) ⟨0x73, 4, sealAt, 0⟩
  let z := leNat (slice data sealAt 32)
  need (bits z 31 0 == 0x4C414553) ⟨0x74, 5, sealAt, 0⟩
  need (bits z 47 32 == l.length) ⟨0x74, 5, sealAt + 4, 0⟩
  need (bits z 95 64 == n) ⟨0x74, 5, sealAt + 8, 0⟩
  need (bits z 111 96 == 0x7E1A) ⟨0x74, 5, sealAt + 12, 0⟩
  need (crc64 (data.take sealAt) == BitVec.ofNat 64 (bits z 255 192)) ⟨0x75, 6, sealAt + 24, 0⟩
  need (decide (bits z 143 128 ≤ 0x4201) && decide (0x4201 ≤ bits z 159 144)) ⟨0x76, 7, sealAt + 16, 0⟩
  rsvClear 0 0 head [(63, 42), (127, 96)]
  let start := if upd then x.applied.getD Chart.blank else Chart.blank
  let c0 ← l.foldlM (readSection upd) start
  rsvClear 0 sealAt z [(63, 48), (127, 112), (191, 160)]
  let c : Chart := { c0 with chartId := BitVec.ofNat 32 (bits head 95 64) }
  if upd then
    updateIdent start c (bodyOf l 1)
    peerIdent x.peers c (bodyOf l 1)
    need (c.baseId == start.chartId) (identFail (bodyOf l 1 + 8))
  else
    structCheck x.params x.retired l c
    peerIdent x.peers c (bodyOf l 1)
    need (x.peers.all fun p => p.poolsScrc == c.poolsScrc)
      ⟨0x7A, 11, (((l.find? fun s => s.tag == 5).map Sect.pos).getD 0) + 8, 5⟩
  return (c, tags)

end Sys2Proof.Machine
end

