-- ==== Sys2Proof/Machine/Encoder.lean ====
section
/-! DEFINITION. The block's encoder (03_lossless_coding R112 to R119, R564, R569, R570). What R570 does not promise is a free
value (log 10): a value of Config that meets R570 is taken, and another is replaced by a code of the model. -/

namespace Sys2Proof.Machine

/-! ### Tokens (R116 to R118, R569) -/

/-- A token of the coded sequence. -/
inductive Tok where
  | lit (b : Nat)
  | dict (i : Nat)
  | mtch (len dist : Nat)
  deriving DecidableEq, Repr

/-- Match probes of a level (Table 3-7). -/
def probes (level : Nat) : Nat := if level = 0 then 0 else 2 ^ (level - 1)

/-- The hash of three bytes (R569). -/
def hash3 (b0 b1 b2 : Byte) : Nat :=
  ((b0.toNat + 256 * b1.toNat + 65536 * b2.toNat) * 0x9E3779B1) % 2 ^ 32 / 2 ^ 20

/-- The hashes of every position of the coded sequence that has three bytes. -/
def hashes : List Byte → List Nat
  | a :: b :: c :: rest => hash3 a b c :: hashes (b :: c :: rest)
  | _ => []

/-- Bytes that two positions of a sequence have in common. -/
def commonLen : List Byte → List Byte → Nat
  | a :: as, b :: bs => if a = b then commonLen as bs + 1 else 0
  | _, _ => 0

/-- Length code of a match length (Table 3-2). -/
def lengthSym (len : Nat) : Nat :=
  ((List.range 32).filter fun c => decide ((lengthCode c).2 ≤ len)).length - 1

/-- Distance symbol of a distance (R83). -/
def distSym (dist : Nat) : Nat :=
  ((List.range 25).filter fun d => decide ((distCode d).2 ≤ dist)).length - 1

/-- The longest usable length from 3 up to `len` whose symbol the table can code (R564). -/
def usableLen (can : Nat → Bool) : Nat → Option Nat
  | 0 => none
  | len + 1 => if len + 1 < 3 then none else if can (320 + lengthSym (len + 1)) then some (len + 1) else usableLen can len

/-- Earlier positions with the same hash, nearest first (R569). -/
def chainOf (hs : List Nat) (p : Nat) : List Nat :=
  match hs[p]? with
  | none => []
  | some h => ((hs.take p).zipIdx.filterMap fun q => if q.1 = h then some q.2 else none).reverse

/-- The best match at a position: length, at most `cap`, and distance (R117, R564, R569). -/
def bestMatch (can : Nat → Bool) (cap : Nat) (seq : List Byte) (hs : List Nat) (n p : Nat) : Option (Nat × Nat) :=
  let here := seq.drop p
  ((chainOf hs p).take n).foldl (fun best q =>
    let dist := p - q
    let full := min cap (commonLen (seq.drop q) here)
    if full < 3 ∨ !can (352 + distSym dist) then best
    else
      match usableLen can full with
      | none => best
      | some len =>
        match best with
        | none => some (len, dist)
        | some b => if b.1 < len then some (len, dist) else best) none

/-- The lowest dictionary index of the four bytes at a position, when the table can code it (R117 step 2). -/
def dictAt (can : Nat → Bool) (d : DictState) (seq : List Byte) (p : Nat) : Option Nat :=
  let quad := (seq.drop p).take 4
  if quad.length < 4 then none
  else
    match d.dict.findIdx? (· == quad) with
    | some i => if can (256 + i) then some i else none
    | none => none

/-- The token chosen at a position (R117, R118, R564); none when no token can be coded. -/
def chooseTok (can : Nat → Bool) (cap level : Nat) (seq : List Byte) (hs : List Nat) (d : DictState) (p : Nat) : Option Tok :=
  let b := (nth seq p (0 : Byte)).toNat
  let best := bestMatch can cap seq hs (probes level) p
  let lit := if can b then some (Tok.lit b) else none
  let lazyMatch (m : Nat × Nat) : Option Tok :=
    if 4 ≤ level ∧ can b then
      match bestMatch can cap seq hs (probes level) (p + 1) with
      | some n => if m.1 + 2 ≤ n.1 then lit else some (.mtch m.1 m.2)
      | none => some (.mtch m.1 m.2)
    else some (.mtch m.1 m.2)
  match best with
  | some m =>
    if 5 ≤ m.1 then lazyMatch m
    else
      match dictAt can d seq p with
      | some i => some (.dict i)
      | none => lazyMatch m
  | none =>
    match dictAt can d seq p with
    | some i => some (.dict i)
    | none => lit

/-- The tokens of the coded sequence from a position on; none when a position takes no token (R564). -/
def tokens (can : Nat → Bool) (cap level : Nat) (seq : List Byte) (hs : List Nat) : Nat → Nat → DictState → Option (List Tok)
  | 0, _, _ => some []
  | fuel + 1, p, d =>
    if seq.length ≤ p then some []
    else
      match chooseTok can cap level seq hs d p with
      | none => none
      | some (.lit b) =>
        (tokens can cap level seq hs fuel (p + 1) (d.afterLit ((seq.drop (p - 3)).take (p + 1 - (p - 3))).reverse)).map
          (Tok.lit b :: ·)
      | some (.dict i) => (tokens can cap level seq hs fuel (p + 4) (d.afterDict i)).map (Tok.dict i :: ·)
      | some (.mtch len dist) => (tokens can cap level seq hs fuel (p + len) d.afterMatch).map (Tok.mtch len dist :: ·)

/-- The symbol of a token. -/
def Tok.sym : Tok → Nat
  | .lit b => b
  | .dict i => 256 + i
  | .mtch len _ => 320 + lengthSym len

/-! ### Code lengths (R570) -/

/-- Uses of each symbol of an alphabet. -/
def histogram (size : Nat) (syms : List Nat) : List Nat :=
  syms.foldl (fun h s => h.modify s (· + 1)) (List.replicate size 0)

/-- A weighted set of symbols of a Huffman construction. -/
abbrev HNode := Nat × List Nat

/-- A node enters a list ascending by weight. -/
def insertNode (x : HNode) : List HNode → List HNode
  | [] => [x]
  | y :: ys => if x.1 ≤ y.1 then x :: y :: ys else y :: insertNode x ys

/-- Merges the two lightest nodes until one is left; each merge lengthens the codes of its symbols by one. Returns the
lengths and the cost, which is the sum of the merged weights. -/
def huffmanMerge : Nat → List HNode → List Nat → Nat → List Nat × Nat
  | fuel + 1, x :: y :: rest, lens, cost =>
    huffmanMerge fuel (insertNode (x.1 + y.1, x.2 ++ y.2) rest)
      ((x.2 ++ y.2).foldl (fun l s => l.modify s (· + 1)) lens) (cost + x.1 + y.1)
  | _, _, lens, cost => (lens, cost)

/-- An optimal Huffman code of a histogram, with its cost in bits. -/
def huffman (hist : List Nat) : List Nat × Nat :=
  let nodes := hist.zipIdx.foldl (fun l p => if p.1 = 0 then l else insertNode (p.1, [p.2]) l) []
  huffmanMerge hist.length nodes (List.replicate hist.length 0) 0

/-- An optimal code of a histogram, of any length; one symbol has a code of one bit (R92). -/
def ownCode (hist : List Nat) : List Nat :=
  match hist.filter (· != 0) with
  | [] => hist
  | [_] => hist.map fun w => if w = 0 then 0 else 1
  | _ => (huffman hist).1

/-- Bits that a code spends on a histogram. -/
def codeCost (lens hist : List Nat) : Nat := (List.zipWith (· * ·) lens hist).sum

/-- True when lengths are those of an optimal Huffman code of a histogram. -/
def isOptimal (hist lens : List Nat) : Bool :=
  lens.length == hist.length && validCode lens hist.length (hist.all (· == 0)) &&
    (List.zip lens hist).all (fun p => (p.1 == 0) == (p.2 == 0)) && codeCost lens hist == codeCost (ownCode hist) hist

/-- The optimal code that the block takes (R570, log 10). -/
def optimalCode (n : Nat) (hist : List Nat) : List Nat :=
  let c := Config.codeLengths n hist
  if isOptimal hist c then c else ownCode hist

/-- Positions of a list at which a predicate holds. -/
def places (p : Nat → Bool) (l : List Nat) : List Nat := (List.range l.length).filter fun i => p (nth l i 0)

/-- The codes of which a step of limiting changes one: while the Kraft sum is above 1 the deepest ones that may still grow, and while it
is below 1 the others, where shortening does not pass 1 (R570). -/
def limitPlaces (maxLen : Nat) (lens : List Nat) : List Nat :=
  let k := kraft lens maxLen
  if 2 ^ maxLen < k then
    let deepest := (lens.filter (· < maxLen)).foldl max 0
    places (· == deepest) lens
  else places (fun l => l != 0 && decide (k + 2 ^ (maxLen - l) ≤ 2 ^ maxLen)) lens

/-- The steps of limiting, until the Kraft sum is 1 again; `m` numbers the step. -/
def limitSteps (n maxLen : Nat) : Nat → Nat → List Nat → List Nat
  | 0, _, lens => lens
  | fuel + 1, m, lens =>
    let k := kraft lens maxLen
    if k = 2 ^ maxLen then lens
    else
      let l := limitPlaces maxLen lens
      let i := nth l (Config.codeStep n m % l.length) 0
      limitSteps n maxLen fuel (m + 1) (if 2 ^ maxLen < k then lens.modify i (· + 1) else lens.modify i (· - 1))

/-- The code lengths that the block builds: an optimal code, whose lengths above the greatest one are limited (R570). -/
def builtCode (n maxLen : Nat) (hist : List Nat) : List Nat :=
  let c := optimalCode n hist
  if c.all (· ≤ maxLen) then c else limitSteps n maxLen (2 * maxLen * hist.length) 0 (c.map (min maxLen))

/-! ### The dynamic table (R96 to R99) -/

/-- The lengths that code-length symbols stand for; none when Table 3-4 does not allow them. `top` is the greatest length; the three
repeating symbols follow it. -/
def runLengths (top : Nat) : List (Nat × Nat) → List Nat → Option (List Nat)
  | [], acc => some acc.reverse
  | (sym, x) :: rest, acc =>
    if sym ≤ top ∧ x = 0 then runLengths top rest (sym :: acc)
    else if sym = top + 1 ∧ x < 4 ∧ acc ≠ [] then runLengths top rest (List.replicate (3 + x) (acc.headD 0) ++ acc)
    else if sym = top + 2 ∧ x < 8 then runLengths top rest (List.replicate (3 + x) 0 ++ acc)
    else if sym = top + 3 ∧ x < 128 then runLengths top rest (List.replicate (11 + x) 0 ++ acc)
    else none

/-- Items at the front of a list that equal x. -/
def runOf (x : Nat) : List Nat → Nat
  | [] => 0
  | y :: ys => if y = x then runOf x ys + 1 else 0

/-- The longest-first split of lengths into code-length symbols. -/
def greedyRuns (top : Nat) : Nat → Option Nat → List Nat → List (Nat × Nat)
  | 0, _, _ => []
  | _, _, [] => []
  | fuel + 1, prev, x :: xs =>
    let r := runOf x (x :: xs)
    if x = 0 ∧ 11 ≤ r then
      let n := min r 138
      (top + 3, n - 11) :: greedyRuns top fuel (some 0) ((x :: xs).drop n)
    else if x = 0 ∧ 3 ≤ r then (top + 2, r - 3) :: greedyRuns top fuel (some 0) ((x :: xs).drop r)
    else if prev = some x ∧ 3 ≤ r then
      let n := min r 6
      (top + 1, n - 3) :: greedyRuns top fuel (some x) ((x :: xs).drop n)
    else (x, 0) :: greedyRuns top fuel (some x) xs

/-- The code-length symbols of a table (log 10). -/
def builtRuns (n top : Nat) (lens : List Nat) : List (Nat × Nat) :=
  let r := Config.codeRuns n lens
  if runLengths top r [] = some lens then r else greedyRuns top (lens.length + 1) none lens

/-- n bits of a value, least significant first (R89). -/
def lsbBits (n v : Nat) : List Bool := (List.range n).map v.testBit

/-- The bits of a symbol's code, most significant first (R89). -/
def codeBits (codes : List (Nat × Nat × Nat)) (sym : Nat) : List Bool :=
  match codes.find? (fun c => c.1 == sym) with
  | some c => (lsbBits c.2.2 c.2.1).reverse
  | none => []

/-- The serialised table (R96 to R98). -/
def tableBits (n : Nat) (lens : List Nat) : List Bool :=
  let runs := builtRuns n 12 lens
  let cl := builtCode n 7 (histogram 16 (runs.map Prod.fst))
  let codes := canonicalCodes cl 7
  cl.flatMap (lsbBits 3) ++ runs.flatMap fun r => codeBits codes r.1 ++ lsbBits (clExtra r.1) r.2

/-! ### Payloads (R100 to R103, R112 to R114) -/

/-- The bits of a token (R101). -/
def tokBits (tok dist : List (Nat × Nat × Nat)) (x : Tok) : List Bool :=
  codeBits tok x.sym ++
    match x with
    | .mtch len d =>
      let lc := lengthCode (lengthSym len)
      let dc := distCode (distSym d)
      lsbBits lc.1 (len - lc.2) ++ codeBits dist (distSym d) ++ lsbBits dc.1 (d - dc.2)
    | _ => []

/-- Bytes of bits, the last one completed with zeros (R88). -/
def bytesOfBits : Nat → List Bool → List Byte
  | 0, _ => []
  | _, [] => []
  | fuel + 1, b :: bs =>
    let g := (b :: bs).take 8
    BitVec.ofNat 8 (g.zipIdx.foldl (fun x p => if p.1 then x + 2 ^ p.2 else x) 0) :: bytesOfBits fuel ((b :: bs).drop 8)

/-- Tokens j, j + 4, j + 8, … (R100). -/
def dealt {α : Type} (k : Nat) (l : List α) : List α := l.zipIdx.filterMap fun p => if p.2 % 4 = k then some p.1 else none

/-- Up to the next 4-byte boundary. -/
def align4 (n : Nat) : Nat := ceilDiv n 4 * 4

/-- The table that a coding uses: a static one by its id and lengths, or a dynamic one. -/
inductive TableUse where
  | static (id : Nat) (lens : List Nat)
  | dynamic
  deriving DecidableEq, Repr

/-- What one tile's coding takes from its record and image. -/
structure EncIn where
  t : Nat
  stride : Nat
  ver : Nat
  level : Nat
  quant : Bool
  img : List Byte
  seed : List Byte
  deriving DecidableEq, Repr

/-- EB_OMIT as the block's encoder sets it (R115; Table 2-13 for version 3). -/
def ebOmitOf (t ver : Nat) (img : List Byte) : Bool :=
  if ver = 3 then false
  else
    let present := popcount 64 (sectorMap img)
    let b := buildUnits t 0 false img
    decide (64 * present - b.2.length ≤ present * bitmapBytes t)

/-- A coded payload with its coded size (R114), or none when the limits of R103 or of the table are not met. -/
def codePayload (n : Nat) (e : EncIn) (use : TableUse) : Option (Nat × List Byte) :=
  let ebOmit := ebOmitOf e.t e.ver e.img
  let seq := codedSequence e.t e.stride ebOmit e.img
  let can : Nat → Bool := match use with | .static _ lens => fun s => nth lens s 0 != 0 | .dynamic => fun _ => true
  match tokens can seq.length e.level seq (hashes seq) (seq.length + 1) 0 (DictState.init e.seed) with
  | none => none
  | some toks =>
    let tokLens := match use with
      | .static _ lens => lens.take 352
      | .dynamic => builtCode n 12 (histogram 352 (toks.map Tok.sym))
    let distLens := match use with
      | .static _ lens => lens.drop 352
      | .dynamic => builtCode n 12 (histogram 25 (toks.filterMap fun x =>
          match x with | .mtch _ d => some (distSym d) | _ => none))
    let table := match use with | .static _ _ => [] | .dynamic => tableBits n (tokLens ++ distLens)
    let tc := canonicalCodes tokLens 12
    let dc := canonicalCodes distLens 12
    let ss := (List.range 4).map fun k =>
      let bs := (if k = 0 then table else []) ++ (dealt k toks).flatMap (tokBits tc dc)
      bytesOfBits (bs.length + 1) bs
    let l (k : Nat) : Nat := (nth ss k []).length
    let s1 := align4 (16 + l 0)
    let s2 := align4 (s1 + l 1)
    let s3 := align4 (s2 + l 2)
    let size := if l 3 ≠ 0 then s3 + l 3 else if l 2 ≠ 0 then s2 + l 2 else if l 1 ≠ 0 then s1 + l 1 else 16 + l 0
    if ss.any (fun b => decide (1024 < b.length)) ∨ 4096 < toks.length then none
    else
      let h : Header :=
      { map := sectorMap e.img, maxExp := maxExp e.t e.img, layout := e.t,
        stride := if e.t = 13 then e.stride else 0,
        tableMode := (match use with | .static _ _ => 0 | .dynamic => 1),
        tableId := (match use with | .static id _ => id | .dynamic => 0),
        ebOmit := ebOmit, nonfinite := tileNonfinite e.t e.img, quant := e.quant,
        ss1 := s1 / 4, ss2 := s2 / 4, ss3 := s3 / 4, rsv := 0 }
      let pad (n : Nat) (b : List Byte) : List Byte := b ++ List.replicate (n - b.length) 0
      some (size, pad (64 * ceilDiv s3 64) (pad (64 * ceilDiv size 64)
        (h.bytes ++ pad (s1 - 16) (nth ss 0 []) ++ pad (s2 - s1) (nth ss 1 []) ++ pad (s3 - s2) (nth ss 2 []) ++
          nth ss 3 [])))

/-- How a tile is stored (R58 to R60): its STATE, its payload, and whether R564 kept it RAW. -/
structure Stored where
  state : Nat
  payload : List Byte
  unloaded : Bool
  deriving DecidableEq, Repr

/-- The stored form of an image that is not all zero: CODED within 63 sectors, else RAW (R59, R60, R114, R564). -/
def storeTile (n : Nat) (e : EncIn) (seed : Option (List Byte)) (policy tableId : Nat) (table : Option (List Nat)) :
    Stored :=
  match seed with
  | none => ⟨2, e.img, true⟩
  | some sd =>
    let e := { e with seed := sd }
    let stat := match table with | some l => codePayload n e (.static tableId l) | none => none
    let dyn := codePayload n e .dynamic
    let best :=
      if policy = 0 then stat
      else if policy = 1 then dyn
      else match stat, dyn with
        | some a, some b => if b.1 < a.1 then some b else some a
        | none, b => b
        | a, none => a
    match best with
    | some (_, p) => if p.length ≤ 4032 then ⟨1, p, false⟩ else ⟨2, e.img, false⟩
    | none => ⟨2, e.img, decide (policy = 0)⟩

end Sys2Proof.Machine
end

