-- ==== Sys2Proof/Machine/Inflate.lean ====
section
/-! DEFINITION. Raw DEFLATE streams of an export image (07_compression R280; RFC 1951 as R280 names it): which byte lists
inflate to a tile image. -/

namespace Sys2Proof.Machine

/-- The bits of a stream, the lowest bit of each byte first. -/
def streamBits (l : List Byte) : List Bool := l.flatMap fun b => (List.range 8).map fun i => b.getLsbD i

/-- A number of n bits, lowest bit first. -/
def takeNat : Nat → List Bool → Option (Nat × List Bool)
  | 0, l => some (0, l)
  | _ + 1, [] => none
  | n + 1, b :: l => (takeNat n l).map fun x => (b.toNat + 2 * x.1, x.2)

/-- The symbols that have a code of length n, in ascending order. -/
def symsOf (lens : List Nat) (n : Nat) : List Nat := (List.range lens.length).filter fun i => lens.getD i 0 == n

/-- The next symbol of a canonical code with the given code lengths: `first` is the first code of length n. -/
def codeSym (lens : List Nat) : Nat → Nat → Nat → Nat → List Bool → Option (Nat × List Bool)
  | 0, _, _, _, _ => none
  | _ + 1, _, _, _, [] => none
  | fuel + 1, n, code, first, b :: l =>
    let c := code + b.toNat
    let syms := symsOf lens n
    if c < first + syms.length then (if first ≤ c then some (syms.getD (c - first) 0, l) else none)
    else codeSym lens fuel (n + 1) (2 * c) (2 * (first + syms.length)) l

/-- The next symbol of a canonical code. -/
def nextSym (lens : List Nat) (l : List Bool) : Option (Nat × List Bool) := codeSym lens 15 1 0 0 l

/-- True when code lengths are not over-subscribed. -/
def codeFits (lens : List Nat) : Bool := decide (((lens.filter (· != 0)).map fun n => 2 ^ (15 - n)).sum ≤ 2 ^ 15)

/-- Code lengths of the fixed block: literals and lengths, then distances. -/
def fixedLens : List Nat × List Nat :=
  (List.replicate 144 8 ++ List.replicate 112 9 ++ List.replicate 24 7 ++ List.replicate 8 8, List.replicate 30 5)

/-- Base value and extra bits of a length symbol from 257 up. -/
def lengthBase (k : Nat) : Nat × Nat :=
  if k < 8 then (3 + k, 0) else if k = 28 then (258, 0) else (3 + (4 + k % 4) * 2 ^ (k / 4 - 1), k / 4 - 1)

/-- Base value and extra bits of a distance symbol. -/
def distBase (k : Nat) : Nat × Nat := if k < 4 then (1 + k, 0) else (1 + (2 + k % 2) * 2 ^ (k / 2 - 1), k / 2 - 1)

/-- Repeats the byte `dist` back n times; the output is held last byte first. -/
def copyBack (dist : Nat) : Nat → List Byte → List Byte
  | 0, out => out
  | n + 1, out => copyBack dist n (out.getD (dist - 1) 0 :: out)

/-- The symbols of a block up to its end, with a bound on the number of symbols. -/
def blockSyms (lit dist : List Nat) : Nat → List Byte → List Bool → Option (List Byte × List Bool)
  | 0, _, _ => none
  | fuel + 1, out, l =>
    match nextSym lit l with
    | none => none
    | some (s, l1) =>
      if s < 256 then blockSyms lit dist fuel (BitVec.ofNat 8 s :: out) l1
      else if s = 256 then some (out, l1)
      else if 285 < s then none
      else
        let b := lengthBase (s - 257)
        match takeNat b.2 l1 with
        | none => none
        | some (x, l2) =>
          match nextSym dist l2 with
          | none => none
          | some (k, l3) =>
            match (if k < 30 then takeNat (distBase k).2 l3 else none) with
            | none => none
            | some (y, l4) =>
              let d := (distBase k).1 + y
              if out.length < d then none else blockSyms lit dist fuel (copyBack d (b.1 + x) out) l4

/-- The order in which the code lengths of the code-length code stand. -/
def lenOrder : List Nat := [16, 17, 18, 0, 8, 7, 9, 6, 10, 5, 11, 4, 12, 3, 13, 2, 14, 1, 15]

/-- The code lengths of a dynamic block, n of them. -/
def dynLens (code : List Nat) (n : Nat) : Nat → List Nat → List Bool → Option (List Nat × List Bool)
  | 0, _, _ => none
  | fuel + 1, acc, l =>
    if n ≤ acc.length then (if n = acc.length then some (acc, l) else none)
    else
      match nextSym code l with
      | none => none
      | some (s, l1) =>
        if s < 16 then dynLens code n fuel (acc ++ [s]) l1
        else if s = 16 ∧ acc = [] then none
        else
          let w : Nat × Nat × Nat := if s = 16 then (2, 3, acc.getLastD 0) else if s = 17 then (3, 3, 0) else (7, 11, 0)
          match takeNat w.1 l1 with
          | none => none
          | some (x, l2) => dynLens code n fuel (acc ++ List.replicate (w.2.1 + x) w.2.2) l2

/-- n three-bit code lengths. -/
def threeBits : Nat → List Bool → Option (List Nat × List Bool)
  | 0, l => some ([], l)
  | n + 1, l =>
    match takeNat 3 l with
    | none => none
    | some (x, l1) => (threeBits n l1).map fun r => (x :: r.1, r.2)

/-- The two codes of a dynamic block. -/
def dynCodes (l : List Bool) : Option ((List Nat × List Nat) × List Bool) :=
  match takeNat 14 l with
  | none => none
  | some (x, l1) =>
    let hlit := x % 32 + 257
    let hdist := x / 32 % 32 + 1
    match threeBits (x / 1024 + 4) l1 with
    | none => none
    | some (cl, l2) =>
      let code := (List.range 19).map fun i => cl.getD (lenOrder.idxOf i) 0
      match (if codeFits code then dynLens code (hlit + hdist) 512 [] l2 else none) with
      | none => none
      | some (lens, l3) =>
        let c := (lens.take hlit, lens.drop hlit)
        if hlit ≤ 286 ∧ hdist ≤ 30 ∧ codeFits c.1 ∧ codeFits c.2 then some (c, l3) else none

/-- What a stream of a single final block inflates to; a stream ends in the byte that holds its last bit. -/
def inflate (stream : List Byte) : Option (List Byte) :=
  match takeNat 3 (streamBits stream) with
  | none => none
  | some (h, l) =>
    let ends (x : Option (List Byte × List Bool)) : Option (List Byte) :=
      x.bind fun r => if r.2.length < 8 then some r.1.reverse else none
    if h % 2 = 0 then none
    else if h / 2 = 0 then
      match stream.drop 1 with
      | a :: b :: c :: d :: data =>
        let n := a.toNat + 256 * b.toNat
        if n + (c.toNat + 256 * d.toNat) = 0xFFFF ∧ data.length = n then some data else none
      | _ => none
    else if h / 2 = 1 then ends (blockSyms fixedLens.1 fixedLens.2 4200 [] l)
    else if h / 2 = 2 then (dynCodes l).bind fun c => ends (blockSyms c.1.1 c.1.2 4200 [] c.2)
    else none

end Sys2Proof.Machine
end

