-- ==== Sys2Proof/Machine/Deflate.lean ====
section
/-! DEFINITION. The stream of an exported tile: a raw DEFLATE stream of one block (07_compression R280, R284; RFC 1951 as R280 names it).
The matches are those of level 4; what no rule fixes of a dynamic block is a free value (log 11). -/

namespace Sys2Proof.Machine

/-- True for what a DEFLATE block can code: it has no DICT token. -/
def deflateCan (sym : Nat) : Bool := decide (sym < 256) || decide (320 ≤ sym)

/-- The tokens of a tile: the match search of level 4 confined to the tile, with matches of at most 258 bytes (R284, R117, R118). -/
def deflateToks (img : List Byte) : List Tok :=
  (tokens deflateCan 258 4 img (hashes img) (img.length + 1) 0 (DictState.init [])).getD []

/-- The length symbol of a length, less 257. -/
def defLenSym (len : Nat) : Nat := ((List.range 29).filter fun k => decide ((lengthBase k).1 ≤ len)).length - 1

/-- The distance symbol of a distance. -/
def defDistSym (dist : Nat) : Nat := ((List.range 30).filter fun k => decide ((distBase k).1 ≤ dist)).length - 1

/-- The literal or length symbol of a token. -/
def defSym : Tok → Nat
  | .lit b => b
  | .dict _ => 256
  | .mtch len _ => 257 + defLenSym len

/-- The bits of a token under two codes. -/
def defTokBits (lit dist : List (Nat × Nat × Nat)) (x : Tok) : List Bool :=
  codeBits lit (defSym x) ++
    match x with
    | .mtch len d =>
      let l := lengthBase (defLenSym len)
      let y := distBase (defDistSym d)
      lsbBits l.2 (len - l.1) ++ codeBits dist (defDistSym d) ++ lsbBits y.2 (d - y.1)
    | _ => []

/-- The bytes of a final block of a type: what stands before its tokens, the tokens, and its end. -/
def blockBytes (kind : Nat) (head : List Bool) (lens : List Nat × List Nat) (toks : List Tok) : List Byte :=
  let lit := canonicalCodes lens.1 15
  let dist := canonicalCodes lens.2 15
  let bs := true :: (lsbBits 2 kind ++ head ++ toks.flatMap (defTokBits lit dist) ++ codeBits lit 256)
  bytesOfBits (bs.length + 1) bs

/-- A list without the zeros at its end, but not shorter than n. -/
def trimmed (n : Nat) (l : List Nat) : List Nat := l.take (max n (l.length - runOf 0 l.reverse))

/-- The dynamic block of a tile (log 11). -/
def dynamicBlock (n : Nat) (toks : List Tok) : List Byte :=
  let lit := trimmed 257 (builtCode n 15 (histogram 286 (256 :: toks.map defSym)))
  let dist := trimmed 1 (builtCode n 15 (histogram 30 (toks.filterMap fun x =>
    match x with | .mtch _ d => some (defDistSym d) | _ => none)))
  let runs := builtRuns n 15 (lit ++ dist)
  let cl := builtCode n 7 (histogram 19 (runs.map Prod.fst))
  let codes := canonicalCodes cl 7
  let order := trimmed 4 (lenOrder.map fun i => nth cl i 0)
  let head := lsbBits 5 (lit.length - 257) ++ lsbBits 5 (dist.length - 1) ++ lsbBits 4 (order.length - 4) ++ order.flatMap (lsbBits 3) ++
    runs.flatMap fun r => codeBits codes r.1 ++ if r.1 < 16 then [] else lsbBits (nth [2, 3, 7] (r.1 - 16) 0) r.2
  blockBytes 2 head (lit, dist) toks

/-- The fixed block of a tile. -/
def fixedBlock (toks : List Tok) : List Byte := blockBytes 1 [] fixedLens toks

/-- The stored-block form of a tile. -/
def storedBlock (img : List Byte) : List Byte :=
  [1, BitVec.ofNat 8 img.length, BitVec.ofNat 8 (img.length / 256), BitVec.ofNat 8 (0xFFFF - img.length),
    BitVec.ofNat 8 ((0xFFFF - img.length) / 256)] ++ img

/-- The shorter of two streams, the first one of two equally long ones. -/
def shorter (a b : List Byte) : List Byte := if b.length < a.length then b else a

/-- The stream of an exported tile: the shortest of the three blocks (R280, R282). -/
def exportStream (n : Nat) (img : List Byte) : List Byte :=
  let toks := deflateToks img
  shorter (shorter (storedBlock img) (fixedBlock toks)) (dynamicBlock n toks)

end Sys2Proof.Machine
end

