-- ==== Sys2Proof/Machine/Flags.lean ====
section
/-! DEFINITION. Every flag computation: STATUS and QUALITY of a completion record (05_streams_and_order R179, R52), lateness
and effective deadlines (R200 to R203), the Tide mark and the plausibility checks (11_integrity R421 to R424), the
interrupt outputs (15_register_map R545), the computed status registers. -/

namespace Sys2Proof.Machine

/-! ### STATUS and QUALITY -/

/-- No condition has arisen. -/
def RunFlags.none : RunFlags := ⟨false, false, false, false, false, false, false, false, false⟩

/-- STATUS of a descriptor that passed its checks, in the priority of R179. -/
def RunFlags.status (f : RunFlags) : Nat :=
  if f.countLimit then 0x05
  else if f.parked then 0x07
  else if f.spaceStop then 0x01
  else if f.dirCorrupt then 0x04
  else if f.tileError then 0x03
  else if f.superseded then 0x02
  else if f.fenceBroken then 0x06
  else 0x00

/-- STATUS of a run: the failed check, else the conditions. -/
def Run.statusCode (r : Run) : Nat := if r.status ≠ 0 then r.status else r.flags.status

/-- The rank of a quality code (02_tile_container R52): the codes 0 to 4 rise with their rank. -/
def worstQuality (a b : Nat) : Nat := max a b

/-! ### Lateness and catch-up (R200 to R203) -/

/-- The cumulative lateness after a descriptor with a deadline (R201). -/
def latenessAfter (l timestamp deadline : Nat) : Nat := min (2 ^ 32 - 1) (l + timestamp - min deadline (l + timestamp))

/-- True when a stream is in catch-up (R202). -/
def Stream.catchup (x : Stream) : Bool := decide (0 < x.lateness)

/-- WEIGHT in force (Table 5-30). -/
def Stream.weightNow (x : Stream) : Nat := if x.catchup then min (4 * x.weight) 255 else x.weight

/-- The effective deadline (R203); none for a descriptor without a deadline. -/
def effDeadline (deadline lateness : Nat) (reached : Option Time) (tMin : Nat) : Option Nat :=
  if deadline = 0 then none
  else if lateness = 0 then some deadline
  else some (max (deadline - lateness) (reached.getD 0 + tMin))

/-- True when an effective deadline lies within the window of its stream (R193). -/
def inWindow (now windowUs : Nat) (eff : Option Nat) : Bool :=
  match eff with
  | some e => decide (e ≤ now + windowUs * 1000)
  | none => false

/-! ### The Tide mark (11_integrity R424) -/

/-- The running envelope of a stream. -/
structure Tide where
  n : Nat
  run : Nat
  age : Nat
  lo : Int
  hi : Int
  deriving DecidableEq, Repr

/-- The envelope after a tile that is not flagged alone: it widens, ages and closes in. -/
def Tide.learn (c : Tide) (e : Int) : Tide :=
  let lo := if c.n = 0 then e else min c.lo e
  let hi := if c.n = 0 then e else max c.hi e
  let age := (c.age + 1) % 256
  let hi1 := if age = 0 ∧ lo < hi then hi - 1 else hi
  let lo1 := if age = 0 ∧ lo < hi1 then lo + 1 else lo
  ⟨min (c.n + 1) 16, 0, age, lo1, hi1⟩

/-- tide_mark of R424: the envelope after a tile with tide exponent e, and whether the tile is flagged. -/
def tideMark (c : Tide) (e : Int) (width : Nat) : Tide × Bool :=
  if width = 0 then (c, false)
  else if 16 ≤ c.n ∧ (c.hi + width < e ∨ e < c.lo - width) then
    if c.run + 1 < 4 then ({ c with run := c.run + 1 }, true)
    else (({ c with n := 0 } : Tide).learn e, true)
  else (c.learn e, false)

/-- The tide exponent of an output tile (R424); none for a tile that is skipped. -/
def tideExp (t : Nat) (img : List Byte) : Option Int :=
  if t = 13 then none
  else
    match maxLog2 (tileValues t img) with
    | none => none
    | some l =>
      if t = 14 then some l
      else if t = 5 ∨ t = 6 ∨ t = 12 then some (maxExp t img)
      else contribExp t (maxExp t img) (tileValues t img)

/-- The envelope check of R422: true when the tile is flagged. -/
def envelopeFlag (envMin envMax mexp : Nat) (zero : Bool) : Bool :=
  !zero && mexp != 0 && envMax != 0 && (decide (envMax < mexp) || decide (mexp < envMin))

/-- The input-bound check of R423: e_o against C + 1 + ceil(log2 P). -/
def boundFlag (eo c : Int) (p : Nat) : Bool := decide (c + 1 + Nat.clog 2 p < eo)

/-! ### Interrupts and status words (15_register_map Tables 15-5 to 15-8) -/

/-- DJ_IRQ_STAT. -/
def State.irqStat (s : State) : Word :=
  BitVec.ofNat 32 (b2n (s.regs.cqPend != 0) + 2 * b2n s.err.irqError + 4 * b2n s.err.irqService + 8 * b2n s.err.irqTest)

/-- The four interrupt outputs, as bits of one number (R545). -/
def State.irqOut (s : State) : Nat := (s.irqStat &&& s.regs.irqEn).toNat

/-- DJ_HEALTH (11_integrity Table 11-12). -/
def State.health (s : State) : Word :=
  let e := s.err
  BitVec.ofNat 32 (pack [(1, b2n (e.byCore || e.byChannel || e.byCe || e.bySram)), (1, b2n e.byCore), (1, b2n e.byChannel),
    (1, b2n e.byCe), (1, b2n e.svcOpen), (1, b2n e.bySram)])

/-- DJ_ERR_STAT (Table 11-11). -/
def State.errStat (s : State) : Word :=
  BitVec.ofNat 32 (pack [(7, min 64 (s.err.head - s.err.ack).toNat), (1, 0), (8, s.err.logLost), (8, s.err.mgDrop),
    (6, s.err.mgq.length)])

/-- Code of a function state (Table 5-28). -/
def FnState.code : FnState → Nat
  | .off => 0 | .on => 1 | .shutting => 2 | .pendingOn => 3

end Sys2Proof.Machine
end

