-- ==== Sys2Proof/Machine/Forms.lean ====
section
/-! DEFINITION. Delivery forms, widening, N:M packing, the delivery sideband and merge slabs (06_expansion R213 to R249). -/

namespace Sys2Proof.Machine

/-- The forms allowed for a stored type (Table 6-4). -/
def formAllowed (t form widen : Nat) : Bool :=
  match form with
  | 0 => widen == 0
  | 1 =>
    (t == 1 && widen == 0) || (t == 2 && widen == 0) ||
      ((t == 3 || t == 4 || t == 5) && (widen == 1 || widen == 2 || widen == 0)) ||
      (t == 6 && (widen == 5 || widen == 1 || widen == 2 || widen == 0))
  | 2 => isMx t && widen == 0
  | 3 => (t == 1 || t == 2 || t == 3 || t == 4 || t == 5) && widen == 0
  | 4 => (t == 1 || t == 2 || t == 3 || t == 4 || t == 5) && widen == 0
  | _ => false

/-- One element widened exactly (R228). -/
def widenCode (src dst code : Nat) : Nat :=
  if dst = 5 then ((signedCode 4 code) % 256).toNat
  else
    match fmtOf dst with
    | none => 0
    | some g =>
      match fmtOf src with
      | none => let v := signedCode (elemBits src) code; g.signed (decide (v < 0)) (g.roundMag v 0)
      | some f =>
        let v := f.value code
        if v.tag = 3 then
          g.signed v.neg ((2 ^ g.eb - 1) * 2 ^ g.mb +
            ((code % 2 ^ f.mb * 2 ^ (g.mb - f.mb)) ||| 2 ^ (g.mb - 1)))
        else if v.tag ≠ 0 then g.inf v.neg
        else g.signed v.neg (g.roundMag v.m v.e)

/-- The widened image of a tile. -/
def widenTile (src dst : Nat) (img : List Byte) : List Byte :=
  bytesOfCodes (elemBits dst) ((tileCodes src img).map (widenCode src dst))

/-- The positions of the slots of a quad (R231); none when it does not fit. -/
def quadSlots (n : Nat) (quad : List Nat) : Option (List Nat) :=
  let nz := (List.range 4).filter fun i => nth quad i 0 != 0
  let z := (List.range 4).filter fun i => nth quad i 0 == 0
  if n < nz.length then none else some ((nz ++ z.take (n - nz.length)).mergeSort (· ≤ ·))

/-- The packed image of an N:M tile (R232); none when a quad does not fit (R233). -/
def packNm (t n : Nat) (img : List Byte) : Option (List Byte) :=
  let codes := tileCodes t img
  let quads := groupsOf 4 (codes.length / 4) codes
  let slots := quads.map (quadSlots n)
  if slots.any (· == none) then none
  else
    let s := slots.map fun x => x.getD []
    let vals := (List.zip quads s).flatMap fun p => p.2.map fun i => nth p.1 i 0
    some (bytesOfCodes (elemBits t) vals ++
      (groupsOf 4 (s.flatten.length / 4) s.flatten).map fun g =>
        BitVec.ofNat 8 (nth g 0 0 + 4 * nth g 1 0 + 16 * nth g 2 0 + 64 * nth g 3 0))

/-- Bytes of an image cut into beats of 512, with the number of valid bytes of each. -/
def cutBeats (img : List Byte) : List (Nat × List Byte × List Byte) :=
  (groupsOf 512 (ceilDiv img.length 512) img).map fun g => (g.length, slice g 0 512, [])

/-- The beats of MX_BLOCK (R230). -/
def mxBeats (t : Nat) (img : List Byte) : List (Nat × List Byte × List Byte) :=
  let n := mxBlocks t
  let w := 32 * elemBits t / 8
  (List.range (ceilDiv n 16)).map fun j =>
    let k := min 16 (n - 16 * j)
    (32 * k,
      slice ((List.range k).flatMap fun b => slice (slice img (w * (16 * j + b)) w) 0 32) 0 512,
      slice ((List.range k).map fun b => BitVec.ofNat 8 (mxScale t img (16 * j + b))) 0 16)

/-- The delivered form of an image: DFORM, DEMOTED, ELEM, and the beats. -/
structure Delivered where
  dform : Nat
  demoted : Bool
  elem : Nat
  beats : List (Nat × List Byte × List Byte)
  deriving DecidableEq, Repr

/-- A tile in its descriptor's form (R227 to R233). -/
def deliverForm (t form widen : Nat) (img : List Byte) : Delivered :=
  match form with
  | 1 => ⟨1, false, widen, cutBeats (widenTile t widen img)⟩
  | 2 => ⟨2, false, t, mxBeats t img⟩
  | 3 => match packNm t 2 img with
    | some p => ⟨3, false, t, cutBeats p⟩
    | none => ⟨0, true, t, cutBeats img⟩
  | 4 => match packNm t 1 img with
    | some p => ⟨4, false, t, cutBeats p⟩
    | none => ⟨0, true, t, cutBeats img⟩
  | _ => ⟨0, false, t, cutBeats img⟩

/-- The beats of a tile in its form whatever its data: those of the zero image (R221). -/
def formShape (t form widen : Nat) : Delivered := deliverForm t form widen (List.replicate 4096 0)

/-- DP_META of one beat by its fields (Table 6-2). -/
structure Meta where
  stream : Nat
  unit : Nat
  beat : Nat
  first : Bool
  last : Bool
  zero : Bool
  demoted : Bool
  dform : Nat
  elem : Nat
  operand : Nat
  bytes : Nat
  kvalid : Nat
  mg : Nat
  slabEnd : Bool
  groupHi : Nat
  deriving DecidableEq, Repr

/-- DP_META without POISON, REPLAY and QUALITY, which the outcome sets. -/
def Meta.word (m : Meta) : BitVec 128 :=
  BitVec.ofNat 128 (pack [(16, m.stream), (32, m.unit), (6, m.beat), (1, b2n m.first), (1, b2n m.last), (1, 0), (1, 0),
    (1, b2n m.zero), (1, b2n m.demoted), (3, m.dform), (4, m.elem), (3, 0), (1, m.operand), (10, m.bytes),
    (6, m.kvalid), (2, m.mg), (1, b2n m.slabEnd), (3, m.groupHi)])

/-- The outcome bits of DP_META: POISON, REPLAY, QUALITY. -/
def outcomeBits (poison replay : Bool) (quality : Nat) : BitVec 128 :=
  BitVec.ofNat 128 (2 ^ 56 * b2n poison + 2 ^ 57 * b2n replay + 2 ^ 67 * quality)

/-- LAST of a DP_META. -/
def metaLast (w : BitVec 128) : Bool := w.toNat.testBit 55
/-- DEMOTED of a DP_META. -/
def metaDemoted (w : BitVec 128) : Bool := w.toNat.testBit 59

/-- The beats of an EXPAND tile with their sideband. -/
def tileBeats (stream tile : Nat) (zero : Bool) (d : Delivered) : List (BitVec 128 × List Byte × List Byte) :=
  let n := d.beats.length
  d.beats.zipIdx.map fun b =>
    ((Meta.word { stream := stream, unit := tile, beat := b.2, first := b.2 == 0, last := b.2 + 1 == n, zero := zero,
                  demoted := d.demoted, dform := d.dform, elem := d.elem, operand := 0, bytes := b.1.1, kvalid := 0,
                  mg := 0, slabEnd := false, groupHi := 0 }), b.1.2.1, b.1.2.2)

/-- A beat with zero data and zero scales (R221). -/
def zeroBeat (b : BitVec 128 × List Byte × List Byte) : BitVec 128 × List Byte × List Byte :=
  (b.1, b.2.1.map fun _ => 0, b.2.2.map fun _ => 0)

/-- The density code of a tile (R244). -/
def densityCode (t : Nat) (img : List Byte) : Nat :=
  let cs := tileCodes t img
  min 7 (8 * (cs.filter (· != 0)).length / cs.length)

/-! ### Merge (R236 to R241) -/

/-- Columns of a W tile (Table 6-8). -/
def mergeTcw (t : Nat) : Nat := if t = 1 ∨ t = 2 then 32 else 64

/-- Rows of an A tile (Table 6-8). -/
def mergeTr (t : Nat) : Nat := if t = 1 ∨ t = 2 then 32 else 64

/-- Rows of a group by its MG code. -/
def mgRows (mg : Nat) : Nat := if mg = 0 then 8 else if mg = 1 then 16 else 32

/-- Element (i, p) of an A tile (R46: position i × 64 + p). -/
def aElem (codes : List Nat) (i p : Nat) : Nat := nth codes (64 * i + p) 0

/-- The K-mask of a sparse K block (R237), as the list of its positions. -/
def kPositions (t : Nat) (rows : List Nat) (a w : List Byte) : List Nat :=
  let ac := tileCodes t a
  let wc := tileCodes t w
  let tcw := mergeTcw t
  (List.range 64).filter fun p =>
    rows.any (fun i => aElem ac i p != 0) && ((wc.drop (tcw * p)).take tcw).any (· != 0)

/-- The beats of one slab: activation part, then weight part (R241, Table 6-9). `at_` is the beat number to start from. -/
def slabBeats (t stream group slab mg : Nat) (firstOfGroup lastOfGroup : Bool) (kvalid : Nat)
    (acols : List (List Nat)) (wrows : List (List Nat)) : List (BitVec 128 × List Byte × List Byte) :=
  let w := elemBits t
  let actCodes := acols.flatMap fun row => (List.range 32).map fun c => nth row c 0
  let wCodes := (List.range 32).flatMap fun c => (List.range (mergeTcw t)).map fun j => nth (nth wrows c []) j 0
  let act := cutBeats (bytesOfCodes w actCodes)
  let wts := cutBeats (bytesOfCodes w wCodes)
  let n := act.length + wts.length
  let parts : List (Nat × Nat × List Byte × List Byte) := act.map (fun b => (0, b)) ++ wts.map (fun b => (1, b))
  parts.zipIdx.map fun x =>
    ((Meta.word { stream := stream, unit := group % 65536 + 65536 * slab, beat := x.2,
                  first := firstOfGroup && x.2 == 0, last := lastOfGroup && x.2 + 1 == n, zero := false,
                  demoted := false, dform := 5, elem := t, operand := x.1.1, bytes := x.1.2.1, kvalid := kvalid, mg := mg,
                  slabEnd := x.2 + 1 == n, groupHi := group / 65536 }), x.1.2.2.1, x.1.2.2.2)

end Sys2Proof.Machine
end

