-- ==== Sys2Proof/Machine/Memory.lean ====
section
/-! DEFINITION. Memory requests, channels, the directory cache and the tile allocator (10_memory_channels R374 to R393, R411;
05_streams_and_order R189, R190; 01_five_levels R18, R25). -/

namespace Sys2Proof.Machine

/-! ### Channels (R381, R384 to R386) -/

/-- The state of a channel that has had no event or command: mapped in, released, not dead (R389). -/
def Chan.fresh (id : Nat) : Chan :=
  { id := id, held := false, holdUs := 0, holdAt := 0, holdReps := 0, dead := false, out := false, unfinished := false }

/-- A channel. -/
def State.chan (s : State) (id : Nat) : Chan := ((s.chans.find? fun c => c.id == id)).getD (Chan.fresh id)

/-- Replaces an item found by key, or adds it. -/
def upsert {α : Type} (p : α → Bool) (x : α) (l : List α) : List α :=
  if l.any p then updFirst p (fun _ => x) l else l ++ [x]

/-- A channel is changed. -/
def State.updChan (id : Nat) (f : Chan → Chan) (s : State) : State :=
  { s with chans := upsert (fun c => c.id == id) (f (s.chan id)) s.chans }

/-- Thermal state of a group (R411). -/
def State.therm (s : State) (group : Nat) : Therm :=
  ((s.therms.find? fun t => t.group == group).map GroupTherm.st).getD .normal

/-- Channel entries of every pool of the die. -/
def State.chanEntries (s : State) : List (Pool × ChanEntry) :=
  (s.chartVal Chart.pools []).flatMap fun p => p.chans.map fun c => (p, c)

/-- The channel entry that holds a byte address (R381). -/
def State.entryOf (s : State) (addr : Nat) : Option (Pool × ChanEntry) :=
  s.chanEntries.find? fun x =>
    decide (x.1.base + 64 * x.2.start ≤ addr) && decide (addr < x.1.base + 64 * (x.2.start + x.2.size))

/-- True when a channel holds requests: held and not dead (R390, R393). -/
def State.heldAddr (s : State) (addr : Nat) : Bool :=
  match s.entryOf addr with
  | some x => (s.chan x.2.chan).held && !(s.chan x.2.chan).dead
  | none => false

/-- True when an address lies on a dead channel (R393). -/
def State.deadAddr (s : State) (addr : Nat) : Bool :=
  match s.entryOf addr with
  | some x => (s.chan x.2.chan).dead
  | none => false

/-- True when an address lies in a group at THERM_CRIT (R411). -/
def State.critAddr (s : State) (addr : Nat) : Bool :=
  match s.entryOf addr with
  | some x => s.therm x.2.group == .crit
  | none => false

/-- True when a span of bytes has a sector on a channel that satisfies a condition. -/
def State.spanOn (s : State) (ok : Chan → Bool) (a n : Nat) : Bool :=
  s.chanEntries.any fun x => ok (s.chan x.2.chan) &&
    decide (a < x.1.base + 64 * (x.2.start + x.2.size)) && decide (x.1.base + 64 * x.2.start < a + n)

/-- True when a read of a span waits in a hold queue (R390). -/
def State.spanHeld (s : State) (a n : Nat) : Bool := s.spanOn (fun c => c.held && !c.dead) a n

/-- Sectors of a span that arrive poisoned: those of a dead channel do (R379, R393). -/
def State.spanLost (s : State) (img : Image) (a n : Nat) : Nat :=
  if s.spanOn Chan.dead a n then
    ((List.range ((a % 64 + n + 63) / 64)).filter fun i =>
      s.deadAddr (a / 64 * 64 + 64 * i) || poisonedSectors img (a / 64 * 64 + 64 * i) 1 != 0).length
  else spanPoison img a n

/-- True when a read of a span delivers no data for one of its sectors. -/
def State.spanBad (s : State) (img : Image) (a n : Nat) : Bool := s.spanOn Chan.dead a n || imgPoison img a n

/-- A channel is eligible for allocation (R384). -/
def State.eligible (s : State) (c : ChanEntry) : Bool :=
  let x := s.chan c.chan
  !x.out && !x.held && !x.dead && s.therm c.group != .crit

/-! ### Requests (R374 to R377, R390) -/

/-- Memory ports in service: enabled by the Chart and ON. -/
def State.memPorts (s : State) : List (Fin 8) :=
  (List.finRange 8).filter fun m =>
    s.chartVal (fun c => c.memEn.toNat.testBit m.val) false && s.mports[m].st == .on

/-- Sectors of a data beat of a memory port (Table 10-1). -/
def State.beatSectors (s : State) (m : Fin 8) : Nat :=
  if s.chartVal (fun c => c.mpGen.toNat.testBit m.val) false then 4 else 2

/-- A request that has no port yet is kept with tag 1024 in the list of requests that wait to be issued. -/
def unissuedTag : Nat := 1024

/-- The first tag from a number on, wrapping, that no outstanding request of the port carries (R375). -/
def State.freeTag (s : State) (m : Fin 8) (start : Nat) : Option Nat :=
  let used := (s.reqs.filter fun r => r.port == m).map MemReq.tag
  ((List.range 1024).map fun i => (start + i) % 1024).find? fun t => !used.contains t

/-- The write job that a write belongs to. -/
def State.writerOf (s : State) (p : Purpose) : Option WJob :=
  match p with
  | .partWrite w _ | .partMap w => s.wjob? w
  | .entryWrite c | .presenceWrite c =>
    (s.commits.find? fun x => x.id == c && x.remote.isNone).bind fun x => s.wjob? x.job
  | _ => none

/-- True for a descriptor of class 6: MIGRATE, SCRUB (Table 5-26). -/
def State.movesTiles (s : State) (n : Nat) (seq : Word) : Bool :=
  (s.stream? n).any fun x => x.runs.any fun r => r.named seq && (dKind r.desc == 0x30 || dKind r.desc == 0x31)

/-- True for a read of class 6. -/
def RJob.classSix (j : RJob) : Bool := j.use == .scrub || j.use == .migrate

/-- True for a write job of class 6: of MIGRATE, SCRUB, or the Causeway, whose jobs have stream number 65,536. -/
def State.jobSix (s : State) (w : WJob) : Bool := w.stream == 65536 || s.movesTiles w.stream w.seq

/-- True for a space whose requests are class 6 work: the Causeway moves it, or it holds staged Chart bytes or a tile of class 6 work
(10_memory_channels R397; 12_chart R476). -/
def State.spillSix (s : State) (x : Spill) : Bool :=
  x.moving || match x.of_ with
    | .chartBytes _ => true
    | .image w => (s.wjob? w).any s.jobSix
    | .payload j => (s.rjob? j).any RJob.classSix
    | _ => false

/-- True for class 6 work: a tile read or written by MIGRATE, SCRUB or the Causeway, for this cluster or for another one whose tensor or
pool is homed here, the pages that a Causeway moves, and the fetch and staging of a Chart (Table 5-26; 10_memory_channels R397; 12_chart
R476). -/
def State.classSix (s : State) (p : Purpose) : Bool :=
  match p with
  | .presence j | .entry j | .payload j _ => (s.rjob? j).any RJob.classSix
  | .chart _ => true
  | .spillMap i | .spillWrite i | .spillRead i | .spillAgain i => (s.lagoon.find? fun x => x.id == i).any s.spillSix
  | .entryWrite c | .presenceWrite c => (s.commits.find? fun x => x.id == c).any fun x =>
      if x.remote.isSome then x.cls == 6 else (s.wjob? x.job).any s.jobSix
  | .remoteMap _ _ cls => cls == 6
  | _ => (s.writerOf p).any s.jobSix

/-- A request may not be issued now: its channel is held (R390) or dead (R393), or it is class 6 work on a group at
THERM_CRIT (R411). -/
def State.mustWait (s : State) (r : MemReq) : Bool :=
  s.heldAddr r.addr || s.deadAddr r.addr || (s.critAddr r.addr && s.classSix r.purpose)

/-- The clock of a memory port (R374). -/
def memClk (m : Fin 8) : Clk := if m.val < 2 then .mclk0 else if m.val < 4 then .mclk1 else if m.val < 6 then .mclk2 else .mclk3

/-- The bit of a clock in DJ_CLK_STAT (13_clocks_power_lifecycle R491). -/
def State.clkIsLost (s : State) (c : Clk) : Bool := s.regs.clkStat.getLsbD c.ctorIdx

/-- True for a memory port that the applied Chart enables; without one only the port of the Chart fetch works (12_chart R475). -/
def State.portEnabled (s : State) (m : Fin 8) : Bool := s.chartVal (fun c => c.memEn.toNat.testBit m.val) true

/-- True when a port takes no request now: the Chart disables it (16_integration R561), it is not ON (Table 13-5), or its clock is lost
(R491). -/
def State.portStops (s : State) (m : Fin 8) : Bool := !s.portEnabled m || s.mports[m].st != .on || s.clkIsLost (memClk m)

/-- True when a request can be issued as soon as its port has a tag. -/
def State.issuable (s : State) (r : MemReq) : Bool := !s.mustWait r && !s.portStops r.port

/-- A request is issued on its port, or waits: in the hold queue (R390), or for a free tag behind the requests that wait for one
(R375; 05_streams_and_order R192). -/
def State.issue (r : MemReq) (s : State) : State :=
  if !s.issuable r then
    let n := (s.holdq.filter fun x => x.port == r.port && s.heldAddr x.addr).length
    let s1 := { s with holdq := s.holdq ++ [{ r with tag := unissuedTag }] }
    if 64 ≤ n ∧ s.heldAddr r.addr then s1.bump .holdQfull else s1
  else
    match (if s.holdq.any fun x => x.port == r.port && s.issuable x then none else s.freeTag r.port s.choice) with
    | some t => { s.chosen with reqs := s.reqs ++ [{ r with tag := t }] }
    | none => { s with holdq := s.holdq ++ [{ r with tag := unissuedTag }] }

/-- The memory port that the block chooses for the i-th request from now on (16_integration R560; log 7): one in service, or, while none is, an
enabled one, at which the request waits. A Chart enables at least one (12_chart R461). -/
def State.portFor (s : State) (i : Nat) : Fin 8 :=
  let n := Config.choice (s.freeCtr + i)
  ((pick s.memPorts n).or (pick ((List.finRange 8).filter s.portEnabled) n)).getD 0

/-- Sectors of a span cut at the boundaries of the beat size (R375): first address and sectors of each piece. -/
def cutSpan (beat : Nat) : Nat → Nat → Nat → List (Nat × Nat)
  | 0, _, _ => []
  | _, _, 0 => []
  | fuel + 1, addr, n =>
    let k := min n (beat - addr / 64 % beat)
    (addr, k) :: cutSpan beat fuel (addr + 64 * k) (n - k)

/-- The requests of a span: each goes to the port that is chosen for it and is cut at the boundaries of that port's beat size (R375): port,
first address and sectors. -/
def State.spanCuts (s : State) : Nat → Nat → Nat → Nat → List (Fin 8 × Nat × Nat)
  | 0, _, _, _ => []
  | _, _, _, 0 => []
  | fuel + 1, i, addr, n =>
    let m := s.portFor i
    let k := min n (s.beatSectors m - addr / 64 % s.beatSectors m)
    (m, addr, k) :: s.spanCuts fuel (i + 1) (addr + 64 * k) (n - k)

/-- A request that has not been issued yet. -/
def newReq (m : Fin 8) (k : ReqKind) (addr n : Nat) (data : List Byte) (why : Purpose) : MemReq :=
  { port := m, tag := 0, kind := k, addr := addr, sectors := n, data := data, purpose := why, tries := 0 }

/-- MPm_REQ_WDATA of a request (16_integration R559): its sectors from byte 0 on, or the 16 bytes of a WRITE16, and zeros; so the upper half is
zero under MP3. -/
def MemReq.wdata (r : MemReq) : List Byte := slice r.data 0 256

/-- The requests of a span, in order. -/
def State.spanReqs (s : State) (addr n : Nat) : List (Fin 8 × Nat × Nat) := s.spanCuts n 0 addr n

/-- Reads n sectors from an address; each request names its first byte in its purpose. -/
def State.readSpan (addr n : Nat) (why : Nat → Purpose) (s : State) : State :=
  let l := s.spanReqs addr n
  forAll l (fun p s => s.issue (newReq p.1 .read p.2.1 p.2.2 [] (why p.2.1))) (s.choseN l.length)

/-- Writes whole sectors from an address. -/
def State.writeSpan (addr : Nat) (data : List Byte) (why : Purpose) (s : State) : State :=
  let l := s.spanReqs addr (ceilDiv data.length 64)
  forAll l (fun p s => s.issue (newReq p.1 .write p.2.1 p.2.2 (slice data (p.2.1 - addr) (64 * p.2.2)) why)) (s.choseN l.length)

/-- Writes 16 bytes at a 16-byte aligned address (WRITE16). -/
def State.write16 (addr : Nat) (data : List Byte) (why : Purpose) (s : State) : State :=
  s.chosen.issue (newReq (s.portFor 0) .write16 addr 1 data why)

/-- The requests that a span needs, for counting acknowledgements. -/
def State.spanPieces (s : State) (addr n : Nat) : Nat := (s.spanReqs addr n).length

/-- The requests of some work are withdrawn: they leave the hold queue, and the answers of those issued are discarded
(R191). -/
def State.dropReqs (p : Purpose → Bool) (s : State) : State :=
  { s with
    holdq := s.holdq.filter fun r => !p r.purpose
    reqs := updWhere (fun r => p r.purpose) (fun r => { r with purpose := .discarded }) s.reqs }

/-! ### The directory cache (01_five_levels Table 1-3, R25; the set of an entry: log 17) -/

/-- The set of an entry. -/
def cacheSet (addr : Nat) : Nat := addr / 16 % 4096

/-- An entry in the cache. -/
def State.cached (s : State) (addr : Nat) : Option (BitVec 128) := (s.dirCache.find? fun c => c.1 == addr).map Prod.snd

/-- Keeps the first n items that satisfy a condition, and every other item. -/
def capBy {α : Type} (p : α → Bool) : Nat → List α → List α
  | _, [] => []
  | n, x :: xs =>
    if p x then
      match n with
      | 0 => capBy p 0 xs
      | n + 1 => x :: capBy p n xs
    else x :: capBy p n xs

/-- An entry becomes the most recently used of its set; the least recently used of eight leaves (R18). -/
def State.cacheTouch (addr : Nat) (e : BitVec 128) (s : State) : State :=
  let rest := s.dirCache.filter fun c => c.1 != addr
  { s with dirCache := capBy (fun c => cacheSet c.1 == cacheSet addr) 8 ((addr, e) :: rest) }

/-- An entry leaves the cache (R25). -/
def State.cacheDrop (addr : Nat) (s : State) : State := { s with dirCache := s.dirCache.filter fun c => c.1 != addr }

/-- An entry has changed: a read of it that is under way does not fill the cache. -/
def State.entryChanged (addr : Nat) (s : State) : State :=
  { s with rjobs := s.rjobs.map fun j =>
      if j.stage == .entry && entryAddr j.trec j.tile == addr then { j with noFill := true } else j }

/-- An invalidation (R25). -/
def State.invalidate (addr : Nat) (s : State) : State := (s.cacheDrop addr).entryChanged addr

/-! ### Runs of sectors -/

/-- Adds a run to a list of disjoint runs in ascending order. -/
def insertRun (r : Nat × Nat) : List (Nat × Nat) → List (Nat × Nat)
  | [] => [r]
  | x :: xs => if r.1 < x.1 then r :: x :: xs else x :: insertRun r xs

/-- Joins runs that touch, in one ascending list. -/
def joinRuns : List (Nat × Nat) → List (Nat × Nat)
  | [] => []
  | x :: xs =>
    match joinRuns xs with
    | [] => [x]
    | y :: ys => if x.1 + x.2 = y.1 then (x.1, x.2 + y.2) :: ys else x :: y :: ys

/-- Removes the sectors from a up to b from a list of runs. -/
def cutRuns (a b : Nat) (l : List (Nat × Nat)) : List (Nat × Nat) :=
  l.flatMap fun r =>
    (if r.1 < min a (r.1 + r.2) then [(r.1, min a (r.1 + r.2) - r.1)] else []) ++
      (if max b r.1 < r.1 + r.2 then [(max b r.1, r.1 + r.2 - max b r.1)] else [])

/-- The parts of a run that lie from a up to b. -/
def clipRun (a b : Nat) (r : Nat × Nat) : Nat × Nat := (max a r.1, min b (r.1 + r.2) - max a r.1)

/-- The runs of a list inside the sectors from a up to b. -/
def clipRuns (a b : Nat) (l : List (Nat × Nat)) : List (Nat × Nat) := (l.map (clipRun a b)).filter fun r => r.2 != 0

/-- Sectors of a list of runs. -/
def runTotal (l : List (Nat × Nat)) : Nat := (l.map Prod.snd).sum

/-- True when every sector of a run lies in one of the runs. -/
def coveredBy (r : Nat × Nat) (l : List (Nat × Nat)) : Bool := runTotal (clipRuns r.1 (r.1 + r.2) l) == r.2

/-! ### The tile allocator (R382 to R385) -/

/-- Allocation state of a pool that this cluster allocates. -/
def State.poolSt? (s : State) (id : Nat) : Option PoolSt := s.pools.find? fun p => p.id == id

/-- It is changed. -/
def State.updPool (id : Nat) (f : PoolSt → PoolSt) (s : State) : State :=
  { s with pools := updFirst (fun p => p.id == id) f s.pools }

/-- EPOCH_US in nanoseconds (05_streams_and_order R190). -/
def State.epochNs (s : State) : Nat := s.chartVal Chart.epochUs 50 * 1000

/-- The current reader epoch (R190). -/
def State.epoch (s : State) : Nat := s.time / s.epochNs

/-- READY: the two epochs after a rebuild are over (R383). -/
def State.poolReady (s : State) (p : PoolSt) : Bool := decide (p.readyEpoch ≤ s.epoch)

/-- The start of the list walk for tile t of a tensor record at an address (R384). -/
def walkStart (recAddr tile c : Nat) : Nat := (tile + bits recAddr 38 7 % c) % c

/-- The smallest free run of an extent that holds n sectors, at the lowest address (R384). -/
def bestRun (c : ChanEntry) (n : Nat) (free : List (Nat × Nat)) : Option (Nat × Nat) :=
  (clipRuns c.start (c.start + c.size) free).foldl (fun best r =>
    if r.2 < n then best
    else match best with
      | none => some r
      | some b => if r.2 < b.2 then some r else best) none

/-- Places one payload of n sectors: the list from index k on, wrapping; the channel's distance from its start and the
first sector. -/
def placeFrom (ok : ChanEntry → Bool) (chans : List ChanEntry) (k n : Nat) (free : List (Nat × Nat)) :
    Option (Nat × Nat) :=
  ((List.range chans.length).findSome? fun i =>
    match chans[(k + i) % chans.length]? with
    | none => none
    | some c => if ok c then (bestRun c n free).map fun r => (i, r.1) else none)

/-- Places the payloads of a request, all or none (R384, R385): for each (offset from the starting list position, sectors).
Returns the first sectors, the free runs left, and the payloads off their starting channel. -/
def placeAll (ok : ChanEntry → Bool) (chans : List ChanEntry) (k : Nat) :
    List (Nat × Nat) → List (Nat × Nat) → Option (List Nat × List (Nat × Nat) × Nat)
  | [], free => some ([], free, 0)
  | (off, n) :: rest, free =>
    match placeFrom ok chans (k + off) n free with
    | none => none
    | some (i, a) =>
      (placeAll ok chans k rest (cutRuns a (a + n) free)).map fun q =>
        (a :: q.1, q.2.1, q.2.2 + (if i = 0 then 0 else 1))

/-- The 64 bytes of the allocation map that hold the bit of a sector (R382). -/
def mapSector (used : List (Nat × Nat)) (m : Nat) : List Byte :=
  (List.range 64).map fun b => BitVec.ofNat 8
    (((List.range 8).filter fun i => coveredBy (512 * m + 8 * b + i, 1) used).foldl (fun x i => x + 2 ^ i) 0)

/-- Map sectors that a run of sectors touches. -/
def mapSectors (a n : Nat) : List Nat := (List.range ((a + n - 1) / 512 + 1 - a / 512)).map (· + a / 512)

/-- Writes the map sectors of a run as the used runs now say. -/
def State.writeMap (pool a n : Nat) (why : Purpose) (s : State) : State :=
  match s.pool? pool, s.poolSt? pool with
  | some p, some ps =>
    forAll (mapSectors a n) (fun m s => s.writeSpan (p.mapBase + 64 * m) (mapSector ps.used m) why) s
  | _, _ => s

/-- True when a run lies on a mapped-out channel. -/
def State.onMappedOut (s : State) (p : Pool) (a : Nat) : Bool :=
  p.chans.any fun c => decide (c.start ≤ a) && decide (a < c.start + c.size) && (s.chan c.chan).out

/-- Free runs join within their extents. -/
def joinFree (p : Pool) (free : List (Nat × Nat)) : List (Nat × Nat) :=
  let l := p.chans.foldl (fun acc c => (joinRuns (clipRuns c.start (c.start + c.size) free)).foldl
    (fun a r => insertRun r a) acc) []
  l

/-- Sectors of LOST tiles in a pool. -/
def State.lostIn (s : State) (pool : Nat) : List (Nat × Nat) := (s.lost.filter fun x => x.1 == pool).map Prod.snd

/-- The sectors of a LOST tile are counted apart from other sectors in use (R400, R404). -/
def State.loseSectors (pool a n : Nat) (s : State) : State :=
  if coveredBy (a, n) (s.lostIn pool) then s else { s with lost := s.lost ++ [(pool, a, n)] }

/-- Released sectors belong to no LOST tile any more. -/
def State.found (pool a n : Nat) (s : State) : State :=
  { s with lost := s.lost.flatMap fun x =>
      if x.1 = pool then (cutRuns a (a + n) [x.2]).map fun r => (pool, r.1, r.2) else [x] }

/-- Sectors go back at once to the free list: no entry has named them (R269, Table 5-27). Their map bits are cleared. -/
def State.discardSectors (pool a n : Nat) (s : State) : State :=
  match s.pool? pool with
  | none => s
  | some p =>
    let out := s.onMappedOut p a
    let s1 := s.updPool pool fun ps => { ps with
      used := cutRuns a (a + n) ps.used
      free := if out then ps.free else joinFree p (insertRun (a, n) ps.free) }
    (s1.found pool a n).writeMap pool a n .mapBit

/-- The runs of the sectors from a up to a + n that lie inside an extent of a pool and are in use (R189). -/
def reclaimable (p : Pool) (used : List (Nat × Nat)) (a n : Nat) : List (Nat × Nat) :=
  p.chans.flatMap fun c => (clipRuns c.start (c.start + c.size) used).flatMap fun r => clipRuns a (a + n) [r]

/-- Sectors that an entry named are released: their map bits are cleared and they wait two epochs (R189, R190). Only
sectors inside an extent whose bits are set are reclaimed; sectors of a mapped-out channel join no free list. -/
def State.releaseSectors (pool a n : Nat) (s : State) : State :=
  match s.pool? pool, s.poolSt? pool with
  | some p, some ps =>
    forAll (reclaimable p ps.used a n) (fun r s =>
      let s1 := s.updPool pool fun q => { q with
        used := cutRuns r.1 (r.1 + r.2) q.used
        delayed := if s.onMappedOut p r.1 then q.delayed else q.delayed ++ [(s.epoch, r.1, r.2)] }
      (s1.found pool r.1 r.2).writeMap pool r.1 r.2 .mapBit) s
  | _, _ => s

/-- A release or a discard goes to the pool's allocating cluster, over the die ring when that is another one (R189). -/
def State.sendRelease (pool a n : Nat) (discard : Bool) (s : State) : State :=
  match s.poolSt? pool with
  | some _ => if discard then s.discardSectors pool a n else s.releaseSectors pool a n
  | none => s.sendRing (.release pool a n discard)

/-- Sectors released in epoch n return to the free list at the start of epoch n + 2 (R190). -/
def State.reclaim (s : State) : State :=
  let now := s.epoch
  { s with pools := s.pools.map fun ps =>
      match s.pool? ps.id with
      | none => ps
      | some p =>
        let due := ps.delayed.filter fun d => decide (d.1 + 2 ≤ now) && !s.onMappedOut p d.2.1
        { ps with
          free := joinFree p (due.foldl (fun l d => insertRun (d.2.1, d.2.2) l) ps.free)
          delayed := ps.delayed.filter fun d => decide (now < d.1 + 2) } }

/-- Sectors of mapped-in extents (DJ_POOL_CAP). -/
def State.poolCap (s : State) (p : Pool) : Nat :=
  ((p.chans.filter fun c => !(s.chan c.chan).out).map ChanEntry.size).sum

/-- Free sectors on eligible channels (DJ_POOL_FREE). -/
def State.poolFree (s : State) (p : Pool) (ps : PoolSt) : Nat :=
  ((p.chans.filter s.eligible).map fun c => runTotal (clipRuns c.start (c.start + c.size) ps.free)).sum

/-- Sectors still in use on mapped-out channels whose Causeway has finished, less those of LOST tiles (DJ_POOL_RESIDUE). -/
def State.poolResidue (s : State) (p : Pool) (ps : PoolSt) : Nat :=
  ((p.chans.filter fun c => (s.chan c.chan).out && !(s.chan c.chan).unfinished && !(s.causeway.any fun k => k.chan == c.chan)).map fun c =>
    runTotal (clipRuns c.start (c.start + c.size) ps.used) - runTotal (clipRuns c.start (c.start + c.size) (s.lostIn p.id))).sum

/-! ### Spill space (01_five_levels R21, R23, R32 to R35; contents in memory: log 18) -/

/-- The pool of the Lagoon. -/
def State.lagoonPool (s : State) : Nat := s.chartVal Chart.lagoonPool 0
/-- The pool of the staging region. -/
def State.stagingPool (s : State) : Nat := s.chartVal Chart.stagingPool 0

/-- True for what overflows to the staging region; the rest goes to the Lagoon (Table 1-11). -/
def SpillOf.staging : SpillOf → Bool
  | .spare b => b
  | .context _ | .history _ _ _ | .wiped _ | .directory | .records _ _ => false
  | .image _ | .payload _ | .addend _ _ | .received _ _ | .outgoing _ _ | .early _ _ | .sum _ | .chartBytes _ => true

/-- The pool of a region. -/
def State.spillPool (s : State) (staging : Bool) : Nat := if staging then s.stagingPool else s.lagoonPool

/-- Space that holds nothing yet. -/
def Spill.new (id : Nat) (o : SpillOf) (pool first sectors : Nat) (asked : Bool) (maps : Nat) : Spill :=
  { id := id, of_ := o, pool := pool, first := first, sectors := sectors, asked := asked, full := false, maps := maps, dirty := [],
    writes := 0, want := false, reads := 0, came := false, poison := none, moving := false }

/-- The space that holds some data. -/
def State.spill? (s : State) (o : SpillOf) : Option Spill := s.lagoon.find? fun x => x.of_ == o && !x.asked

/-- A space is changed. -/
def State.updSpill (id : Nat) (f : Spill → Spill) (s : State) : State :=
  { s with lagoon := updFirst (fun x => x.id == id) f s.lagoon }

/-- A request of this cluster for sectors of a pool goes to the pool's allocating cluster (R21). -/
def State.ask (o : AskOf) (r : RemoteRequest) (s : State) : State :=
  { s.numbered.sendRing (.request { r with cluster := s.clusterNo, job := s.nextId }) with
    asks := s.asks ++ [OwnAsk.mk o { r with cluster := s.clusterNo, job := s.nextId }] }

/-- A request for spill space. It serves the next spill of its size, of whatever stream, and so ranks with class 1 (log 57). -/
def spillRequest (pool n : Nat) : RemoteRequest :=
  { cluster := 0, job := 0, pool := pool, recAddr := 0, tile := 0, sizes := [(0, n)], cls := 1, urgent := none, stream := 65537, weight := 1 }

/-- Takes n sectors for data that spills, and says whether there are any. Sectors of a pool that this cluster allocates come from its
free list; others are asked of the pool's allocating cluster, and serve the next spill of their size once it has granted them. `moving` is for
a page that the Causeway moves there. -/
def State.spillSpaceFor (moving : Bool) (o : SpillOf) (n : Nat) (s : State) : State × Bool :=
  let pool := s.spillPool o.staging
  match s.pool? pool, s.poolSt? pool with
  | some p, some ps =>
    match (if s.poolReady ps then placeAll s.eligible p.chans 0 [(0, n)] ps.free else none) with
    | some (a :: _, free, _) =>
      let s1 := s.numbered.updPool pool fun q => { q with free := free, used := insertRun (a, n) q.used }
      let x := { Spill.new s.nextId o pool a n false (mapSectors a n).length with moving := moving }
      ({ s1 with lagoon := s1.lagoon ++ [x] }.writeMap pool a n (.spillMap x.id), true)
    | _ => (s, false)
  | some _, none =>
    match s.lagoon.find? fun x => x.of_ == .spare o.staging && x.sectors == n && !x.moving with
    | some x =>
      if x.asked then (s, false) else (s.updSpill x.id fun y => { y with of_ := o, moving := moving }, true)
    | none =>
      let x := Spill.new s.nextId (.spare o.staging) pool 0 n true 0
      ({ s.numbered with lagoon := s.lagoon ++ [x] }.ask (.spill x.id)
        (spillRequest pool n), false)
  | none, _ => (s, false)

/-- Space for data that spills. -/
def State.spillSpace (o : SpillOf) (n : Nat) (s : State) : State × Bool := s.spillSpaceFor false o n

/-- True for data that the block holds itself: it has not been spilled, or is back (R32). -/
def State.inPlace (s : State) (o : SpillOf) : Bool :=
  match s.spill? o with
  | none => true
  | some x => x.came && x.poison.isNone

/-- True when a region has no free space for a spill: its allocator, this cluster or another, has none (R35). -/
def State.spillFull (s : State) (staging : Bool) : Bool :=
  match s.poolSt? (s.spillPool staging) with
  | some ps => s.poolReady ps
  | none => s.lagoon.any fun x => x.of_ == .spare staging && x.asked && x.full

/-- Byte address of a sector of a space. -/
def State.spillAddr (s : State) (x : Spill) (off : Nat) : Nat := ((s.pool? x.pool).map Pool.base).getD 0 + 64 * (x.first + off)

/-- The bytes that the block writes to its own space: zeros where it wipes (06_expansion R245; 13_clocks_power_lifecycle R502); else their
layout is its working state (08_accumulation R325; log 18). -/
def State.spillBytes (s : State) (o : SpillOf) (n : Nat) : List Byte :=
  match o with
  | .wiped _ => List.replicate (64 * n) 0
  | _ => slice (Config.bytes s.freeCtr) 0 (64 * n)

/-- What waits for a space is issued: writes after its map bits are set, then the read that brings the contents back. -/
def State.spillGo (id : Nat) (s : State) : State :=
  match s.lagoon.find? fun x => x.id == id with
  | none => s
  | some x =>
    if x.asked ∨ x.maps ≠ 0 then s
    else
      let s1 := forAll x.dirty (fun d s =>
        let a := s.spillAddr x d.1
        (s.updSpill id fun y => { y with writes := y.writes + s.spanPieces a d.2 }).writeSpan a (s.spillBytes x.of_ d.2) (.spillWrite id))
        (s.updSpill id fun y => { y with dirty := [] })
      if x.dirty ≠ [] ∨ x.writes ≠ 0 ∨ !x.want ∨ x.came ∨ x.reads ≠ 0 then s1
      else
        let a := s1.spillAddr x 0
        (s1.updSpill id fun y => { y with reads := s1.spanPieces a x.sectors }).readSpan a x.sectors fun _ => .spillRead id

/-- Sectors of a space are written. -/
def State.spillStore (o : SpillOf) (off n : Nat) (s : State) : State :=
  match s.spill? o with
  | none => s
  | some x => (s.updSpill x.id fun y => { y with dirty := y.dirty ++ [(off, n)], came := false, want := false, poison := none }).spillGo x.id

/-- A space is wiped: zeros are written to it, and it is freed when they are acknowledged (06_expansion R245). -/
def State.spillWipe (x : Spill) (s : State) : State :=
  (s.updSpill x.id fun y => { y with of_ := .wiped x.id, dirty := [(0, x.sectors)], want := false, poison := none }).spillGo x.id

/-- The contents of a space are asked back. -/
def State.spillLoad (o : SpillOf) (s : State) : State :=
  match s.spill? o with
  | none => s
  | some x => if x.want then s else (s.updSpill x.id fun y => { y with want := true }).spillGo x.id

/-- A map write of a space is acknowledged (R382). -/
def State.spillMapped (id : Nat) (s : State) : State := (s.updSpill id fun y => { y with maps := y.maps - 1 }).spillGo id

/-- A write to a space is acknowledged. -/
def State.spillWritten (id : Nat) (s : State) : State := (s.updSpill id fun y => { y with writes := y.writes - 1 }).spillGo id

/-- Contents of a space arrive: the first poisoned sector is kept, and the last request makes them whole. -/
def Spill.arrived (bad : Option Nat) (x : Spill) : Spill :=
  { x with
    reads := x.reads - 1
    came := decide (x.reads ≤ 1)
    poison := if x.poison.isSome then x.poison else bad }

/-- The requests of a space. -/
def Purpose.ofSpill (id : Nat) : Purpose → Bool
  | .spillMap x | .spillWrite x | .spillRead x | .spillAgain x => x == id
  | _ => false

/-- A space is freed: its sectors go back to the pool's allocating cluster (R34). -/
def State.spillDrop (x : Spill) (s : State) : State :=
  let s1 := { s with
    lagoon := s.lagoon.filter fun y => y.id != x.id
    asks := updWhere (fun a => a.of_ == AskOf.spill x.id) (fun a => { a with of_ := .gone }) s.asks }.dropReqs (Purpose.ofSpill x.id)
  if x.asked then s1 else s1.sendRelease x.pool x.first x.sectors true

end Sys2Proof.Machine
end

