-- ==== Sys2Proof/Machine/Sched.lean ====
section
/-! DEFINITION. Cores, roles and arbitration (01_five_levels R15 to R17, 05_streams_and_order R192 to R195, R203, R567,
12_chart R460). -/

namespace Sys2Proof.Machine

/-! ### Runs and their order -/

/-- SEQ of a run. -/
def Run.seq (r : Run) : Word := dSeq r.desc
/-- KIND of a run. -/
def Run.kind (r : Run) : Nat := dKind r.desc

/-- The residual record of the tensor that a run writes (04_bounded_loss R140). -/
def Run.resRec (r : Run) : BitVec 1024 := if r.kind = 0x11 then r.rec3 else r.rec2

/-- The run of a stream with a SEQ. -/
def State.run? (s : State) (n : Nat) (seq : Word) : Option Run :=
  (s.stream? n).bind fun x => x.runs.find? (Run.named seq)

/-- The runs of a stream in front of a SEQ. -/
def runsBefore (seq : Word) : List Run → List Run
  | [] => []
  | r :: rs => if r.named seq then [] else r :: runsBefore seq rs

/-- True when every unit of a run has ended. -/
def Run.allDone (r : Run) : Bool := r.finished || (r.started && decide (r.total ≤ r.doneUnits))

/-- True when it is the turn of a unit of a run: every earlier descriptor and every earlier unit of its stream has been
delivered, sent or committed, or has failed (R182). -/
def State.turn (s : State) (n : Nat) (seq : Word) (unit : Nat) : Bool :=
  match s.stream? n with
  | none => false
  | some x =>
    (runsBefore seq x.runs).all Run.allDone &&
      match x.runs.find? (Run.named seq) with
      | some r => r.doneUnits == unit
      | none => false

/-! ### Roles and cores -/

/-- What a tile's work needs of a core: a role bit, a port, one given core. -/
structure Need where
  role : Option Nat
  port : Option (PortKind × Nat)
  only : Option (Fin 16)
  deriving DecidableEq, Repr

/-- Entry of the FABRIC section of a port (12_chart R459). -/
def fabricIndex (k : PortKind) (i : Nat) : Nat :=
  match k with
  | .delivery => i | .intake => 8 + i | .link => 12 + i | .memory => 16

/-- CORE_MASK of a port; every core for a port without an entry. -/
def State.coreMask (s : State) (k : PortKind) (i : Nat) : Nat :=
  if k = .memory then 65535
  else s.chartVal (fun c => (nth c.fabric (fabricIndex k i) 0).toNat) 0

/-- The role bit, if any, that a kind of descriptor needs (R16, R284): 0 EXPAND, 1 COMPRESS, 2 REDUCE, 3 MERGE. -/
def kindRole (k : Nat) : Option Nat :=
  if k = 1 then some 0
  else if k = 2 ∨ k = 3 ∨ k = 4 then some 1
  else if k = 0x10 ∨ k = 0x11 ∨ k = 0x20 ∨ k = 0x21 then some 2
  else if k = 0x12 then some 3
  else none

/-- The port that a descriptor's work uses. -/
def descPort (d : BitVec 512) : Option (PortKind × Nat) :=
  let k := dKind d
  if k = 1 then some (.delivery, dDport d)
  else if k = 0x12 then some (.delivery, dMergePort d)
  else if (k = 2 ∨ k = 3) ∧ dSource d < 4 then some (.intake, dSource d)
  else if k = 0x20 ∨ k = 0x21 then some (.link, dLport d)
  else none

/-- What a descriptor's work needs. -/
def descNeed (d : BitVec 512) : Need := ⟨kindRole (dKind d), descPort d, none⟩

/-- A core is active, not retired, and meets R16 and R460 for some work. -/
def State.mayServe (s : State) (need : Need) (c : Fin 16) : Bool :=
  s.active c && !(s.core c).retired &&
    (match need.role with | some r => (s.roles c).testBit r | none => true) &&
    (match need.port with | some p => (s.coreMask p.1 p.2).testBit c.val | none => true) &&
    (match need.only with | some o => o == c | none => true)

/-- Cores that could serve some work (R17). -/
def State.servers (s : State) (need : Need) : List (Fin 16) := (List.finRange 16).filter (s.mayServe need)

/-- Those of them that are ON (R567). -/
def State.onServers (s : State) (need : Need) : List (Fin 16) :=
  (s.servers need).filter fun c => (s.core c).fn.st == .on

/-- True when an engine holds a tile. -/
def State.engineBusy (s : State) (c : Fin 16) (e : Fin 8) : Bool :=
  s.rjobs.any (fun j => j.stage == .onEngine c e) || s.wjobs.any (fun j => j.stage == .onEngine c e)

/-- Free engines of a core. -/
def State.freeEngines (s : State) (c : Fin 16) : List (Fin 8) :=
  (List.finRange 8).filter fun e => !s.engineBusy c e

/-- True when the checker decoder of a core holds a tile. -/
def State.checkerBusy (s : State) (c : Fin 16) : Bool :=
  s.wjobs.any fun j => j.parts.any fun p =>
    match p.verify with
    | .checking b => b == c
    | .third _ x _ => x == c
    | _ => false

/-- Cores on which a free engine may take some work, with the engine. -/
def State.engineSlots (s : State) (need : Need) : List (Fin 16 × Fin 8) :=
  (s.onServers need).flatMap fun c => (s.freeEngines c).map fun e => (c, e)

/-! ### Deadlines (R203) -/

/-- A clock in MHz as software has written it (13_clocks_power_lifecycle Table 13-6). -/
def State.mhz (s : State) (c : Clk) : Nat :=
  match c with
  | .eclk => bits s.regs.clkMhz0.toNat 15 0
  | .dclk => bits s.regs.clkMhz0.toNat 31 16
  | .lclk => bits s.regs.clkMhz1.toNat 15 0
  | .hclk => bits s.regs.clkMhz1.toNat 31 16
  | .mclk0 => bits s.regs.clkMhz2.toNat 15 0
  | .mclk1 => bits s.regs.clkMhz2.toNat 31 16
  | .mclk2 => bits s.regs.clkMhz3.toNat 15 0
  | .mclk3 => bits s.regs.clkMhz3.toNat 31 16

/-- Nanoseconds for bytes at beats of a size and a clock in MHz (R203). DESIGN CHOICE: rounded up to a whole nanosecond, and 0 while the
clock's field is 0 (log 78). -/
def portTime (bytes beat mhz : Nat) : Nat := if mhz = 0 then 0 else ceilDiv (bytes * 1000) (beat * mhz)

/-- The slowest enabled memory port: nanoseconds for bytes. -/
def State.memTime (s : State) (bytes : Nat) : Nat :=
  (((List.finRange 8).filter fun m => s.chartVal (fun c => c.memEn.toNat.testBit m.val) false).map fun m =>
    portTime bytes (64 * s.beatSectors m)
      (s.mhz (memClk m))).foldl max 0

/-- Stored tiles of a logical tile of a collective tensor (09_collectives R337). -/
def perLogical (r : BitVec 1024) : Nat := if recType r = 14 then 8 else 1

/-- Stored tiles of the chunks that a collective names (09_collectives R336, R337). -/
def collTiles (d : BitVec 512) (r : BitVec 1024) : Nat :=
  min (recTiles r) ((dFirst d + dChunks d) * 16 * perLogical r) - dFirst d * 16 * perLogical r

/-- t_min of a descriptor (Table 5-32). -/
def State.tMin (s : State) (r : Run) : Nat :=
  let d := r.desc
  let k := dKind d
  if k = 1 then
    portTime (512 * (formShape (recType r.rec1) (dForm d) (dWiden d)).beats.length * dCount d) 512 (s.mhz .dclk)
  else if k = 0x12 then
    let w := elemBits (recType r.rec1)
    let act := ceilDiv (mgRows (if dMg d = 3 then 0 else dMg d) * 32 * w / 8) 512
    let groups := if dMg d = 3 then dGroups d * (recTr r.rec1 / 8) else dGroups d
    portTime (512 * (act + 4) * groups) 512 (s.mhz .dclk)
  else if k = 2 ∨ k = 3 then
    if dSource d < 4 then portTime (4096 * r.total) 512 (s.mhz .dclk) else s.memTime (4096 * r.total)
  else if k = 0x20 ∨ k = 0x21 then portTime (4096 * collTiles d r.rec1) 256 (s.mhz .lclk)
  else if k = 0x11 then s.memTime (dCount d * 32 * elemBits (recType r.rec1) / 8)
  else if k = 0x10 ∨ k = 0x30 ∨ k = 4 ∨ k = 0x31 then s.memTime (4096 * dCount d)
  else 0

/-- The effective deadline of a run (R203). -/
def State.effOf (s : State) (x : Stream) (r : Run) : Option Nat :=
  effDeadline (dDeadline r.desc) x.lateness r.head (s.tMin r)

/-! ### Arbitration (R192 to R195) -/

/-- A request for a shared resource. -/
structure Req where
  cls : Nat
  urgent : Option Nat              -- effective deadline, when it lies within the window
  stream : Nat
  weight : Nat
  counts : Bool                    -- a grant counts as a tile of the stream's round (R193)
  deriving DecidableEq, Repr

/-- The request of a run's tile; `contain` makes it class 1 work. -/
def State.reqOf (s : State) (n : Nat) (seq : Word) (contain : Bool) : Req :=
  match s.stream? n, s.run? n seq with
  | some x, some r =>
    let eff := s.effOf x r
    let u := inWindow s.time x.windowUs eff
    ⟨if contain then 1 else kindClass r.kind u, if u then eff else none, n, x.weightNow, true⟩
  | _, _ => ⟨if contain then 1 else 6, none, n, 1, true⟩

/-- The arbitration state of a resource. -/
def State.arb (s : State) (res : Nat) : Arb := (s.arbs.find? fun a => a.res == res).getD ⟨res, 0, [], []⟩

/-- A count kept for a stream. -/
def countOf (l : List (Nat × Nat)) (n : Nat) : Nat := ((l.find? fun p => p.1 == n).map Prod.snd).getD 0

/-- The key of a request's round credit: rounds are counted for each class (R193). -/
def Req.round (r : Req) : Nat := r.cls + 8 * r.stream

/-- The count is set. -/
def setCount (l : List (Nat × Nat)) (n v : Nat) : List (Nat × Nat) := upsert (fun p => p.1 == n) (n, v) l

/-- The request at or after a pointer in ascending stream number, wrapping (R194). -/
def atOrAfter (pointer : Nat) (l : List Req) : Option Req :=
  let best (c : List Req) : Option Req := c.foldl (fun b r => match b with
    | none => some r
    | some x => if r.stream < x.stream then some r else some x) none
  match best (l.filter fun r => decide (pointer ≤ r.stream)) with
  | some r => some r
  | none => best l

/-- The request that the classes, deadlines and weights of R192 and R193 choose, and whether a new round starts. -/
def chooseReq (a : Arb) (l : List Req) : Option (Req × Bool) :=
  let top := (l.map Req.cls).foldl min 7
  let cand := l.filter fun r => r.cls == top
  let dl := cand.filterMap Req.urgent
  if dl ≠ [] then
    let first := dl.foldl min (dl.headD 0)
    (atOrAfter a.pointer (cand.filter fun r => r.urgent == some first)).map fun r => (r, false)
  else
    let left := cand.filter fun r => decide (countOf a.used r.round < r.weight)
    if left ≠ [] then (atOrAfter a.pointer left).map fun r => (r, false)
    else (atOrAfter a.pointer cand).map fun r => (r, true)

/-- The request that R195 forces: one that has waited longest through 1,024 grants or more, while no class 1 request waits. -/
def forcedReq (a : Arb) (l : List Req) : Option Req :=
  if l.any fun r => decide (r.cls < 2) then none
  else (l.filter fun r => decide (1024 ≤ countOf a.starve r.stream)).foldl (fun b r => match b with
    | none => some r
    | some x => if countOf a.starve x.stream < countOf a.starve r.stream then some r else some x) none

/-- A grant of a resource among the waiting requests that can be met: the winner, with the arbitration state after it and whether R195
forced it. The grants to higher classes are counted for the requests that wait and cannot be met now (`idle`), too. -/
def grant (a : Arb) (l : List Req) (idle : List Req := []) : Option (Req × Arb × Bool) :=
  match forcedReq a l with
  | some r => some (r, { a with pointer := r.stream + 1, starve := setCount a.starve r.stream 0 }, true)
  | none =>
    match chooseReq a l with
    | none => none
    | some (r, fresh) =>
      let used0 := if fresh then a.used.filter fun x => x.1 % 8 != r.cls else a.used
      let used := if r.urgent.isSome ∨ !r.counts then used0 else setCount used0 r.round (countOf used0 r.round + 1)
      let starve := (l ++ idle.filter fun x => !l.any fun y => y.stream == x.stream).map fun x =>
        (x.stream, if x.stream ≠ r.stream ∧ r.cls < x.cls then countOf a.starve x.stream + 1 else 0)
      some (r, { a with pointer := r.stream + 1, used := used, starve := starve }, false)

/-- The arbitration state of a resource is stored, and a forced grant counted (R195). -/
def State.granted (a : Arb) (forced : Bool) (s : State) : State :=
  whenB forced (State.bump .starveGrant) { s with arbs := upsert (fun x => x.res == a.res) a s.arbs }

/-- Resource numbers: engines, checker decoders, delivery ports, link ports, allocation. -/
def resEngine : Nat := 0
/-- Checker decoders. -/
def resChecker : Nat := 1
/-- A delivery port. -/
def resDelivery (p : Nat) : Nat := 2 + p
/-- A link port. -/
def resLink (p : Nat) : Nat := 10 + p
/-- The free sectors of a pool. -/
def resSectors (pool : Nat) : Nat := 12 + pool
/-- The request slots of a memory port. -/
def resMemory (m : Nat) : Nat := 1000 + m
/-- Reduce units. -/
def resReduce : Nat := 1008
/-- Merge units. -/
def resMerge : Nat := 1009
/-- The Atoll. -/
def resAtoll : Nat := 1010
/-- Room in the Harbour for payloads. -/
def resHarbour : Nat := 1011

/-! ### Units (R192 to R195): reduce units, merge units, the Atoll -/

/-- True when no other stream waits for a unit. -/
def State.unitOpen (s : State) (res n : Nat) : Bool := !s.unitWaits.any fun w => w.res == res && w.stream != n

/-- A stream waits for a unit. -/
def State.unitWait (res n kind : Nat) (s : State) : State :=
  let w := UnitWait.mk res n kind
  if s.unitWaits.contains w then s else { s with unitWaits := s.unitWaits ++ [w] }

/-- A stream that needs no choice among others takes a unit: the grant counts as every other one (R193 to R195). -/
def State.unitTaken (res n : Nat) (seq : Word) (again : Bool) (s : State) : State :=
  match grant (s.arb res) [s.reqOf n seq again] with
  | none => s
  | some (_, a, forced) => s.granted a forced

/-! ### ROLE_WAIT (R567) -/

/-- DETAIL_B of a ROLE_WAIT record. -/
def portDetail (p : Option (PortKind × Nat)) : Nat :=
  match p with
  | some (_, i) => i
  | none => 0xFFFFFFFF

/-- The record of a stall for want of a core (R567). -/
def State.roleRecord (r : Run) (role port : Nat) (again : Bool) (s : State) : State :=
  s.report { reason := 0x16, sev := .corrected, rep := again, handle := dHandle r.desc, seq := r.seq,
             addr := dTensor r.desc, detailA := 2 ^ role, detailB := port, unit := .streamTracker }

/-- A stall begins, unless it has begun already. -/
def State.roleStall (n : Nat) (seq : Word) (need : Need) (s : State) : State :=
  match s.stream? n, s.run? n seq with
  | some x, some r =>
    if x.stallRole.isSome then s
    else
      let role := need.role.getD 0
      let port := portDetail need.port
      (s.updStream n fun y => { y with stallRole := some (role, port, s.time) }).roleRecord r role port false
  | _, _ => s

/-- A stall ends when a tile of the stream finds a core. -/
def State.roleFound (n : Nat) (s : State) : State := s.updStream n fun y => { y with stallRole := none }

end Sys2Proof.Machine
end

