-- ==== Sys2Proof/Machine/Faults.lean ====
section
/-! DEFINITION. What a failing tile and a faulty core do to the state: records that name the work (11_integrity R436 to R440),
the flags of a descriptor (05_streams_and_order R179), fault counts (11_integrity R429, R430), work executed again (05 R205,
R206). -/

namespace Sys2Proof.Machine

/-! ### Records and flags of a descriptor -/

/-- A record about the work of a descriptor: HANDLE and SEQ, and for a collective GROUP and STEP (Table 11-6). -/
def State.workReport (n : Nat) (seq : Word) (x : Note) (s : State) : State :=
  match s.run? n seq with
  | none => s.report { x with handle := if n < 65536 then handleOf s.die s.clusterNo n else 0, seq := seq }
  | some r =>
    let coll := r.kind == 0x20 || r.kind == 0x21
    s.report { x with
      handle := dHandle r.desc
      seq := seq
      group := if coll then dGroup r.desc else 0
      step := if coll then dStep r.desc else 0 }

/-- A run's flags are changed. -/
def State.flagRun (n : Nat) (seq : Word) (f : RunFlags → RunFlags) (s : State) : State :=
  s.updRun n seq fun r => { r with flags := f r.flags }

/-- A tile failed a check or was LOST (TILE_ERROR, R179). -/
def RunFlags.tileErr (f : RunFlags) : RunFlags := { f with tileError := true }
/-- A directory entry failed R77 (DIR_CORRUPT, R179). -/
def RunFlags.dirErr (f : RunFlags) : RunFlags := { f with dirCorrupt := true }
/-- A tile was executed again (REPLAY, Table 5-23). -/
def RunFlags.again (f : RunFlags) : RunFlags := { f with replay := true }
/-- A tile was issued in catch-up (CATCHUP, Table 5-23). -/
def RunFlags.caught (f : RunFlags) : RunFlags := { f with catchup := true }
/-- A commit lost to another one (SUPERSEDED, Table 5-27). -/
def RunFlags.lostCommit (f : RunFlags) : RunFlags := { f with superseded := true }

/-- A unit counts in ERR_TILES (Table 5-23). -/
def State.errTile (n : Nat) (seq : Word) (s : State) : State :=
  s.updRun n seq fun r => { r with errTiles := r.errTiles + 1 }

/-- A unit of a run has ended, in its order (R182), with the dense bytes of its tiles (IN_BYTES). -/
def State.unitEnds (n : Nat) (seq : Word) (bytes : Nat) (s : State) : State :=
  s.updRun n seq fun r => { r with doneUnits := r.doneUnits + 1, inBytes := r.inBytes + bytes }

/-- A tile is issued: CATCHUP is set while the stream's cumulative lateness is above 0. -/
def State.issuedNow (n : Nat) (seq : Word) (s : State) : State :=
  match s.stream? n with
  | some x => whenB x.catchup (State.flagRun n seq RunFlags.caught) s
  | none => s

/-! ### Fault counts of a core (R429, R430) -/

/-- Fault counts within the window (WINDOW_COUNT). -/
def State.windowCount (s : State) (c : Fin 16) : Nat :=
  ((s.core c).faults.filter fun f => decide (s.time ≤ f + s.faultWindow)).length

/-- True while a core test runs on a core. -/
def State.underTest (s : State) (c : Fin 16) : Bool :=
  match s.test.running with
  | some x => x.core == c.val
  | none => false

/-- A core test that waits. -/
def CoreTest.new (core cause : Nat) (lbist mbist scan : Bool) (stream : Nat) : CoreTest :=
  { core := core, cause := cause, lbist := lbist, mbist := mbist, scan := scan, stream := stream, part := 4, failed := [],
    ran := 0, man := none, order := 0 }

/-- Waiting tests in the order of R518: cores out of service in ascending order, descriptors as fetched, the Ferry. -/
def queueTest (x : CoreTest) : List CoreTest → List CoreTest
  | [] => [x]
  | y :: ys =>
    let first (t : CoreTest) : Nat := if t.cause = 1 then 0 else if t.cause = 2 then 1 else 2
    if first x < first y ∨ (first x = first y ∧ x.cause = 1 ∧ x.core < y.core) ∨
        (first x = first y ∧ x.cause = 2 ∧ x.order < y.order) then x :: y :: ys
    else y :: queueTest x ys

/-- Disable (Table 5-29); the shut-down begins at a stage. -/
def Fn.disabled (stage : ShutStage) (f : Fn) : Fn :=
  match f.st with
  | .on => ⟨.shutting, stage⟩
  | .pendingOn => { f with st := .shutting }
  | _ => f

/-- A core gains a fault count; the third within the window takes it out of service and queues its test (R430). -/
def State.coreFault (c : Fin 16) (s : State) : State :=
  let s1 := s.updCore c fun k => { k with faults := k.faults ++ [s.time], lifetime := k.lifetime + 1 }
  let n := s1.windowCount c
  if (s1.core c).out ∨ s1.underTest c ∨ (s1.core c).retired ∨ n < 3 then s1
  else
    let s2 := s1.updCore c fun k => { k with out := true, keepOff := false, fn := k.fn.disabled .ramp }
    let s3 := s2.report { reason := 0x0E, sev := .corrected, unit := .core, unitIndex := c.val, detailA := n }
    { s3 with test := { s3.test with waiting := queueTest (CoreTest.new c.val 1 true true true 0) s3.test.waiting } }

/-! ### Delivery units that are executed again (R206, R221) -/

/-- A delivery port of a descriptor. -/
def dportOf (i : Nat) : Fin 8 := ⟨i % 8, Nat.mod_lt _ (by decide)⟩

/-- A delivery port is changed. -/
def State.updDport (p : Fin 8) (f : DPort → DPort) (s : State) : State :=
  { s with dports := s.dports.set p (f s.dports[p]) }

/-- Beats of a unit that have passed or stand on the bus. -/
def DPort.begun (p : DPort) (u : DUnit) : Nat := u.next + b2n (p.bus.any fun b => b.1 == u.id)

/-- A beat with LAST set and zero data. -/
def tailBeat (b : BitVec 128 × List Byte × List Byte) : BitVec 128 × List Byte × List Byte :=
  let z := zeroBeat b
  (z.1 ||| BitVec.ofNat 128 (2 ^ 55), z.2)

/-- The beats that end a unit after its first k beats: those formed already with zero data, the last of them with LAST; a group of
which no further beat is formed ends with one beat (R206, R221; log 19). -/
def endBeats (beats : List (BitVec 128 × List Byte × List Byte)) (k : Nat) : List (BitVec 128 × List Byte × List Byte) :=
  match (beats.drop k).getLast?, beats.getLast? with
  | some b, _ => ((beats.drop k).dropLast.map zeroBeat) ++ [tailBeat b]
  | none, some b => [tailBeat b]
  | none, none => []

/-- A unit ends with zero data from its next beat on, and POISON in its tail beat (R221). -/
def DPort.endPoisoned (p : DPort) (again : Bool) (u : DUnit) : DUnit :=
  let k := p.begun u
  { u with
    beats := u.beats.take k ++ endBeats u.beats k
    decoded := true
    poison := true
    bad := k == 0
    again := again }

/-- True when the tail beat of a unit stands on the bus: it is delivered as it is (R215). -/
def DPort.tailOnBus (p : DPort) (u : DUnit) : Bool := u.beats.length == p.begun u && p.bus.any fun b => b.1 == u.id

/-- A unit of a port is executed again: removed when no beat has begun to leave, else ended with POISON. -/
def DPort.retry (p : DPort) (sel : DUnit → Bool) : DPort :=
  { p with units := p.units.flatMap fun u =>
      if sel u && !p.tailOnBus u then (if p.begun u = 0 then [] else [p.endPoisoned true u]) else [u] }

/-! ### Jobs that are executed again -/

/-- A read job goes back to wait for an engine, as class 1 work (R205). `avoid` is a core it must not run on. -/
def State.replayRead (j : RJob) (avoid : Option (Fin 16)) (s : State) : State :=
  if s.dports.toList.any (fun p => p.units.any fun u => u.job == some j.id && p.tailOnBus u) then s
  else
    let s1 := s.updR j.id fun x => { x with stage := .ready, replay := true, avoid := avoid }
    let s2 := match j.stage with
      | .onEngine c _ => (s1.flagRun j.stream j.seq RunFlags.again).replayedFrom c 1
      | _ => s1.flagRun j.stream j.seq RunFlags.again
    { s2 with dports := s2.dports.map fun p => p.retry fun u => u.job == some j.id }

/-- True for a tile to be coded that has not taken its engine yet. -/
def WJob.unissued (w : WJob) : Bool :=
  match w.stage with | .beats | .source _ | .carry _ | .ready => true | _ => false

/-- The sectors of parts that no entry names go back at once (R269, R273). -/
def State.dropPlaces (parts : List Part) (s : State) : State :=
  forAll parts (fun p s => match p.place with
    | some (pool, a, n) => if p.committed then s else s.sendRelease pool a n true
    | none => s) s

/-- The payload and map writes of a write job. -/
def Purpose.ofPart (id : Nat) : Purpose → Bool
  | .partWrite w _ | .partMap w => w == id
  | _ => false

/-- The sector request of a write job is given up: what it brings goes back (R269). -/
def State.forgetAsk (id : Nat) (s : State) : State :=
  { s with
    asks := updWhere (fun a => a.of_ == AskOf.job id) (fun a => { a with of_ := .gone }) s.asks
    remoteWaits := s.remoteWaits.filter fun x => !(s.asks.any fun a => a.of_ == AskOf.job id && a.req.job == x.job) }

/-- A commit of a write job that its home cluster, this one, has not begun to write is taken back. -/
def State.recallCommit (id : Nat) (s : State) : State :=
  { s with commits := s.commits.filter fun c => !(c.job == id && c.remote.isNone && !c.written) }

/-- True for a tile that an engine has coded and that is still in flight on its coder: no commit of it has been written or sent to
another cluster (R205). A part that a settlement stored RAW holds nothing that the coder made (log 22). -/
def State.codedInFlight (s : State) (w : WJob) : Bool :=
  (w.parts.any fun p => p.state != 0 && p.template.isNone && p.verify != .settled) && w.parts.all (fun p => !p.committed) &&
    match w.stage with
    | .space | .spaceWait | .remoteWait _ | .mapping _ | .writing => true
    | .queued _ => s.commits.any fun c => c.job == w.id && c.remote.isNone && !c.written
    | _ => false

/-- A write job's request leaves the pool's queue. -/
def PoolSt.unwait (id : Nat) (p : PoolSt) : PoolSt := { p with waiting := p.waiting.filter (· != id) }

/-- A write job is coded again from its retained source (R206): the sectors it was granted go back, and its writes are
withdrawn. -/
def State.replayWrite (j : WJob) (avoid : Option (Fin 16)) (s : State) : State :=
  let s1 := ((s.dropPlaces j.parts).forgetAsk j.id).recallCommit j.id
  let s2 := s1.dropReqs (Purpose.ofPart j.id)
  let s0 := { s2 with pools := s2.pools.map (PoolSt.unwait j.id) }
  let s3 := match j.stage with
    | .onEngine c _ => s0.replayedFrom c 1
    | _ => if j.parts = [] then s0 else s0.replayedFrom j.coder 1
  (s3.updW j.id fun x => { x with stage := .ready, replay := true, avoid := avoid, parts := [] }).flagRun j.stream j.seq
    RunFlags.again

/-- A write job may still be coded again: its commit has not gone to the home cluster. -/
def WStage.coding : WStage → Bool
  | .onEngine _ _ => true
  | .space => true
  | .spaceWait => true
  | .writing => true
  | _ => false

end Sys2Proof.Machine
end

