-- ==== Sys2Proof/Machine/Quant.lean ====
section
/-! DEFINITION. Fidelity classes and residual carry (04_bounded_loss R120 to R147). -/

namespace Sys2Proof.Machine

/-- The smallest integer e with 2^e ≥ |m · 2^x|, for m other than 0. -/
def ceilLog2 (m x : Int) : Int := Int.ofNat (Nat.clog 2 m.natAbs) + x

/-- |m1 · 2^e1| < |m2 · 2^e2|. -/
def magLt (m1 e1 m2 e2 : Int) : Bool :=
  let lo := min e1 e2
  decide (m1.natAbs * 2 ^ (e1 - lo).toNat < m2.natAbs * 2 ^ (e2 - lo).toNat)

/-- The value of largest magnitude among finite values. -/
def maxMag : List Num → Num
  | [] => ⟨0, 0, 0, false⟩
  | v :: vs => let w := maxMag vs; if magLt w.m w.e v.m v.e then v else w

/-- A quantised group: its codes, the elements that count in QUANT_DIRECTED, whether it was kept for an infinity or a NaN. -/
structure QGroup where
  codes : List Nat
  directed : List Bool               -- elements rounded toward zero
  nonfinite : Bool
  deriving DecidableEq, Repr

/-- One element on the grid of step 2^st (R122, R124, R126): its code, and whether it was rounded toward zero. -/
def quantElem (f : Fmt) (st : Int) (code : Nat) : Nat × Bool :=
  let v := f.value code
  if v.m = 0 then (code, false)
  else
    let n := rneScale v.m (v.e - st)
    let top := f.value f.maxCode
    if magLt top.m top.e n st then
      let n' := truncScale v.m (v.e - st)
      (f.signed (decide (n' < 0)) (f.roundMag n' st), true)
    else (f.signed (decide (n < 0)) (f.roundMag n st), false)

/-- The quantisation of a group at class Fk (R122). -/
def quantGroup (f : Fmt) (k : Nat) (codes : List Nat) : QGroup :=
  let none_ := codes.map fun _ => false
  if codes.any (fun c => (f.value c).tag != 0) then ⟨codes, none_, true⟩
  else
    let a := maxMag (codes.map f.value)
    if a.m = 0 then ⟨codes, none_, false⟩
    else
      let st := ceilLog2 a.m a.e - k - 5
      if st ≤ f.eMin then ⟨codes, none_, false⟩
      else
        let r := codes.map (quantElem f st)
        ⟨r.map Prod.fst, r.map Prod.snd, false⟩

/-- How many of a list are set. -/
def countSet (l : List Bool) : Nat := (l.filter fun b => b).length

/-- The quantiser bound check of one element against its input: |x̂ − input| ≤ step (11_integrity R419). -/
def boundOk (f : Fmt) (st : Int) (input out : Nat) : Bool :=
  let a := f.value input
  let b := f.value out
  let lo := min (min a.e b.e) st
  decide ((a.m * 2 ^ (a.e - lo).toNat - b.m * 2 ^ (b.e - lo).toNat).natAbs ≤ 2 ^ (st - lo).toNat)

/-- What carry and quantisation give for one group. -/
structure CGroup where
  codes : List Nat
  residual : List Nat               -- BF16 codes
  directed : Nat
  nonfinite : Bool
  changed : Bool                    -- at least one element differs from the quantiser's input (R132)
  deriving DecidableEq, Repr

/-- The BF16 format, which holds residuals (R141). -/
def bf16 : Fmt := ⟨8, 7, 127, true, true⟩

/-- The exact sum of two finite values. -/
def Num.add (a b : Num) : Num :=
  let lo := min a.e b.e
  ⟨a.m * 2 ^ (a.e - lo).toNat + b.m * 2 ^ (b.e - lo).toNat, lo, 0, false⟩

/-- A finite value with the opposite sign. -/
def Num.negate (a : Num) : Num := { a with m := -a.m, neg := !a.neg }

/-- A finite value rounded to a format to nearest, ties to even; a value that rounds to zero keeps its sign, and an exact
zero is positive (R142). -/
def Fmt.round (f : Fmt) (v : Num) : Nat := f.signed (decide (v.m < 0)) (f.roundMag v.m v.e)

/-- y of R142: the code of x + r; none when rounding overflows. An x that is not finite stays. -/
def carrySum (f : Fmt) (x r : Nat) : Option Nat :=
  let rv := bf16.value r
  if rv.m = 0 ∨ (f.value x).tag ≠ 0 then some x
  else
    let v := (f.value x).add rv
    if f.maxCode < f.roundMag v.m v.e then none else some (f.round v)

/-- A carried group (R142, R143). DEDUCED: an element whose x + r overflows, and whose x is then rounded toward zero by R126 as well,
increments QUANT_DIRECTED once, since both rules count elements (log 80). -/
def carryGroup (f : Fmt) (k : Nat) (xs rs : List Nat) : CGroup :=
  let ys := List.zipWith (carrySum f) xs rs
  let ovf := ys.map (· == none)
  if xs.any (fun c => (f.value c).tag != 0) ∨ ovf.any (· == true) then
    let q := quantGroup f k xs
    ⟨q.codes, rs, countSet (List.zipWith (· || ·) ovf q.directed), q.nonfinite, q.codes != xs⟩
  else
    let y := ys.map fun y => y.getD 0
    let q := quantGroup f k y
    let eps := List.zipWith (fun (p : Nat × Nat) o =>
      bf16.round (((f.value p.1).add (bf16.value p.2)).add (f.value o).negate)) (List.zip xs rs) q.codes
    ⟨q.codes, eps, countSet q.directed, q.nonfinite, q.codes != y⟩

/-- What Table 4-3 gives for a tile: reference image, BOUNDED or not, residual images, counters. -/
structure QTile where
  img : List Byte
  bounded : Bool
  residuals : List (List Byte)
  directed : Nat
  nonfinite : Nat
  groups : Nat
  deriving DecidableEq, Repr

/-- Residual tiles per tensor tile (R140 Residual size). -/
def carryTiles (t : Nat) : Nat := if t = 3 ∨ t = 4 then 2 else 1

/-- A tile of a class from F1 up without carry (R128, R138). -/
def quantTile (t k : Nat) (dense : List Byte) : QTile :=
  match fmtOf t with
  | none => ⟨dense, false, [], 0, 0, 0⟩
  | some f =>
    let codes := tileCodes t dense
    let gs := (groupsOf 32 (codes.length / 32) codes).zipIdx.map fun g =>
      (g.1, if isMx t ∧ mxScale t dense g.2 = 255 then ⟨g.1, [], true⟩ else quantGroup f k g.1)
    let img := bytesOfCodes (elemBits t) (gs.flatMap fun g => g.2.codes) ++
      (if isMx t then dense.drop (mxAreas t).1 else [])
    ⟨img, img != dense, [], (gs.map fun g => countSet g.2.directed).sum, (gs.filter fun g => g.2.nonfinite).length,
      (gs.filter fun g => g.1 != g.2.codes).length⟩

/-- A tile of a class from F1 up with carry; `rs` holds its residual images in order, zero where one is unreadable (R142,
R147). -/
def carryTile (t k : Nat) (dense : List Byte) (rs : List (List Byte)) : QTile :=
  match fmtOf t with
  | none => ⟨dense, false, [], 0, 0, 0⟩
  | some f =>
    let xs := tileCodes t dense
    let carry := (rs.flatMap (codesOf 16)).take xs.length
    let gs := (List.zip (groupsOf 32 (xs.length / 32) xs) (groupsOf 32 (xs.length / 32) carry)).map fun p =>
      (p.1, carryGroup f k p.1 p.2)
    let img := bytesOfCodes (elemBits t) (gs.flatMap fun g => g.2.codes)
    let res := bytesOfCodes 16 (gs.flatMap fun g => g.2.residual)
    ⟨img, img != dense, (List.range (carryTiles t)).map fun j => slice res (4096 * j) 4096,
      (gs.map fun g => g.2.directed).sum, (gs.filter fun g => g.2.nonfinite).length,
      (gs.filter fun g => g.2.changed).length⟩

end Sys2Proof.Machine
end

