-- ==== Sys2Proof/Machine/Read.lean ====
section
/-! DEFINITION. Reading a tile: presence bit, directory entry, payload, decoding and check (06_expansion R211 to R214, R220 to
R224; 02_tile_container R56, R57, R61, R65, R76, R77, R566; 05_streams_and_order R191; 10_memory_channels R379, R408). -/

namespace Sys2Proof.Machine

/-! ### Density history (06_expansion R244 to R247) -/

/-- A history entry with one more code. -/
def pushCode (w : Word) (code : Nat) : Word :=
  BitVec.ofNat 32 ((8 * bits w.toNat 20 0 + code) + 2 ^ 24 * min 8 (bits w.toNat 27 24 + 1))

/-- The largest valid code of a history entry; none when it holds none. -/
def topCode (w : Word) : Option Nat :=
  let n := bits w.toNat 27 24
  if n = 0 then none else some (((List.range n).map fun i => bits w.toNat (3 * i + 2) (3 * i)).foldl max 0)

/-- The history of a layer key in a stream, moved to the front; a fifth key replaces the least recently used one. DESIGN CHOICE: recording a
density is what uses a key; a prediction that looks its history up does not (log 87). -/
def histTouch (key : Word) (hist : List History) : List History :=
  let h := (hist.find? fun x => x.key == key).getD ⟨key, [], []⟩
  (h :: hist.filter fun x => x.key != key).take 4

/-- A density code enters a history. -/
def histAdd (tile code : Nat) (h : History) : History :=
  let old := ((h.entries.find? fun e => e.1 == tile).map Prod.snd).getD 0
  { h with entries := upsert (fun e => e.1 == tile) (tile, pushCode old code) h.entries }

/-- A tile of a tensor with a LAYER_KEY has been expanded or merged (R244). A page that cannot be allocated leaves no
history (R246). -/
def State.recordDensity (n : Nat) (r : BitVec 1024) (tile code : Nat) (s : State) : State :=
  let key := recLayerKey r
  match s.stream? n with
  | none => s
  | some x =>
    if key = 0 ∨ 65536 ≤ tile then s
    else
      let hist := histTouch key x.hist
      let h := hist.headD ⟨key, [], []⟩
      let page := tile / 1024
      let at_ : SpillOf := .history n key page
      if h.pages.contains page then
        (s.updStream n fun y => { y with hist := histAdd tile code h :: hist.drop 1 }).spillStore at_ (tile % 1024 / 16) 1
      else match s.spillSpace at_ 64 with
        | (t, false) => t.updStream n fun y => { y with hist := hist }
        | (t, true) => (t.updStream n fun y => { y with
            hist := histAdd tile code { h with pages := h.pages ++ [page] } :: hist.drop 1 }).spillStore at_ (tile % 1024 / 16) 1

/-- The predicted code of a tile (R247); none without usable history (R246). -/
def Stream.predicted (x : Stream) (r : BitVec 1024) (tile : Nat) : Option Nat :=
  if recLayerKey r = 0 then none
  else
    match x.hist.find? (fun h => h.key == recLayerKey r) with
    | none => none
    | some h => ((h.entries.find? fun e => e.1 == tile).bind fun e => topCode e.2)

/-! ### Records of a failing read -/

/-- The record of a failing read names the tensor record and the tile, or the memory address of a poisoned sector. -/
def readNote (j : RJob) (reason a b : Nat) : Note :=
  match j.stage, j.bad with
  | .onEngine c _, _ =>
    { reason := reason, sev := .contained, unit := .core, unitIndex := c.val, addr := j.recAddr,
      tile := BitVec.ofNat 32 j.tile, detailA := a, detailB := b }
  | _, some (_, addr, port) =>
    { reason := reason, sev := .contained, unit := .memoryPort, unitIndex := port.val, addr := addr,
      tile := BitVec.ofNat 32 j.tile, detailA := a, detailB := b }
  | _, none =>
    { reason := reason, sev := .contained, addr := j.recAddr, tile := BitVec.ofNat 32 j.tile, detailA := a, detailB := b }

/-- CARRY_LOST in place of every other record of a residual tile's read (04_bounded_loss R147). -/
def State.carryLost (j : RJob) (reason : Nat) (s : State) : State :=
  match j.use with
  | .carry w _ =>
    match s.wjob? w with
    | some x => s.workReport j.stream j.seq
        { reason := 0x3B, sev := .contained, addr := x.recAddr, tile := BitVec.ofNat 32 x.tile,
          detailA := if reason = 0x63 then 0x60 else reason, detailB := j.tile }
    | none => s
  | _ => s

/-- A read fails: its record and the descriptor's flag (R109, R220, R566). `corrupt` says that the entry failed R77. -/
def State.readFails (j : RJob) (reason a b : Nat) (corrupt : Bool) (s : State) : State :=
  match j.use with
  | .carry _ _ => s.carryLost j reason
  | _ => (s.workReport j.stream j.seq (readNote j reason a b)).flagRun j.stream j.seq
      (if corrupt then RunFlags.dirErr else RunFlags.tileErr)

/-! ### What a finished read is used for -/

/-- A write job before anything has happened to it. -/
def WJob.new (id stream : Nat) (seq : Word) (unit : Nat) (src : WFrom) (recAddr : Nat) (trec : BitVec 1024) (tile : Nat)
    (stage : WStage) : WJob :=
  { id := id, stream := stream, seq := seq, unit := unit, src := src, recAddr := recAddr, trec := trec, tile := tile,
    stage := stage, data := [], buf := [], fail := none, carry := [], parts := [], coder := 0, quality0 := 0, flagged := false,
    carryLost := false, issued := false, catchup := false, waitedSpace := false, olds := [], replay := false, avoid := none }

/-- A part of a write job, not placed yet. -/
def Part.new (recAddr : Nat) (trec : BitVec 1024) (tile : Nat) (img : List Byte) (check : Dword) (state : Nat)
    (payload : List Byte) (quality : Nat) : Part :=
  { recAddr := recAddr, trec := trec, tile := tile, img := img, check := check, state := state, payload := payload,
    quality := quality, template := none, place := none, acks := 0, verify := .none, committed := false, skipZero := false }

/-- A write job enters the list. -/
def State.addW (j : WJob) (s : State) : State := { s.numbered with wjobs := s.wjobs ++ [j] }

/-- A unit that has ended without a commit waits for its turn (R182). -/
def State.addDone (n : Nat) (seq : Word) (unit : Nat) (s : State) : State :=
  s.addW (WJob.new s.nextId n seq unit .copy 0 0 0 .done)

/-- Payload of a read job, as read. -/
def RJob.payload (j : RJob) : List Byte :=
  (List.range (entLen j.entry)).flatMap fun i => slice (((j.buf.find? fun b => b.1 == i).map Prod.snd).getD []) 0 64

/-- A tile whose payload moves unchanged (10_memory_channels R407; 11_integrity R434): every field of the source entry but
SECTOR_ADDR. Its staged copy stays with it. -/
def State.copyTile (j : RJob) (img : List Byte) (recAddr : Nat) (trec : BitVec 1024) (s : State) : State :=
  let w := WJob.new s.nextId j.stream j.seq j.unit .copy recAddr trec j.tile .space
  let p := Part.new recAddr trec j.tile img (entCheck j.entry) (entState j.entry) j.payload (entQuality j.entry)
  ({ s with lagoon := updWhere (fun y => y.of_ == .payload j.id) (fun y => { y with of_ := .image w.id }) s.lagoon } : State).addW
    { w with parts := [{ p with template := some (entWord0 j.entry) }], replay := j.replay }

/-- A ZERO entry for a destination tile (02_tile_container R565). -/
def zeroPart (recAddr : Nat) (trec : BitVec 1024) (tile quality : Nat) : Part :=
  Part.new recAddr trec tile [] zeroCheck 0 [] quality

/-- A unit of a delivery port. -/
def deliverUnit (id : Nat) (j : RJob) (beats : List (BitVec 128 × List Byte × List Byte)) (decoded poison : Bool)
    (quality : Nat) (job : Option Nat) : DUnit :=
  { id := id, stream := j.stream, seq := j.seq, unit := j.unit, beats := beats, next := 0, decoded := decoded,
    poison := poison, bad := poison, replay := j.replay, again := false, quality := quality, counts := job.isSome,
    job := job }

/-- A unit enters a delivery port. -/
def State.addUnit (p : Fin 8) (u : DUnit) (s : State) : State :=
  s.numbered.updDport p fun d => { d with units := d.units ++ [u] }

/-- The beats of a failed tile: zero data in the full beat count (R221). -/
def failedBeats (stream tile : Nat) (d : Delivered) : List (BitVec 128 × List Byte × List Byte) :=
  (tileBeats stream tile false d).map zeroBeat

/-- A tile for delivery ends its reading (R213, R220, R221, R223, R225). -/
def State.deliverRead (j : RJob) (r : Run) (d : Dec) (s : State) : State :=
  let p := dportOf (dDport r.desc)
  let shape := formShape (recType j.trec) (dForm r.desc) (dWiden r.desc)
  let mine (u : DUnit) : Bool := u.job == some j.id && !u.again
  let known := s.dports[p].units.any mine
  match d with
  | .zero =>
    (s.addUnit p (deliverUnit s.nextId j (tileBeats j.stream j.tile true shape) true false (entQuality j.entry) none)).dropR j.id
  | .ok img =>
    if known then
      s.updDport p fun q => { q with units := updWhere mine (fun u => { u with decoded := true }) q.units }
    else
      let dl := deliverForm (recType j.trec) (dForm r.desc) (dWiden r.desc) img
      s.addUnit p (deliverUnit s.nextId j (tileBeats j.stream j.tile false dl) true false (entQuality j.entry) (some j.id))
  | .err _ _ _ =>
    if known then s.updDport p fun q => { q with units := updWhere mine (q.endPoisoned false) q.units }
    else
      let onEngine := match j.stage with | .onEngine _ _ => true | _ => false
      let u := deliverUnit s.nextId j (failedBeats j.stream j.tile shape) true true (entQuality j.entry)
        (if onEngine then some j.id else none)
      whenB (!onEngine) (State.dropR j.id) (s.addUnit p u)

/-- MAX_EXP of a tile that has been read: that of its image (R418), 0 for a ZERO tile. -/
def decMaxExp (t : Nat) (d : Dec) : Nat := match d with | .ok img => maxExp t img | _ => 0

/-- A finished read of MIGRATE (10_memory_channels R407). -/
def State.migrateRead (j : RJob) (r : Run) (d : Dec) (s : State) : State :=
  match d with
  | .ok img => s.copyTile j img (dArgA r.desc) r.rec2
  | .zero =>
    let w := WJob.new s.nextId j.stream j.seq j.unit .copy (dArgA r.desc) r.rec2 j.tile .writing
    let absent := j.stage == .presence
    s.addW { w with parts := [{ zeroPart (dArgA r.desc) r.rec2 j.tile (if absent then 0 else entQuality j.entry) with skipZero := absent }] }
  | .err _ _ _ => (s.errTile j.stream j.seq).addDone j.stream j.seq j.unit

/-- A finished read of SCRUB (11_integrity R433, R434). -/
def State.scrubRead (j : RJob) (r : Run) (d : Dec) (s : State) : State :=
  let s1 := s.updRun j.stream j.seq fun x => { x with outCount := x.outCount + 1 }
  match d with
  | .ok img => if dRewrite r.desc then s1.copyTile j img j.recAddr j.trec else s1.addDone j.stream j.seq j.unit
  | .zero => s1.addDone j.stream j.seq j.unit
  | .err _ _ _ => ((s1.bump .scrubFail).errTile j.stream j.seq).addDone j.stream j.seq j.unit

/-- A finished read of EXPORT waits for its turn with its image, which its engine has coded again (07_compression R280, R281, R284); `fail`
marks STATE FAILED. -/
def State.exportRead (j : RJob) (d : Dec) (s : State) : State :=
  let w := WJob.new s.nextId j.stream j.seq j.unit .copy j.recAddr j.trec j.tile .done
  let part (img : List Byte) : Part :=
    Part.new j.recAddr j.trec j.tile img (if entState j.entry = 0 then zeroCheck else entCheck j.entry) 0 []
      (entQuality j.entry)
  match d with
  | .zero => s.addW { w with parts := [{ part [] with template := some (entWord0 j.entry) }] }
  | .ok img => (match j.stage with | .onEngine c _ => s.codedOn c 1 | _ => s).chosen.addW { w with
      parts := [{ part img with payload := exportStream s.freeCtr img, template := some (entWord0 j.entry) }] }
  | .err r _ _ => s.addW { w with
      fail := some r
      parts := [{ part [] with check := entCheck j.entry, template := some (entWord0 j.entry) }] }

/-- The image of a residual tile for carry, none when it is unreadable (04_bounded_loss R147). -/
def carryImage (d : Dec) : Option (List Byte) :=
  match d with
  | .zero => some (List.replicate 4096 0)
  | .ok img => if tileNonfinite 1 img then none else some img
  | .err _ _ _ => none

/-- A residual tile has been read for carry: its image, or none when it is unreadable, a non-finite carry included
(04_bounded_loss R142, R147). The tensor tile counts once in ERR_TILES when it is committed. -/
def State.carryRead (j : RJob) (w k : Nat) (d : Dec) (s : State) : State :=
  let bad := match d with | .ok img => tileNonfinite 1 img | _ => false
  let got := carryImage d
  let s1 := if bad then s.carryLost j 0 else s
  s1.updW w fun x => { x with
    carry := x.carry ++ [(k, got)]
    carryLost := x.carryLost || got.isNone
    stage := match x.stage with | .carry m => .carry (m - 1) | st => st }

/-- A merge group is changed. -/
def State.updGroup (id : Nat) (f : MGroup → MGroup) (s : State) : State :=
  { s with groups := updFirst (fun x => x.id == id) f s.groups }

/-- True when a tile has failed. -/
def Dec.isErr (d : Dec) : Bool := match d with | .err _ _ _ => true | _ => false

/-- A tile of a merge group has been read. The group keeps the image of a tile that has streamed from its engine (R248). -/
def MGroup.got (w : Bool) (kb : Nat) (d : Dec) (g : MGroup) : MGroup :=
  if g.tiles.any fun t => t.1 == w && t.2.1 == kb then { g with failed := g.failed || d.isErr }
  else { g with tiles := g.tiles ++ [(w, kb, d)] }

/-- A tile of an addend has been read. -/
def Addend.got (part : Nat) (d : Dec) (mexp : Nat) (a : Addend) : Addend := { a with tiles := a.tiles ++ [(part, d, mexp)] }

/-- A tile of an outgoing chunk has been read, on a core when an engine has decoded it. -/
def SendChunk.got (i : Nat) (d : Dec) (e : BitVec 128) (payload : List Byte) (replay : Bool) (core : Option (Fin 16)) (k : SendChunk) :
    SendChunk :=
  { k with
    tiles := k.tiles ++ [(i, d, e, payload)]
    cores := k.cores ++ (core.toList.map fun c => (i, c))
    replay := k.replay || replay }

/-- An update tile has been read; one that failed counts once in ERR_TILES (08_accumulation R329). -/
def Scatter.got (u : Nat) (d : Dec) (x : Scatter) : Scatter :=
  let bad := match d with | .err _ _ _ => true | _ => false
  { x with tiles := x.tiles ++ [(u, d)], counted := if bad && !x.counted.contains u then x.counted ++ [u] else x.counted }

/-- The SCATTER_ACC of a stream that holds the Atoll or reads. -/
def State.scat? (s : State) (n : Nat) : Option Scatter := (s.scatter.filter fun x => x.stream == n).or (s.readers.find? fun x => x.stream == n)

/-- It is changed. -/
def State.updScat (n : Nat) (f : Scatter → Scatter) (s : State) : State :=
  if s.scatter.any fun x => x.stream == n then { s with scatter := s.scatter.map f }
  else { s with readers := updFirst (fun x => x.stream == n) f s.readers }

/-- An update tile of a SCATTER_ACC has been read. -/
def State.updateRead (n : Nat) (seq : Word) (u : Nat) (d : Dec) (s : State) : State :=
  let bad := match d with | .err _ _ _ => true | _ => false
  let fresh := (s.scat? n).any fun x => !x.counted.contains u
  (whenB (bad && fresh) (State.errTile n seq) s).updScat n (Scatter.got u d)

/-- The collective side of a descriptor is changed. -/
def State.updColl (n : Nat) (seq : Word) (f : Coll → Coll) (s : State) : State :=
  { s with colls := updFirst (fun x => x.stream == n && x.seq == seq) f s.colls }

/-- A chunk of a SEND is changed. -/
def State.updChunk (n : Nat) (seq : Word) (c : Nat) (f : SendChunk → SendChunk) (s : State) : State :=
  s.updColl n seq fun x => { x with send := updFirst (fun k => k.chunk == c) f x.send }

/-- The measures of a collective count a tile that it has read (09_collectives R366). -/
def State.collReads (j : RJob) (s : State) : State :=
  s.updColl j.stream j.seq fun c => { c with
    tilesRead := c.tilesRead + 1
    bytesRead := c.bytesRead + j.payload.length }

/-- The density code of a ZERO tile that is expanded or merged is 0 (R244). -/
def State.zeroDensity (j : RJob) (d : Dec) (s : State) : State :=
  match d, j.use with
  | .zero, .deliver | .zero, .mergeA _ _ | .zero, .mergeW _ _ => s.recordDensity j.stream j.trec j.tile 0
  | _, _ => s

/-- A source tile of an accumulator tile stays in the Harbour, compressed, until the tiles that it feeds are committed (08_accumulation
R294); one that came over the die ring is there already. Its staged copy stays with it. A preload stands behind the addends. -/
def State.holdSource (a k : Nat) (j : RJob) (s : State) : State :=
  let x := (a, k, j.entry, j.payload)
  if j.payload = [] ∨ s.contrib.contains x then s
  else
    let i := (s.contrib.filter fun y => y.1 == a).length
    { s with
      contrib := s.contrib ++ [x]
      lagoon := updWhere (fun y => y.of_ == .payload j.id) (fun y => { y with of_ := .addend a i }) s.lagoon }

/-- The outcome of a read goes to the work that it was read for. -/
def State.readEnds (j : RJob) (d : Dec) (s0 : State) : State :=
  let s := s0.zeroDensity j d
  match s.run? j.stream j.seq with
  | none => s.dropR j.id
  | some r =>
    match j.use with
    | .deliver => s.deliverRead j r d
    | .mergeA g kb => (s.dropR j.id).updGroup g (MGroup.got false kb d)
    | .mergeW g kb => (s.dropR j.id).updGroup g (MGroup.got true kb d)
    | .preload a part => (((s.dropR j.id).holdSource a ((s.acc? a).elim 0 AccTile.want) j).collReads j).updA a fun x => { x with
        preload := x.preload.map (Addend.got part d (decMaxExp (recType j.trec) d)) }
    | .addend a k part => ((s.dropR j.id).holdSource a k j).updA a fun x => { x with
        held := updWhere (fun p => p.k == k) (Addend.got part d (decMaxExp (recType j.trec) d)) x.held }
    | .send c i => ((s.dropR j.id).collReads j).updChunk j.stream j.seq c
        (SendChunk.got i d j.entry j.payload j.replay (match j.stage with | .onEngine k _ => some k | _ => none))
    | .update u => (s.dropR j.id).updateRead j.stream j.seq u d
    | .scrub => (s.dropR j.id).scrubRead j r d
    | .migrate => (s.dropR j.id).migrateRead j r d
    | .exportT => (s.dropR j.id).exportRead j d
    | .carry w k => (s.dropR j.id).carryRead j w k d

/-! ### Presence, entry, payload -/

/-- The tile of a run's first unit. -/
def Run.firstTile (r : Run) : Nat :=
  match r.cont with
  | some p => p.tile
  | none => if r.kind = 0x21 then dFirst r.desc * 16 * (if recType r.rec1 = 14 then 8 else 1) else dFirst r.desc

/-- True when units of a run that have not ended write a tile of a tensor, or a residual tile of it. -/
def Run.writesTile (addr tile : Nat) (r : Run) : Bool :=
  let k := r.kind
  let own (t : Nat) : Bool := k == 0x11 || (decide (r.firstTile + r.doneUnits ≤ t) && decide (t < r.firstTile + r.total))
  let kind := k == 2 || k == 3 || k == 0x10 || k == 0x11 || (k == 0x21 && !dForward r.desc) || k == 0x30
  kind && !r.allDone &&
    (((if k = 0x30 then dArgA r.desc else dTensor r.desc) == addr && own tile) ||
      (k != 0x30 && recResidual r.rec1 != 0 && recResidual r.rec1 == addr && own (tile / carryTiles (recType r.rec1))))

/-- True while an earlier descriptor of a stream has still to write a tile: descriptors execute in SEQ order, so a later one reads
the tile after that commit (R181; DEDUCED, log 31). -/
def State.writerAhead (s : State) (n : Nat) (seq : Word) (addr tile : Nat) : Bool :=
  (s.stream? n).any fun x => (runsBefore seq x.runs).any (Run.writesTile addr tile)

/-- A presence word that the run of a job has read (Table 6-13: one read for the first tile of each 64; log 79). -/
def State.knownWord (s : State) (j : RJob) : Option Nat :=
  if j.alone then none
  else (s.run? j.stream j.seq).bind fun r => (r.words.find? fun w => w.1 == presenceAddr j.trec j.tile).map Prod.snd

/-- True while an earlier descriptor of a stream has still to write one of the 64 tiles of a presence word: the word then changes before a
later tile of them may be read (R181; DEDUCED, log 31). -/
def State.wordAhead (s : State) (n : Nat) (seq : Word) (addr tile : Nat) : Bool :=
  (List.range 64).any fun i => s.writerAhead n seq addr (64 * (tile / 64) + i)

/-- The presence word of a job: known to its descriptor, on its way for another tile of the same word, or read now (R211). -/
def State.readPresence (id : Nat) (trec : BitVec 1024) (tile : Nat) (s : State) : State :=
  match s.rjob? id with
  | none => s
  | some j =>
    let alone := s.wordAhead j.stream j.seq j.recAddr tile
    let s1 := s.updR id fun x => { x with stage := .presence, alone := alone }
    let same (x : RJob) : Bool := x.id != id && !x.alone && x.stage == .presence && x.stream == j.stream && x.seq == j.seq &&
      presenceAddr x.trec x.tile == presenceAddr trec tile && (s.run? j.stream j.seq).isSome
    if !alone && ((s.knownWord { j with alone := false }).isSome || s.rjobs.any same) then s1
    else s1.readSpan (presenceSector trec tile) 1 fun _ => .presence id

/-- A tile's reading starts with its presence word (R211), when no earlier descriptor of its stream has still to write it. -/
def State.startRead (n : Nat) (seq : Word) (unit : Nat) (use : Use) (recAddr : Nat) (trec : BitVec 1024) (tile : Nat)
    (s : State) : State :=
  let id := s.nextId
  let j : RJob :=
    { id := id, stream := n, seq := seq, unit := unit, use := use, recAddr := recAddr, trec := trec, tile := tile,
      stage := .held, entryAt := s.time, entry := 0, buf := [], bad := none, replay := false, avoid := none,
      noFill := false, alone := false }
  let s1 := { s.numbered with rjobs := s.rjobs ++ [j] }
  if s.writerAhead n seq recAddr tile then s1 else s1.readPresence id trec tile

/-- Reads that waited for an earlier descriptor's commit start. -/
def State.heldReads (s : State) : State :=
  forAll (s.rjobs.filter fun j => j.stage == .held) (fun j s =>
    if s.writerAhead j.stream j.seq j.recAddr j.tile then s else s.readPresence j.id j.trec j.tile) s

/-- Tiles that a descriptor may be reading ahead of the one being delivered (R214). -/
def readAhead : Nat := 64

/-- Tiles ahead of the one being delivered or added whose payload may be read (R408). -/
def State.ahead (s : State) (trec : BitVec 1024) : Nat := if s.poolFar (recPool trec) then 48 else 8

/-- The payload read of a job whose entry has been read. -/
def State.readPayload (j : RJob) (s : State) : State :=
  match s.pool? (recPool j.trec) with
  | none => s
  | some p =>
    let a := p.base + 64 * entAddr j.entry
    (s.updR j.id fun x => { x with stage := .payload (entLen j.entry) }).readSpan a (entLen j.entry) fun b =>
      .payload j.id ((b - a) / 64)

/-- The entry has come: R77 and Table 6-1. `from_` is none for the directory cache, else the poison of its sector. -/
def State.gotEntry (id : Nat) (e : BitVec 128) (poison : Option (Nat × Nat × Fin 8)) (s : State) : State :=
  match s.rjob? id with
  | none => s
  | some j0 =>
    let j := { j0 with entry := if poison.isSome then 0 else e, entryAt := s.time, bad := poison }
    let s1 := s.updR id fun _ => j
    match poison with
    | some (reason, _, _) => (s1.readFails j reason 0 0 true).readEnds j (.err reason 0 0)
    | none =>
      let f := entryFail e
      if f ≠ 0 then
        let w := bits e.toNat 31 0
        (s1.readFails j 0x3C f w true).readEnds j (.err 0x3C f w)
      else if entState e = 0 then s1.readEnds j .zero
      else if entState e = 3 then (s1.readFails j 0x3D 0 0 false).readEnds j (.err 0x3D 0 0)
      else s1.updR id fun x => { x with stage := .payload 0, buf := [] }

/-- An entry that memory has given fills the directory cache, when its tensor is homed on this die (R25, Table 1-4 step 2). -/
def State.fillCache (id : Nat) (e : BitVec 128) (poisoned : Bool) (s : State) : State :=
  match s.rjob? id with
  | none => s
  | some j => if poisoned ∨ j.noFill ∨ recHomeDie j.trec ≠ s.die then s else s.cacheTouch (entryAddr j.trec j.tile) e

/-- The entry is read: from the directory cache for a tensor homed on this die, else from memory (R25, R212). -/
def State.wantEntry (id : Nat) (s : State) : State :=
  match s.rjob? id with
  | none => s
  | some j =>
    let a := entryAddr j.trec j.tile
    let own := recHomeDie j.trec == s.die
    let s1 := s.updR id fun x => { x with stage := .entry, buf := [], bad := none, noFill := false }
    match (if own then s.cached a else none) with
    | some e => (s1.cacheTouch a e).gotEntry id e none
    | none => (whenB own (State.bump .dirCacheMiss) s1).readSpan (a / 64 * 64) 1 fun _ => .entry id

/-- A tile goes on with its presence bit (R211). -/
def State.presenceIs (j : RJob) (word : Nat) (s : State) : State :=
  if word.testBit (j.tile % 64) then s.wantEntry j.id else s.readEnds j .zero

/-- The presence word has come; a poisoned word counts as ones (R211, Table 10-2). The descriptor keeps the word for the other tiles of
the 64. -/
def State.gotPresence (id : Nat) (word : Nat) (poison : Bool) (s : State) : State :=
  match s.rjob? id with
  | none => s
  | some j =>
    let w := if poison then 2 ^ 64 - 1 else word
    (whenB (!j.alone) (State.updRun j.stream j.seq fun r => { r with words := (presenceAddr j.trec j.tile, w) :: r.words.take 127 }) s).presenceIs j w

/-- True while a read of the presence word of a job is on its way. -/
def State.wordAsked (s : State) (j : RJob) : Bool :=
  (s.reqs ++ s.holdq).any fun q => match q.purpose with
    | .presence k => k == j.id || (!j.alone && (s.rjob? k).any fun x =>
      !x.alone && x.stream == j.stream && x.seq == j.seq && presenceAddr x.trec x.tile == presenceAddr j.trec j.tile)
    | _ => false

/-- Tiles whose presence word their descriptor has read go on; a word whose reader has been withdrawn is read again. -/
def State.presenceKnown (s : State) : State :=
  forAll (s.rjobs.filter fun j => j.stage == .presence) (fun j s => match s.knownWord j with
    | some w => s.presenceIs j w
    | none => if s.wordAsked j then s else s.readSpan (presenceSector j.trec j.tile) 1 fun _ => .presence j.id) s

/-- One arriving sector of a payload. -/
def RJob.sector (img : Image) (base addr i : Nat) (poison : Option (Nat × Fin 8)) (j : RJob) : RJob :=
  let a := addr + 64 * i
  let j1 := { j with buf := j.buf ++ [(base + i, imgRead img a 64)] }
  match poison with
  | some (reason, port) => if j.bad.isSome then j1 else { j1 with bad := some (reason, a, port) }
  | none => j1

/-- The requests of a read job. -/
def Purpose.ofRead (id : Nat) : Purpose → Bool
  | .presence j => j == id
  | .entry j => j == id
  | .payload j _ => j == id
  | _ => false

/-- True when the time of R191 for the payload of a tile is over. -/
def State.readLate (s : State) (j : RJob) : Bool := decide (s.epochNs < 2 * (s.time - j.entryAt))

/-- A read starts over from its entry when it has not received its payload within EPOCH_US / 2 (R191). -/
def State.restartRead (id : Nat) (s : State) : State :=
  match s.rjob? id with
  | none => s
  | some j =>
    match j.stage with
    | .payload _ => if s.readLate j then ((s.dropReqs (Purpose.ofRead id)).bump .readRestart).wantEntry id else s
    | _ => s

/-- Sectors of a payload have come (R379, Table 10-2); those that come too late are discarded (R191). -/
def State.gotPayload (id base addr n : Nat) (port : Fin 8) (img : Image) (dead : Bool) (s : State) : State :=
  match s.rjob? id with
  | none => s
  | some j =>
    match j.stage with
    | .payload m =>
      if s.readLate j then s.restartRead id else
      let j1 := (List.range n).foldl (fun j i =>
        j.sector img base addr i
          (if dead then some (0x63, port) else if imgPoison img (addr + 64 * i) 64 then some (0x60, port) else none)) j
      let left := m - n
      let j2 := { j1 with stage := if left = 0 then .ready else .payload left }
      let s1 := s.updR id fun _ => j2
      if left ≠ 0 then s1
      else match j2.bad with
        | some (reason, _, _) => (s1.readFails j2 reason 0 0 false).readEnds j2 (.err reason 0 0)
        | none => s1.spillStore (.payload id) 0 (entLen j2.entry)
    | _ => s

/-- A read is withdrawn with its requests. -/
def State.cancelRead (j : RJob) (s : State) : State := (s.dropReqs (Purpose.ofRead j.id)).dropR j.id

/-! ### Decoding -/

/-- What an engine finds in a payload: a RAW tile is only checked (R65, R223). -/
def State.decodeOf (s : State) (j : RJob) : Dec :=
  if entState j.entry = 2 then checkRaw j.entry j.payload
  else checkCoded (s.chartVal Chart.seeds []) (s.chartVal Chart.tables []) (recType j.trec) (recStride j.trec) j.entry
    j.payload

/-- True when an engine decodes a tile for its descriptor under cut-through: not STORE_FWD and not N:M (R223, R224). -/
def cutThrough (x : Stream) (r : Run) : Bool := !x.storeFwd && decide (dForm r.desc < 3)

/-- The image that an engine passes on, whatever the check of R65 finds: a RAW payload, or a payload that decodes (R223). -/
def State.passedImage (s : State) (j : RJob) : Option (List Byte) :=
  if entState j.entry = 2 then some (slice j.payload 0 4096)
  else codedImage (s.chartVal Chart.seeds []) (s.chartVal Chart.tables []) (recType j.trec) (recStride j.trec) j.entry j.payload

/-- A delivered tile takes an engine; under cut-through its beats can leave from now on (R223). The beats of a tile whose decoding
fails hold what its decoder puts out, which the spec does not state (log 7). -/
def State.openUnit (j : RJob) (s : State) : State :=
  match s.stream? j.stream, s.run? j.stream j.seq with
  | some x, some r =>
    if cutThrough x r then
      let t := recType j.trec
      let beats := match s.passedImage j with
        | some img => tileBeats j.stream j.tile false (deliverForm t (dForm r.desc) (dWiden r.desc) img)
        | none => (tileBeats j.stream j.tile false (formShape t (dForm r.desc) (dWiden r.desc))).zipIdx.map fun b =>
            (b.1.1, slice (Config.bytes s.freeCtr) (512 * b.2) b.1.2.1.length,
              slice (Config.bytes s.freeCtr) (16 * b.2) b.1.2.2.length)
      s.chosen.addUnit (dportOf (dDport r.desc)) (deliverUnit s.nextId j beats false false (entQuality j.entry) (some j.id))
    else s
  | _, _ => s

/-- An engine has decoded and checked a tile (R106, R109, R244, R418). -/
def State.decodeEnds (j : RJob) (s : State) : State :=
  let d := s.decodeOf j
  let kind := ((s.run? j.stream j.seq).map Run.kind).getD 0
  let s1 := match d with
    | .err reason a b => s.readFails j reason a b false
    | .ok img =>
      if kind = 1 ∨ kind = 0x12 then s.recordDensity j.stream j.trec j.tile (densityCode (recType j.trec) img) else s
    | .zero => s
  s1.readEnds j d

end Sys2Proof.Machine
end

