-- ==== Sys2Proof/Machine/Accum.lean ====
section
/-! DEFINITION. The numerics of accumulation: addends, long and integer accumulators, re-anchoring, drains, quality, sum signatures
(08_accumulation R289, R295 to R316; 09_collectives R351). -/

namespace Sys2Proof.Machine

/-! ### Kinds of accumulation (Table 8-1) -/

/-- Types of an integer reduction. -/
def intType (t : Nat) : Bool := t == 5 || t == 6 || t == 12

/-- True when an addend type is paired with a destination type (Table 8-1). -/
def pairsWith (src dst : Nat) : Bool :=
  match src with
  | 0 => dst == 0 || dst == 14
  | 1 => dst == 1 || dst == 2 || dst == 14
  | 2 => dst == 1 || dst == 2 || dst == 14
  | 3 => dst == 3 || dst == 4 || dst == 14
  | 4 => dst == 3 || dst == 4 || dst == 14
  | 5 => dst == 5 || dst == 14
  | 6 => dst == 6 || dst == 14
  | 7 => dst == 7 || dst == 8
  | 8 => dst == 7 || dst == 8
  | 9 => dst == 9 || dst == 10
  | 10 => dst == 9 || dst == 10
  | 11 => dst == 11
  | 12 => dst == 12
  | 14 => dst == 0 || dst == 1 || dst == 2 || dst == 3 || dst == 4 || dst == 14
  | _ => false

/-- n_acc for a destination type and the types of the sources and preload (R289). -/
def nAccOf (dst : Nat) (types : List Nat) : Nat :=
  if dst = 14 then max 256 (((types.filter (· != 14)).map elemsPerTile).foldl max 0) else elemsPerTile dst

/-- Slots of an accumulator tile (Table 8-1). -/
def accSlots (integer : Bool) (nacc : Nat) : Nat := if integer then ceilDiv nacc 4096 else ceilDiv nacc 2048

/-! ### Addends -/

/-- A zero. -/
def Num.zero : Num := ⟨0, 0, 0, false⟩

/-- A part of an addend. -/
def Addend.part (a : Addend) (i : Nat) : Dec := ((a.tiles.find? fun t => t.1 == i).map fun t => t.2.1).getD .zero

/-- True when every part of an addend has been read. -/
def Addend.complete (a : Addend) : Bool := decide (a.need ≤ a.tiles.length)

/-- True when a part of an addend failed its read. -/
def Addend.bad (a : Addend) : Bool := a.tiles.any fun t => match t.2.1 with | .err _ _ _ => true | _ => false

/-- True when every part of an addend is ZERO: it adds nothing and is not counted (R292). -/
def Addend.isZero (a : Addend) : Bool := a.tiles.all fun t => t.2.1 == .zero

/-- The values of a tile; zeros for a ZERO tile. -/
def decValues (t : Nat) (d : Dec) : List Num :=
  match d with
  | .ok img => tileValues t img
  | _ => List.replicate (elemsPerTile t) Num.zero

/-- The values of an addend, in element order (R290). -/
def Addend.values (a : Addend) : List Num := (List.range a.need).flatMap fun i => decValues a.etype (a.part i)

/-- The greater of two exponents, either of which may be missing. -/
def maxExpOpt (a b : Option Int) : Option Int :=
  match a, b with
  | none, y => y
  | x, none => x
  | some x, some y => some (max x y)

/-- E_c of an addend: the largest of its parts that are not ZERO (R301, Table 8-3). -/
def Addend.ec (a : Addend) : Option Int :=
  (a.tiles.map fun t => match t.2.1 with
    | .ok img => contribExp a.etype t.2.2 (tileValues a.etype img)
    | _ => none).foldl maxExpOpt none

/-- The integer of one element of an integer reduction (R295, R299): the code, or the content of a W96 element. -/
def intOf (t code : Nat) : Int := if t = 14 then signedCode 96 (code % 2 ^ 96) else signedCode (elemBits t) code

/-- The integers of an addend, not clamped yet. -/
def Addend.ints (a : Addend) : List Int :=
  (List.range a.need).flatMap fun i =>
    match a.part i with
    | .ok img => (tileCodes a.etype img).map (intOf a.etype)
    | _ => List.replicate (elemsPerTile a.etype) 0

/-- True when a W96 addend of an integer reduction has an anchor other than 82 (R299). -/
def Addend.wrongAnchor (a : Addend) : Bool :=
  a.etype == 14 && a.tiles.any fun t => match t.2.1 with
    | .ok img => (tileCodes 14 img).any fun c => bits c 111 96 != 82
    | _ => false

/-- The scale bytes of an MXINT8 addend, and whether each block has a non-zero element (R297). -/
def Addend.scales (a : Addend) : List (Nat × Bool) :=
  match a.part 0 with
  | .ok img => (groupsOf 32 124 (tileCodes 12 img)).zipIdx.map fun g => (mxScale 12 img g.2, g.1.any (· != 0))
  | _ => []

/-! ### The accumulator -/

/-- A number mod 255 (Table 8-2). -/
def resOf (x : Int) : Nat := (x % 255).toNat

/-- The residue of a sum, from the residues of its operands (R307). -/
def resAdd (r : Nat) (x : Int) : Nat := (r + resOf x) % 255

/-- The first element of a list whose residue does not match its content: a residue fault (R307). -/
def mismatch (content : List Int) (residue : List Nat) : Option Nat :=
  (List.zipWith (fun x r => resOf x != r) content residue).findIdx? fun b => b

/-- A fault in one element: its residue is off by an amount that is not zero mod 255. -/
def resFault (n i : Nat) (residue : List Nat) : List Nat := residue.modify i fun r => (r + 1 + Config.choice n % 254) % 255

/-- An empty accumulator tile of n elements. -/
def AccData.empty (integer : Bool) (n : Nat) : AccData :=
  { integer := integer, content := List.replicate n 0, residue := List.replicate n 0, tag := List.replicate n 0, sat := List.replicate n false,
    scale := List.replicate (if integer then n / 32 else 0) none, c := none, h := 0, addends := 0, inexact := false,
    dropped := false }

/-- C, taken as −126 when no addend has set it (R301); DEDUCED: so also for the anchor that a W96 drain writes (R311; log 88). -/
def AccData.cVal (d : AccData) : Int := d.c.getD (-126)

/-- The storage anchor A = C + H (R302). -/
def AccData.anchor (d : AccData) : Int := d.cVal + d.h

/-- TAG after adding an element (R306, Table 8-2). -/
def addTag (old new : Nat) : Nat :=
  if new = 0 then old else if new = 3 then 3 else if old = 0 ∨ old = new then new else 3

/-- What one add did: the accumulator, and the increments of ACC_REANCHOR, ACC_EXTENDED and INT_SAT, and a rejection. -/
structure Added where
  acc : AccData
  reanchor : Nat
  extended : Nat
  intSat : Nat
  rejected : Bool
  deriving DecidableEq, Repr

/-- The anchor before an addend with exponent E_c: R302 and R304 as one shift, rounded once. -/
def AccData.raise (d : AccData) (ec : Option Int) : Added :=
  let ext := d.addends == 4096
  let h := if ext then 12 else d.h
  let c := maxExpOpt d.c ec
  let up := d.c.isSome && c != d.c
  let rise := if d.c.isSome then ((c.getD 0 - d.c.getD 0) + (h - d.h : Int)).toNat else 0
  { acc := { d with
      content := d.content.map fun x => rneShiftInt x rise
      residue := if rise = 0 then d.residue else d.content.map fun x => resOf (rneShiftInt x rise)
      inexact := d.inexact || d.content.any fun x => decide (x % 2 ^ rise ≠ 0)
      c := c
      h := h }
    reanchor := b2n up, extended := b2n ext, intSat := 0, rejected := false }

/-- An addend is added to a long accumulator (R292, R301 to R306). -/
def AccData.addLong (d : AccData) (vs : List Num) (ec : Option Int) : Added :=
  let r := d.raise ec
  let a := r.acc.anchor
  let on (v : Num) : Int := if v.tag = 0 then rneScale v.m (v.e - (a - 82)) else 0
  { r with acc := { r.acc with
      content := List.zipWith (fun x v => x + on v) r.acc.content vs
      residue := List.zipWith (fun x v => resAdd x (on v)) r.acc.residue vs
      tag := List.zipWith (fun t v => addTag t v.tag) r.acc.tag vs
      inexact := r.acc.inexact || vs.any fun v => v.tag == 0 && !scaleExact v.m (v.e - (a - 82))
      addends := d.addends + 1 } }

/-- A sum clamped to 32 bits (R296). -/
def clamp32 (x : Int) : Int := max (-(2 ^ 31)) (min (2 ^ 31 - 1) x)

/-- True when a scale differs from the declared one of a block with a non-zero element (R297). -/
def scaleClash (declared : List (Option Nat)) (scales : List (Nat × Bool)) : Bool :=
  (List.zip declared scales).any fun p => match p.1 with
    | some s => p.2.2 && p.2.1 != s
    | none => false

/-- An addend is added to an integer accumulator (R295 to R297). `pre` says that it is the preload. The content of a W96 preload or
source clamps to 32 bits first (R291, R299). -/
def AccData.addInt (d : AccData) (ws : List Int) (scales : List (Nat × Bool)) (pre : Bool) : Added :=
  if !pre && scaleClash d.scale scales then ⟨{ d with dropped := true }, 0, 0, 0, true⟩
  else
    let xs := ws.map clamp32
    let far := ws.map fun x => clamp32 x != x
    let sums := List.zipWith (· + ·) d.content xs
    let ovf := sums.map fun x => clamp32 x != x
    { acc := { d with
        content := sums.map clamp32
        residue := List.zipWith (fun (p : Nat × Int) s => if clamp32 s = s then resAdd p.1 p.2 else resOf (clamp32 s))
          (List.zip d.residue xs) sums
        sat := List.zipWith (· || ·) d.sat (List.zipWith (· || ·) ovf far)
        scale := if scales = [] then d.scale else List.zipWith (fun o (s : Nat × Bool) => match o with
          | some x => some x
          | none => if pre || s.2 then some s.1 else none) d.scale scales
        addends := d.addends + 1 }
      reanchor := 0, extended := 0, intSat := (ovf.filter (· == true)).length + (far.filter (· == true)).length, rejected := false }

/-- An addend is added; a ZERO addend adds nothing and is not counted (R292, R302). -/
def AccData.add (d : AccData) (a : Addend) (pre : Bool) : Added :=
  if a.isZero then ⟨d, 0, 0, 0, false⟩
  else if d.integer then d.addInt a.ints (if a.etype = 12 then a.scales else []) pre
  else d.addLong a.values a.ec

/-- An accumulator tile with a fault in one element, if any. -/
def AccData.faulty (n : Nat) (i : Option Nat) (d : AccData) : AccData :=
  match i with
  | some e => { d with residue := resFault n e d.residue }
  | none => d

/-- An Atoll entry or a spill record is added at its 32 positions of n elements (R326). -/
def AccData.addFixed (d : AccData) (f : FixedAdd) : Added :=
  let n := d.content.length
  let vs := List.replicate f.pos Num.zero ++ f.nums ++ List.replicate (n - f.pos - f.nums.length) Num.zero
  let r := d.addLong vs f.ec
  { r with acc := { r.acc with
      inexact := r.acc.inexact || f.inexact
      sat := if f.sat then r.acc.sat.modify f.pos fun _ => true else r.acc.sat } }

/-! ### Drains (R299, R308 to R311) -/

/-- One drained tile: its image, whether a value was rounded, elements that overflowed (DRAIN_OVF), elements clamped by an
integer drain. -/
structure Drained where
  img : List Byte
  rounded : Bool
  ovf : Nat
  clamped : Nat
  deriving DecidableEq, Repr

/-- One element of a long drain: code, rounded, overflowed (R308, R309). -/
def drainElem (f : Fmt) (a : Int) (x : Int) (tag : Nat) : Nat × Bool × Bool :=
  if tag = 3 then (f.qnan, false, false)
  else if tag = 1 ∨ tag = 2 then (f.inf (tag == 2), false, !f.hasInf)
  else if x = 0 then (0, false, false)
  else
    let m := f.roundMag x (a - 82)
    if f.maxCode < m then (f.inf (decide (x < 0)), true, true)
    else (f.signed (decide (x < 0)) m, !f.roundExact x (a - 82), false)

/-- e_max of an MX element format (Table 8-3). -/
def mxEmax (t : Nat) : Int := if t = 7 then 8 else if t = 8 then 15 else if t = 10 then 4 else 2

/-- floor(log2) of a magnitude rounded to the precision of a format, its exponent not bounded. -/
def roundedLog2 (f : Fmt) (x e : Int) : Int :=
  let l := log2Of x e
  let m := rneScale (Int.ofNat x.natAbs) (e - (l - Int.ofNat f.mb))
  log2Of m (l - Int.ofNat f.mb)

/-- One MX block of a long drain: scale, codes, rounded, overflowed elements (R310). -/
def drainBlock (t : Nat) (f : Fmt) (a : Int) (xs : List (Int × Nat)) : Nat × List Nat × Bool × Nat :=
  if xs.any fun x => x.2 != 0 then (255, xs.map fun _ => 0, false, 0)
  else
    match ((xs.filter fun x => x.1 != 0).map fun x => some (roundedLog2 f x.1 (a - 82))).foldl maxExpOpt none with
    | none => (0, xs.map fun _ => 0, false, 0)
    | some l =>
      let s := min 254 (l - mxEmax t + 127).toNat
      let r := xs.map fun x =>
        if x.1 = 0 then (0, false, false)
        else
          let e := a - 82 - ((s : Int) - 127)
          let m := f.roundMag x.1 e
          if f.maxCode < m then (f.signed (decide (x.1 < 0)) f.maxCode, true, true)
          else (f.signed (decide (x.1 < 0)) m, !f.roundExact x.1 e, false)
      (s, r.map fun y => y.1, r.any fun y => y.2.1, (r.filter fun y => y.2.2).length)

/-- The code of a W96 element (R311, R41). -/
def w96Code (a x : Int) (tag : Nat) : Nat :=
  let content : Int := if tag = 3 then -(2 ^ 95) else if tag = 1 then -(2 ^ 95) + 1 else if tag = 2 then -(2 ^ 95) + 2 else x
  (content % 2 ^ 96).toNat + 2 ^ 96 * (a % 2 ^ 16).toNat

/-- An MX image of element codes and scales; pad bytes are zero (Table 2-2). -/
def mxImage (t : Nat) (codes scales : List Nat) : List Byte :=
  slice (bytesOfCodes (elemBits t) codes ++ scales.map (BitVec.ofNat 8)) 0 4096

/-- A long drain of elements into a tile of a type. -/
def drainLong (t : Nat) (a : Int) (xs : List (Int × Nat)) : Drained :=
  if t = 14 then ⟨bytesOfCodes 128 (xs.map fun x => w96Code a x.1 x.2), false, 0, 0⟩
  else
    match fmtOf t with
    | none => ⟨[], false, 0, 0⟩
    | some f =>
      if isMx t then
        let bs := (groupsOf 32 (xs.length / 32) xs).map (drainBlock t f a)
        ⟨mxImage t (bs.flatMap fun b => b.2.1) (bs.map fun b => b.1), bs.any fun b => b.2.2.1, (bs.map fun b => b.2.2.2).sum, 0⟩
      else
        let r := xs.map fun x => drainElem f a x.1 x.2
        ⟨bytesOfCodes (elemBits t) (r.map fun y => y.1), r.any fun y => y.2.1, (r.filter fun y => y.2.2).length, 0⟩

/-- An integer drain of elements into a tile of a type (R299). -/
def drainInt (t : Nat) (scales : List (Option Nat)) (xs : List Int) : Drained :=
  if t = 14 then ⟨bytesOfCodes 128 (xs.map fun x => w96Code 82 x 0), false, 0, 0⟩
  else
    let w := elemBits t
    let hi : Int := 2 ^ (w - 1) - 1
    let ys := xs.map fun x => max (-(2 ^ (w - 1)) : Int) (min hi x)
    let n := (List.zip xs ys).filter (fun p => p.1 != p.2) |>.length
    let codes := ys.map fun y => (y % 2 ^ w).toNat
    ⟨if t = 12 then mxImage 12 codes (scales.map fun s => s.getD 0) else bytesOfCodes w codes, false, 0, n⟩

/-- The tiles that an accumulator drains to, in a type. -/
def AccData.drain (d : AccData) (t : Nat) : List Drained :=
  let n := elemsPerTile t
  let k := d.content.length / n
  if d.integer then (groupsOf n k d.content).map (drainInt t d.scale)
  else (groupsOf n k (List.zip d.content d.tag)).map (drainLong t d.anchor)

/-- QUALITY of a drained tile before class quantisation (R316, Table 8-4); `clamped` counts the clamps of an integer drain in
the whole accumulator tile. -/
def AccData.quality (d : AccData) (x : Drained) (clamped : Nat) : Nat :=
  if d.dropped then 4
  else if d.sat.any (· == true) ∨ clamped ≠ 0 ∨ x.ovf ≠ 0 then 3
  else if d.h = 12 then 2
  else if d.inexact ∨ x.rounded then 1
  else 0

/-- The input-bound check of a drained tile (11_integrity R423): e_o and the bound when it flags the tile. -/
def AccData.boundCheck (d : AccData) (t : Nat) (x : Drained) : Option (Int × Int) :=
  let vs := tileValues t x.img
  if d.integer ∨ x.ovf ≠ 0 ∨ vs.any (fun v => v.tag != 0) then none
  else
    match maxLog2 vs with
    | none => none
    | some eo => if boundFlag eo d.cVal d.addends then some (eo, d.cVal + 1 + Nat.clog 2 d.addends) else none

/-! ### Sum signatures (09_collectives R351) -/

/-- The signature exponent of the values of a type. -/
def sigExp (t mexp : Nat) (vs : List Num) : Int :=
  if t = 5 then 52
  else if t = 14 then (maxLog2 vs).getD 0
  else (contribExp t mexp vs).getD 0

/-- sum_signature of R351. -/
def sumSignature (vs : List Num) (e : Int) : Dword :=
  BitVec.ofInt 64 (vs.foldl (fun s v => if v.tag = 0 then s + truncScale v.m (v.e + (52 - e)) else s) 0)

/-- A signature as a signed number, with its exponent. -/
structure Sig where
  sum : Int
  exp : Int
  deriving DecidableEq, Repr

/-- A signature of values with the exponent that they have. -/
def Sig.of (t mexp : Nat) (vs : List Num) : Sig := ⟨(sumSignature vs (sigExp t mexp vs)).toInt, sigExp t mexp vs⟩

/-- The signature of an addend, taken over its parts (R352). -/
def Addend.sig (a : Addend) : Sig := Sig.of a.etype ((a.tiles.map fun t => t.2.2).foldl max 0) a.values

/-- The signature of the tiles that an accumulator tile drains to. -/
def drainedSig (t : Nat) (ds : List Drained) : Sig :=
  Sig.of t ((ds.map fun d => maxExp t d.img).foldl max 0) (ds.flatMap fun d => tileValues t d.img)

/-- A signature in units of 2^(g - 52): an arithmetic right shift (R353). -/
def Sig.inUnits (x : Sig) (g : Int) : Int := x.sum / 2 ^ (g - x.exp).toNat

/-- p_o of R353: the significant bits of a type. DESIGN CHOICE for INT8, which R353 does not give: 8 (log 14). -/
def sigBits (t : Nat) : Nat :=
  match t with
  | 0 => 24 | 1 => 8 | 2 => 11 | 3 => 4 | 4 => 3 | 5 => 8 | _ => 0

/-- The storage anchors after each re-anchor of addends in order, with H at 0 (R302). -/
def reanchors : Option Int → List (Option Int) → List Int
  | _, [] => []
  | none, e :: es => reanchors e es
  | some c, e :: es =>
    match e with
    | some x => if c < x then x :: reanchors (some x) es else reanchors (some c) es
    | none => reanchors (some c) es

/-- ceil of a sum of powers of two, by their exponents. -/
def ceilPows (xs : List Int) : Nat :=
  match xs with
  | [] => 0
  | x :: rest =>
    let m := rest.foldl min x
    let total := (xs.map fun y => 2 ^ (y - m).toNat).sum
    if 0 ≤ m then total * 2 ^ m.toNat else ceilDiv total (2 ^ (-m).toNat)

/-- The exponents of the terms of B: the bound of R313 at an anchor, with P addends, in the form that R353 gives it. -/
def boundTerms (t : Nat) (eo c : Int) (p : Nat) (anchors : List Int) : List Int :=
  (if t = 14 then [] else [eo - Int.ofNat (sigBits t)]) ++ List.replicate p (c - 83) ++ anchors.map (· - 83)

/-- The check of R353 for n_L elements: the converted difference between the addends and the drained tile, and TOL. -/
def sumCheckOf (t nL : Nat) (addends : List Addend) (c : Int) (p : Nat) (ds : List Drained) : Int × Nat :=
  let out := drainedSig t ds
  let sigs := addends.map Addend.sig
  let g := (sigs.map Sig.exp).foldl max out.exp
  let b := boundTerms t out.exp c p (reanchors none (addends.map Addend.ec))
  ((sigs.map fun x => x.inUnits g).sum - out.inUnits g, (nL + 1) * (p + 1) + nL * ceilPows (b.map (· + (52 - g))))

/-- The signature of a logical tile of images in order. -/
def tileSignature (t : Nat) (imgs : List (List Byte)) : Dword :=
  let vs := imgs.flatMap (tileValues t)
  sumSignature vs (sigExp t ((imgs.map (maxExp t)).foldl max 0) vs)

end Sys2Proof.Machine
end

