-- ==== Sys2Proof/Machine/Write.lean ====
section
/-! DEFINITION. Compressing a tile: acceptance, folding and quantisation (02_tile_container R62, R63; 04_bounded_loss R122 to R147;
07_compression R260, R262, R263), coding (03_lossless_coding R112, R564; 07 R264, R271), verification and its settlement
(07 R266 to R269, R568; 11_integrity R425, R426). -/

namespace Sys2Proof.Machine

/-! ### Harbour (01_five_levels R32, R35) -/

/-- Bytes that a write job holds: the dense image that is retained until its commit, or a payload that moves unchanged. -/
def WJob.heldBytes (w : WJob) : Nat :=
  if w.src = .copy then (w.parts.map fun p => p.payload.length).sum else if w.stage = .done then 0 else 4096

/-- Bytes that a read job holds or has asked for. -/
def RJob.heldBytes (j : RJob) : Nat :=
  match j.stage with
  | .payload 0 | .held | .presence | .entry => 0
  | _ => 64 * entLen j.entry

/-- Bytes of a chunk that is to be sent. -/
def SendChunk.heldBytes (k : SendChunk) : Nat := max k.msg.payload.length (k.tiles.map fun t => t.2.2.2.length).sum

/-- Bytes of a chunk that has been received. -/
def RecvChunk.heldBytes (k : RecvChunk) : Nat := (k.tiles.map fun t => t.2.1.length).sum

/-- True for a tile that is committed as it came over a link: its payload is that of the received chunk, which stays staged until the tile is
committed (09_collectives R357). -/
def State.wireCopy (s : State) (w : WJob) : Bool :=
  w.src == .copy && s.colls.any fun c => c.stream == w.stream && c.seq == w.seq && !c.isSend

/-- What the Harbour holds, with its bytes (Table 1-3): retained images and payloads that move, payloads read ahead, source tiles of
accumulator tiles until their commit (08_accumulation R294), chunks and kept sums (09_collectives R343, R357), staged Chart bytes
(12_chart R476). -/
def State.harbourItems (s : State) : List (SpillOf × Nat) :=
  s.wjobs.map (fun w => (.image w.id, if s.wireCopy w then 0 else w.heldBytes)) ++ s.rjobs.map (fun j => (.payload j.id, j.heldBytes)) ++
    (s.contrib.zipIdx.map fun c => (.addend c.1.1 ((s.contrib.take c.2).filter fun x => x.1 == c.1.1).length, c.1.2.2.2.length)) ++
    (s.colls.flatMap fun c => (c.send.map fun k => (.outgoing c.stream k.chunk, k.heldBytes)) ++
      (c.recv.map fun k => (.received c.stream k.chunk, k.heldBytes)) ++ c.sums.map fun a => (.sum a.id, 16 * a.nacc)) ++
    ((List.finRange 2).flatMap fun p => s.lports[p].early.map fun m => (.early p m.man, m.payload.length)) ++
    (List.range (ceilDiv (s.chart.staged.length + 64 * s.chart.dmaNext.length) 4096)).map fun i => (.chartBytes i, 4096)

/-- Bytes that the Harbour holds: everything of it that has not been spilled. -/
def State.harbourUse (s : State) : Nat :=
  ((s.harbourItems.filter fun x => x.2 != 0 && (s.spill? x.1).isNone).map Prod.snd).sum

/-- Room for n bytes of some tiles in the Harbour, or for their sectors in the staging region when the Harbour is full (R32, R35). -/
def State.makeRoomFor (o : SpillOf) (n tiles : Nat) (s : State) : State × Bool :=
  if s.harbourUse + n ≤ harbourBytes s.params.hardening ∨ (s.spill? o).isSome then (s, true)
  else
    match s.spillSpace o (ceilDiv n 64) with
    | (t, true) => (t.bumpN .harbourSpill tiles, true)
    | (t, false) => (t, false)

/-- The same for bytes that are counted already. -/
def State.admitHeld (o : SpillOf) (n tiles : Nat) (s : State) : State × Bool :=
  if s.harbourUse ≤ harbourBytes s.params.hardening ∨ (s.spill? o).isSome then (s, true)
  else
    match s.spillSpace o (ceilDiv n 64) with
    | (t, true) => (t.bumpN .harbourSpill tiles, true)
    | (t, false) => (t, false)

/-- Room in the Harbour for several items that come in at once, in order, with `used` bytes taken by those in front and `k` of those spilled
(R32); HARBOUR_SPILL counts when there is room for all. -/
def State.makeRooms : Nat → Nat → List (SpillOf × Nat) → State → State × Bool
  | _, k, [], s => (s.bumpN .harbourSpill k, true)
  | used, k, (o, n) :: rest, s =>
    if (s.spill? o).isSome then s.makeRooms used k rest
    else if s.harbourUse + used + n ≤ harbourBytes s.params.hardening then s.makeRooms (used + n) k rest
    else
      match s.spillSpace o (ceilDiv n 64) with
      | (t, true) => t.makeRooms used (k + 1) rest
      | (t, false) => (t, false)

/-- Room for the images of n write jobs that are about to begin, with the number of the first; none when there is none for all. -/
def State.imageRooms (n : Nat) (s : State) : State × Option Nat :=
  match { s with nextId := s.nextId + n }.makeRooms 0 0 ((List.range n).map fun i => (.image (s.nextId + i), 4096)) with
  | (t, true) => (t, some s.nextId)
  | (t, false) => (t, none)

/-! ### Spill stalls (01_five_levels R35) -/

/-- The SPILL_FULL record of a stall. -/
def State.spillRec (n pool : Nat) (again : Bool) (s : State) : State :=
  let r := (s.stream? n).bind fun x => x.runs.head?
  s.report { reason := 0x13, sev := .corrected, rep := again, detailA := pool,
             detailB := (s.streams.filter fun x => x.stallSpill.isSome).length,
             handle := handleOf s.die s.clusterNo n, seq := (r.map Run.seq).getD 0 }

/-- A stream stalls for want of spill space, with a record when its region is full; sectors that have been asked of another cluster may
still be on their way (R23). -/
def State.spillStall (n : Nat) (staging : Bool) (s : State) : State :=
  let pool := s.spillPool staging
  if !s.spillFull staging ∨ ((s.stream? n).any fun x => x.stallSpill.isSome) then s
  else (s.updStream n fun x => { x with stallSpill := some (pool, s.time) }).spillRec n pool false

/-- The stall ends. -/
def State.spillFound (n : Nat) (s : State) : State := s.updStream n fun x => { x with stallSpill := none }

/-! ### Failure at the source (07_compression R260) -/

/-- A tile fails at its source. -/
def State.failSource (u : UnitId × Nat) (id reason detailA detailB : Nat) (s : State) : State :=
  match s.wjob? id with
  | none => s
  | some w =>
    let s1 := s.workReport w.stream w.seq
      { reason := reason, sev := .contained, unit := u.1, unitIndex := u.2, addr := w.recAddr, tile := BitVec.ofNat 32 w.tile,
        detailA := detailA, detailB := detailB }
    let s2 := ((s1.bump .intakeErr).errTile w.stream w.seq).flagRun w.stream w.seq RunFlags.tileErr
    s2.updW id fun x => { x with stage := .done, fail := some reason, parts := [], data := [] }

/-! ### Quantisation (04_bounded_loss; 11_integrity R419) -/

/-- Bound-check faults of a tile: QUANT_CHECK for each failed group, a CORRECTED record, and the tile's failure when a group
fails twice (R419). Answers whether the tile goes on. -/
def State.quantFaults (id : Nat) (faults : List (Nat × Nat × Bool)) (s : State) : State × Bool :=
  faults.foldl (fun (p : State × Bool) f =>
    let s1 := p.1.bump .quantCheck
    match s1.wjob? id with
    | none => (s1, false)
    | some w =>
      if !p.2 then (s1, false)
      else if f.2.2 then (s1.failSource (.cluster, 0) id 0x09 f.1 f.2.1, false)
      else (s1.workReport w.stream w.seq
        { reason := 0x09, sev := .corrected, addr := w.recAddr, tile := BitVec.ofNat 32 w.tile, detailA := f.1,
          detailB := f.2.1 }, true)) (s, true)

/-- A tile whose reference image is ready: it waits for an engine, or goes on at once when it and its residuals are all zero
(07_compression R271). -/
def WJob.imageReady (w : WJob) (img : List Byte) (quality : Nat) (residuals : List (List Byte)) : WJob :=
  { w with
    data := img
    quality0 := worstQuality w.quality0 quality
    carry := residuals.zipIdx.map fun r => (r.2, some r.1)
    stage := .ready }

/-- The counters of a quantised tile (R132). -/
def State.quantCounts (q : QTile) (s : State) : State :=
  ((s.bumpN .quantDirected q.directed).bumpN .quantNonfinite q.nonfinite).bumpN .quantGroups q.groups

/-- An image that has no room in the Harbour is written to the staging region. -/
def State.storeImage (id : Nat) (s : State) : State := s.spillStore (.image id) 0 64

/-- Table 4-3: folding, then nothing, quantisation, or the carry read. `faults` are the bound-check faults met. -/
def State.quantiseTile (id : Nat) (faults : List (Nat × Nat × Bool)) (s : State) : State :=
  match s.wjob? id with
  | none => s
  | some w =>
    let t := recType w.trec
    let k := recClass w.trec
    let dense := if recFold w.trec then foldNz t w.data else w.data
    if k = 0 then (s.updW id fun x => x.imageReady dense 0 []).storeImage id
    else if recResidual w.trec ≠ 0 ∧ w.carry.length < carryTiles t then
      s.updW id fun x => { x with stage := .carry 0 }
    else
      let p := s.quantFaults id faults
      if !p.2 then p.1
      else
        let q := if recResidual w.trec = 0 then quantTile t k dense
          else carryTile t k dense ((List.range (carryTiles t)).map fun j =>
            ((w.carry.find? fun c => c.1 == j).bind Prod.snd).getD (List.replicate 4096 0))
        ((p.1.quantCounts q).updW id fun x => x.imageReady q.img (if q.bounded then 1 else 0) q.residuals).storeImage id

/-- True when an earlier tile of the stream that writes the same tile has not been committed: its residual is not read
before (R145). -/
def State.priorWriter (s : State) (w : WJob) : Bool :=
  (s.wjobs.takeWhile fun x => x.id != w.id).any fun x =>
    x.stream == w.stream && x.recAddr == w.recAddr && x.tile == w.tile && x.stage != .done

/-- A tile that waits for its carry: its residual tiles are read, or, when all have come, it is quantised. -/
def State.carryStep (w : WJob) (faults : List (Nat × Nat × Bool)) (s : State) : State :=
  match w.stage, s.run? w.stream w.seq with
  | .carry 0, some r =>
    let c := carryTiles (recType w.trec)
    if w.carry.length = c then s.quantiseTile w.id faults
    else if s.priorWriter w ∨ s.rjobs.any (fun j => match j.use with | .carry x _ => x == w.id | _ => false) then s
    else
      forAll (List.range c) (fun j s => s.startRead w.stream w.seq w.unit (.carry w.id j) (recResidual w.trec) r.resRec (c * w.tile + j))
        (s.updW w.id fun x => { x with stage := .carry c })
  | _, _ => s

/-- Every tile that waits for its carry takes its next step. -/
def State.carrySteps (faults : List (Nat × Nat × Bool)) (s : State) : State :=
  forAll s.wjobs (fun w s => s.carryStep w faults) s

/-! ### Memory source (07_compression R260, R261) -/

/-- Sectors of a dense source have come on a memory port. -/
def State.gotSource (id base addr n : Nat) (port : Fin 8) (img : Image) (dead : Bool) (faults : List (Nat × Nat × Bool)) (s : State) :
    State :=
  match s.wjob? id with
  | none => s
  | some w =>
    match w.stage with
    | .source m =>
      let bad := dead || imgPoison img addr (64 * n)
      let w1 := { w with
        buf := w.buf ++ (List.range n).map fun i => (base + i, imgRead img (addr + 64 * i) 64)
        fail := if bad then some 0x42 else w.fail
        stage := .source (m - n) }
      let s1 := s.updW id fun _ => w1
      if m - n ≠ 0 then s1
      else if w1.fail.isSome then s1.failSource (.memoryPort, port.val) id 0x42 0 0
      else
        let data := (List.range 64).flatMap fun i => slice (((w1.buf.find? fun b => b.1 == i).map Prod.snd).getD []) 0 64
        (s1.updW id fun x => { x with data := data, buf := [] }).quantiseTile id faults
    | _ => s

/-- The dense source of a tile is read (R261, R275): `at_` is its address. -/
def State.readSource (id at_ : Nat) (s : State) : State :=
  s.readSpan at_ 64 fun b => .source id ((b - at_) / 64)

/-! ### Coding (R264, R271, R564) -/

/-- The stored form of an image under a tensor record; `catchup` says that Table 5-30 applies. -/
def State.storeOf (s : State) (r : BitVec 1024) (img : List Byte) (catchup : Bool) : Stored :=
  if allZero img then ⟨0, [], false⟩
  else
    let e : EncIn :=
      { t := recType r, stride := recStride r, ver := recVer r + 2,
        level := if catchup then min (recLevel r) 1 else recLevel r, quant := recClass r != 0, img := img, seed := [] }
    storeTile s.freeCtr e (((s.chartVal Chart.seeds []).find? fun p => p.1 == recSeed r).map Prod.snd)
      (if catchup && recPolicy r == 2 then 0 else recPolicy r) (recTable r)
      (((s.chartVal Chart.tables []).find? fun p => p.1 == recTable r).map Prod.snd)

/-- A CODE_UNLOADED record, once per id and descriptor (R564). -/
def State.unloadedRec (w : WJob) (kind id : Nat) (s : State) : State :=
  match s.run? w.stream w.seq with
  | none => s
  | some r =>
    if r.unloaded.contains (kind, id) then s
    else (s.workReport w.stream w.seq
        { reason := 0x3E, sev := .corrected, addr := w.recAddr, tile := BitVec.ofNat 32 w.tile, detailA := kind,
          detailB := id }).updRun w.stream w.seq fun x => { x with unloaded := x.unloaded ++ [(kind, id)] }

/-- The records for a table or a seed that is not loaded. -/
def State.unloadedRecs (w : WJob) (r : BitVec 1024) (s : State) : State :=
  let policy := if w.catchup && recPolicy r == 2 then 0 else recPolicy r
  let noTable := policy != 1 && !(s.chartVal Chart.tables []).any fun p => p.1 == recTable r
  let noSeed := !(s.chartVal Chart.seeds []).any fun p => p.1 == recSeed r
  whenB noSeed (State.unloadedRec w 1 (recSeed r)) (whenB noTable (State.unloadedRec w 0 (recTable r)) s)

/-- A part of a tile in its stored form. -/
def State.codePart (w : WJob) (recAddr : Nat) (r : BitVec 1024) (tile : Nat) (img : List Byte) (quality : Nat) (s : State) :
    State × Part :=
  let st := s.storeOf r img w.catchup
  let s1 := if st.state = 0 then s else (s.unloadedRecs w r).chosen
  (s1, Part.new recAddr r tile img (crc64 img) st.state st.payload quality)

/-- The parts of a tile: itself and its residual tiles. -/
def State.codeParts (w : WJob) (rec2 : BitVec 1024) (s : State) : State × List Part :=
  let p0 := s.codePart w w.recAddr w.trec w.tile w.data w.quality0
  w.carry.foldl (fun (p : State × List Part) c =>
    let q := p.1.codePart w (recResidual w.trec) rec2 (carryTiles (recType w.trec) * w.tile + c.1) (c.2.getD []) 0
    (q.1, p.2 ++ [q.2])) (p0.1, [p0.2])

/-- A free-running sample counter advances for a CODED tile of a SAMPLED tensor, and selects it or not (R267). -/
def Stream.sampleNext (x : Stream) (shift : Nat) : Stream × Bool :=
  let c := x.sample + 1
  ({ x with sample := c }, decide (c.toNat % 2 ^ shift = 0))

/-- True when a core other than the coder could check its tiles (R15, R568). -/
def State.hasChecker (s : State) (coder : Fin 16) : Bool :=
  (List.finRange 16).any fun c => c != coder && s.active c && !(s.core c).retired

/-- A selected tile without a checker is committed without verification, with one record for its descriptor (R568). -/
def State.noChecker (w : WJob) (s : State) : State :=
  let s1 := s.bump .verifySkip
  let n := ((s1.run? w.stream w.seq).map Run.unverified).getD 0 + 1
  let s2 := s1.updRun w.stream w.seq fun r => { r with unverified := n }
  if n = 1 then s2.workReport w.stream w.seq
    { reason := 0x17, sev := .corrected, addr := w.recAddr, tile := BitVec.ofNat 32 w.tile, detailA := w.coder.val, detailB := n }
  else s2

/-- The selection of a part for verification (R266, R267, R568). -/
def State.selectPart (w : WJob) (p : Part) (s : State) : State × Part :=
  let v := recVerify p.trec
  if p.state ≠ 1 ∨ v = 0 then (s, p)
  else
    let x := s.stream? w.stream
    let adv := x.map fun y => y.sampleNext (recShift p.trec)
    let s1 := if v = 1 then s.updStream w.stream fun y => (y.sampleNext (recShift p.trec)).1 else s
    let sel := v == 2 || (adv.map Prod.snd).getD false
    if !sel then (s1, p)
    else if v = 1 ∧ w.catchup then (s1.bump .verifySkip, p)
    else if !s1.hasChecker w.coder then (s1.noChecker w, p)
    else (s1, { p with verify := .waiting })

/-- Every part of a tile is selected for verification or not, in order. -/
def State.selectParts (w : WJob) (parts : List Part) (s : State) : State × List Part :=
  parts.foldl (fun (q : State × List Part) p => let z := q.1.selectPart w p; (z.1, q.2 ++ [z.2])) (s, [])

/-- What a faulty engine coded replaces the payload of a part (an input of the model). -/
def Part.made (p : Part) (payload : List Byte) : Part := { p with payload := payload }

/-- An engine has coded a tile (R112, R264, R271): its parts, the selection for verification, and the request for
sectors. -/
def State.codeEnds (w0 : WJob) (coder : Fin 16) (faulty : List (Nat × List Byte)) (s : State) : State :=
  match s.run? w0.stream w0.seq with
  | none => s
  | some r =>
    let w := { w0 with coder := coder }
    let p := s.codeParts w r.resRec
    let parts := p.2.zipIdx.map fun x =>
      match faulty.find? (fun m => m.1 == x.2) with
      | some m => if x.1.state = 1 then x.1.made m.2 else x.1
      | none => x.1
    let q := p.1.selectParts w parts
    let made := (p.2.filter fun x => x.state != 0).length
    (q.1.codedOn coder (max 1 made)).updW w.id fun x => { x with coder := coder, parts := q.2, stage := .space }

/-- A tile that needs no engine: it and its residuals are all zero, or it is not to be coded at all (R271). -/
def State.codeZero (w : WJob) (s : State) : State :=
  match s.run? w.stream w.seq with
  | none => s
  | some r =>
    let p := s.codeParts w r.resRec
    p.1.updW w.id fun x => { x with parts := p.2, stage := .writing }

/-- True when a tile needs an engine. -/
def WJob.needsEngine (w : WJob) : Bool := !allZero w.data || w.carry.any fun c => !allZero (c.2.getD [])

/-! ### Verification (R268, R425, R426) -/

/-- A part of a write job is changed. -/
def State.updPart (id i : Nat) (f : Part → Part) (s : State) : State :=
  s.updW id fun w => { w with parts := w.parts.modify i f }

/-- What a correct checker decoder sees of a part. -/
def State.checkerSees (s : State) (p : Part) : Seen :=
  let w0 := entryWord 0 (p.payload.length / 64) 1 (recClass p.trec) p.quality (recSeed p.trec) (recVer p.trec)
  let h := parseHeader p.payload
  let ver := recVer p.trec + 2
  if headerFail h (recType p.trec) (recStride p.trec) ver (entLen (mkEntry w0 p.check)) ≠ 0 then .error 0x30
  else
    match decodeTile (s.chartVal Chart.seeds []) (s.chartVal Chart.tables []) (recType p.trec) (recStride p.trec) ver
        (p.payload.length / 64) (recSeed p.trec) p.payload with
    | .error e => .error e
    | .ok img =>
      if crc64 img = p.check ∧ maxExp (recType p.trec) img ≠ h.maxExp then .error 0x30 else .image img

/-- An outcome passes (R425). -/
def seenPasses (p : Part) (x : Seen) : Bool :=
  match x with
  | .image b => b == p.img && crc64 b == p.check
  | .error _ => false

/-- Position of the first differing byte of two images. -/
def firstDiff : Nat → List Byte → List Byte → Option Nat
  | _, [], [] => none
  | i, a :: as, b :: bs => if a = b then firstDiff (i + 1) as bs else some i
  | i, _, _ => some i

/-- DETAIL_B of a settlement (Table 11-8). -/
def seenDetail (p : Part) (x : Seen) : Nat :=
  match x with
  | .error r => 0xFFFF + 65536 * r
  | .image b =>
    match firstDiff 0 b p.img with
    | some i => i
    | none => 0xFFFF + 65536 * 0x3A

/-- Core c of R426: the first active core in ascending order after b, wrapping, that is neither a nor b and is not out of
service. -/
def State.thirdCore (s : State) (a b : Fin 16) : Option (Fin 16) :=
  ((List.range 16).map fun i => (b.val + 1 + i) % 16).findSome? fun i =>
    if h : i < 16 then
      let c : Fin 16 := ⟨i, h⟩
      if c ≠ a ∧ c ≠ b ∧ s.active c ∧ (s.core c).fn.st = .on then some c else none
    else none

/-- A tile is not committed: its sectors go back, and it has ended without its commit (R273, Table 11-3). -/
def State.abandonTile (w : WJob) (s : State) : State :=
  (((s.dropPlaces w.parts).forgetAsk w.id).dropReqs (Purpose.ofPart w.id)).updW w.id fun x => { x with parts := [], stage := .done }

/-- A settlement's record and the record's core (R439). -/
def State.settleRec (w : WJob) (p : Part) (reason : Nat) (sev : Sev) (core : Fin 16) (a : Nat) (b : Nat) (s : State) :
    State :=
  (s.bump .verifySettle).workReport w.stream w.seq
    { reason := reason, sev := sev, unit := .core, unitIndex := core.val, addr := p.recAddr,
      tile := BitVec.ofNat 32 p.tile, detailA := a, detailB := b }

/-- No majority: the tile is not committed and counts in ERR_TILES; a residual tile alone keeps its previous content
(Table 11-3, 04_bounded_loss R144). -/
def State.noMajority (w : WJob) (i : Nat) (p : Part) (a b : Fin 16) (c : Nat) (x : Seen) (s : State) : State :=
  let s1 := s.settleRec w p 0x08 .contained a (a.val + 256 * b.val + 65536 * c) (seenDetail p x)
  let s2 := ((s1.errTile w.stream w.seq).flagRun w.stream w.seq RunFlags.tileErr)
  let s3 := if i = 0 then s2.abandonTile w
    else (s2.dropPlaces [p]).updPart w.id i fun q => { q with committed := true, place := none, payload := [], acks := 0, verify := .none }
  (s3.coreFault a).coreFault b

/-- A tile that needs sectors again asks at once, or when the map writes of its last grant or the commit of another part has ended. -/
def WStage.again : WStage → WStage
  | .mapping n => .mapping n
  | .queued i => .queued i
  | _ => .space

/-- The payload of a part is discarded and its tile stored RAW from the retained image (R269, Table 11-3). A request for sectors that
has not been answered is given up with the payload that it was for: what it brings goes back. -/
def State.storeRaw (w : WJob) (i : Nat) (p : Part) (s : State) : State :=
  let s1 := (s.dropPlaces [p]).forgetAsk w.id
  let s2 := s1.dropReqs fun q => match q with | .partWrite x y => x == w.id && y == i | _ => false
  (s2.updPart w.id i fun q => { q with state := 2, payload := q.img, place := none, acks := 0, verify := .settled }).updW w.id
    fun x => { x with stage := x.stage.again, waitedSpace := false }

/-- True for class 1 work: a tile coded again, or one whose payload a settlement has discarded and that is stored RAW (Table 5-26). -/
def WJob.contains (w : WJob) : Bool := w.replay || w.parts.any fun p => p.verify == .settled && !p.committed

/-- A checker decoder has finished (R268). -/
def State.checkerEnds (w : WJob) (i : Nat) (p : Part) (b : Fin 16) (seen : Option Seen) (s : State) : State :=
  let x := seen.getD (s.checkerSees p)
  let s1 := (s.bump .verifyDone).checkedOn b 1
  if seenPasses p x then s1.updPart w.id i fun q => { q with verify := .passed }
  else
    match s1.thirdCore w.coder b with
    | some _ => s1.updPart w.id i fun q => { q with verify := .disagreed b x }
    | none => s1.noMajority w i p w.coder b 0xFF x

/-- A third evaluation has finished (Table 11-3). -/
def State.thirdEnds (w : WJob) (i : Nat) (p : Part) (b c : Fin 16) (x : Seen) (seen : Option Seen) (s0 : State) : State :=
  let s := s0.checkedOn c 1
  let y := seen.getD (s.checkerSees p)
  let a := w.coder
  let abc := a.val + 256 * b.val + 65536 * c.val
  if seenPasses p y then
    ((s.settleRec w p 0x06 .corrected b abc (seenDetail p x)).updPart w.id i fun q => { q with verify := .passed }).coreFault b
  else if x = y then
    ((s.settleRec w p 0x07 .corrected a abc (seenDetail p x)).storeRaw w i p).coreFault a
  else s.noMajority w i p a b c.val y

end Sys2Proof.Machine
end

