-- ==== Sys2Proof/Machine/Commit.lean ====
section
/-! DEFINITION. Sectors and commits: allocation (07_compression R272 to R277; 10_memory_channels R382 to R385), commit (Table 7-3;
02_tile_container R54, R56, R565; 05_streams_and_order R188, R189), plausibility (11_integrity R421 to R424), the die ring
(01_five_levels R21, R23; 16_integration R562). -/

namespace Sys2Proof.Machine

/-! ### Running out of space (07_compression R273, R274, R277) -/

/-- True for a descriptor that takes its tiles from an intake port. -/
def intakeKind (d : BitVec 512) : Bool := (dKind d == 2 || dKind d == 3) && decide (dSource d < 4)

/-- What a stop does to a tile from t onward: an accepted intake tile stays retained, to be issued again by a RESUME with the measures of
that time (05_streams_and_order R202), and every other tile is released. -/
def State.stopTile (intake : Bool) (w : WJob) (s : State) : State :=
  let s1 := forAll (s.rjobs.filter fun j => match j.use with | .carry x _ => x == w.id | _ => false)
    (fun j s => s.cancelRead j) s
  let s2 := ((s1.dropPlaces w.parts).forgetAsk w.id).dropReqs fun p => match p with
    | .partWrite x _ => x == w.id
    | .partMap x => x == w.id
    | .source x _ => x == w.id
    | _ => false
  let s3 := { s2 with pools := s2.pools.map (PoolSt.unwait w.id) }
  if intake then
    s3.updW w.id fun x =>
      match x.stage with
      | .beats => x
      | .done => x
      | .carry _ => { x with stage := .carry 0, carry := [], carryLost := false, parts := [], issued := false, catchup := false }
      | _ => { x with stage := .ready, parts := [], issued := false, catchup := false }
  else s3.dropW w.id

/-- The tile of unit u of a COMPRESS or RESUME (R253, R275). -/
def Run.tileOf (r : Run) (u : Nat) : Nat :=
  match r.cont with
  | some p => p.tile + u
  | none => dFirst r.desc + u

/-- FIRST_TILE of the descriptor whose source the run reads (R275). -/
def Run.baseTile (r : Run) : Nat :=
  match r.cont with
  | some p => p.firstTile
  | none => dFirst r.desc

/-- SPACE_STOP applies. -/
def RunFlags.spaceOut (f : RunFlags) : RunFlags := { f with spaceStop := true }

/-- A run that stops at unit u. -/
def Run.stopped (u : Nat) (r : Run) : Run :=
  { r with total := u, issued := min r.issued u, stopAt := some u, flags := r.flags.spaceOut }

/-- A tile that a stop record retains (R274). -/
def Stream.retains (x : Stream) (w : WJob) : Bool := x.stop.any fun p => p.seq == w.seq && decide (p.unit ≤ w.unit)

/-- True when a descriptor has started a unit; the side of a collective that takes chunks stands from its fetch on, before it starts. -/
def Run.begun (r : Run) : Bool := r.started && (!(r.kind == 0x20 || r.kind == 0x21) || r.issued != 0 || r.sub != 0)

/-- A descriptor stops at unit u for lack of sectors. A COMPRESS or RESUME leaves a stop record, unless the stream's next
descriptor has started already (R277). A second stop, when the RAW re-storage of an earlier tile fails (R273), moves the first one back. -/
def State.stopRun (n : Nat) (seq : Word) (u : Nat) (s : State) : State :=
  match s.stream? n, s.run? n seq with
  | some x, some r =>
    let comp := r.kind == 2 || r.kind == 3
    let later := (x.runs.dropWhile fun y => !y.named seq).drop 1
    let keep := comp && !later.any Run.begun
    let left := match x.stop with | some p => if p.seq = seq then p.remaining else 0 | none => 0
    let mine := s.wjobs.filter fun w => w.stream == n && w.seq == seq && decide (u ≤ w.unit)
    let s1 := forAll mine (fun w s => s.stopTile (intakeKind r.desc && keep) w) s
    let s2 := forAll (s1.rjobs.filter fun j => j.stream == n && j.seq == seq && decide (u ≤ j.unit))
      (fun j s => s.cancelRead j) s1
    let s3 := { s2 with accs := s2.accs.filter fun a => !(a.stream == n && a.seq == seq && decide (u ≤ a.unit)) }
    let s4 := s3.updRun n seq (Run.stopped u)
    let s5 := whenB (comp && r.stopAt.isNone) (State.bump .spaceStops) s4
    let part := mine.any fun w => w.stage == .beats
    if !keep then whenB part (State.updStream n fun y => { y with beat := 0 }) s5
    else
      let p : StopRec :=
        { seq := seq, unit := u, recAddr := dTensor r.desc, tile := r.tileOf u, remaining := r.total - u + left, source := dSource r.desc,
          srcAddr := dSrcAddr r.desc, firstTile := r.baseTile, accepted := (mine.filter fun w => w.stage != .beats).length }
      s5.updStream n fun y => { y with stop := some p }
  | _, _ => s

/-- A stop record is discarded with its retained tiles (R277); the tiles before the stop go on to their commits (R273). -/
def State.discardStop (n : Nat) (s : State) : State :=
  match s.stream? n with
  | none => s
  | some x =>
    if x.stop.isNone then s
    else ({ s with wjobs := s.wjobs.filter fun w => !(w.stream == n && x.retains w) }).updStream n fun y =>
      { y with stop := none, beat := 0 }

/-! ### Requests for sectors (R272, R384, R385) -/

/-- What the allocator answers. -/
inductive Alloc where
  | granted (starts : List Nat) (free : List (Nat × Nat)) (skew : Nat)
  | waits
  | fails
  deriving DecidableEq, Repr

/-- The answer to a request for payloads of tile t of a tensor record (R272). -/
def State.tryAlloc (s : State) (p : Pool) (ps : PoolSt) (recAddr tile : Nat) (sizes : List (Nat × Nat)) : Alloc :=
  let k := walkStart recAddr tile p.chans.length
  let counted (c : ChanEntry) : Bool := !(s.chan c.chan).out && !(s.chan c.chan).dead
  let later := joinFree p (ps.delayed.foldl (fun l d => insertRun (d.2.1, d.2.2) l) ps.free)
  if !s.poolReady ps then .waits
  else
    match placeAll s.eligible p.chans k sizes ps.free with
    | some (starts, free, skew) => .granted starts free skew
    | none => if (placeAll counted p.chans k sizes later).isSome then .waits else .fails

/-- Runs of a grant. -/
def grantRuns (starts : List Nat) (sizes : List (Nat × Nat)) : List (Nat × Nat) := List.zipWith (fun a z => (a, z.2)) starts sizes

/-- A grant is taken: its sectors leave the free list and its map bits are written (R382). -/
def State.takeGrant (pool : Nat) (runs : List (Nat × Nat)) (free : List (Nat × Nat)) (skew : Nat) (why : Purpose) (s : State) :
    State :=
  let s1 := s.updPool pool fun q => { q with free := free, used := runs.foldl (fun l r => insertRun r l) q.used }
  forAll runs (fun r s => s.writeMap pool r.1 r.2 why) (s1.bumpN .allocSkew skew)

/-- Map writes of a grant. -/
def mapWrites (runs : List (Nat × Nat)) : Nat := (runs.map fun r => (mapSectors r.1 r.2).length).sum

/-- True when a part still needs sectors. -/
def Part.needsPlace (p : Part) : Bool := p.state != 0 && p.place == none && !p.committed

/-- Sectors of a part's payload. -/
def Part.sectors (p : Part) : Nat := ceilDiv p.payload.length 64

/-- The parts of the next request of a tile: those in the pool of the first part that needs sectors (R272). -/
def WJob.request (w : WJob) : Option (Nat × List (Nat × Nat)) :=
  match w.parts.find? Part.needsPlace with
  | none => none
  | some p =>
    let pool := recPool p.trec
    some (pool, w.parts.zipIdx.filterMap fun x =>
      if x.1.needsPlace && recPool x.1.trec == pool then some (x.2, x.1.sectors) else none)

/-- Granted sectors are given to the parts of a tile. -/
def WJob.placed (pool : Nat) (runs : List (Nat × Nat × Nat)) (w : WJob) : WJob :=
  { w with parts := w.parts.zipIdx.map fun x =>
      match runs.find? fun r => r.1 == x.2 with
      | some r => { x.1 with place := some (pool, r.2.1, r.2.2) }
      | none => x.1 }

/-- The payloads of a tile are written to their sectors (Table 7-3, step 2). -/
def State.writeParts (id : Nat) (s : State) : State :=
  match s.wjob? id with
  | none => s
  | some w =>
    forAll w.parts.zipIdx (fun x s =>
      match x.1.place, s.pool? (recPool x.1.trec) with
      | some (_, a, n), some p =>
        if x.1.acks = 0 ∧ !x.1.committed then
          let addr := p.base + 64 * a
          (s.updPart id x.2 fun q => { q with acks := s.spanPieces addr n }).writeSpan addr (slice x.1.payload 0 (64 * n))
            (.partWrite id x.2)
        else s
      | _, _ => s) (s.updW id fun x => { x with stage := .writing })

/-- Granted sectors of a tile are usable: the next request, or the payload writes. -/
def State.grantReady (id : Nat) (s : State) : State :=
  match s.wjob? id with
  | none => s
  | some w => if w.parts.any Part.needsPlace then s.updW id fun x => { x with stage := .space } else s.writeParts id

/-- A waiting request of a tile (R272, step 2). -/
def State.allocWait (pool id : Nat) (s : State) : State :=
  match s.wjob? id with
  | none => s
  | some w =>
    let s1 := whenB (!w.waitedSpace) (State.bump .allocWait) s
    let s2 := s1.updW id fun x => { x with stage := .spaceWait, waitedSpace := true }
    s2.updPool pool fun p => if p.waiting.contains id then p else { p with waiting := p.waiting ++ [id] }


/-- The request of a tile is evaluated (R272). -/
def State.serveRequest (id : Nat) (s : State) : State :=
  match s.wjob? id with
  | none => s
  | some w =>
    match w.request with
    | none => s.grantReady id
    | some (pool, sizes) =>
      match s.pool? pool, s.poolSt? pool with
      | some p, some ps =>
        match s.tryAlloc p ps w.recAddr w.tile sizes with
        | .granted starts free skew =>
          let runs := grantRuns starts sizes
          let s1 := s.updPool pool (PoolSt.unwait id)
          let s2 := s1.updW id fun x => { (x.placed pool (List.zipWith (fun z r => (z.1, r.1, r.2)) sizes runs)) with
            stage := .mapping (mapWrites runs), waitedSpace := false }
          s2.takeGrant pool runs free skew (.partMap id)
        | .waits => s.allocWait pool id
        | .fails => (s.updPool pool (PoolSt.unwait id)).stopRun w.stream w.seq w.unit
      | some _, none =>
        let q := s.reqOf w.stream w.seq w.contains
        (s.ask (.job id) { cluster := 0, job := 0, pool := pool, recAddr := w.recAddr, tile := w.tile, sizes := sizes,
                           cls := q.cls, urgent := q.urgent, stream := q.stream, weight := q.weight }).updW id fun x =>
          { x with stage := .remoteWait s.nextId }
      | none, _ => s

/-- True when the request of a tile may be served: every earlier tile of its descriptor has all of its sectors, those of its residual
tiles in another pool included (R272). -/
def State.requestTurn (s : State) (w : WJob) : Bool :=
  (w.stage == .space || w.stage == .spaceWait) &&
    !(s.wjobs.takeWhile fun x => x.id != w.id).any fun x =>
      x.stream == w.stream && x.seq == w.seq && !((s.stream? x.stream).any fun y => y.retains x) &&
        match x.stage with | .done => false | .writing | .queued _ | .mapping _ => x.parts.any Part.needsPlace | _ => true

/-! ### Requests of other clusters (01_five_levels R21, R23) -/

/-- True when this cluster cannot serve another one: OFF, HELD, in a warm reset or shutting down (R23). -/
def State.unavailable (s : State) : Bool :=
  s.phase != .run || s.chart.held || s.cluster.st != .on

/-- An answer goes out over the die ring. -/
def State.answer (cluster job : Nat) (a : RingAnswer) (s : State) : State :=
  s.sendRing (.answer cluster job a)

/-- A request of another cluster is evaluated; `fresh` says that it has just come. -/
def State.serveRemote (r : RemoteRequest) (fresh : Bool) (s : State) : State :=
  match s.pool? r.pool, s.poolSt? r.pool with
  | some p, some ps =>
    match s.tryAlloc p ps r.recAddr r.tile r.sizes with
    | .granted starts free skew =>
      let runs := grantRuns starts r.sizes
      { s with
        remoteAsks := s.remoteAsks.filter (· != r)
        grants := s.grants ++ [(r.cluster, r.job, starts, mapWrites runs)] }.takeGrant r.pool runs free skew
          (.remoteMap r.cluster r.job r.cls)
    | .waits => if fresh then { s.bump .allocWait with remoteAsks := s.remoteAsks ++ [r] } else s
    | .fails => { s with remoteAsks := s.remoteAsks.filter (· != r) }.answer r.cluster r.job .noSpace
  | _, _ => s

/-- A map write of a grant to another cluster is acknowledged; the last one releases the grant (R382). -/
def State.remoteMapped (cluster job : Nat) (s : State) : State :=
  match s.grants.find? fun g => g.1 == cluster && g.2.1 == job with
  | none => s
  | some g =>
    if g.2.2.2 ≤ 1 then
      { s with grants := s.grants.filter (· != g) }.answer cluster job (.grant g.2.2.1)
    else { s with grants := updFirst (· == g) (fun g => (g.1, g.2.1, g.2.2.1, g.2.2.2 - 1)) s.grants }

/-! ### Commit (Table 7-3) -/

/-- The entry of a part (02_tile_container Table 2-5, R565; 10_memory_channels R407). -/
def Part.newEntry (p : Part) : BitVec 128 :=
  let kept := match p.template with
    | some w0 => if entState (mkEntry w0 0) = 3 then entAddr (mkEntry w0 0) else 0
    | none => 0
  let addr := match p.place with | some (_, a, _) => a | none => kept
  match p.template with
  | some w0 => mkEntry (withAddr w0 addr) p.check
  | none =>
    if p.state = 0 then mkEntry (entryWord 0 0 0 (recClass p.trec) p.quality 0 (recVer p.trec)) zeroCheck
    else mkEntry (entryWord addr p.sectors p.state (recClass p.trec) p.quality
      (if p.state = 1 then recSeed p.trec else 0) (recVer p.trec)) p.check

/-- True when the plausibility checks apply to a descriptor's tiles (R421). -/
def plausKind (k : Nat) : Bool := k == 2 || k == 3 || k == 0x10 || k == 0x11 || k == 0x21

/-- The Tide mark of a stream. -/
def Stream.tide (x : Stream) : Tide := ⟨x.tideN, x.tideRun, x.tideAge, x.tideLo, x.tideHi⟩

/-- It is stored. -/
def Stream.setTide (t : Tide) (x : Stream) : Stream :=
  { x with tideN := t.n, tideRun := t.run, tideAge := t.age, tideLo := t.lo, tideHi := t.hi }

/-- The low 16 bits of a signed number. -/
def low16 (i : Int) : Nat := (i % 65536).toNat
/-- The low 32 bits of a signed number. -/
def low32 (i : Int) : Nat := (i % 4294967296).toNat

/-- The envelope check and the Tide mark of one output tile (R422, R424): flags are records of severity UNCONTAINED and
change nothing else. `counted` says that PLAUS_FLAG has counted the tile already. -/
def State.plausible (n : Nat) (seq : Word) (recAddr : Nat) (r : BitVec 1024) (tile : Nat) (img : List Byte) (counted : Bool)
    (s : State) : State :=
  let t := recType r
  let m := maxExp t img
  let note (reason a b : Nat) : Note :=
    { reason := reason, sev := .uncontained, addr := recAddr, tile := BitVec.ofNat 32 tile, detailA := a, detailB := b }
  let s1 := if envelopeFlag (recEnvMin r) (recEnvMax r) m (allZero img) then
      (whenB (!counted) (State.bump .plausFlag) s).workReport n seq (note 0x0B m (recEnvMin r + 256 * recEnvMax r))
    else s
  match tideExp t img, s1.stream? n with
  | some e, some x =>
    let p := tideMark x.tide e (recTide r)
    let s2 := s1.updStream n (Stream.setTide p.1)
    if p.2 then (s2.bump .tideFlag).workReport n seq (note 0x0D (low32 e) (low16 p.1.lo + 65536 * low16 p.1.hi)) else s2
  | _, _ => s1

/-- The stream number of the Causeway's own write jobs, which no stream has. -/
def causewayStream : Nat := 65536

/-- True when a part has its sectors with its payload in them, and its checker has agreed (Table 7-3 steps 1 to 3). -/
def Part.settledOk (p : Part) : Bool :=
  !p.needsPlace && p.acks == 0 && match p.verify with | .none | .passed | .settled => true | _ => false

/-- True when the next part of a tile may go to the home cluster: the payloads of the tile and of its residual tiles are written, their
checkers have agreed, and it is the tile's turn (Table 7-3 steps 1 to 4, 7). A SPACE_STOP thus leaves the tile with its own residual
(04_bounded_loss R144, R145). -/
def State.commitReady (s : State) (w : WJob) : Option (Nat × Part) :=
  if w.stage != .writing then none
  else
    match w.parts.zipIdx.find? fun x => !x.1.committed with
    | none => none
    | some (p, i) =>
      if (w.parts.all fun q => q.committed || q.settledOk) && (w.stream == causewayStream || s.turn w.stream w.seq w.unit) then
        some (i, p) else none

/-- The entry that the Causeway's commit must still find (10_memory_channels R397 step 7). -/
def State.expectOf (s : State) (w : WJob) : Option (BitVec 128) :=
  if w.stream = causewayStream then s.causeway.map Causeway.expect else none

/-- The message that sends a part to another home cluster. -/
def State.commitMsg (s : State) (w : WJob) (p : Part) : RingMsg :=
  .commit
    { op := .write, cluster := s.clusterNo, job := w.id, pool := recPool p.trec, recAddr := p.recAddr, tile := p.tile,
      entryAddr := entryAddr p.trec p.tile, mapAddr := presenceAddr p.trec p.tile, entry := p.newEntry, seq := w.seq,
      handle := ((s.run? w.stream w.seq).map fun r => dHandle r.desc).getD 0, expect := s.expectOf w, skipZero := p.skipZero,
      cls := (s.reqOf w.stream w.seq w.contains).cls }

/-- A part goes to the home cluster of its tensor (R54, R188). -/
def State.sendCommit (w : WJob) (i : Nat) (p : Part) (s : State) : State :=
  let kind := ((s.run? w.stream w.seq).map Run.kind).getD 0
  let s1 := if i = 0 ∧ plausKind kind then s.plausible w.stream w.seq p.recAddr p.trec p.tile p.img w.flagged else s
  let s2 := s1.updW w.id fun x => { x with stage := .queued i }
  let handle := ((s.run? w.stream w.seq).map fun r => dHandle r.desc).getD 0
  if recHomeCluster p.trec = s.clusterNo then
    { s2.numbered with commits := s2.commits ++ [
      { id := s2.nextId, job := w.id, part := i, remote := none, pool := recPool p.trec, recAddr := p.recAddr,
        tile := p.tile, entryAddr := entryAddr p.trec p.tile, mapAddr := presenceAddr p.trec p.tile, entry := p.newEntry,
        old := 0, presence := [], seq := w.seq, handle := handle, expect := s2.expectOf w, skipZero := p.skipZero
        cls := (s2.reqOf w.stream w.seq w.contains).cls, written := false, acked := false, tries := 0 }] }
  else s2.sendRing (s2.commitMsg w p)

/-- The sectors of an entry that names some (R189). -/
def entrySectors (e : BitVec 128) : Option (Nat × Nat) := if entState e = 0 then none else some (entAddr e, entLen e)

/-- The sectors of the entries that a tile has replaced are released (Table 7-3, step 8). -/
def State.releaseOlds (w : WJob) (s : State) : State := forAll w.olds (fun o s => s.sendRelease o.1 o.2.1 o.2.2 false) s

/-- A tile that is committed without its carry counts once in ERR_TILES (04_bounded_loss R147). -/
def State.carryCounts (w : WJob) (i : Nat) (s : State) : State :=
  if i = 0 ∧ w.carryLost then (s.errTile w.stream w.seq).flagRun w.stream w.seq RunFlags.tileErr else s

/-- True for a tile that this block has coded and stored RAW for its size or by 03_lossless_coding R564 (Table 7-7), neither copied nor
re-stored by a settlement. -/
def Part.rawForSize (p : Part) : Bool := p.state == 2 && p.template.isNone && p.verify != .settled

/-- A part has been committed over an entry that named some sectors: its payload counts (Table 5-24), the sectors of a LOST tile are counted
apart (10_memory_channels R400), and the next part follows. -/
def State.partDone (id i : Nat) (old : Option (Nat × Nat)) (s0 : State) : State :=
  let s := match s0.wjob? id with | some w => s0.carryCounts w i | none => s0
  match s.wjob? id with
  | none => s
  | some w =>
    match w.parts[i]? with
    | none => s
    | some p =>
      let kind := ((s.run? w.stream w.seq).map Run.kind).getD 0
      let counted := kind == 2 || kind == 3 || kind == 0x10 || kind == 0x11 || kind == 0x30
      let s1 := s.updRun w.stream w.seq fun r => { r with
        outCount := r.outCount + (if counted then p.sectors else 0)
        quality := if i = 0 then worstQuality r.quality p.quality else r.quality }
      let e := p.newEntry
      let s2 := if entState e = 3 then s1.loseSectors (recPool p.trec) (entAddr e) (entLen e)
        else whenB p.rawForSize (State.bump .rawStore) s1
      (s2.updPart id i fun q => { q with committed := true }).updW id fun x => { x with
        olds := x.olds ++ (old.toList.map fun o => (recPool p.trec, o.1, o.2))
        stage := if x.stage == .queued i then .writing else x.stage }

/-- A part is not committed: a tensor tile takes its residual tiles with it (04_bounded_loss R144). `keep` leaves the sectors
of the part marked in use (R378). -/
def State.partFails (id i : Nat) (keep : Bool) (s : State) : State :=
  match s.wjob? id with
  | none => s
  | some w =>
    let lost := w.parts.zipIdx.filter fun x => decide (i = 0 ∨ x.2 = i)
    let back := (lost.filter fun x => !(keep && x.2 == i)).map Prod.fst
    let s1 := s.dropPlaces back
    s1.updW id fun x => { x with
      stage := if x.stage == .queued i then .writing else x.stage
      parts := x.parts.zipIdx.map fun y => if i = 0 ∨ y.2 = i then { y.1 with committed := true, place := none } else y.1 }

/-- A commit is changed. -/
def State.updCommit (id : Nat) (f : Commit → Commit) (s : State) : State :=
  { s with commits := updFirst (fun c => c.id == id) f s.commits }

/-- The later of two commits by SEQ, then by HANDLE (Table 5-27). -/
def laterCommit (a b : Commit) : Commit :=
  if laterSeq b.seq a.seq then b
  else if a.seq = b.seq ∧ a.handle.toNat < b.handle.toNat then b else a

/-- A commit loses to another one: its sectors go back and its descriptor is SUPERSEDED (Table 5-27). -/
def State.superseded (c : Commit) (s : State) : State :=
  match c.remote with
  | some k =>
    (s.sendRelease c.pool (entAddr c.entry) (entLen c.entry) true).answer k c.job .superseded
  | none =>
    match s.wjob? c.job with
    | none => s
    | some w => (s.flagRun w.stream w.seq RunFlags.lostCommit).partFails c.job c.part false

/-- A MIGRATE of a tile whose presence bit is 0 does not commit ZERO over a tile that is ZERO already (10_memory_channels R407). -/
def Commit.alreadyZero (c : Commit) (old : BitVec 128) (sector : List Byte) : Bool :=
  c.skipZero && entState c.entry == 0 &&
    (!((nth sector (c.mapAddr % 64 + c.tile % 64 / 8) 0).toNat.testBit (c.tile % 8)) || (entryFail old == 0 && entState old == 0))

/-- True for a commit that waits behind the lock of a Causeway, its own excepted (10_memory_channels R397, R398). -/
def State.lockedOut (s : State) (c : Commit) : Bool :=
  c.expect.isNone && ((s.causeway.bind Causeway.locked) == some c.entryAddr || s.remoteLocks.any fun l => l.2 == c.entryAddr)

/-- True for a commit whose entry or presence word cannot be read now: its channel is held (10_memory_channels R390, R391), or it is class 6
work on a group at THERM_CRIT (R411). -/
def State.commitHeld (s : State) (c : Commit) : Bool :=
  let six := s.classSix (.entryWrite c.id)
  s.spanHeld c.entryAddr 16 || s.spanHeld (c.mapAddr / 64 * 64) 64 || (six && (s.critAddr c.entryAddr || s.critAddr c.mapAddr))

/-- A commit ends without an entry write: the tile has changed since the Causeway read it, or is ZERO already. -/
def State.commitIdle (c : Commit) (moot : Bool) (s : State) : State :=
  let s1 := { s with commits := s.commits.filter fun d => d.id != c.id }
  match c.remote, moot with
  | some _, true => s1.superseded c
  | some k, false => s1.answer k c.job (.committed none)
  | none, true => s1.partFails c.job c.part false
  | none, false => s1.partDone c.job c.part none

/-- The home cluster takes the first commit of its queue that no lock (R397) and no channel holds back, with every other commit of the same
tile, and writes the entry that Table 5-27 chooses (R188). Commits are written in arrival order: the first one waits while its presence sector is
still being changed, and so do those behind it. A poisoned entry names no sectors to release, and a poisoned presence word counts as
ones (Table 10-2); those on a dead channel arrive poisoned (R393). -/
def State.takeCommit (img : Image) (s : State) : State :=
  let busy (c : Commit) : Bool :=
    s.commits.any fun d => d.written && (d.entryAddr == c.entryAddr || d.mapAddr / 64 == c.mapAddr / 64)
  match (s.commits.find? fun c => !c.written && !s.lockedOut c && !s.commitHeld c).filter fun c => !busy c with
  | none => s
  | some c =>
    let rivals := if c.expect.isSome then [c] else s.commits.filter fun d => !d.written && d.expect.isNone && d.entryAddr == c.entryAddr
    let win := rivals.foldl laterCommit c
    let s1 := { s with commits := s.commits.filter fun d => d.id == win.id || !rivals.contains d }
    let s2 := forAll (rivals.filter fun d => d.id != win.id) (fun d s => s.superseded d) s1
    let map := win.mapAddr / 64 * 64
    let old := if s.spanBad img win.entryAddr 16 then 0 else BitVec.ofNat 128 (imgNat img win.entryAddr 16)
    let sector := if s.spanBad img map 64 then List.replicate 64 0xFF else imgRead img map 64
    let s3 := (s2.bumpN .memPoison (s.spanLost img win.entryAddr 16 + s.spanLost img map 64)).updCommit win.id fun d =>
      { d with written := true, old := old, presence := sector }
    if win.expect.any fun e => e != old then s3.commitIdle win true
    else if win.alreadyZero old sector then s3.commitIdle win false
    else s3.write16 win.entryAddr (leBytes 16 win.entry.toNat) (.entryWrite win.id)

/-- The presence sector with a tile's bit as its entry says (R56). -/
def withPresence (sector : List Byte) (mapAddr tile : Nat) (present : Bool) : List Byte :=
  sector.zipIdx.map fun b =>
    if b.2 = mapAddr % 64 + tile % 64 / 8 then
      (if present then b.1 ||| BitVec.ofNat 8 (2 ^ (tile % 8)) else b.1 &&& ~~~(BitVec.ofNat 8 (2 ^ (tile % 8)))) else b.1

/-- A tile has been committed LOST (10_memory_channels R404): its sectors stay marked in use. -/
def State.markLost (c : Commit) (s : State) : State :=
  ((s.bump .tileLost).loseSectors c.pool (entAddr c.entry) (entLen c.entry)).report
    { reason := 0x64, sev := .contained, addr := c.recAddr, tile := BitVec.ofNat 32 c.tile }

/-- The part has been committed; the sectors of the entry that it replaced are released with those of its tile's other parts (Table 7-3,
step 8), but a LOST tile keeps its sectors. -/
def State.commitEnds (c : Commit) (s : State) : State :=
  let s1 := { s with commits := s.commits.filter fun d => d.id != c.id }
  let lost := entState c.entry == 3
  let s2 := whenB lost (State.markLost c) s1
  let old := if lost then none else entrySectors c.old
  match c.remote with
  | some k => s2.answer k c.job (.committed old)
  | none => s2.partDone c.job c.part old

/-- The entry write is acknowledged: cached copies are invalidated (R25), then the presence bit is written (R56). -/
def State.entryAcked (id : Nat) (s : State) : State :=
  match s.commits.find? fun c => c.id == id with
  | none => s
  | some c =>
    let s1 := ((s.cacheTouch c.entryAddr c.entry).entryChanged c.entryAddr).sendRing (.invalidate c.entryAddr)
    let s2 := s1.updCommit id fun d => { d with acked := true }
    let sector := withPresence c.presence c.mapAddr c.tile (entState c.entry != 0)
    if sector = c.presence then s2.commitEnds c
    else s2.writeSpan (c.mapAddr / 64 * 64) sector (.presenceWrite id)

/-- The presence write is acknowledged. -/
def State.presenceAcked (id : Nat) (s : State) : State :=
  match s.commits.find? fun c => c.id == id with
  | none => s
  | some c => s.commitEnds c

/-- An entry write is answered with ERR: it is issued again, and the tile fails after the third ERR (R378). -/
def State.entryErr (id : Nat) (s : State) : State :=
  match s.commits.find? fun c => c.id == id with
  | none => s
  | some c =>
    if c.tries < 2 then
      (s.updCommit id fun d => { d with tries := d.tries + 1 }).write16 c.entryAddr (leBytes 16 c.entry.toNat) (.entryWrite id)
    else
      let s1 := { s with commits := s.commits.filter fun d => d.id != id }
      let note : Note :=
        { reason := 0x61, sev := .uncontained, addr := c.recAddr, tile := BitVec.ofNat 32 c.tile, handle := c.handle,
          seq := c.seq }
      match c.remote with
      | some k => (s1.report note).answer k c.job .failed
      | none =>
        match s1.wjob? c.job with
        | none => s1.report note
        | some w => (((s1.workReport w.stream w.seq note).errTile w.stream w.seq).flagRun w.stream w.seq
            RunFlags.tileErr).partFails c.job c.part true

/-! ### Answers from other clusters (01_five_levels R23) -/

/-- What waits for an answer of another cluster: the message, the cluster that it goes to, and the write job that it serves, if any. -/
structure Ringing where
  msg : RingMsg
  cluster : Nat
  commit : Bool
  job : Option WJob
  deriving DecidableEq, Repr

/-- The lock that the Causeway has asked for under a number, with the home cluster (10_memory_channels R397 step 3). -/
def State.lockAsk (s : State) (id : Nat) : Option (Nat × RemoteCommit) := (s.causeway.bind Causeway.lock).filter fun x => x.2.job == id

/-- The message that a number stands for: that of a sector request, a Causeway's lock, or the commit of a write job. -/
def State.ringing (s : State) (id : Nat) : Option Ringing :=
  match s.asks.find? fun a => a.req.job == id with
  | some a => (s.pool? a.req.pool).map fun p =>
      ⟨.request a.req, p.allocCluster, false, match a.of_ with | .job w => s.wjob? w | _ => none⟩
  | none => match s.lockAsk id with
  | some x => if s.causeway.any fun k => k.locked.isSome then none else some ⟨.commit x.2, x.1, true, none⟩
  | none =>
    (s.wjob? id).bind fun w => match w.stage with
      | .queued i => (w.parts[i]?).bind fun p =>
          if recHomeCluster p.trec = s.clusterNo then none else some ⟨s.commitMsg w p, recHomeCluster p.trec, true, some w⟩
      | _ => none

/-- A record about a wait for another cluster; space for a spill belongs to no tile. -/
def State.waitRec (x : Ringing) (again : Bool) (s : State) : State :=
  let note : Note :=
    { reason := 0x15, sev := .corrected, rep := again, detailA := s.die + 64 * x.cluster, detailB := b2n x.commit }
  match x.job with
  | some w => s.workReport w.stream w.seq { note with addr := w.recAddr, tile := BitVec.ofNat 32 w.tile }
  | none => s.report note

/-- A target answers UNAVAILABLE: the wait begins with a record, or goes on (R23). -/
def State.waitRemote (id : Nat) (s : State) : State :=
  match s.ringing id with
  | none => s
  | some x =>
    if s.remoteWaits.any fun y => y.job == id then s
    else { s with remoteWaits := s.remoteWaits ++ [RemoteWait.mk id x.commit x.cluster s.time s.time] }.waitRec x false

/-- A message has been answered: nothing waits for it any more. -/
def State.answered (id : Nat) (s : State) : State :=
  { s with remoteWaits := s.remoteWaits.filter fun x => x.job != id, asks := s.asks.filter fun a => a.req.job != id }

/-- Granted sectors that nothing needs any more go back: no entry ever named them (R269). -/
def State.giveBack (pool : Nat) (runs : List (Nat × Nat)) (s : State) : State := forAll runs (fun r s => s.sendRelease pool r.1 r.2 true) s

/-- A sector request is granted (R21): each part that still asks for its sectors takes them, and the rest go back; space for a spill can
be used. -/
def State.gotGrant (a : OwnAsk) (starts : List Nat) (s : State) : State :=
  let pool := a.req.pool
  let runs := List.zipWith (fun z f => (z.1, f, z.2)) a.req.sizes starts
  match a.of_ with
  | .job id =>
    let fits (w : WJob) (r : Nat × Nat × Nat) : Bool :=
      w.stage == .remoteWait a.req.job && w.parts[r.1]?.any fun p => p.needsPlace && p.sectors == r.2.2 && recPool p.trec == pool
    match s.wjob? id with
    | none => s.giveBack pool (runs.map Prod.snd)
    | some w =>
      let s1 := s.giveBack pool ((runs.filter fun r => !fits w r).map Prod.snd)
      if w.stage = .remoteWait a.req.job then (s1.updW id fun x => x.placed pool (runs.filter (fits w))).grantReady id else s1
  | .spill id =>
    match runs with
    | r :: _ => s.updSpill id fun y => { y with first := r.2.1, asked := false, full := false }
    | [] => s
  | .gone => s.giveBack pool (runs.map Prod.snd)

/-- The answer to a sector request. -/
def State.gotSectors (a : OwnAsk) (ans : RingAnswer) (s : State) : State :=
  let s1 := s.answered a.req.job
  match ans, a.of_ with
  | .unavailable, .gone => s1
  | .unavailable, _ => s.waitRemote a.req.job
  | .grant starts, _ => s1.gotGrant a starts
  | .noSpace, .job id =>
    match s1.wjob? id with
    | some w => if w.stage = .remoteWait a.req.job then s1.stopRun w.stream w.seq w.unit else s1
    | none => s1
  | .noSpace, .spill id => s1.updSpill id fun y => { y with full := true }
  | .noSpace, .gone => s1
  | .committed _, _ | .superseded, _ | .failed, _ => s

/-- The home cluster has answered the lock of a Causeway's tile. -/
def State.gotLock (x : Nat × RemoteCommit) (a : RingAnswer) (s : State) : State :=
  if a = .unavailable then s.waitRemote x.2.job
  else
    let s1 := s.answered x.2.job
    { s1 with causeway := s1.causeway.map fun k => { k with locked := some x.2.entryAddr } }

/-- An answer of another cluster, to a sector request, to a Causeway's lock or to the commit of a write job. -/
def State.gotAnswer (id : Nat) (a : RingAnswer) (s : State) : State :=
  match s.asks.find? fun x => x.req.job == id, s.lockAsk id with
  | some x, _ => s.gotSectors x a
  | none, some x => s.gotLock x a
  | none, none =>
    match s.wjob? id with
    | none => s
    | some w =>
      let s1 := s.answered id
      match a, w.stage with
      | .unavailable, _ => s.waitRemote id
      | .committed old, .queued i => s1.partDone id i old
      | .superseded, .queued i => (s1.flagRun w.stream w.seq RunFlags.lostCommit).partFails id i true
      | .failed, .queued i =>
        ((s1.errTile w.stream w.seq).flagRun w.stream w.seq RunFlags.tileErr).partFails id i true
      | _, _ => s

/-- A request that waits for another cluster is repeated once per EPOCH_US, and its record at the SERVICE interval (R23). -/
def State.retryRemote (id : Nat) (s : State) : State :=
  match s.remoteWaits.find? fun x => x.job == id, s.ringing id with
  | some x, some m =>
    if s.time < x.last + s.epochNs then s
    else
      let again := x.recAt + s.svcAfter x.recAt ≤ s.time
      let s1 := { s.sendRing m.msg with
        remoteWaits := updFirst (fun y => y.job == id) (fun y => { y with
          last := s.time, recAt := if again then s.time else y.recAt }) s.remoteWaits }
      if again then s1.waitRec m true else s1
  | _, _ => s

/-- Space for a spill that the allocating cluster did not have is asked for again (R35; log 18). -/
def State.askSpill (x : Spill) (s : State) : State :=
  (s.updSpill x.id fun y => { y with full := false }).ask (.spill x.id)
    (spillRequest x.pool x.sectors)

/-- At a new epoch, when sectors may have returned (R190), every space that was refused is asked for again. -/
def State.askSpills (s : State) : State :=
  forAll (s.lagoon.filter fun x => x.asked && x.full) (fun x s => s.askSpill x) s

/-! ### The end of a tile (R182) -/

/-- The index entry of an EXPORT tile, and its stream when it fits (07_compression R280 to R282, Table 7-6). -/
def Run.exportTile (w : WJob) (r : Run) : Run :=
  let p := w.parts.headD (zeroPart 0 0 0 0)
  let limit := dDestLimit r.desc
  let head := 64 + 16 * dCount r.desc
  let off := head + r.exportData.length
  let word0 := ((p.template.map BitVec.toNat).getD 0)
  let tags := bits word0 53 51 + 8 * bits word0 50 47
  let add (len st : Nat) : Run :=
    { r with outBytes := r.outBytes ++ [((if len = 0 then 0 else off), len, st, tags, p.check)] }
  if r.flags.spaceStop then r
  else if w.fail.isSome then { add 0 2 with errTiles := r.errTiles + 1 }
  else if p.img = [] then add 0 0
  else if limit < off + p.payload.length then
    { r with flags := r.flags.spaceOut, stopAt := some w.unit }
  else { add p.payload.length 1 with exportData := r.exportData ++ p.payload }

/-- A tile whose parts have all ended leaves in its turn. -/
def State.retire (w : WJob) (s : State) : State :=
  let isExport := ((s.run? w.stream w.seq).map Run.kind) == some 4
  let s1 := whenB isExport (State.updRun w.stream w.seq (Run.exportTile w)) s
  let uncounted := ((s1.run? w.stream w.seq).map fun r =>
    (r.kind == 4 && r.flags.spaceStop) || r.kind == 0x11 || r.kind == 0x20 || r.kind == 0x21).getD false
  ((s1.releaseOlds w).unitEnds w.stream w.seq (if uncounted then 0 else 4096)).dropW w.id

/-- True when a write job has nothing left to do. -/
def WJob.ended (w : WJob) : Bool :=
  w.stage == .done || (w.stage == .writing && w.parts.all Part.committed)

end Sys2Proof.Machine
end

