-- ==== Sys2Proof/Machine/Reduce.lean ====
section
/-! DEFINITION. Accumulator tiles at work: REDUCE reads, preload, addition, residue and sum faults with their recomputation, drains
(08_accumulation R288 to R318; 11_integrity R423, R427; 01_five_levels R19). -/

namespace Sys2Proof.Machine

/-! ### Cores and slots -/

/-- What accumulation needs of a core. -/
def reduceNeed (port : Option (PortKind × Nat)) : Need := ⟨some 2, port, none⟩

/-- Accumulator slots in use on a core (01_five_levels Table 1-3: four long accumulators). -/
def State.usedSlots (s : State) (c : Fin 16) : Nat :=
  ((s.accs.filter fun a => a.core == c && !a.away).map fun a => accSlots a.acc.integer a.nacc).sum

/-- A core that can take an accumulator tile. -/
def State.accCore (s : State) (need : Need) (slots : Nat) : Option (Fin 16) :=
  pick ((s.onServers need).filter fun c => decide (s.usedSlots c + slots ≤ 4)) s.choice

/-- True when a core still works for its tiles in flight: ON, or before the ramp of its shut-down. -/
def State.coreWorks (s : State) (c : Fin 16) : Bool := (s.core c).fn.st == .on || (s.core c).fn.stage == .before

/-- Bound-check faults among the faults that a step meets (11_integrity R419). -/
def quantFaultsOf (hw : List HwFault) : List (Nat × Nat × Bool) :=
  hw.filterMap fun f => match f with | .quant g e again => some (g, e, again) | _ => none

/-! ### REDUCE (R289, R290, R292) -/

/-- Element types that take part in a REDUCE: those of the list, and the destination's under PRELOAD 2. -/
def Run.reduceTypes (r : Run) : List Nat :=
  r.srcs.map (fun x => recType x.2.1) ++ (if dPreload r.desc = 2 then [recType r.rec1] else [])

/-- n_acc of a REDUCE. -/
def Run.nAcc (r : Run) : Nat := nAccOf (recType r.rec1) r.reduceTypes

/-- True for an integer reduction (R291). -/
def Run.isInteger (r : Run) : Bool := r.reduceTypes.any intType

/-- Sources that are addends: under PRELOAD 1 the first entry is the preload. -/
def Run.addends (r : Run) : List (Nat × BitVec 1024 × Nat) := if dPreload r.desc = 1 then r.srcs.drop 1 else r.srcs

/-- An addend that has not been read. -/
def Addend.new (k etype need : Nat) : Addend :=
  { k := k, etype := etype, need := need, tiles := [], added := false, lost := false }

/-- An accumulator tile that has not begun. -/
def AccTile.new (id stream : Nat) (seq : Word) (unit : Nat) (core : Fin 16) (etype : Nat) (integer : Bool) (nacc : Nat)
    (dests : List Nat) (want : Nat) : AccTile :=
  { id := id, stream := stream, seq := seq, unit := unit, core := core, etype := etype, nacc := nacc, dests := dests,
    acc := AccData.empty integer nacc, preload := none, preloaded := true, want := want, held := [], fixedAdds := [],
    failed := false, full := false, tries := 0, cores := [], faulted := none, chunk := none, replay := false, away := false }

/-- An accumulator tile takes a core. -/
def State.addAcc (a : AccTile) (s : State) : State := { s.numbered with accs := s.accs ++ [a] }

/-- An accumulator tile leaves its core. Its source tiles stay held until the tiles that it covers have been committed (R294). -/
def State.dropA (id : Nat) (s : State) : State := { s with accs := s.accs.filter (fun a => a.id != id) }

/-- True while source tiles of an accumulator tile are needed: it is at work or kept, or a tile drained from it has not left. -/
def State.sourceNeeded (s : State) (id : Nat) : Bool :=
  s.accs.any (fun a => a.id == id) || s.colls.any (fun c => c.sums.any fun a => a.id == id) ||
    s.wjobs.any fun w => w.src == .drain id

/-- Held source tiles that are needed no more are released (01_five_levels Table 1-6). -/
def State.releaseSources (s : State) : State := { s with contrib := s.contrib.filter fun c => s.sourceNeeded c.1 }

/-- The tiles of a preload or an addend are read (R290): `first` is F_j. -/
def State.readParts (a : AccTile) (nd : Nat) (use : Nat → Use) (recAddr : Nat) (trec : BitVec 1024) (first : Nat)
    (s : State) : State :=
  forAll (List.range (a.nacc / recN trec)) (fun p s =>
    s.startRead a.stream a.seq a.unit (use p) recAddr trec (first + a.unit * nd / recN trec + p)) s

/-- The preload of an accumulator tile is read: list entry 0, or the destination's own tiles (R292, R318). -/
def State.readPreload (a : AccTile) (nd recAddr : Nat) (trec : BitVec 1024) (first : Nat) (s : State) : State :=
  (s.updA a.id fun x => { x with
    preload := some (Addend.new 0 (recType trec) (a.nacc / recN trec)), preloaded := false }).readParts a nd
      (Use.preload a.id) recAddr trec first

/-- A core for the next accumulator tile of a REDUCE. -/
def State.reduceCore (s : State) (r : Run) : Option (Fin 16) := s.accCore (reduceNeed none) (accSlots r.isInteger r.nAcc)

/-- The next accumulator tile of a REDUCE starts on a core with free slots. -/
def State.reduceOn (n : Nat) (r : Run) (s : State) : State :=
  let nd := recN r.rec1
  let m := r.nAcc / nd
  match s.reduceCore r with
  | none => s
  | some c =>
    let a := AccTile.new s.nextId n r.seq r.issued c (recType r.rec1) r.isInteger r.nAcc
      ((List.range m).map fun i => dFirst r.desc + r.issued + i) r.addends.length
    let s1 := ((s.chosen.addAcc a).updRun n r.seq fun x => { x with issued := x.issued + m }).issuedNow n r.seq
    match dPreload r.desc, r.srcs with
    | 1, p :: _ => s1.readPreload a nd p.1 p.2.1 p.2.2
    | 2, _ => s1.readPreload a nd (dTensor r.desc) r.rec1 (dFirst r.desc)
    | _, _ => s1

/-- The next accumulator tile of a REDUCE starts, or its stream waits for a reduce unit behind others that do (R192). -/
def State.reduceStart (n : Nat) (r : Run) (s : State) : State :=
  if s.unitOpen resReduce n ∧ (s.reduceCore r).isSome then (s.unitTaken resReduce n r.seq false).reduceOn n r
  else s.unitWait resReduce n 0x10

/-- The next addend of an accumulator tile is read. -/
def State.reduceNext (a : AccTile) (r : Run) (s : State) : State :=
  let k := a.held.length
  match r.addends[k]? with
  | none => s
  | some x =>
    (s.updA a.id fun y => { y with held := y.held ++ [Addend.new k (recType x.2.1) (a.nacc / recN x.2.1)] }).readParts a
      (recN r.rec1) (Use.addend a.id k) x.1 x.2.1 x.2.2

/-- A REDUCE goes on: the next addend of an accumulator tile that still misses one, else the next accumulator tile. -/
def State.reduceGo (n : Nat) (r : Run) (s : State) : State :=
  match s.accs.find? fun a => a.stream == n && a.seq == r.seq && !a.failed && decide (a.held.length < a.want) with
  | some a => s.reduceNext a r
  | none => if r.issued < r.total then s.reduceStart n r else s

/-! ### A contribution of another cluster (01_five_levels R19; format: log 15) -/

/-- Every read of an accumulator tile. -/
def RJob.ofAcc (id : Nat) (j : RJob) : Bool :=
  match j.use with
  | .preload a _ => a == id
  | .addend a _ _ => a == id
  | _ => false

/-- A contribution to addend k of an accumulator tile has come over the die ring: it takes the place of the read of that tile, is held in
the Harbour, or in the staging region when that is full (R294), and checked on an engine as any addend is (R292). Without room in either
the stream stalls, and the message has to come again. DESIGN CHOICE: its entry is not checked by Table 2-12 on receipt, which R77 states
for entries that are read; any state but ZERO and RAW is taken as CODED (log 15). -/
def State.contribution (acc k : Nat) (entry : BitVec 128) (payload : List Byte) (s : State) : State :=
  match s.rjobs.find? fun j => match j.use with | .addend a x _ => a == acc && x == k | _ => false with
  | none => s
  | some j =>
    let taken (t : State) : State := (t.dropReqs (Purpose.ofRead j.id)).updR j.id fun x => { x with entry := entry }
    if entState entry = 0 then (taken s).readEnds { j with entry := entry } .zero
    else match s.makeRoomFor (.payload j.id) (64 * entLen entry) 1 with
      | (t, false) => t.spillStall j.stream true
      | (t, true) => (((taken t).spillFound j.stream).updR j.id fun x => { x with
          stage := .ready
          buf := (List.range (entLen entry)).map fun i => (i, slice payload (64 * i) 64) }).spillStore (.payload j.id) 0 (entLen entry)

/-! ### Addition (R292, R296, R297, R302, R304) -/

/-- The counters of an add. -/
def State.addCounts (r : Added) (s : State) : State :=
  (((s.bumpN .accReanchor r.reanchor).bumpN .accExtended r.extended).bumpN .intSat r.intSat).bumpN .scaleReject
    (b2n r.rejected)

/-- A residue or sum-check fault opens: the result is discarded and recomputed (R307, R354; 11_integrity R427). -/
def AccTile.fault (reason x y : Nat) (a : AccTile) : AccTile :=
  { a with faulted := some (reason, x, y), cores := [a.core], tries := 0 }

/-- A residue fault among the faults that a step meets. -/
def residueOf (hw : List HwFault) : Option Nat := hw.findSome? fun f => match f with | .residue e => some e | _ => none

/-- An element that an adder has moved in a hop's sum, and by how much, among the faults that a step meets. -/
def sumFaultOf (hw : List HwFault) : Option (Nat × Int) :=
  hw.findSome? fun f => match f with | .sumCheck e d => some (e, d) | _ => none

/-- True when an accumulator tile may take an addend or drain. -/
def State.accWorks (s : State) (a : AccTile) : Bool :=
  !a.failed && !a.full && a.faulted.isNone && a.preloaded && !a.away && s.coreWorks a.core

/-- A preload that has been read is loaded first (R292); one that failed, or a W96 one of an integer reduction at another
anchor than 82, fails the accumulator tile (R293, R299). -/
def State.loadPreload (a : AccTile) (s : State) : State :=
  match a.preload with
  | none => s
  | some p =>
    if a.preloaded ∨ a.failed then s
    else if p.bad then s.updA a.id fun x => { x with failed := true }
    else if !p.complete then s
    else if a.acc.integer && p.wrongAnchor then s.updA a.id fun x => { x with failed := true }
    else
      let r := a.acc.add p true
      (s.addCounts r).updA a.id fun x => { x with acc := r.acc, preloaded := true }

/-- An accumulator tile whose residues do not match its content has a residue fault (R307). -/
def AccTile.checked (a : AccTile) : AccTile :=
  match mismatch a.acc.content a.acc.residue with
  | some e => a.fault 0x04 e 0
  | none => a

/-- An addend that has been read and checked is added. -/
def State.addHeld (a : AccTile) (p : Addend) (hw : List HwFault) (s : State) : State :=
  if p.lost ∨ (a.acc.integer && p.wrongAnchor) then s.updA a.id fun x => { x with failed := true }
  else
    let r := a.acc.add p false
    (s.addCounts r).updA a.id fun x =>
      ({ x with
        acc := r.acc.faulty s.freeCtr (residueOf hw)
        held := updWhere (fun q => q.k == p.k) (fun q => { q with added := true }) x.held } : AccTile).checked

/-- The next Atoll entry or spill record of a table tile is added (R326); the limit of R305 stops it. -/
def State.addFixed (a : AccTile) (f : FixedAdd) (rest : List FixedAdd) (hw : List HwFault) (s : State) : State :=
  if 16777216 ≤ a.acc.addends then s.updA a.id fun x => { x with full := true, failed := true }
  else
    let r := a.acc.addFixed f
    (s.addCounts r).updA a.id fun x =>
      ({ x with acc := r.acc.faulty s.freeCtr (residueOf hw), fixedAdds := rest } : AccTile).checked

/-- One addition: addend k of an accumulator tile, or its next Atoll addend. -/
def State.accAdd (id k : Nat) (hw : List HwFault) (s : State) : State :=
  match s.acc? id with
  | none => s
  | some a =>
    if !s.accWorks a then s
    else
      match a.fixedAdds with
      | f :: rest => s.addFixed a f rest hw
      | [] =>
        match a.held.find? fun p => p.k == k && p.complete && !p.bad && !p.added with
        | some p => s.addHeld a p hw
        | none => s

/-! ### Recomputation (11_integrity R427) -/

/-- The core that runs the next recomputation; none while it waits for a core to return. -/
def State.recomputeCore (s : State) (a : AccTile) (need : Need) : Option (Fin 16) :=
  let last := (a.cores.getLast?).getD a.core
  let order := (List.range 16).filterMap fun i =>
    let k := (last.val + 1 + i) % 16
    if h : k < 16 then some (⟨k, h⟩ : Fin 16) else none
  let holders := order.filter (s.mayServe need)
  let fresh := holders.filter fun c => !a.cores.contains c
  if fresh ≠ [] then fresh.find? fun c => (s.core c).fn.st == .on
  else holders.find? fun c => (s.core c).fn.st == .on

/-- The record of a settled residue or sum fault. -/
def State.recomputeRec (a : AccTile) (sev : Sev) (recAddr : Nat) (s : State) : State :=
  match a.faulted with
  | none => s
  | some (reason, x, y) => s.workReport a.stream a.seq
      { reason := reason, sev := sev, unit := .core, unitIndex := (a.cores.headD a.core).val, addr := recAddr,
        tile := BitVec.ofNat 32 (a.dests.headD 0), detailA := x, detailB := if reason = 0x04 then a.tries + 1 else y }

/-- The staged source tiles of an accumulator tile. -/
def State.stagedSources (s : State) (id : Nat) : List Spill :=
  s.lagoon.filter fun x => !x.asked && match x.of_ with | .addend a _ => a == id | _ => false

/-- A recomputed content with its residues. -/
def AccData.recomputed (d : AccData) : AccData := { d with residue := d.content.map resOf }

/-- A recomputation has finished. It waits for source tiles that come back from the staging region; poison among them loses an addend
(11_integrity Table 11-2). A result that an addend's loss prevents counts for no further core. -/
def State.recomputed (id : Nat) (pass : Bool) (s : State) : State :=
  match s.acc? id with
  | none => s
  | some a =>
    let staged := s.stagedSources id
    if a.faulted.isNone then s
    else if staged.any fun x => !x.came then forAll staged (fun x s => s.spillLoad x.of_) s
    else
      let d := (s.run? a.stream a.seq).map Run.desc
      let need := reduceNeed (d.bind fun x => if dKind x = 0x21 then descPort x else none)
      let recAddr := (d.map dTensor).getD 0
      match s.recomputeCore a need with
      | none => s
      | some c =>
        let lost := a.held.any (fun p => p.lost) || staged.any fun x => x.poison.isSome
        if pass && !lost then
          forAll a.cores (fun c s => s.coreFault c)
            ((s.recomputeRec a .corrected recAddr).updA id fun x => { x with
              acc := x.acc.recomputed, core := c, faulted := none, cores := [], tries := 0 })
        else if a.tries = 0 ∧ !lost then
          s.updA id fun x => { x with cores := x.cores ++ [c], tries := 1 }
        else
          forAll (if lost then a.cores else a.cores ++ [c]) (fun c s => s.coreFault c)
            ((s.recomputeRec a .contained recAddr).updA id fun x => { x with failed := true, faulted := none })

/-! ### Drains (R308, R312, R316; 11_integrity R423) -/

/-- True when every addend of an accumulator tile is in. -/
def AccTile.allIn (a : AccTile) : Bool :=
  a.fixedAdds == [] && a.held.length == a.want && a.held.all Addend.added

/-- The record of the input-bound check. -/
def State.boundRec (n : Nat) (seq : Word) (recAddr tile : Nat) (b : Option (Int × Int)) (s : State) : State :=
  match b with
  | none => s
  | some (eo, bound) => (s.bump .plausFlag).workReport n seq
      { reason := 0x0C, sev := .uncontained, addr := recAddr, tile := BitVec.ofNat 32 tile, detailA := low32 eo,
        detailB := low32 bound }

/-- Every tile that an accumulator tile covers is drained, checked and handed to be quantised and coded, as a write job numbered from
`base` on. -/
def State.drainAcc (a : AccTile) (base : Nat) (hw : List HwFault) (s : State) : State :=
  match s.run? a.stream a.seq with
  | none => s.dropA a.id
  | some r =>
    let ds := a.acc.drain a.etype
    let clamped := (ds.map Drained.clamped).sum
    let s1 := (s.bumpN .drainOvf ((ds.map Drained.ovf).sum)).bumpN .intSat clamped
    forAll (List.zip ds a.dests).zipIdx (fun x s =>
      let b := a.acc.boundCheck a.etype x.1.1
      let s2 := s.boundRec a.stream a.seq (dTensor r.desc) x.1.2 b
      let w := WJob.new (base + x.2) a.stream a.seq (a.unit + x.2) (.drain a.id) (dTensor r.desc) r.rec1 x.1.2 .ready
      (s2.addW { w with data := x.1.1.img, quality0 := a.acc.quality x.1.1 clamped, flagged := b.isSome, replay := a.replay }).quantiseTile
        w.id (quantFaultsOf hw)) (s1.dropA a.id)

/-- The drain of an accumulator tile once the Harbour or the staging region has room for its images; without it the tile stays as it is and
its stream stalls (01_five_levels R32, R35). Says whether it has been drained. -/
def State.drainRoom (a : AccTile) (hw : List HwFault) (s : State) : State × Bool :=
  match s.imageRooms a.dests.length with
  | (t, some base) => ((t.spillFound a.stream).drainAcc a base hw, true)
  | (t, none) => (t.spillStall a.stream true, false)

/-- The reads of an accumulator tile are withdrawn. -/
def State.dropAccReads (id : Nat) (s : State) : State :=
  forAll (s.rjobs.filter (RJob.ofAcc id)) (fun j s => s.cancelRead j) s

/-- An accumulator tile is not drained: the tiles that it covers keep their content and count in ERR_TILES (R293). -/
def State.accFails (a : AccTile) (s : State) : State :=
  let s1 := (s.dropAccReads a.id).flagRun a.stream a.seq RunFlags.tileErr
  forAll a.dests.zipIdx (fun x s => (s.errTile a.stream a.seq).addDone a.stream a.seq (a.unit + x.2)) (s1.dropA a.id)

/-- An addend's tile that failed fails its accumulator tile (R293). -/
def AccTile.check (a : AccTile) : AccTile := { a with failed := a.failed || a.held.any Addend.bad }

/-- An accumulator tile whose core has left moves to another core, to be recomputed there from what the Harbour holds
(05_streams_and_order R205, R206), or waits for the first core that can take it (R567). It fails when a source that it needs is lost. -/
def State.moveAcc (a : AccTile) (s : State) : State :=
  let need := reduceNeed (((s.run? a.stream a.seq).map Run.desc).bind fun x => if dKind x = 0x21 then descPort x else none)
  let others : State := { s with accs := s.accs.filter fun x => x.id != a.id }
  match others.accCore need (accSlots a.acc.integer a.nacc) with
  | none => s.updA a.id fun x => { x with away := true }
  | some c =>
    ((s.chosen.updA a.id fun x => { x with
      core := c, replay := true, away := false, acc := x.acc.recomputed
      failed := x.failed || x.held.any fun p => p.lost }).flagRun a.stream a.seq RunFlags.again).replayedFrom a.core 1

end Sys2Proof.Machine
end

