-- ==== Sys2Proof/Machine/Atoll.lean ====
section
/-! DEFINITION. SCATTER_ACC and the Atoll: reads, updates, spills, the drain by partitions, failures (08_accumulation R320 to R332;
11_integrity Table 11-2; 05_streams_and_order Table 5-27). -/

namespace Sys2Proof.Machine

/-! ### Geometry (R321, R322, R324) -/

/-- Row segments of a table or update tile. -/
def segsPerTile (r : BitVec 1024) : Nat := recN r / 32

/-- The bucket of a key (R322). -/
def atollBucket (key : Word) : Nat := (key * 0x9E3779B1).toNat * 1792 / 2 ^ 32

/-- The table tile of a key. -/
def tileOfKey (r : BitVec 1024) (key : Word) : Nat := key.toNat / segsPerTile r

/-- The drain partition of a key (R324). -/
def partOfKey (r : BitVec 1024) (key : Word) : Nat := tileOfKey r key / 16

/-! ### One entry (R323) -/

/-- Largest finite magnitude of elements as its floor(log2), at least −126 (E_u). -/
def updateExp (vs : List Num) : Int := max ((maxLog2 vs).getD (-126)) (-126)

/-- The exact sum of two elements, with the tags of R306. -/
def Num.plus (a b : Num) : Num :=
  let t := addTag a.tag b.tag
  if t ≠ 0 then ⟨0, 0, t, t == 2⟩ else a.add b

/-- ACC shifted right by a rise of the anchor. -/
def AtollEntry.raise (e : AtollEntry) (rise : Nat) : AtollEntry :=
  { e with
    anchor := e.anchor + rise
    inexact := e.inexact || e.acc.any fun x => decide (x % 2 ^ rise ≠ 0)
    acc := e.acc.map fun x => rneShiftInt x rise
    residue := e.acc.map fun x => resOf (rneShiftInt x rise) }

/-- An element on the grid of an entry. -/
def onGrid (anchor : Nat) (v : Num) : Int := if v.tag = 0 then rneScale v.m (v.e - ((anchor : Int) - 150)) else 0

/-- True when an add would overflow 32 bits in an element that is still finite. -/
def AtollEntry.overflows (e : AtollEntry) (vs : List Num) : Bool :=
  (List.zip (List.zip e.acc e.tag) vs).any fun p =>
    p.1.2 == 0 && clamp32 (p.1.1 + onGrid e.anchor p.2) != p.1.1 + onGrid e.anchor p.2

/-- Re-anchors up by one binade until the add fits or the anchor is 254; counts the re-anchors. -/
def AtollEntry.makeRoom : Nat → AtollEntry → List Num → AtollEntry × Nat
  | 0, e, _ => (e, 0)
  | fuel + 1, e, vs =>
    if e.overflows vs ∧ e.anchor < 254 then
      let r := (e.raise 1).makeRoom fuel vs
      (r.1, r.2 + 1)
    else (e, 0)

/-- An update enters an entry: the entry, and the re-anchors made. The anchor does not pass 254 (Table 8-6). -/
def AtollEntry.update (e : AtollEntry) (vs : List Num) (count : Nat) : AtollEntry × Nat :=
  let eu := min 254 (updateExp vs + 127)
  let up := (eu - e.anchor).toNat
  let e1 := if 0 < up then e.raise up else e
  let r := e1.makeRoom 8 vs
  let e2 := r.1
  let cells := (List.zip (List.zip e2.acc e2.tag) vs).map fun p =>
    let x := p.1.1 + onGrid e2.anchor p.2
    let t := addTag p.1.2 p.2.tag
    if t = 0 ∧ clamp32 x ≠ x then (clamp32 x, if x < 0 then 2 else 1, true) else (if t = 0 then x else p.1.1, t, false)
  let residues := List.zipWith (fun (p : Nat × Num) (c : Int × Nat × Bool) =>
    if c.2.2 then resOf c.1 else if c.2.1 = 0 then resAdd p.1 (onGrid e2.anchor p.2) else p.1) (List.zip e2.residue vs) cells
  ({ e2 with
      count := e2.count + count
      acc := cells.map fun c => c.1
      residue := residues
      tag := cells.map fun c => c.2.1
      sat := e2.sat || cells.any fun c => c.2.2
      inexact := e2.inexact || vs.any fun v => v.tag == 0 && !scaleExact v.m (v.e - ((e2.anchor : Int) - 150)) },
    b2n (decide (0 < up)) + r.2)

/-- A new entry anchored on its update (R322 step 5). -/
def AtollEntry.fresh (bucket way : Nat) (key : Word) (vs : List Num) : AtollEntry :=
  { bucket := bucket, way := way, key := key, anchor := (min 254 (updateExp vs + 127)).toNat, count := 0, sat := false,
    inexact := false, acc := List.replicate 32 0, residue := List.replicate 32 0, tag := List.replicate 32 0 }

/-! ### The reads of a SCATTER_ACC -/

/-- What an update number needs has come: its index, or its poisoned sector. -/
def Scatter.indexOf (x : Scatter) (u : Nat) : Option (Option Word) :=
  if x.badIndex.contains (u / 16) then some none
  else ((x.indices.find? fun p => p.1 == u).map fun p => some p.2)

/-- A SCATTER_ACC that has not started. -/
def Scatter.new (n : Nat) (seq : Word) : Scatter :=
  { stream := n, seq := seq, indices := [], badIndex := [], tiles := [], next := 0, spill := [], dropped := false,
    draining := false, parts := [], running := none, limit := false, second := false, todo := [], counted := [],
    lostParts := [], replay := false }

/-- The next read of the descriptor: an update tile, then the index sectors that its updates need. Updates that run again are class 1
work (R332). -/
def State.scatterRead (n : Nat) (r : Run) (s : State) : State :=
  let w := segsPerTile r.rec2 / 16
  let g := r.sub / (1 + w)
  let i := r.sub % (1 + w)
  let sector := g * w + (i - 1)
  let s1 := s.updRun n r.seq fun x => { x with sub := x.sub + 1 }
  if dCount r.desc ≤ g * segsPerTile r.rec2 then s
  else if i = 0 then
    (s1.startRead n r.seq g (.update g) (dUpdateRec r.desc) r.rec2 g).updR s1.nextId fun j =>
      { j with replay := (s.scat? n).any Scatter.replay }
  else if dCount r.desc ≤ 16 * sector then s1
  else s1.readSpan (dIndexAddr r.desc + 64 * sector) 1 fun _ => .index n sector

/-- A SCATTER_ACC begins to read. -/
def State.scatterBegin (n : Nat) (r : Run) (s : State) : State :=
  { s with readers := s.readers ++ [Scatter.new n r.seq] }.scatterRead n r

/-- A SCATTER_ACC takes the Atoll for its first update (R320). -/
def State.scatterTake (n : Nat) (r : Run) (s : State) : State :=
  match s.readers.find? fun x => x.stream == n with
  | none => s
  | some x => { s.unitTaken resAtoll n r.seq false with scatter := some x, readers := s.readers.erase x }

/-- Sixteen indices have come; a poisoned sector has its record (R329). -/
def State.gotIndex (n sector addr : Nat) (img : Image) (poison : Bool) (s : State) : State :=
  match s.scat? n with
  | none => s
  | some x =>
    if poison then
      ((s.workReport n x.seq { reason := 0x42, sev := .contained, addr := addr }).flagRun n x.seq RunFlags.tileErr).updScat n fun y =>
        { y with badIndex := y.badIndex ++ [sector] }
    else
      s.updScat n fun y => { y with indices := y.indices ++ (List.range 16).map fun i =>
          (16 * sector + i, BitVec.ofNat 32 (imgNat img (addr + 4 * i) 4)) }

/-! ### Updates (R322, R324, R328, R330) -/

/-- The 32 elements of an update, none when its tile failed; `got` is false while the tile has not come. -/
def Scatter.dataOf (x : Scatter) (r : BitVec 1024) (u : Nat) : Option (Option (List Num)) :=
  let w := segsPerTile r
  match x.tiles.find? fun t => t.1 == u / w with
  | none => none
  | some (_, .ok img) => some (some (((tileValues (recType r) img).drop (32 * (u % w))).take 32))
  | some (_, .zero) => some (some (List.replicate 32 Num.zero))
  | some (_, .err _ _ _) => some none

/-- What becomes of one update of a cycle. -/
inductive Upd where
  | waits
  | dropped                          -- by its index or a failed read (R328, R329): DROP_INDEX increments (Table 8-8)
  | nothing                          -- all zero
  | enters (key : Word) (vs : List Num)
  deriving DecidableEq, Repr

/-- The state of update u (R322 steps 1 and 2, Table 8-7). -/
def Scatter.classify (x : Scatter) (r : Run) (u : Nat) : Upd :=
  match x.indexOf u, x.dataOf r.rec2 u with
  | some none, some _ => .dropped
  | some (some _), some none => .dropped
  | some (some key), some (some vs) =>
    if dFirst r.desc ≤ key.toNat then .dropped
    else if vs.all fun v => v.tag == 0 && v.m == 0 then .nothing
    else .enters key vs
  | _, _ => .waits

/-- Spill records of a partition. -/
def Scatter.records (x : Scatter) (r : BitVec 1024) (p : Nat) : Nat := (x.spill.filter fun z => partOfKey r z.1 == p).length

/-- Space that some data has already, or takes now. -/
def State.spillHave (o : SpillOf) (n : Nat) (s : State) : State × Bool := if (s.spill? o).isSome then (s, true) else s.spillSpace o n

/-- Space for one more spill record of a partition behind k others, with the spill directory at the first spill (R324): a page of 4 KiB
holds 28 records. -/
def State.spillRoom (r : BitVec 1024) (p k : Nat) (s : State) : State × Bool :=
  match s.spillHave .directory (ceilDiv (16 * ceilDiv (recTiles r) 16) 64) with
  | (t, true) => t.spillHave (.records p (k / 28)) 64
  | q => q

/-- Space for the records of some partitions, in order; none is written before there is space for all. -/
def State.spillRooms (x : Scatter) (r : BitVec 1024) (parts : List Nat) (s : State) : State × Bool :=
  parts.zipIdx.foldl (fun (a : State × Bool) p =>
    if a.2 then a.1.spillRoom r p.1 (x.records r p.1 + ((parts.take p.2).filter (· == p.1)).length) else a) (s, true)

/-- Record k of a partition is written, with the partition's 16 bytes of the directory: 144 bytes within its page. -/
def State.writeRecord (p k : Nat) (s : State) : State :=
  let a := 144 * (k % 28)
  (s.spillStore (.records p (k / 28)) (a / 64) ((a + 143) / 64 + 1 - a / 64)).spillStore .directory (16 * p / 64) 1

/-- The entries change. -/
def State.setEntry (e : AtollEntry) (s : State) : State :=
  { s with atoll := upsert (fun x => x.bucket == e.bucket && x.way == e.way) e s.atoll }

/-- The way that a key of a bucket has or takes; none when it goes to the spill list. -/
def State.wayOf (s : State) (key : Word) : Option Nat :=
  let b := atollBucket key
  match s.atoll.find? fun e => e.bucket == b && e.key == key with
  | some e => some e.way
  | none => (List.range 4).find? fun w => !s.atoll.any fun e => e.bucket == b && e.way == w

/-- The updates of one key of a cycle, summed, enter the Atoll as one update (R322, Table 5-27; DEDUCED: they count once, log 38), or
are written as records, one for each update. -/
def State.enterKey (r : Run) (key : Word) (ups : List (List Num)) (s : State) : State :=
  match s.scatter with
  | none => s
  | some x =>
    let b := atollBucket key
    let vs := ups.foldl (fun a v => List.zipWith Num.plus a v) (List.replicate 32 Num.zero)
    match s.atoll.find? fun e => e.bucket == b && e.key == key with
    | some e =>
      let q := e.update vs 1
      ((s.setEntry q.1).bump .atollHit).bumpN .atollReanchor q.2
    | none =>
      match s.wayOf key with
      | some w =>
        let q := (AtollEntry.fresh b w key vs).update vs 1
        ((s.setEntry q.1).bump .atollNew).bumpN .atollReanchor q.2
      | none =>
        let p := partOfKey r.rec1 key
        let k := x.records r.rec1 p
        forAll ups.zipIdx (fun u s => (s.bump .atollSpill).writeRecord p (k + u.2))
          { s with scatter := some { x with spill := x.spill ++ ups.map fun u => (key, u) } }

/-- The updates of a cycle by key, in lane order. -/
def byKey : List (Word × List Num) → List (Word × List (List Num))
  | [] => []
  | (k, v) :: rest =>
    let l := byKey rest
    if l.any fun x => x.1 == k then (k, v :: ((l.find? fun x => x.1 == k).map Prod.snd).getD []) :: l.filter fun x => x.1 != k
    else (k, [v]) :: l

/-- The limit of R330 among the updates: the descriptor stops after the updates it kept. DESIGN CHOICE: its record names the Atoll as UNIT,
also when a drain accumulator meets the limit (log 88). -/
def State.countStop (n : Nat) (seq : Word) (s : State) : State :=
  ((s.workReport n seq { reason := 0x44, sev := .contained, unit := .atoll }).flagRun n seq fun f => { f with countLimit := true })

/-- True when a key would receive a contribution beyond the limit of R305. -/
def State.keyFull (s : State) (key : Word) (n : Nat) : Bool :=
  s.atoll.any fun e => e.key == key && decide (16777216 < e.count + n)

/-- True for an update that its entry may not take (R330). -/
def State.updFull (s : State) (c : Upd) : Bool :=
  match c with
  | .enters key _ => s.keyFull key 1
  | _ => false

/-- Updates leave the waiting lists. -/
def Scatter.passed (x : Scatter) (r : BitVec 1024) (n : Nat) (drop : Bool) : Scatter :=
  let next := x.next + n
  { x with
    next := next
    dropped := x.dropped || drop
    indices := x.indices.filter fun p => decide (next ≤ p.1)
    tiles := x.tiles.filter fun t => decide (next < (t.1 + 1) * segsPerTile r) }

/-- The keys of a cycle that go to the spill list: those without an entry that find no way, after the earlier new keys of the cycle, whose
buckets are `taken`, have taken theirs (R322 steps 5 and 6). -/
def State.spillKeys (s : State) : List Nat → List (Word × List (List Num)) → List (Word × List (List Num))
  | _, [] => []
  | taken, k :: ks =>
    let b := atollBucket k.1
    let used := (s.atoll.filter fun e => e.bucket == b).length + (taken.filter fun x => x == b).length
    if s.atoll.any fun e => e.bucket == b && e.key == k.1 then s.spillKeys taken ks
    else if used < 4 then s.spillKeys (b :: taken) ks
    else k :: s.spillKeys taken ks

/-- One cycle of updates: as many of the lanes as have arrived, in ascending order (R322). A stall leaves the whole cycle to be
done again; an update that its entry may not take ends the updates, and those below it are kept (R330). -/
def State.atollCycle (x : Scatter) (r : Run) (lanes : Nat) (s : State) : State :=
  let n := min (min lanes 4) (dCount r.desc - x.next)
  let come := ((List.range n).map fun i => x.classify r (x.next + i)).takeWhile fun c => c != .waits
  let cls := come.takeWhile fun c => !s.updFull c
  let drops := (cls.filter fun c => c == .dropped).length
  let keys := byKey (cls.filterMap fun c => match c with | .enters k v => some (k, v) | _ => none)
  let spilled := s.spillKeys [] keys
  match s.spillRooms x r.rec1 (spilled.flatMap fun k => k.2.map fun _ => partOfKey r.rec1 k.1) with
  | (t, false) => t.spillStall x.stream false
  | (t, true) =>
    let s1 := forAll keys (fun k s => s.enterKey r k.1 k.2) t
    let s2 := (s1.bumpN .dropIndex drops).spillFound x.stream
    let bytes := 32 * (elemBits (recType r.rec1) / 8) * cls.length
    let s3 := { (s2.updRun x.stream x.seq fun y => { y with inBytes := y.inBytes + bytes }) with
      scatter := s2.scatter.map fun y => y.passed r.rec2 cls.length (decide (0 < drops)) }
    if cls.length < come.length then
      { s3.countStop x.stream x.seq with scatter := s3.scatter.map fun y => { y with limit := true } }
    else s3

/-! ### Faults of the Atoll (R332, Table 11-2) -/

/-- The whole content is discarded and the updates run again from update 0 (R332). -/
def State.atollAgain (x : Scatter) (s : State) : State :=
  let s1 := forAll (s.rjobs.filter fun j => j.stream == x.stream && j.seq == x.seq) (fun j s => s.cancelRead j) s
  let s2 := s1.dropReqs fun p => match p with | .index n _ => n == x.stream | _ => false
  let s3 := (s2.updRun x.stream x.seq fun y => { y with sub := 0, inBytes := 0 }).flagRun x.stream x.seq RunFlags.again
  { s3 with
    atoll := []
    scatter := some { Scatter.new x.stream x.seq with
      second := x.second, counted := x.counted, lostParts := x.lostParts, replay := true } }

/-- A residue fault of an entry (R332). -/
def State.atollResidue (elem : Nat) (s : State) : State :=
  match s.scatter with
  | none => s
  | some x =>
    match s.run? x.stream x.seq with
    | none => s
    | some r =>
      (s.workReport x.stream x.seq
        { reason := 0x04, sev := .corrected, unit := .atoll, addr := dTensor r.desc, detailA := elem, detailB := 1 }).atollAgain x

/-- A residue fault in one entry, which the block chooses among those that it holds (log 7). -/
def State.atollFault (i : Option Nat) (s : State) : State :=
  match i with
  | none => s
  | some e => { s.chosen with
      atoll := s.atoll.modify (s.choice % s.atoll.length) fun x => { x with residue := resFault s.freeCtr e x.residue } }

/-- The element of the first entry whose residues do not match its content. -/
def State.atollMismatch (s : State) : Option Nat := s.atoll.findSome? fun e => mismatch e.acc e.residue

/-- An uncorrectable word of the Atoll: as a residue fault, and at its second occurrence the tiles of the partition stay
uncommitted (Table 11-2). While the Atoll drains, the entries that the block forms again are those it held. -/
def State.atollLost (word : Nat) (s : State) : State :=
  match s.scatter with
  | none => s
  | some x =>
    match s.run? x.stream x.seq with
    | none => s
    | some r =>
      if !x.second then
        let y := { x with second := true }
        if x.draining then { (s.flagRun x.stream x.seq RunFlags.again) with scatter := some y }
        else { s with scatter := some y }.atollAgain y
      else if x.draining then
        { s with accs := updWhere (fun a => a.stream == x.stream && a.seq == x.seq) (fun a => { a with failed := true }) s.accs }
      else
        let p := ((s.atoll[word]?).map fun e => partOfKey r.rec1 e.key).getD 0
        { s with scatter := some { x with lostParts := x.lostParts ++ [p] } }

/-- Updates of one cycle with the faults that they meet. -/
def State.atollUpdate (lanes : Nat) (hw : List HwFault) (s : State) : State :=
  match s.scatter with
  | none => s
  | some x =>
    match s.run? x.stream x.seq with
    | none => s
    | some r =>
      if x.draining ∨ x.limit then s
      else
        let t := s.atollFault (residueOf hw)
        match t.atollMismatch with
        | some e => t.atollResidue e
        | none => t.atollCycle x r lanes

/-! ### The drain (R326, R327) -/

/-- True when the updates are over. -/
def Scatter.updatesOver (x : Scatter) (r : Run) : Bool := x.limit || decide (dCount r.desc ≤ x.next)

/-- Keys that the Atoll and the spill list hold. -/
def State.heldKeys (s : State) (x : Scatter) : List Word := s.atoll.map AtollEntry.key ++ x.spill.map Prod.fst

/-- Partitions with entries or records, ascending. -/
def State.heldParts (s : State) (x : Scatter) (r : BitVec 1024) : List Nat :=
  ((s.heldKeys x).map (partOfKey r)).eraseDups.mergeSort (· ≤ ·)

/-- Table tiles of a partition that some kept update touched, ascending. -/
def State.partTiles (s : State) (x : Scatter) (r : BitVec 1024) (p : Nat) : List Nat :=
  (((s.heldKeys x).filter fun k => partOfKey r k == p).map (tileOfKey r)).eraseDups.mergeSort (· ≤ ·)

/-- The value of an entry as an addend. -/
def AtollEntry.addend (r : BitVec 1024) (e : AtollEntry) : FixedAdd :=
  { pos := 32 * (e.key.toNat % segsPerTile r)
    nums := List.zipWith (fun x t => if t = 0 then ⟨x, (e.anchor : Int) - 150, 0, decide (x < 0)⟩ else ⟨0, 0, t, t == 2⟩) e.acc e.tag
    ec := some ((e.anchor : Int) - 127 + 7), sat := e.sat, inexact := e.inexact }

/-- A spill record as an addend. DEDUCED: a record without a finite non-zero element has no E_c, and sets no C (R301, Table 8-3; log 88). -/
def recordAddend (r : BitVec 1024) (z : Word × List Num) : FixedAdd :=
  { pos := 32 * (z.1.toNat % segsPerTile r), nums := z.2, ec := (maxLog2 z.2).map (max (-126)), sat := false,
    inexact := false }

/-- One table tile of the running partition starts: preload, entries, records. -/
def State.drainTile (x : Scatter) (r : Run) (tile : Nat) (c : Fin 16) (s : State) : State :=
  let a := AccTile.new s.nextId x.stream x.seq r.issued c (recType r.rec1) false (recN r.rec1) [tile] 0
  let adds := (s.atoll.filter fun e => tileOfKey r.rec1 e.key == tile).map (AtollEntry.addend r.rec1) ++
    (x.spill.filter fun z => tileOfKey r.rec1 z.1 == tile).map (recordAddend r.rec1)
  let b := { a with
    acc := { a.acc with dropped := x.dropped }
    fixedAdds := adds
    failed := x.lostParts.contains (tile / 16)
    replay := x.replay
    preload := some (Addend.new 0 (recType r.rec1) 1)
    preloaded := false }
  ((s.addAcc b).updRun x.stream x.seq fun y => { y with issued := y.issued + 1 }).startRead x.stream x.seq r.issued
    (.preload a.id 0) (dTensor r.desc) r.rec1 tile

/-- Tiles of the running partition take cores while there are free slots. -/
def State.drainTiles : Nat → State → State
  | 0, s => s
  | fuel + 1, s =>
    match s.scatter with
    | none => s
    | some x =>
      match x.todo, s.run? x.stream x.seq, (if s.unitOpen resReduce x.stream then s.accCore (reduceNeed none) 1 else none) with
      | tile :: rest, some r, some c =>
        ({ (s.unitTaken resReduce x.stream x.seq x.replay).chosen.drainTile x r tile c with
          scatter := some { x with todo := rest } }).drainTiles fuel
      | _ :: _, some _, none => s.unitWait resReduce x.stream 0x11
      | _, _, _ => s

/-- The records of a drain partition are asked back from the Lagoon; true when all have come. -/
def State.recordsBack (x : Scatter) (r : BitVec 1024) (p : Nat) (s : State) : State × Bool :=
  let pages := List.range (ceilDiv (x.records r p) 28)
  (forAll pages (fun i s => s.spillLoad (.records p i)) s, pages.all fun i => s.inPlace (.records p i))

/-- The drain goes on: it begins, the next partition begins, or more tiles of the running one take cores. -/
def State.atollDrain (s : State) : State :=
  match s.scatter with
  | none => s
  | some x =>
    match s.run? x.stream x.seq with
    | none => s
    | some r =>
      if !x.updatesOver r then s
      else
        let y := if x.draining then x else { x with draining := true, parts := s.heldParts x r.rec1 }
        let z := match y.running, y.parts with
          | none, p :: rest => { y with running := some p, parts := rest, todo := s.partTiles y r.rec1 p }
          | _, _ => y
        let q := match z.running with
          | some p => s.recordsBack z r.rec1 p
          | none => (s, true)
        let t := { q.1 with scatter := some z }
        if q.2 then t.drainTiles 16 else t

/-- Reads of a SCATTER_ACC that is gone are forgotten, and one whose first update has come asks for the Atoll (R320). -/
def State.atollWants (s : State) : State :=
  let live := { s with readers := s.readers.filter fun x => (s.run? x.stream x.seq).isSome }
  forAll live.readers (fun x s => match s.run? x.stream x.seq with
    | some r => if x.classify r x.next = .waits then s else s.unitWait resAtoll x.stream 0x11
    | none => s) live

/-- The running partition ends when its last tile has been committed: its entries are cleared and its pages freed; after the last
partition the Atoll is released. A SCATTER_ACC whose every update was dropped has committed nothing: its QUALITY is 0 (R328). -/
def State.atollEnds (s : State) : State :=
  match s.scatter with
  | none => s
  | some x =>
    match s.run? x.stream x.seq with
    | none => { s with scatter := none, atoll := [] }
    | some r =>
      if !x.draining ∨ x.todo ≠ [] ∨ r.doneUnits < r.issued then s
      else
        let s1 := match x.running with
          | none => s
          | some p =>
            { s with
              atoll := s.atoll.filter fun e => partOfKey r.rec1 e.key != p
              scatter := some { x with running := none, spill := x.spill.filter fun z => partOfKey r.rec1 z.1 != p } }
        if x.parts ≠ [] then s1
        else
          { (s1.updRun x.stream x.seq fun y => { y with total := y.issued }) with
            scatter := none
            atoll := [] }

end Sys2Proof.Machine
end

