-- ==== Sys2Proof/Machine/Merge.lean ====
section
/-! DEFINITION. MERGE: groups, K blocks, the walker and the lane queues, slabs, prediction (06_expansion R234 to R249). -/

namespace Sys2Proof.Machine

/-- KT of a MERGE (R234). -/
def mergeKt (a : BitVec 1024) : Nat := ceilDiv (recDim a 0) 64
/-- NT of a MERGE (R234). -/
def mergeNt (w : BitVec 1024) : Nat := ceilDiv (recDim w 0) (mergeTcw (recType w))
/-- The MG code of a group's rows (Table 6-2). -/
def mgCode (rows : Nat) : Nat := if rows = 8 then 0 else if rows = 16 then 1 else 2

/-- The conditions of R234 on the tensors and ranges of a MERGE: true when one is broken. -/
def mergeBad (d : BitVec 512) (a w : BitVec 1024) : Bool :=
  let t := recType a
  let kt := mergeKt a
  let rows := ceilDiv (recDim a 1) (mergeTr t)
  let row := dFirst d / max kt 1
  let perRow := mergeTr t / mgRows (if dMg d = 3 then 2 else dMg d)
  let need := if dMg d = 3 then dGroups d else ceilDiv (dGroups d) perRow
  recType w != t || !(t == 1 || t == 2 || t == 3 || t == 4 || t == 5) || recOrder a != 1 || recOrder w != 1 ||
    recTr a != mergeTr t || recTc a != 64 || recTr w != 64 || recTc w != mergeTcw t || recDim a 2 != 1 || recDim a 3 != 1 ||
    recDim w 2 != 1 || recDim w 3 != 1 || recDim w 1 != recDim a 0 || decide (2097152 < recDim a 0) ||
    dFirst d % max kt 1 != 0 || decide (mergeNt w ≤ dWFirst d) || decide (rows < row + need)

/-! ### Prediction (R246, R247) -/

/-- Predicted codes of the A tiles of a tile row. -/
def Stream.rowCodes (x : Stream) (a : BitVec 1024) (row : Nat) : List Nat :=
  (List.range (mergeKt a)).filterMap fun kb => x.predicted a (row * mergeKt a + kb)

/-- Mg of a tile row when MG is 3. -/
def predictedRows (codes : List Nat) : Nat :=
  match codes with
  | [] => 16
  | _ => let m := codes.foldl max 0; if m ≤ 1 then 32 else if m ≤ 3 then 16 else 8

/-- True when a core runs two groups of a tile row at once. -/
def runsTwo (codes : List Nat) : Bool := codes != [] && decide (codes.foldl max 0 ≤ 1)

/-! ### Starting groups and K blocks -/

/-- The next group of a run: tile row, first row, rows. -/
def Run.nextGroup (r : Run) (x : Stream) : Nat × Nat × Nat :=
  let t := recType r.rec1
  let rowsOf (row : Nat) : Nat := if dMg r.desc = 3 then predictedRows (x.rowCodes r.rec1 row) else mgRows (dMg r.desc)
  if r.issued = 0 then
    let row := dFirst r.desc / mergeKt r.rec1
    (row, 0, rowsOf row)
  else
    let c := r.cursor
    if c.2.1 + c.2.2 < mergeTr t then (c.1, c.2.1 + c.2.2, c.2.2) else (c.1 + 1, 0, rowsOf (c.1 + 1))

/-- True when a MERGE has groups left to start (R235). -/
def Run.groupsLeft (r : Run) (x : Stream) : Bool :=
  if dMg r.desc = 3 then decide ((r.nextGroup x).1 < dFirst r.desc / mergeKt r.rec1 + dGroups r.desc)
  else decide (r.issued < dGroups r.desc)

/-- Groups that a core may still take: one, or two of rows that run two at once (R247). -/
def State.groupRoom (s : State) (half : Bool) (c : Fin 16) : Bool :=
  let mine := s.groups.filter fun g => g.core == c && !g.ended && !g.away
  mine == [] || (half && mine.length == 1 && mine.all MGroup.half)

/-- The two tiles of a K block are read (R236). -/
def State.readBlock (g : MGroup) (r : Run) (kb : Nat) (s : State) : State :=
  let a := g.row * mergeKt r.rec1 + kb
  let w := dWFirst r.desc + kb * mergeNt r.rec2
  (s.startRead g.stream g.seq g.num (.mergeA g.id kb) (dTensor r.desc) r.rec1 a).startRead g.stream g.seq g.num
    (.mergeW g.id kb) (dWTensor r.desc) r.rec2 w

/-- The path of a K block is chosen once, by the history of its A tile; each of its tiles without usable history is counted (R246, R247,
Table 6-11). DESIGN CHOICE: the history is read when the block starts, and for Mg and the lanes when a group of a new tile row does, so that
later blocks see what earlier ones of the same descriptor have recorded (log 87). -/
def State.choosePath (g : MGroup) (r : Run) (x : Stream) (kb : Nat) (s : State) : State :=
  if kb < g.paths then s
  else
    let p := x.predicted r.rec1 (g.row * mergeKt r.rec1 + kb)
    let w := x.predicted r.rec2 (dWFirst r.desc + kb * mergeNt r.rec2)
    let dense := match p with | some c => decide (5 ≤ c) | none => false
    (s.bumpN .predOff (b2n p.isNone + b2n w.isNone)).updGroup g.id fun y => { y with
      paths := kb + 1, dense := if dense then y.dense ++ [kb] else y.dense }

/-- A K block is started (R236). -/
def State.startBlock (g : MGroup) (r : Run) (x : Stream) (kb : Nat) (s : State) : State :=
  ((s.choosePath g r x kb).updGroup g.id fun y => { y with started := kb + 1 }).readBlock g r kb

/-- K blocks of a MERGE that have started and are not walked yet. -/
def State.blocksAhead (s : State) (n : Nat) (seq : Word) : Nat :=
  ((s.groups.filter fun g => g.stream == n && g.seq == seq).map fun g => g.started - g.walked).sum

/-- True when the next K block may start: both of its tiles lie within the 64 tiles ahead of R214. -/
def State.blockRoom (s : State) (n : Nat) (seq : Word) : Bool := decide (2 * s.blocksAhead n seq + 1 ≤ readAhead)

/-- The first group of a MERGE that has K blocks to start. -/
def State.blockGroup (s : State) (n : Nat) (r : Run) : Option MGroup :=
  s.groups.find? fun g => g.stream == n && g.seq == r.seq && !g.ended && !g.away && decide (g.started < mergeKt r.rec1)

/-- A unit of a delivery port for a group: no beat is formed yet. -/
def groupUnit (id : Nat) (g : MGroup) (replay : Bool) : DUnit :=
  { id := id, stream := g.stream, seq := g.seq, unit := g.num, beats := [], next := 0, decoded := false, poison := false,
    bad := false, replay := replay, again := false, quality := 0, counts := true, job := none }

/-- True when a job is on an engine. -/
def RJob.placed (j : RJob) : Bool := match j.stage with | .onEngine _ _ => true | _ => false

/-- Tiles and groups that a delivery port holds against the limit of R218: its units, and tiles on engines that have no unit yet. -/
def State.portLoad (s : State) (p : Fin 8) : Nat :=
  let units := s.dports[p].units
  (units.filter DUnit.counts).length +
    (s.rjobs.filter fun j => j.use == .deliver && j.placed && !(units.any fun u => u.job == some j.id) &&
      ((s.run? j.stream j.seq).any fun r => dportOf (dDport r.desc) == p)).length

/-- The core that the next group of a MERGE takes. -/
def State.groupCore (s : State) (r : Run) (x : Stream) : Option (Fin 16) :=
  pick ((s.onServers (descNeed r.desc)).filter (s.groupRoom (runsTwo (x.rowCodes r.rec1 (r.nextGroup x).1)))) s.choice

/-- True when the delivery port of a MERGE holds fewer than 16 tiles and groups (R218). -/
def State.groupPort (s : State) (r : Run) : Bool := decide (s.portLoad (dportOf (dMergePort r.desc)) < 16)

/-- The next group of a MERGE starts on a core of the MERGE role. -/
def State.startGroup (n : Nat) (r : Run) (x : Stream) (s : State) : State :=
  let q := r.nextGroup x
  match s.groupCore r x with
  | none => s
  | some c =>
    let g : MGroup :=
      { id := s.nextId, stream := n, seq := r.seq, num := r.issued, row := q.1, first := q.2.1, mg := q.2.2, core := c,
        tiles := [], started := 0, paths := 0, walked := 0, left := [], dense := [], entries := [],
        half := runsTwo (x.rowCodes r.rec1 q.1), slab := 0, matched := 0, failed := false, ended := false, avoid := none, away := false }
    let s1 := { s.chosen.numbered with groups := s.groups ++ [g] }
    let s2 := s1.addUnit (dportOf (dMergePort r.desc)) (groupUnit s1.nextId g false)
    let s3 := s2.updRun n r.seq fun y => { y with
      issued := y.issued + 1, cursor := q
      total := if (({ y with issued := y.issued + 1, cursor := q } : Run).groupsLeft x) then y.total else y.issued + 1 }
    (s3.issuedNow n r.seq).startBlock g r x 0

/-- The next group starts, or its stream waits for a merge unit behind others that do (R192). A group waits for its port, and for room for
its first K block within R214, first. -/
def State.groupStart (n : Nat) (r : Run) (x : Stream) (s : State) : State :=
  if !s.groupPort r ∨ !s.blockRoom n r.seq then s
  else if s.unitOpen resMerge n ∧ (s.groupCore r x).isSome then (s.unitTaken resMerge n r.seq false).startGroup n r x
  else s.unitWait resMerge n 0x12

/-- A MERGE goes on: the next K block of a group that has one to start, else the next group. -/
def State.mergeGo (n : Nat) (r : Run) (s : State) : State :=
  match s.stream? n with
  | none => s
  | some x =>
    if !s.blockRoom n r.seq then s
    else
      match s.blockGroup n r with
      | some g => s.startBlock g r x g.started
      | none => if r.groupsLeft x then s.groupStart n r x else s

/-! ### The walker (R237 to R240, R249) -/

/-- A tile of a group, zero where it is ZERO; none while it has not come. -/
def MGroup.tile (g : MGroup) (w : Bool) (kb : Nat) : Option (Dec × List Byte) :=
  (g.tiles.find? fun t => t.1 == w && t.2.1 == kb).map fun t =>
    (t.2.2, match t.2.2 with | .ok img => img | _ => List.replicate 4096 0)

/-- The read of a tile of a group. -/
def MGroup.reads (g : MGroup) (w : Bool) (kb : Nat) (j : RJob) : Bool := j.use == (if w then .mergeW g.id kb else .mergeA g.id kb)

/-- The reads of a group. -/
def MGroup.owns (g : MGroup) (j : RJob) : Bool := match j.use with | .mergeA x _ | .mergeW x _ => x == g.id | _ => false

/-- The images of a K block on the dense path stream from their engines as they are decoded, unless the stream is opened with STORE_FWD
(R248). The spec does not state what an engine puts out for a payload that does not decode (log 7). -/
def State.streamBlock (g : MGroup) (s : State) : State :=
  let store := (s.stream? g.stream).any Stream.storeFwd
  if store ∨ !g.dense.contains g.walked then s
  else
    forAll [false, true] (fun w s =>
      match s.rjobs.find? fun j => g.reads w g.walked j && j.placed with
      | none => s
      | some j => (s.chosen.updGroup g.id fun y => y.got w y.walked
          (.ok ((s.passedImage j).getD (slice (Config.bytes s.freeCtr) 0 4096))))) s

/-- Rows of a group. -/
def MGroup.rows (g : MGroup) : List Nat := (List.range g.mg).map (· + g.first)

/-- The K-mask of the next K block (R237, R238): its positions, and PRED_MISS or not (R249). DESIGN CHOICE: PRED_MISS is judged by the
mask of non-zero positions, also for a block on the sparse path that a non-finite value keeps whole (log 81). -/
def MGroup.maskOf (g : MGroup) (t : Nat) (a w : Dec × List Byte) : List Nat × Bool :=
  let dense := g.dense.contains g.walked
  let sparse := kPositions t g.rows a.2 w.2
  let all := dense || tileNonfinite t a.2 || tileNonfinite t w.2
  (if all then List.range 64 else sparse,
    if dense then decide (sparse.length ≤ 16) else decide (48 < sparse.length))

/-- The spec does not state what the slabs of a group hold for a tile that has failed: a free value stands for its image (R222, R242;
log 7). -/
def MGroup.freeTiles (n : Nat) (g : MGroup) : MGroup :=
  { g with tiles := g.tiles.map fun t =>
      if t.2.1 == g.walked && t.2.2.isErr then (t.1, t.2.1, .ok (slice (Config.bytes n) (if t.1 then 4096 else 0) 4096)) else t }

/-- Entries that fit in the lane queues of a group (R240, R247). -/
def MGroup.laneRoom (g : MGroup) : Nat := (if g.half then 128 else 256) - g.entries.length

/-- One cycle of the walker: up to 32 positions move into the lane queues. -/
def MGroup.move (g : MGroup) : MGroup × Nat :=
  let n := min (min 32 g.left.length) g.laneRoom
  ({ g with
    entries := g.entries ++ (g.left.take n).map fun p => (g.walked - 1, p)
    left := g.left.drop n
    matched := g.matched + n }, n)

/-- One slab of a group from its first entries (R241). -/
def MGroup.slabOf (g : MGroup) (r : Run) (last : Bool) : List (BitVec 128 × List Byte × List Byte) :=
  let t := recType r.rec1
  let es := g.entries.take 32
  let img (w : Bool) (kb : Nat) : List Nat := tileCodes t (((g.tile w kb).map Prod.snd).getD [])
  let tcw := mergeTcw t
  slabBeats t g.stream g.num g.slab (mgCode g.mg) (g.slab == 0) last es.length
    (g.rows.map fun i => es.map fun e => aElem (img false e.1) i e.2)
    (es.map fun e => ((img true e.1).drop (tcw * e.2)).take tcw)

/-- True when every K block of a group has been walked. -/
def MGroup.allWalked (g : MGroup) (kt : Nat) : Bool := g.left == [] && decide (kt ≤ g.walked)

/-- Slabs are formed while more than a slab's entries wait, and the last one when the group has been walked. -/
def formSlabs (r : Run) (port : Fin 8) : Nat → Nat → State → State
  | 0, _, s => s
  | fuel + 1, id, s =>
    match s.groups.find? fun g => g.id == id with
    | none => s
    | some g =>
      let waits := s.groups.any fun h => h.core == g.core && decide (h.id < g.id) && h.half
      let full := g.allWalked (mergeKt r.rec1)
      if g.ended ∨ waits ∨ !(decide (32 < g.entries.length) || full) then s
      else
        let last := full && decide (g.entries.length ≤ 32)
        let known := last && !s.rjobs.any g.owns
        let beats := g.slabOf r last
        let s1 := s.updGroup id fun y => { y with
          entries := y.entries.drop 32, slab := y.slab + 1, ended := last }
        let s2 := s1.updDport port fun p => { p with
          units := updWhere (fun u => u.stream == g.stream && u.seq == g.seq && u.unit == g.num && !u.again)
            (fun u => { u with beats := u.beats ++ beats, decoded := known, poison := known && g.failed }) p.units }
        formSlabs r port fuel id s2

/-- The outcome of a group whose tiles have all been checked goes in its tail beat (R242). -/
def State.groupTails (s : State) : State :=
  forAll (s.groups.filter fun g => g.ended && !s.rjobs.any g.owns) (fun g s =>
    match s.run? g.stream g.seq with
    | none => s
    | some r => s.updDport (dportOf (dMergePort r.desc)) fun p => { p with
        units := updWhere (fun u => u.stream == g.stream && u.seq == g.seq && u.unit == g.num && !u.again && !u.decoded)
          (fun u => { u with decoded := true, poison := g.failed }) p.units }) s

/-- The walker takes a step in a group: the positions that it still holds, else the mask of the next K block whose tiles have been
decoded, or stream as they are (R239, R248). DESIGN CHOICE: a group that is executed again walks its K blocks once more, and MERGE_WALKED,
MERGE_MATCHED and PRED_MISS count them once more (log 81). -/
def State.mergeWalk (id : Nat) (s0 : State) : State :=
  match s0.groups.find? fun g => g.id == id with
  | none => s0
  | some g0 =>
    let s := if s0.coreWorks g0.core ∧ !g0.away ∧ g0.left = [] then s0.streamBlock g0 else s0
    match s.groups.find? fun g => g.id == id, s.run? g0.stream g0.seq with
    | none, _ | _, none => s
    | some g, some r =>
      let port := dportOf (dMergePort r.desc)
      let t := recType r.rec1
      if !s.coreWorks g.core ∨ g.away then s
      else if g.left ≠ [] then
        let m := g.move
        formSlabs r port 9 id ((s.updGroup id fun _ => m.1).bumpN .mergeMatched m.2)
      else if mergeKt r.rec1 ≤ g.walked then formSlabs r port 9 id s
      else
        match g.tile false g.walked, g.tile true g.walked with
        | some a, some w =>
          let bad := a.1.isErr || w.1.isErr
          let g1 := if bad then g.freeTiles s.freeCtr else g
          let mask := g1.maskOf t ((g1.tile false g.walked).getD a) ((g1.tile true g.walked).getD w)
          let m := ({ g1 with left := mask.1, walked := g.walked + 1, failed := g.failed || bad } : MGroup).move
          let s1 := (whenB mask.2 (State.bump .predMiss) (whenB bad State.chosen s)).bump .mergeWalked
          formSlabs r port 9 id ((s1.updGroup id fun _ => m.1).bumpN .mergeMatched m.2)
        | _, _ => s

/-- A group with nothing read, walked or formed. -/
def MGroup.emptied (away : Bool) (core : Fin 16) (g : MGroup) : MGroup :=
  { g with core := core, tiles := [], started := 0, walked := 0, left := [], entries := [], slab := 0, matched := 0, failed := false,
           ended := false, away := away }

/-- A group leaves its core: its reads are withdrawn, and what has left its port ends with POISON (R206). -/
def State.groupLeaves (g : MGroup) (port : Fin 8) (s : State) : State :=
  let s1 := forAll (s.rjobs.filter g.owns) (fun j s => s.cancelRead j) s
  if g.away then s1
  else ((s1.updDport port fun p => p.retry fun u => u.stream == g.stream && u.seq == g.seq && u.unit == g.num && !u.again).flagRun g.stream
    g.seq RunFlags.again).replayedFrom g.core g.tiles.length

/-- A group is executed again on another core, or on its own when no other can take it (05_streams_and_order R205, R206; log 22). A group
without such a core waits for the first one that can take it (R567). A group whose tail beat stands on the bus has left its core. -/
def State.replayGroup (g : MGroup) (avoid : Option (Fin 16)) (s : State) : State :=
  match s.run? g.stream g.seq with
  | none => s
  | some r =>
    let port := dportOf (dMergePort r.desc)
    if s.dports[port].units.any fun u => u.stream == g.stream && u.seq == g.seq && u.unit == g.num && !u.again && s.dports[port].tailOnBus u
    then s
    else
      let s0 := s.groupLeaves g port
      let need := descNeed r.desc
      let others := (s0.onServers need).filter fun c => some c != avoid && c != g.core && s0.groupRoom g.half c
      let own := if (s0.onServers need).contains g.core then some g.core else none
      match (pick others s0.choice).orElse fun _ => own with
      | none => s0.updGroup g.id (MGroup.emptied true g.core)
      | some c =>
        let s1 := s0.chosen.updGroup g.id (MGroup.emptied false c)
        s1.addUnit port (groupUnit s1.nextId g true)

/-- A tile that its engine or core has lost is executed again (R205, R206). A tile of a merge group is decoded by an engine of the
group's core (R236): another core takes the group with it, and so does a tile that has streamed. -/
def State.replayTile (j : RJob) (avoid : Option (Fin 16)) (s : State) : State :=
  match s.groups.find? fun g => g.owns j with
  | none => s.replayRead j avoid
  | some g =>
    let streamed := [false, true].any fun w => g.tiles.any fun t => t.1 == w && g.reads w t.2.1 j
    let t := if avoid.isSome ∨ streamed then s.replayGroup g avoid else s
    if (t.rjob? j.id).any RJob.placed then t.replayRead j avoid else t

end Sys2Proof.Machine
end

