-- ==== Sys2Proof/Machine/Streams.lean ====
section
/-! DEFINITION. Queues, streams and descriptors: OPEN and CLOSE, contexts, fetch and the checks of Table 5-22, completion records,
FENCE and barriers (05_streams_and_order R151 to R187, R197 to R202; the checks of the other chapters at step 5). -/

namespace Sys2Proof.Machine

/-! ### Ports that a descriptor may name (01_five_levels Table 1-9, 12_chart R461) -/

/-- True when the hardening has a port and the applied Chart enables it. -/
def State.portThere (s : State) (k : PortKind) (i : Nat) : Bool :=
  decide (i < portCount s.params.hardening k) &&
    s.chartVal (fun c => match k with
      | .memory => c.memEn.toNat.testBit i
      | .delivery => c.dpEn.toNat.testBit i
      | .intake => c.ipEn.toNat.testBit i
      | .link => c.lpEn.toNat.testBit i) false

/-! ### Contexts (R166 to R169) -/

/-- Contexts reserved for a queue (R167). -/
def State.reserveOf (s : State) (q : Fin 64) : Nat := nth (s.chartVal Chart.reserve []) q.val 0

/-- First context of a queue's reservation. -/
def State.reserveStart (s : State) (q : Fin 64) : Nat := ((s.chartVal Chart.reserve []).take q.val).sum

/-- The shared pool: first context and contexts. -/
def State.sharedPool (s : State) : Nat × Nat :=
  let n := (s.chartVal Chart.reserve []).sum
  (n, 16384 - n)

/-- A free context of a range, from a place that the block chooses (log 7). -/
def State.freeSlot (s : State) (first n : Nat) : Option Nat :=
  let used := s.streams.filterMap Stream.slot
  ((List.range n).map fun i => first + (s.choice + i) % n).find? fun k => !used.contains k

/-- A free context for a stream of a queue: the reservation, then the shared pool. The flag says that it is a shared one. -/
def State.takeSlot (s : State) (q : Fin 64) : Option (Nat × Bool) :=
  match s.freeSlot (s.reserveStart q) (s.reserveOf q) with
  | some k => some (k, false)
  | none => (s.freeSlot s.sharedPool.1 s.sharedPool.2).map fun k => (k, true)

/-- True when a stream has tiles in flight; the retained tiles of a stop record are none (R168, 07_compression R277). -/
def State.inFlight (s : State) (x : Stream) : Bool :=
  s.rjobs.any (fun j => j.stream == x.num) ||
    s.wjobs.any (fun w => w.stream == x.num && !x.retains w) ||
    s.accs.any (fun a => a.stream == x.num) || s.groups.any (fun g => g.stream == x.num) ||
    s.dports.toList.any (fun p => p.units.any fun u => u.stream == x.num)

/-- True when a stream may be parked (R168). -/
def State.parkable (s : State) (x : Stream) : Bool :=
  x.runs == [] && x.todo == [] && !s.inFlight x && x.lateness == 0 && !x.pin && x.fn.st == .on && x.slot.isSome

/-- The parkable stream of a range of contexts whose last completion is the oldest. DESIGN CHOICE: of two with the same time, the one with
the lower number (log 82). -/
def State.oldestParkable (s : State) (first n : Nat) : Option Stream :=
  (s.streams.filter fun x => s.parkable x && x.slot.any fun k => decide (first ≤ k) && decide (k < first + n)).foldl
    (fun b x => match b with
      | none => some x
      | some y => if x.lastCmpl < y.lastCmpl then some x else some y) none

/-- The context of stream m goes to the Lagoon, for the sake of stream n; n stalls when the Lagoon has no room (R32, R35). -/
def State.parkContext (n m : Nat) (s : State) : State × Bool :=
  match s.spillSpace (.context m) 1 with
  | (t, false) => (t.spillStall n false, false)
  | (t, true) => ((t.updStream m fun y => { y with slot := none }).spillStore (.context m) 0 1, true)

/-- Parks one stream so that stream n of a queue gets a context; false when nothing can be parked, or the Lagoon has no room (R168). -/
def State.parkFor (n : Nat) (q : Fin 64) (s : State) : State × Bool :=
  match (s.oldestParkable (s.reserveStart q) (s.reserveOf q)).orElse fun _ => s.oldestParkable s.sharedPool.1 s.sharedPool.2 with
  | none => (s, false)
  | some x => s.parkContext n x.num

/-- A context for stream n of a queue, parking another stream when none is free. -/
def State.getSlot (n : Nat) (q : Fin 64) (s : State) : State × Option (Nat × Bool) :=
  match s.takeSlot q with
  | some k => (s.chosen, some k)
  | none =>
    let p := s.parkFor n q
    (p.1.chosen, if p.2 then p.1.takeSlot q else none)

/-- A stream has a context again: its copy in the Lagoon is freed (R34). -/
def State.slotFound (n : Nat) (k : Nat × Bool) (s : State) : State :=
  let s1 := (s.updStream n fun y => { y with slot := some k.1, sharedCtx := k.2 }).spillFound n
  match s1.lagoon.find? fun x => x.of_ == .context n with
  | some x => s1.spillDrop x
  | none => s1

/-- True when every context that a queue may use is held by a pinned stream (R162). -/
def State.allPinned (s : State) (q : Fin 64) : Bool :=
  let mine (k : Nat) : Bool :=
    (decide (s.reserveStart q ≤ k) && decide (k < s.reserveStart q + s.reserveOf q)) || decide (s.sharedPool.1 ≤ k)
  decide (s.reserveOf q + s.sharedPool.2 ≤ (s.streams.filter fun x => x.pin && x.slot.any mine).length)

/-! ### OPEN and CLOSE (R160 to R163, R197 to R199; Tables 5-5 to 5-9) -/

/-- A stream that has just been opened with arguments ARG0 to ARG2. -/
def Stream.opened (a0 a1 a2 : Word) (sample : BitVec 16) (slot : Option Nat) (shared : Bool) (now : Time) : Stream :=
  { num := bits a0.toNat 15 0
    fn := Fn.isOn
    queue := ⟨bits a0.toNat 21 16, by unfold bits; exact Nat.mod_lt _ (by decide)⟩
    weight := bits a0.toNat 31 24, slot := slot, sharedCtx := shared, expectSeq := a1, deadline := bit a2.toNat 0,
    pin := bit a2.toNat 1, storeFwd := bit a2.toNat 2, windowUs := bits a2.toNat 23 8, lateness := 0, lastCmpl := now,
    lastSeq := none, sample := sample, tideN := 0, tideRun := 0, tideAge := 0, tideLo := 0, tideHi := 0, stop := none,
    latched := none, todo := [], waiting := [], refused := [], runs := [], hist := [], beat := 0, discard := false, stallRole := none, stallSpill := none,
    wasParked := false }

/-- The arguments of OPEN, and the command word, that R162 refuses. -/
def badArgs (a0 a2 cmd : Word) : Bool :=
  bits a0.toNat 31 24 == 0 || (bit a2.toNat 0 && bits a2.toNat 23 8 == 0) || bits a0.toNat 23 22 != 0 ||
    bits a2.toNat 7 3 != 0 || bits a2.toNat 31 24 != 0 || bits cmd.toNat 31 2 != 0

/-- RESULT of DJ_SCTL_STAT. -/
def State.sctl (r : Nat) (s : State) : State := { s with regs := { s.regs with sctlResult := r } }

/-- True when the cluster opens no stream: not running, HELD or off (12_chart Table 12-18). -/
def State.noWork (s : State) : Bool := s.phase != .run || s.chart.held || s.cluster.st == .off

/-- The free-running LFSR moves on (07_compression R267; log 5). -/
def State.lfsrNext (s : State) : State := { s with lfsr := Config.lfsrStep s.lfsr }

/-- A stream number is put in state ON with the given arguments. DESIGN CHOICE: its sample counter takes the low 16 bits of the LFSR (R162;
07_compression R267; log 5). DESIGN CHOICE: a stream that finds no context free or parkable, pinned or
not, begins with its context parked in the Lagoon (R166), and without room there it stalls until it has one place or the other (log 82). -/
def State.bindStream (a0 a1 a2 : Word) (s : State) : State :=
  let n := bits a0.toNat 15 0
  let q : Fin 64 := ⟨bits a0.toNat 21 16, by unfold bits; exact Nat.mod_lt _ (by decide)⟩
  let s0 := s.lfsrNext
  let s1 := { s0 with streams := insertStream (Stream.opened a0 a1 a2 (BitVec.extractLsb' 0 16 s0.lfsr) none false s.time) s0.streams }
  match s1.getSlot n q with
  | (t, some k) => t.slotFound n k
  | (t, none) => (t.parkContext n n).1

/-- Streams with no context that have no copy in the Lagoon either take one there when it has room. -/
def State.parkSelves (s : State) : State :=
  forAll (s.streams.filter fun x => x.slot.isNone) (fun x s =>
    if s.lagoon.any fun y => y.of_ == .context x.num then s
    else
      let p := s.parkContext x.num x.num
      whenB p.2 (State.spillFound x.num) p.1) s

/-- OPEN (R162, Table 5-29, Table 12-18). -/
def State.openCmd (cmd : Word) (s : State) : State :=
  let a0 := s.regs.sctlArg0
  let a1 := s.regs.sctlArg1
  let a2 := s.regs.sctlArg2
  let n := bits a0.toNat 15 0
  let q : Fin 64 := ⟨bits a0.toNat 21 16, by unfold bits; exact Nat.mod_lt _ (by decide)⟩
  if s.noWork then s.sctl 5
  else if badArgs a0 a2 cmd then s.sctl 4
  else
    match s.stream? n with
    | none => if bit a2.toNat 1 && s.allPinned q then s.sctl 5 else (s.bindStream a0 a1 a2).sctl 0
    | some x =>
      match x.fn.st with
      | .on => s.sctl 2
      | .shutting =>
        (s.updStream n fun y => { y with fn := { y.fn with st := .pendingOn }, latched := some (a0, a1, a2) }).sctl 1
      | .pendingOn => s.sctl 1
      | .off => s.sctl 0

/-- A barrier member leaves its instance, and its FENCE breaks (R187; 12_chart R481). DESIGN CHOICE: an instance that every member has left
stays open with its BCOUNT, and holds its BGROUP, until members arrive (log 68). -/
def State.breakMember (n : Nat) (s : State) : State :=
  match (s.stream? n).bind fun x => x.runs.head? with
  | none => s
  | some r =>
    if r.kind = 0x40 ∧ dBarrier r.desc ∧ r.started ∧ !r.finished then
      { (s.updRun n r.seq fun y => { y with finished := true, flags := { y.flags with fenceBroken := true } }) with
        barriers := s.barriers.map fun b => if b.isDone then b else { b with members := b.members.filter (· != n) } }
    else s

/-- CLOSE of a stream in state ON (R163). -/
def State.closeNow (n : Nat) (s : State) : State :=
  (s.updStream n fun y => { y with fn := ⟨.shutting, .before⟩ }).breakMember n

/-- Fetched descriptors of a stream that have not completed (R165). -/
def Stream.held (x : Stream) : Nat := x.runs.length + x.todo.length + x.waiting.length + x.refused.length

/-- A CLOSE discards the latched reopening of a stream; the descriptors that wait for it will complete with STREAM_CLOSED (Table 5-29,
R199). -/
def Stream.unlatch (x : Stream) : Stream :=
  let q : Fin 64 := (x.latched.map fun l => (⟨bits l.1.toNat 21 16, by unfold bits; exact Nat.mod_lt _ (by decide)⟩ : Fin 64)).getD x.queue
  { x with
    fn := { x.fn with st := .shutting }
    latched := none
    waiting := []
    refused := x.refused ++ x.waiting.map fun d => (q, d) }

/-- CLOSE (R163, Table 5-29). -/
def State.closeCmd (s : State) : State :=
  let n := bits s.regs.sctlArg0.toNat 15 0
  match s.stream? n with
  | none => s.sctl 3
  | some x =>
    match x.fn.st with
    | .on => (s.closeNow n).sctl 0
    | .pendingOn => (s.updStream n Stream.unlatch).sctl 0
    | _ => s.sctl 0

/-- A write of DJ_SCTL_CMD (Table 5-8). -/
def State.sctlCmd (w : Word) (s : State) : State :=
  if bits w.toNat 1 0 = 1 then s.openCmd w else if bits w.toNat 1 0 = 2 then s.closeCmd else s

/-- Descriptors whose reopening was discarded complete with STREAM_CLOSED on the queues that fetched them, in fetch order (R199). -/
def State.refuse (l : List (Fin 64 × BitVec 512)) (s : State) : State :=
  forAll l (fun x s => s.setQueue x.1 { s.queue x.1 with early := (s.queue x.1).early ++ [(x.2, 0x12)] }) s

/-- True for space in the Lagoon that holds the context or a history page of a stream. -/
def SpillOf.ofStream (n : Nat) : SpillOf → Bool
  | .context m => m == n
  | .history m _ _ => m == n
  | _ => false

/-- True for a history page. -/
def SpillOf.isHistory : SpillOf → Bool
  | .history _ _ _ => true
  | _ => false

/-- A stream leaves the tracker: its history, retained tiles and context are released and wiped (R163; 06_expansion R245). -/
def State.releaseStream (x : Stream) (s : State) : State :=
  let s1 := forAll (s.lagoon.filter fun y => y.of_.ofStream x.num)
    (fun y s => if y.of_.isHistory && !y.asked then s.spillWipe y else s.spillDrop y) (s.discardStop x.num)
  { s1 with
    wjobs := s1.wjobs.filter fun w => w.stream != x.num
    rjobs := s1.rjobs.filter fun j => j.stream != x.num
    colls := s1.colls.filter fun c => c.stream != x.num }.dropStream x.num

/-- The shut-down of a stream completes: OFF, or the latched reopening (Table 5-29, R198, R199). -/
def State.streamOff (n : Nat) (s : State) : State :=
  match s.stream? n with
  | none => s
  | some x =>
    let s1 := (s.releaseStream x).refuse x.refused
    match x.fn.st, x.latched with
    | .pendingOn, some (a0, a1, a2) => (s1.bindStream a0 a1 a2).updStream n fun y => { y with todo := x.waiting }
    | _, _ => s1

/-! ### The checks of a descriptor (Table 5-22) -/

/-- A tensor record of an image. -/
def imgRec (img : Image) (a : Nat) : BitVec 1024 := BitVec.ofNat 1024 (imgNat img a 128)

/-- Addresses of the tensor records that a descriptor names, apart from a REDUCE source list. -/
def namedRecs (d : BitVec 512) : List Nat :=
  let k := dKind d
  if k = 0x11 then [dTensor d, dUpdateRec d]
  else if k = 0x12 then [dTensor d, dWTensor d]
  else if k = 0x30 then [dTensor d, dArgA d]
  else if decide (k < 0x40) then [dTensor d]
  else []

/-- True for a descriptor that writes the tensor of its first record. -/
def writesFirst (d : BitVec 512) : Bool :=
  let k := dKind d
  k == 2 || k == 3 || k == 0x10 || k == 0x11 || k == 0x21 || (k == 0x31 && dRewrite d)

/-- True for a descriptor whose written tiles carry residuals (04_bounded_loss R137, R140). -/
def carries (d : BitVec 512) : Bool :=
  let k := dKind d
  k == 2 || k == 3 || k == 0x10 || k == 0x11

/-- The entries of a REDUCE source list: record address, first tile, bytes 12 to 15. -/
def sourceList (img : Image) (d : BitVec 512) : List (Nat × Nat × Nat) :=
  (List.range (dSrcCount d)).map fun i =>
    let a := dSrcList d + 16 * i
    (imgNat img a 8, imgNat img (a + 8) 4, imgNat img (a + 12) 4)

/-- A tile range that runs past its tensor. -/
def past (first n : Nat) (r : BitVec 1024) : Bool := decide (recTiles r < first + n)

/-- R291: true when a REDUCE breaks a condition. `srcs` are record, first tile. -/
def reduceBad (d : BitVec 512) (r : BitVec 1024) (srcs : List (BitVec 1024 × Nat)) : Bool :=
  let types := srcs.map (fun x => recType x.1) ++ (if dPreload d = 2 then [recType r] else [])
  let nd := recN r
  let nacc := nAccOf (recType r) types
  let solid := types.filter (· != 14)
  types.any (fun t => !pairsWith t (recType r)) ||
    (solid.any intType && solid.any fun t => !intType t) || dFirst d * nd % nacc != 0 || dCount d * nd % nacc != 0 ||
    past (dFirst d) (dCount d) r ||
    srcs.any fun x => x.2 * recN x.1 % nacc != 0 || decide (recTiles x.1 * recN x.1 < x.2 * recN x.1 + dCount d * nd)

/-- R321: true when a tensor of a SCATTER_ACC breaks a condition of its own; n counts row segments. -/
def scatterOne (n : Nat) (r : BitVec 1024) : Bool :=
  !(recType r == 0 || recType r == 1 || recType r == 2) || recOrder r != 0 || decide (recTiles r * recN r < n * 32)

/-- The previous descriptor of a stream when it is the first of a forwarding pair whose second has not come. DESIGN CHOICE: a RECV that
failed its own checks is no first of a pair, so what follows it need not be a SEND (R343; log 86). -/
def State.openPair (s : State) (x : Stream) : Option Run :=
  match x.runs.getLast? with
  | none => none
  | some r =>
    if r.kind = 0x21 ∧ r.status = 0 ∧ dForward r.desc ∧
        (s.colls.any fun c => c.stream == x.num && c.seq == r.seq && !c.isSend && !c.pairKnown) then some r
    else none

/-- R336 and R343: true when the fields of a collective break a condition. -/
def State.collFields (s : State) (x : Stream) (d : BitVec 512) : Bool :=
  !s.portThere .link (dLport d) || dPeer d == s.chartVal Chart.rank 0 ||
    (dKind d == 0x20 && (dAccum d || dForward d)) || (dKind d == 0x21 && dForward d && !dAccum d) ||
    (match s.openPair x with
     | some p => dKind d == 0x20 && (dTensor d != dTensor p.desc || dGroup d != dGroup p.desc || dStep d != dStep p.desc ||
        dFirst d != dFirst p.desc || dChunks d != dChunks p.desc)
     | none => false)

/-- R336: true when a collective breaks a condition on its tensor. -/
def collBad (d : BitVec 512) (r : BitVec 1024) : Bool :=
  let t := recType r
  decide (recTiles r < (dFirst d + dChunks d - 1) * 16 * perLogical r + 1) ||
    !(t == 0 || t == 1 || t == 2 || t == 3 || t == 4 || t == 5 || t == 14) || (dKind d == 0x21 && recResidual r != 0)

/-- R406: true when the two records of a MIGRATE differ. -/
def migrateDiffer (r w : BitVec 1024) : Bool :=
  recType r != recType w || recOrder r != recOrder w ||
    recRankM1 r != recRankM1 w || recDim r 0 != recDim w 0 || recDim r 1 != recDim w 1 || recDim r 2 != recDim w 2 ||
    recDim r 3 != recDim w 3 || recTr r != recTr w || recTc r != recTc w

/-- A core that a core test may name: active and not retired (14_field_test R521). -/
def State.testable (s : State) (c : Nat) : Bool :=
  if h : c < 16 then s.active ⟨c, h⟩ && !(s.core ⟨c, h⟩).retired else false

/-- R512: targets that a life-cycle state allows (Table 13-10). -/
def lifeTarget (lc target : Nat) : Bool :=
  (lc == 1 && (target == 2 || target == 4)) || (lc == 2 && (target == 3 || target == 4)) || (lc == 3 && target == 4)

/-- A handle of a FENCE that is not one of this cluster (R184). -/
def State.foreign (s : State) (h : Word) : Bool :=
  h != 0xFFFFFFFF && (bits h.toNat 22 16 != 0 || bits h.toNat 31 26 != s.die || bits h.toNat 25 23 != s.clusterNo)

/-- Step 5 beyond the layout: conditions that need no tensor record. -/
def State.fieldBad (s : State) (x : Stream) (d : BitVec 512) : Bool :=
  let k := dKind d
  (dDeadline d != 0 && !x.deadline) ||
    ((s.openPair x).isSome && k != 0x20) ||
    (k == 1 && (!s.portThere .delivery (dDport d) || (dForm d != 1 && dWiden d != 0))) ||
    ((k == 2 || k == 3) && (if dSource d < 4 then !s.portThere .intake (dSource d) || dSrcAddr d != 0
      else dSrcAddr d == 0 || dSrcAddr d % 64 != 0)) ||
    (k == 4 && decide (dDestLimit d < 64 + 16 * dCount d)) ||
    (k == 0x10 && dPreload d == 1 && decide (dSrcCount d < 2)) ||
    (k == 0x11 && dFirst d == 0) ||
    ((k == 0x20 || k == 0x21) && s.collFields x d) ||
    (k == 0x12 && !s.portThere .delivery (dMergePort d)) ||
    (k == 0x40 && !dBarrier d && (dFenceList d).any fun h => s.foreign h.1) ||
    (k == 0x42 && (if dOp d = 3 then dCore d != 0 || dArgB d % 64 != 0
      else dArgB d != 0 || !(s.testable (dCore d) || (dOp d == 1 && dCore d == 255)))) ||
    (k == 0x43 && !lifeTarget s.lc (dTarget d))

/-- True when the tiles of a stop record that a descriptor names as its own run past a tensor (07_compression R254, R276). -/
def StopRec.past (d : BitVec 512) (r : BitVec 1024) (p : StopRec) : Bool :=
  p.seq == BitVec.ofNat 32 (dFirst d) && Machine.past p.tile p.remaining r


/-- What a fetched descriptor names, read from memory. -/
structure Named where
  r1 : BitVec 1024
  r2 : BitVec 1024
  r3 : BitVec 1024
  srcs : List (Nat × BitVec 1024 × Nat)
  bad : Bool                         -- step 7 fails (R44, R140; Table 10-2)
  bad1 : Bool                        -- the first record fails it
  bad2 : Bool                        -- the second record that the descriptor itself names fails it
  listBad : Bool                     -- a list entry breaks R291
  unread : Bool                      -- the record of the tensor that it writes arrived with poison
  poisoned : Nat                     -- poisoned sectors read (R379)
  deriving DecidableEq, Repr

/-- Step 5 with the tensor records. An EXPAND, a MERGE or a REDUCE with a record that fails step 7 is left unchecked (06_expansion R210,
08_accumulation R291); DEDUCED: in the other kinds a condition is left unchecked that needs a record which itself fails step 7 (log 85). -/
def comboBad (x : Stream) (d : BitVec 512) (n : Named) : Bool :=
  let k := dKind d
  let ok1 := !n.bad1
  let ok2 := !n.bad2
  let r1 := n.r1
  let r2 := n.r2
  if k = 1 then !n.bad && (past (dFirst d) (dCount d) r1 || !formAllowed (recType r1) (dForm d) (dWiden d))
  else if k = 2 ∨ k = 4 ∨ k = 0x31 then ok1 && past (dFirst d) (dCount d) r1
  else if k = 3 then ok1 && x.stop.any (StopRec.past d r1)
  else if k = 0x10 then !n.bad && reduceBad d r1 (n.srcs.map fun e => (e.2.1, e.2.2))
  else if k = 0x11 then
    (ok1 && scatterOne (dFirst d) r1) || (ok2 && scatterOne (dCount d) r2) || (ok1 && ok2 && recType r1 != recType r2)
  else if k = 0x12 then !n.bad && mergeBad d r1 r2
  else if k = 0x20 ∨ k = 0x21 then ok1 && collBad d r1
  else if k = 0x30 then
    (ok1 && past (dFirst d) (dCount d) r1) || (ok2 && past (dFirst d) (dCount d) r2) || (ok1 && ok2 && migrateDiffer r1 r2)
  else false

/-- The residual tensor's record that a descriptor reads with the record of the tensor that it writes. -/
def residualOf (d : BitVec 512) (written : BitVec 1024) : Option Nat :=
  if (carries d || dKind d == 0x30 || (dKind d == 0x31 && dRewrite d)) && recResidual written != 0 then some (recResidual written) else none

/-- True while the records that a descriptor names, or its source list, lie on a held channel (10_memory_channels R390). -/
def State.namedHeld (s : State) (img : Image) (d : BitVec 512) : Bool :=
  let list := dKind d == 0x10 && s.spanHeld (dSrcList d) (16 * dSrcCount d)
  let written := imgRec img (if dKind d = 0x30 then dArgA d else dTensor d)
  (namedRecs d).any (fun a => s.spanHeld a 128) || list ||
    (dKind d == 0x10 && (sourceList img d).any fun e => s.spanHeld e.1 128) || (residualOf d written).any fun a => s.spanHeld a 128

/-- The records of a descriptor are read (02_tile_container R42; 08_accumulation R291); sectors of a dead channel arrive
poisoned (10_memory_channels R393). -/
def State.readNamed (s : State) (img : Image) (d : BitVec 512) : Named :=
  let pools := s.poolIds
  let addrs := namedRecs d
  let recs := addrs.map (imgRec img)
  let r1 := nth recs 0 0
  let r2 := nth recs 1 0
  let isReduce := dKind d == 0x10
  let listPoison := isReduce && s.spanBad img (dSrcList d) (16 * dSrcCount d)
  let list := if isReduce && !listPoison then sourceList img d else []
  let srcs := list.map fun e => (e.1, imgRec img e.1, e.2.1)
  let written := if dKind d = 0x30 then (dArgA d, r2) else (dTensor d, r1)
  let fails (i : Nat) : Bool := (addrs[i]?).any fun a => s.spanBad img a 128 || recordBad pools (imgRec img a)
  let res := recResidual written.2
  let withRes := (residualOf d written.2).isSome
  let rr := imgRec img res
  { r1 := r1
    r2 := if withRes && carries d && dKind d != 0x11 then rr else r2
    r3 := if withRes then rr else 0
    srcs := srcs
    bad := addrs.any (fun a => s.spanBad img a 128) || recs.any (recordBad pools) || listPoison ||
      srcs.any (fun x => s.spanBad img x.1 128 || recordBad pools x.2.1) ||
      (withRes && (s.spanBad img res 128 || carryBad pools written.2 rr))
    bad1 := fails 0
    bad2 := fails 1
    listBad := list.any fun e => e.1 % 128 != 0 || e.2.2 != 0
    unread := s.spanBad img written.1 128
    poisoned := (addrs.map fun a => s.spanLost img a 128).sum + (srcs.map fun x => s.spanLost img x.1 128).sum +
      (if withRes then s.spanLost img res 128 else 0) +
      (if isReduce then s.spanLost img (dSrcList d) (16 * dSrcCount d) else 0) }

/-- Steps 5 to 8 of Table 5-22: the status of the first check that fails, 0 when all pass. -/
def State.laterChecks (s : State) (x : Stream) (d3 : Bool) (d : BitVec 512) (n : Named) : Nat :=
  let written := if dKind d = 0x30 then n.r2 else n.r1
  if bodyBad d3 d || s.fieldBad x d || n.listBad || comboBad x d n then 0x14
  else if (writesFirst d || dKind d == 0x30) && !n.unread && recHomeDie written != s.die then 0x15
  else if n.bad then 0x16
  else if (kindRole (dKind d)).isSome && s.servers (descNeed d) == [] then 0x17
  else 0

/-- Kinds that a life-cycle state allows (13_clocks_power_lifecycle Table 13-9). -/
def lcAllows (lc : Nat) : Bool := lc == 1 || lc == 2 || lc == 3

/-- Step 1 of Table 5-22. -/
def State.kindBad (s : State) (d3 : Bool) (k : Nat) : Bool := !kindListed k || (d3 && !kindInD3 k) || !lcAllows s.lc

/-- Step 2 of Table 5-22 (R30). -/
def State.handleBad (s : State) (h : Word) : Bool :=
  bits h.toNat 22 16 != 0 || bits h.toNat 31 26 != s.die || bits h.toNat 25 23 != s.clusterNo

/-! ### Fetch (R155, R164 to R169, R176, R177) -/

/-- Units of a descriptor when it starts; the kinds whose number is not known before they have run take a number that no work
reaches. -/
def Run.units (r : Run) : Nat :=
  let k := r.kind
  if k = 0x11 ∨ (k = 0x12 ∧ dMg r.desc = 3) then 4294967296
  else if k = 0x12 then dGroups r.desc
  else if k = 0x20 then dChunks r.desc
  else if k = 0x21 then collTiles r.desc r.rec1
  else if k < 0x40 then dCount r.desc
  else 1

/-- A fetched descriptor of a stream. -/
def Run.fetched (d : BitVec 512) (q : Fin 64) (status : Nat) (n : Named) : Run :=
  { desc := d, queue := q, status := status, rec1 := n.r1, rec2 := n.r2, rec3 := n.r3, srcs := n.srcs, started := false,
    head := none, total := 0, issued := 0, sub := 0, doneUnits := 0, finished := status != 0, inBytes := 0, outCount := 0,
    errTiles := 0, quality := 0, flags := RunFlags.none, unverified := 0, stopAt := none, cursor := (0, 0, 0), cont := none,
    exportData := [], unloaded := [], outBytes := [], words := [], order := 0, inSeq := status != 0x13 }

/-- The collective side of a descriptor that has been fetched. -/
def Coll.new (n : Nat) (seq : Word) (isSend : Bool) (now : Time) (pair : Option Word) : Coll :=
  { stream := n, seq := seq, isSend := isSend, send := [], recv := [], accepted := [], gone := 0, timer := now, expiries := 0,
    sums := [], paired := pair, pairKnown := isSend, late := 0, lateSent := false, pauseSent := false,
    spoke := false, relayed := false, crit := [], tilesRead := 0,
    bytesRead := 0, before := none, projAt := now }

/-- The descriptor behind a forwarding RECV is known: its SEND, or FORWARD_LOST (09_collectives R343). -/
def State.pairUp (n : Nat) (recv : Run) (seq : Word) (ok : Bool) (s : State) : State :=
  let s1 := s.updColl n recv.seq fun c => { c with pairKnown := true, paired := if ok then some seq else none }
  if ok then s1
  else s1.workReport n recv.seq { reason := 0x58, sev := .corrected, addr := dTensor recv.desc }

/-- A descriptor that passed steps 1 to 3 joins its stream with the status of steps 4 to 8. -/
def State.accept (n : Nat) (q : Fin 64) (d : BitVec 512) (img : Image) (s : State) : State :=
  match s.stream? n with
  | none => s
  | some x =>
    let d3 := (s.queue q).fmtD3
    let seqOk := dSeq d == x.expectSeq
    let named := if seqOk then s.readNamed img d else ⟨0, 0, 0, [], false, false, false, false, false, 0⟩
    let status := if seqOk then s.laterChecks x d3 d named else 0x13
    let k := dKind d
    let coll := (k == 0x20 || k == 0x21) && status == 0
    let pair := s.openPair x
    let r := Run.fetched d q status named
    let r1 : Run := { (if coll then { r with started := true, total := r.units } else r) with order := s.nextId }
    let s1 := (s.numbered.bumpN .memPoison named.poisoned).updStream n fun y => { y with
      expectSeq := if seqOk then y.expectSeq + 1 else y.expectSeq
      runs := y.runs ++ [r1] }
    let s2 := match pair with
      | some p => s1.pairUp n p (dSeq d) (status == 0)
      | none => s1
    if coll then
      { s2 with colls := s2.colls ++ [Coll.new n (dSeq d) (k == 0x20) s.time (if k = 0x20 then pair.map Run.seq else none)] }
    else s2

/-- A descriptor's place in line: its queue stops behind it. -/
def State.queueWaits (q : Fin 64) (why : WaitWhy) (d : BitVec 512) (s : State) : State :=
  let s1 := s.setQueue q { s.queue q with wait := some (why, d) }
  let fresh := (s.queue q).wait.isNone || ((s.queue q).wait.map Prod.fst) != some why
  whenB (why == .context && fresh) (State.bump .ctxWait) s1

/-- The fetcher goes on past the entry that it has read: a descriptor that waits keeps QHEAD at its entry (R155, R165; DEDUCED,
log 32). -/
def State.queueFlows (q : Fin 64) (s : State) : State :=
  let z := s.queue q
  s.setQueue q { z with wait := none, qhead := (z.qhead + 1) % 2 ^ (z.log2 + 1) }

/-- A descriptor that fails step 1, 2 or 3 completes at once, in queue order (R177). DESIGN CHOICE: it is no previous descriptor of its
stream in R164, so the expected SEQ stays (log 82). -/
def State.failEarly (q : Fin 64) (d : BitVec 512) (status : Nat) (s : State) : State :=
  let s1 := s.queueFlows q
  s1.setQueue q { s1.queue q with early := (s1.queue q).early ++ [(d, status)] }

/-- A descriptor that fails step 1 or 3 behind a forwarding RECV of its stream leaves that RECV without a SEND (09_collectives R343). -/
def State.followFails (q : Fin 64) (d : BitVec 512) (s : State) : State :=
  if s.handleBad (dHandle d) then s
  else
    match s.stream? (dStream d) with
    | none => s
    | some x =>
      match s.openPair x with
      | some p => if x.queue = q then s.pairUp x.num p (dSeq d) false else s
      | none => s

/-- A fetched descriptor is examined: steps 1 to 3, then its stream's context and room, then the rest. One whose records lie on a held channel
waits in its stream, and so do those behind it (10_memory_channels R390). -/
def State.examine (q : Fin 64) (d : BitVec 512) (img : Image) (s : State) : State :=
  if s.kindBad (s.queue q).fmtD3 (dKind d) then (s.failEarly q d 0x10).followFails q d
  else if s.handleBad (dHandle d) then s.failEarly q d 0x11
  else
    match s.stream? (dStream d) with
    | none => s.failEarly q d 0x12
    | some x =>
      if x.fn.st = .pendingOn ∧ (x.latched.map fun l => bits l.1.toNat 21 16) = some q.val then
        if 8 ≤ x.held then s.queueWaits q .full d
        else (s.queueFlows q).updStream x.num fun y => { y with waiting := y.waiting ++ [d] }
      else if x.queue ≠ q ∨ x.fn.st ≠ .on then (s.failEarly q d 0x12).followFails q d
      else if 8 ≤ x.held then s.queueWaits q .full d
      else if x.slot.isNone then
        match s.queue q with
        | { wait := some (.parked, _), .. } => s
        | _ =>
          match (if (s.takeSlot q).isSome then (s, true) else s.parkFor x.num q) with
          | (t, true) => ((t.queueWaits q .parked d).bump .ctxFetch).spillLoad (.context x.num)
          | (t, false) => t.queueWaits q .context d
      else if x.todo ≠ [] ∨ (dSeq d = x.expectSeq ∧ s.namedHeld img d) then (s.queueFlows q).updStream x.num fun y => { y with todo := y.todo ++ [d] }
      else (s.queueFlows q).accept x.num q d img

/-- Bytes of a descriptor of a queue (R153). -/
def Queue.entryBytes (z : Queue) : Nat := if z.fmtD3 then 32 else 64

/-- Address of the descriptor at the head of a queue. -/
def Queue.headAddr (z : Queue) : Nat := z.base + z.entryBytes * (z.qhead % 2 ^ z.log2)

/-- The descriptor at the head of a queue, in D4 form. Table 10-2 gives no handling of a ring entry that arrives with poison: the bits that the
fetcher takes in its place are free (log 89). -/
def State.headDesc (s : State) (q : Fin 64) (img : Image) : BitVec 512 :=
  let z := s.queue q
  let raw :=
    if s.spanBad img z.headAddr z.entryBytes then leNat (slice (Config.bytes s.freeCtr) 0 z.entryBytes)
    else imgNat img z.headAddr z.entryBytes
  if z.fmtD3 then fromD3 s.die s.clusterNo (BitVec.ofNat 256 raw) else BitVec.ofNat 512 raw

/-- True when a queue may fetch; QHEAD and QTAIL are compared as R153 counts indices. -/
def State.mayFetch (s : State) (q : Fin 64) : Bool :=
  s.phase == .run && !s.chart.held && s.cluster.st == .on && s.chart.drain.isNone && (s.queue q).enable &&
    (let m := 2 ^ ((s.queue q).log2 + 1); (s.queue q).qhead % m != (s.queue q).qtail % m)

/-- A descriptor that waited for the reopening of its stream (R199), or for its records on a held channel (10_memory_channels R390), is
checked. A CLOSE that follows the reopening does not change that: the descriptor was fetched before it (R163). -/
def State.takeWaiting (q : Fin 64) (img : Image) (s : State) : Option State :=
  match s.streams.find? fun x => x.queue == q && decide (x.runs.length < 8) &&
      x.todo.head?.any fun d => !(dSeq d == x.expectSeq && s.namedHeld img d) with
  | none => none
  | some x =>
    match x.todo with
    | [] => none
    | d :: rest => some ((s.updStream x.num fun y => { y with todo := rest }).accept x.num q d img)

/-- DESCRIPTOR_FETCH: a descriptor that waits is examined again, or the next one is fetched; an entry on a held channel is not read yet
(10_memory_channels R390). -/
def State.fetch (q : Fin 64) (img : Image) (s : State) : State :=
  match s.takeWaiting q img with
  | some t => t
  | none =>
    match (s.queue q).wait with
    | some (_, d) => s.examine q d img
    | none =>
      let z := s.queue q
      let lost := s.spanLost img z.headAddr z.entryBytes
      if !s.mayFetch q || s.spanHeld z.headAddr z.entryBytes then s
      else if lost = 0 then s.examine q (s.headDesc q img) img
      else (s.chosen.bumpN .memPoison lost).examine q (s.headDesc q img) img

/-- A descriptor that is given up completes with STREAM_CLOSED. -/
def Run.givenUp (r : Run) : Run := { r with status := 0x12, finished := true }

/-- A stream whose context is lost is shut down as CLOSE shuts it down, which discards a latched reopening (Table 5-29); its fetched
descriptors complete with STREAM_CLOSED (Table 11-2). -/
def State.contextLost (n : Nat) (s : State) : State :=
  let s1 := ((s.discardStop n).updStream n fun y => if y.fn.st = .pendingOn then y.unlatch else y).closeNow n
  s1.updStream n fun y => { y with
    lateness := 0, sample := 0, tideN := 0, tideRun := 0, tideAge := 0, tideLo := 0, tideHi := 0
    runs := y.runs.map fun r => if r.started then r else r.givenUp
    todo := []
    refused := y.refused ++ y.todo.map fun d => (y.queue, d) }

/-- CONTEXT_FETCH_DONE: a parked context is back, and the waiting descriptor is examined (R166); a poisoned context closes its
stream (Table 11-2, STATE_POISON). A context whose read has not been answered is not back. -/
def State.contextBack (q : Fin 64) (img : Image) (s : State) : State :=
  match (s.queue q).wait with
  | some (.parked, d) =>
    let n := dStream d
    let copy := s.lagoon.find? fun x => x.of_ == .context n
    if copy.any fun x => !x.came then s.spillLoad (.context n)
    else
      match s.getSlot n q with
      | (t, none) => t.queueWaits q .context d
      | (t, some k) =>
        let s1 := t.slotFound n k
        match copy.bind Spill.poison with
        | some a => ((s1.report
            { reason := 0x12, sev := .contained, unit := .streamTracker, handle := handleOf s.die s.clusterNo n, detailA := a,
              detailB := a / 2 ^ 32 }).contextLost n).examine q d img
        | none => s1.examine q d img
  | _ => s

/-- The record of a stream's descriptor that is being written. -/
def recordOf (n : Nat) : CmplOf → Bool
  | .stream m => m == n
  | .early _ => false

/-- True while the completion record of a descriptor of a stream is being written. -/
def State.recordOpen (s : State) (n : Nat) : Bool :=
  (s.reqs ++ s.holdq).any fun q => match q.purpose with | .cmpl src _ _ _ _ => recordOf n src | _ => false

/-! ### Starting (R181, R182, R277) -/

/-- True when a run has no unit left to start; a run of a kind without tiles blocks until it is done. -/
def Run.allIssued (r : Run) : Bool := r.finished || (decide (r.kind < 0x40) && r.started && decide (r.total ≤ r.issued))

/-- The run of a kind that may start units now: every earlier run of its stream has started all of its own; none behind
one that stops at the limit of 08_accumulation R330. -/
def readyRun (k : Nat → Bool) : List Run → Option Run
  | [] => none
  | r :: rs => if r.finished then readyRun k rs else if r.flags.countLimit then none else if k r.kind && !(r.started && r.allIssued) then some r
    else if r.allIssued then readyRun k rs else none

/-- The run of a stream whose units the command starts. -/
def State.frontRun (s : State) (n : Nat) (k : Nat → Bool) : Option Run := (s.stream? n).bind fun x => readyRun k x.runs

/-- A run starts: a stop record of the stream is discarded (R277). A collective, whose chunks may come as soon as it is fetched, starts
when its first command is taken. -/
def State.startRun (n : Nat) (r : Run) (s : State) : State :=
  if r.started then (if r.kind = 0x20 ∨ r.kind = 0x21 then s.discardStop n else s)
  else (s.discardStop n).updRun n r.seq fun y => { y with started := true, total := y.units }

/-- A RESUME starts when it is at the head: step 9 of Table 5-22, then it takes over the stop record and the retained tiles
(R275 to R277). -/
def State.startResume (n : Nat) (r : Run) (s : State) : State :=
  if r.started then s
  else
    match s.stream? n with
    | none => s
    | some x =>
      if !(x.runs.head?.any (Run.named r.seq)) ∨ s.recordOpen n then s
      else if x.stop.any (StopRec.past r.desc r.rec1) then s.updRun n r.seq fun y => { y with status := 0x14, finished := true }
      else
        let ok := x.stop.any fun p => p.seq == BitVec.ofNat 32 (dFirst r.desc) && p.recAddr == dTensor r.desc &&
          p.source == dSource r.desc && p.srcAddr == dSrcAddr r.desc
        match ok, x.stop with
        | true, some p =>
          let kept := s.wjobs.filter fun w => w.stream == n && w.seq == p.seq && x.retains w
          let s1 := s.updRun n r.seq fun y => { y with
            started := true, total := p.remaining, issued := kept.length, cont := some p }
          let low := (kept.map WJob.unit).foldl min (kept.headD (WJob.new 0 0 0 0 .copy 0 0 0 .done)).unit
          { (s1.updStream n fun y => { y with stop := none }) with
            wjobs := s1.wjobs.map fun w =>
              if w.stream == n && w.seq == p.seq && x.retains w then { w with seq := r.seq, unit := w.unit - low } else w }
        | _, _ => s.updRun n r.seq fun y => { y with status := 0x18, finished := true }

/-! ### Completion records (R157 to R159, R177 to R180, R200, R201) -/

/-- The fields of a completion record (Table 5-23). -/
structure Cmpl where
  handle : Word
  seq : Word
  status : Nat
  kind : Nat
  quality : Nat
  late : Bool
  replay : Bool
  catchup : Bool
  inBytes : Nat
  outCount : Nat
  errTiles : Nat
  irq : Bool
  deriving DecidableEq, Repr

/-- The 32 bytes of a record. -/
def Cmpl.bytes (c : Cmpl) (phase : Bool) (now : Time) : List Byte :=
  leBytes 32 (pack [(32, c.handle.toNat), (32, c.seq.toNat), (8, c.status), (8, c.kind), (3, c.quality), (1, b2n c.late),
    (1, b2n c.replay), (1, b2n c.catchup), (1, 0), (1, b2n phase), (40, c.inBytes), (32, c.outCount), (24, c.errTiles), (8, 0),
    (64, now)])

/-- The completion ring of a queue is full (R157). -/
def Queue.ringFull (q : Queue) : Bool :=
  let m := 2 ^ (q.clog2 + 1)
  (q.ctail + (m - q.chead % m)) % m == 2 ^ q.clog2

/-- CTAIL and the phase after a record (R153, R158). -/
def Queue.recorded (q : Queue) : Queue :=
  let t := (q.ctail + 1) % 2 ^ (q.clog2 + 1)
  { q with ctail := t, phase := if t % 2 ^ q.clog2 = 0 then !q.phase else q.phase }

/-- A record is written: bytes 16 to 31 first; the rest follows their acknowledgement (R158). The requests carry the queue when the
record raises the completion interrupt (R159). -/
def State.writeCmpl (q : Fin 64) (src : CmplOf) (c : Cmpl) (bar : Option (Nat × Word)) (s : State) : State :=
  let z := s.queue q
  let a := z.cbase + 32 * (z.ctail % 2 ^ z.clog2)
  let b := c.bytes z.phase s.time
  (s.setQueue q z.recorded).write16 (a + 16) (b.drop 16)
    (.cmpl src a (b.take 16) (if c.irq || z.irqAll then some q else none) ⟨c.seq, bar⟩)

/-- The record of a descriptor that failed step 1, 2 or 3. -/
def State.earlyCmpl (q : Fin 64) (s : State) : State :=
  match (s.queue q).early with
  | [] => s
  | (d, status) :: rest =>
    if (s.queue q).ringFull then s
    else
      (s.setQueue q { s.queue q with early := rest }).writeCmpl q (.early q)
        { handle := dHandle d, seq := dSeq d, status := status, kind := dKind d, quality := 0,
          late := dDeadline d != 0 && decide (dDeadline d < s.time), replay := false, catchup := false, inBytes := 0,
          outCount := 0, errTiles := 0, irq := dIrq d } none

/-- True when the chunks of a collective have all ended (09_collectives R365). -/
def Coll.allEnded (c : Coll) (chunks : Nat) : Bool :=
  if c.isSend then
    decide (chunks ≤ c.send.length) && c.send.all fun k => match k.st with | .acked | .givenUp => true | _ => false
  else decide (chunks ≤ c.accepted.length) && c.sums == [] && c.recv == []

/-- True when a parked collective has finished its staged chunks and has told its peer (09_collectives R369); a forwarding RECV waits for
the descriptor behind it (R343). -/
def Coll.parkedOut (c : Coll) (forward : Bool) : Bool :=
  c.pauseSent && c.recv == [] && c.sums == [] && (!forward || c.pairKnown) &&
    c.send.all fun k => match k.st with | .acked | .givenUp => true | _ => false

/-- True when the head descriptor of a stream may complete (R180), after the record of the descriptor before it has been written (R181). -/
def State.canComplete (s : State) (x : Stream) (r : Run) : Bool :=
  if s.recordOpen x.num then false
  else if r.status ≠ 0 then true
  else if 0x40 ≤ r.kind ∨ r.kind = 4 then r.finished
  else
    r.allDone &&
      (match s.colls.find? fun c => c.stream == x.num && c.seq == r.seq with
       | some c => if r.flags.parked then c.parkedOut (r.kind == 0x21 && dForward r.desc) else c.allEnded (dChunks r.desc)
       | none => true) &&
      !((s.scat? x.num).any fun z => z.seq == r.seq) &&
      !(s.wjobs.any fun w => w.stream == x.num && w.seq == r.seq && !x.retains w) &&
      !(s.rjobs.any fun j => j.stream == x.num && j.seq == r.seq)

/-- True when the records of barrier members with lower stream numbers have been written (R186). -/
def State.barrierTurn (s : State) (n : Nat) (r : Run) : Bool :=
  !(r.kind == 0x40 && dBarrier r.desc && r.status == 0 && !r.flags.fenceBroken) ||
    !s.barriers.any fun b => b.isDone && b.group == dBgroup r.desc && b.epoch == dBepoch r.desc && b.members.any fun m => decide (m < n)

/-- The record fields of a run. -/
def Run.cmpl (r : Run) (now : Time) : Cmpl :=
  { handle := dHandle r.desc, seq := r.seq, status := r.statusCode, kind := r.kind, quality := r.quality,
    late := dDeadline r.desc != 0 && decide (dDeadline r.desc < now), replay := r.flags.replay, catchup := r.flags.catchup,
    inBytes := r.inBytes, outCount := r.outCount, errTiles := r.errTiles, irq := dIrq r.desc }

/-- A stream with the record of its head descriptor under way (R200, R201). DESIGN CHOICE: the descriptor no longer counts in R165 from the
issue of its record's first half (log 35). -/
def Stream.recorded (x : Stream) (r : Run) (now : Time) : Stream :=
  { x with
    runs := x.runs.drop 1
    lastCmpl := now
    wasParked := if r.kind = 0x20 ∨ r.kind = 0x21 then r.flags.parked else x.wasParked
    lateness := if r.status = 0 ∧ dDeadline r.desc ≠ 0 then latenessAfter x.lateness now (dDeadline r.desc) else x.lateness }

/-- A stream whose descriptor has completed with COUNT_LIMIT is closed as CLOSE does it, and the descriptors fetched behind complete with
STREAM_CLOSED (08_accumulation R330). -/
def State.limitCloses (n : Nat) (s : State) : State :=
  let s1 := if (s.stream? n).any fun x => x.fn.st == .on then s.closeNow n else s
  { (s1.updStream n fun y => { y with
      runs := y.runs.map Run.givenUp
      todo := []
      refused := y.refused ++ y.todo.map fun d => (y.queue, d) }) with
    colls := s1.colls.filter fun c => c.stream != n }

/-- The record of the head descriptor of a stream. -/
def State.streamCmpl (n : Nat) (s : State) : State :=
  match s.stream? n with
  | none => s
  | some x =>
    match x.runs with
    | [] => s
    | r :: _ =>
      if !s.canComplete x r || (s.queue r.queue).ringFull || !s.barrierTurn n r then s
      else
        let joined := r.kind == 0x40 && dBarrier r.desc && r.status == 0 && !r.flags.fenceBroken
        let s1 := s.writeCmpl r.queue (.stream n) (r.cmpl s.time) (if joined then some (dBgroup r.desc, dBepoch r.desc) else none)
        let s2 := s1.updStream n fun y => y.recorded r s.time
        let s3 := if r.flags.countLimit then s2.limitCloses n else s2
        { s3 with colls := s3.colls.filter fun c => !(r.inSeq && c.stream == n && c.seq == r.seq) }

/-- DESCRIPTOR_COMPLETION. -/
def State.complete (src : CmplOf) (s : State) : State :=
  match src with
  | .early q => s.earlyCmpl q
  | .stream n => s.streamCmpl n

/-- The bit of a queue in DJ_CQ_PEND is raised (R159). -/
def State.raiseCq (irq : Option (Fin 64)) (s : State) : State :=
  match irq with
  | none => s
  | some q => { s with regs := { s.regs with cqPend := s.regs.cqPend ||| BitVec.ofNat 64 (2 ^ q.val) } }

/-- What a written record ends: its stream's most recent completion (R184), and its part in a barrier instance (R186). DESIGN CHOICE: the
record of a descriptor that failed step 1, 2 or 3 is no completion record of the stream that its handle names (log 82). -/
def State.recordEnds (src : CmplOf) (f : CmplDone) (s : State) : State :=
  match src with
  | .early _ => s
  | .stream n =>
    let s1 := s.updStream n fun y => { y with lastSeq := some f.seq }
    match f.bar with
    | none => s1
    | some (g, e) =>
      let mine (b : Barrier) : Bool := b.isDone && b.group == g && b.epoch == e
      { s1 with barriers := updWhere mine (fun b => { b with members := b.members.filter (· != n) }) s1.barriers }

/-- The first half of a record is acknowledged: the second is written. The second is acknowledged: both halves have been written, and
the record raises its queue's bit (R547). -/
def State.cmplHalf (src : CmplOf) (addr : Nat) (rest : List Byte) (irq : Option (Fin 64)) (f : CmplDone) (s : State) : State :=
  if rest = [] then (s.raiseCq irq).recordEnds src f else s.write16 addr rest (.cmpl src addr [] irq f)

/-! ### FENCE (R184 to R187) -/

/-- How a named stream stands for a FENCE: met, broken, or neither. -/
def State.fenceOne (s : State) (h : Word × Word) : Bool × Bool :=
  if h.1 = 0xFFFFFFFF then (true, false)
  else
    match s.stream? (bits h.1.toNat 15 0) with
    | none => (false, true)
    | some x =>
      if x.fn.st ≠ .on then (false, true)
      else (x.lastSeq.any fun q => q == h.2 || laterSeq q h.2, false)

/-- A FENCE in STREAMS mode at the head of its stream is examined; `sub` keeps the names that have been met. -/
def State.fenceCheck (n : Nat) (r : Run) (s : State) : State :=
  let res := (dFenceList r.desc).zipIdx.map fun h => (h.2, if r.sub.testBit h.2 then (true, false) else s.fenceOne h.1)
  let met := (res.filter fun x => x.2.1).foldl (fun m x => m ||| 2 ^ x.1) 0
  let broken := res.any fun x => x.2.2
  s.updRun n r.seq fun y => { y with
    sub := met
    finished := broken || res.all fun x => x.2.1
    flags := if broken then { y.flags with fenceBroken := true } else y.flags }

/-- The head descriptor of a stream. -/
def State.headRun (s : State) (n : Nat) : Option Run := (s.stream? n).bind fun x => x.runs.head?

/-- FENCE_STREAMS. -/
def State.fenceStreams (n : Nat) (s : State) : State :=
  match s.headRun n with
  | some r => if r.kind = 0x40 ∧ !dBarrier r.desc ∧ !r.finished then (s.startRun n r).fenceCheck n r else s
  | none => s

/-- The head descriptor of a stream has finished its work. -/
def Stream.headEnds (x : Stream) : Stream :=
  match x.runs with
  | h :: t => { x with runs := { h with finished := true } :: t }
  | [] => x

/-- A member joins its barrier instance; the last one completes all of them (R186). -/
def State.joinBarrier (n : Nat) (r : Run) (s : State) : State :=
  let b := (s.barriers.find? fun b => b.group == dBgroup r.desc && b.epoch == dBepoch r.desc).getD
    ⟨dBgroup r.desc, dBepoch r.desc, dBcount r.desc, [], false⟩
  let members := b.members ++ [n]
  let full := decide (b.count ≤ members.length)
  let s1 := s.startRun n r
  let b2 : Barrier := { b with members := members, isDone := full }
  let s2 := { s1 with barriers := upsert (fun x => x.group == b.group && x.epoch == b.epoch) b2 s1.barriers }
  if !full then s2 else { s2 with streams := s2.streams.map fun x => if members.contains x.num then x.headEnds else x }

/-- True when a descriptor is a member of a barrier instance with its BCOUNT. -/
def Barrier.named (b : Barrier) (d : BitVec 512) : Bool :=
  dKind d == 0x40 && dBarrier d && dBgroup d == b.group && dBepoch d == b.epoch && dBcount d == b.count

/-- Fetched members of an instance that have still to reach the heads of their streams. -/
def State.toCome (s : State) (b : Barrier) : Nat :=
  (s.streams.map fun x =>
    (x.runs.filter fun r => b.named r.desc && r.status == 0 && !r.started && !r.finished).length + (x.todo.filter b.named).length).sum

/-- True when an instance can still fill while nothing more is fetched. -/
def State.canFill (s : State) (b : Barrier) : Bool := decide (b.count ≤ b.members.length + s.toCome b)

/-- A descriptor that waits in a barrier: as a member, or for the open instance of its group (R187). -/
def State.barred (s : State) (r : Run) : Bool :=
  r.kind == 0x40 && dBarrier r.desc && r.status == 0 && !r.finished &&
    (r.started || s.barriers.any fun b => b.group == dBgroup r.desc && b.epoch != dBepoch r.desc && !b.isDone)

/-- True when every stream that has descriptors waits in a barrier: no instance fills any more. -/
def State.allBarred (s : State) : Bool := s.streams.all fun x => x.todo == [] && (x.runs.head?.map fun r => s.barred r).getD true

/-- While the streams drain, the members of an instance that can no longer fill complete with FENCE_BROKEN (12_chart R481). -/
def State.unfilled (s : State) : State :=
  if s.chart.drain.isNone then s
  else
    let stuck := s.allBarred
    forAll ((s.barriers.filter fun b => !b.isDone && (stuck || !s.canFill b)).flatMap Barrier.members) (fun n s => s.breakMember n) s

/-- FENCE_BARRIER: step 10 of Table 5-22 (R187), then the member joins, or waits for the open instance of its group. DESIGN CHOICE: but for
a drain, a member that reaches the head of a stream that is not ON does not join: its FENCE breaks (log 68). -/
def State.fenceBarrier (n : Nat) (s : State) : State :=
  match s.headRun n with
  | none => s
  | some r =>
    if r.kind ≠ 0x40 ∨ !dBarrier r.desc ∨ r.finished ∨ r.started then s
    else if s.chart.drain.isNone ∧ ((s.stream? n).any fun x => x.fn.st != .on) then
      (s.startRun n r).updRun n r.seq fun y => { y with finished := true, flags := { y.flags with fenceBroken := true } }
    else
      match s.barriers.find? fun b => b.group == dBgroup r.desc && b.epoch == dBepoch r.desc with
      | some b =>
        if b.isDone ∨ b.count ≠ dBcount r.desc then s.updRun n r.seq fun y => { y with status := 0x19, finished := true }
        else s.joinBarrier n r
      | none =>
        if s.barriers.any fun b => b.group == dBgroup r.desc && !b.isDone then s else s.joinBarrier n r

end Sys2Proof.Machine
end

