-- ==== Sys2Proof/Machine/Export.lean ====
section
/-! DEFINITION. EXPORT: its reads and the writes of its image (07_compression R278 to R284). -/

namespace Sys2Proof.Machine

/-! ### Unaligned writes -/

/-- Writes bytes from a 16-byte aligned address: 16 bytes at a time up to a sector boundary and after the last whole sector, whole
sectors between. The last 16 bytes are completed with zero bytes. -/
def State.writeBytes (addr : Nat) (data : List Byte) (why : Purpose) (s : State) : State :=
  let lead := min data.length ((64 - addr % 64) % 64)
  let whole := (data.length - lead) / 64 * 64
  let tail := data.length - lead - whole
  let small (a : Nat) (l : List Byte) (s : State) : State :=
    forAll (List.range (ceilDiv l.length 16)) (fun i s => s.write16 (a + 16 * i) (slice l (16 * i) 16) why) s
  let s1 := small addr (data.take lead) s
  let s2 := if whole = 0 then s1 else s1.writeSpan (addr + lead) (slice data lead whole) why
  small (addr + lead + whole) (slice data (lead + whole) tail) s2

/-! ### The image -/

/-- Index entries of an EXPORT (Table 7-6): those of the tiles before a stop, then ABSENT ones. -/
def Run.exportIndex (r : Run) : List Byte :=
  let entries := r.outBytes.map fun e => leBytes 16 (pack [(40, e.1), (13, e.2.1), (2, e.2.2.1), (7, e.2.2.2.1), (2, 0),
    (64, e.2.2.2.2.toNat)])
  (entries ++ List.replicate (dCount r.desc - r.outBytes.length) (leBytes 16 (pack [(53, 0), (2, 3)]))).flatten

/-- Bytes of an export image. -/
def Run.exportTotal (r : Run) : Nat := 64 + 16 * dCount r.desc + r.exportData.length

/-- The header of an EXPORT (Table 7-5). -/
def Run.exportHeader (r : Run) : List Byte :=
  let t := r.rec1
  leBytes 64 (pack [(32, 0x4A445845), (8, 1), (4, recType t), (2, recOrder t), (2, recRankM1 t), (16, 0), (32, dFirst r.desc),
    (32, dCount r.desc), (32, r.outBytes.length), (32, recDim t 0), (32, recDim t 1), (32, recDim t 2), (32, recDim t 3),
    (16, recTr t), (16, recTc t), (64, r.exportTotal), (64, rF t 575 512), (64, 0)])

/-- True while a write of the image of a stream's EXPORT is not acknowledged. -/
def State.exportBusy (s : State) (n : Nat) : Bool := (s.reqs ++ s.holdq).any fun q => q.purpose == .exportWrite n

/-- True when every tile before the stop has ended. -/
def Run.exportRead (r : Run) : Bool :=
  r.started && (decide (r.total ≤ r.doneUnits) || (r.flags.spaceStop && decide (r.issued ≤ r.doneUnits)))

/-- The writes of an EXPORT go on: streams, then the index entries, then the header, each after the acknowledgement of what stands
before it (R283). `sub` counts the parts written. -/
def State.exportAdvance (n : Nat) (r : Run) (s : State) : State :=
  if r.finished ∨ !r.exportRead ∨ s.exportBusy n then s
  else
    let s1 := s.updRun n r.seq fun y => { y with sub := y.sub + 1 }
    let dest := dSrcAddr r.desc
    if r.sub = 0 then s1.writeBytes (dest + 64 + 16 * dCount r.desc) r.exportData (.exportWrite n)
    else if r.sub = 1 then s1.writeBytes (dest + 64) r.exportIndex (.exportWrite n)
    else if r.sub = 2 then s1.writeSpan dest r.exportHeader (.exportWrite n)
    else s.updRun n r.seq fun y => { y with finished := true, outCount := r.exportTotal }

/-- A write of an export image is acknowledged. -/
def State.exportAcked (n : Nat) (s : State) : State :=
  match s.headRun n with
  | some r => if r.kind = 4 then s.exportAdvance n r else s
  | none => s

/-- EXPORT: the next tile is read; when none is left the image is written. -/
def State.exportGo (n : Nat) (s : State) : State :=
  match s.frontRun n (· == 4) with
  | none => s.exportAcked n
  | some r0 =>
    let s1 := s.startRun n r0
    match s1.run? n r0.seq with
    | none => s1
    | some r =>
      if r.issued < r.total ∧ !r.flags.spaceStop ∧ r.doneUnits + readAhead ≤ r.issued then s1
      else if r.issued < r.total ∧ !r.flags.spaceStop then
        ((s1.updRun n r.seq fun y => { y with issued := y.issued + 1 }).issuedNow n r.seq).startRead n r.seq r.issued .exportT
          (dTensor r.desc) r.rec1 (dFirst r.desc + r.issued)
      else s1.exportAdvance n r

end Sys2Proof.Machine
end

