-- ==== Sys2Proof/Machine/Links.lean ====
section
/-! DEFINITION. Link messages: manifests, payloads, forming and sending chunks, the notices of a collective (09_collectives R344 to
R355, R357, R364 to R370). -/

namespace Sys2Proof.Machine

/-! ### Manifests (R348 to R350) -/

/-- The fields of a manifest header (Table 9-2) with the sixteen signatures. -/
structure Man where
  kind : Nat
  format : Nat
  elem : Nat
  src : Nat
  dst : Nat
  tiles : Nat
  late : Bool
  pause : Bool
  replay : Bool
  wide : Bool
  failed : Bool
  resumed : Bool
  nack : Nat
  group : Word
  step : Word
  chunk : Nat
  sectors : Nat
  lateNs : Nat
  tcrc : Dword
  sigs : List Dword
  deriving DecidableEq, Repr

/-- A message of a kind from a rank to a rank about a chunk, without tiles, flags or payload. -/
def Man.plain (kind src dst : Nat) (group step : Word) (chunk : Nat) : Man :=
  { kind := kind, format := 1, elem := 0, src := src, dst := dst, tiles := 0, late := false, pause := false, replay := false,
    wide := false, failed := false, resumed := false, nack := 0, group := group, step := step, chunk := chunk, sectors := 0,
    lateNs := 0, tcrc := 0, sigs := [] }

/-- Bytes 0 to 55 of a manifest. -/
def Man.head (m : Man) : List Byte :=
  leBytes 56 (pack [(8, m.kind), (4, m.format), (4, m.elem), (12, m.src), (12, m.dst), (5, m.tiles), (1, b2n m.late),
    (1, b2n m.pause), (1, b2n m.replay), (1, b2n m.wide), (1, b2n m.failed), (1, b2n m.resumed), (3, m.nack), (10, 0),
    (32, m.group.toNat), (32, m.step.toNat), (32, m.chunk), (16, m.sectors), (16, 0), (32, m.lateNs), (32, 0), (64, m.tcrc.toNat),
    (128, 0)])

/-- Bytes 64 to 191 of a manifest. -/
def Man.sigBytes (m : Man) : List Byte := (List.range 16).flatMap fun i => leBytes 8 (nth m.sigs i 0).toNat

/-- The 192 bytes of a manifest. -/
def Man.bytes (m : Man) : List Byte := m.head ++ leBytes 8 (crc64 (m.head ++ m.sigBytes)).toNat ++ m.sigBytes

/-- The fields of a manifest as received. -/
def Man.parse (b : List Byte) : Man :=
  let x := leNat (slice b 0 64)
  let f (hi lo : Nat) : Nat := bits x hi lo
  { kind := f 7 0, format := f 11 8, elem := f 15 12, src := f 27 16, dst := f 39 28, tiles := f 44 40, late := bit x 45,
    pause := bit x 46, replay := bit x 47, wide := bit x 48, failed := bit x 49, resumed := bit x 50, nack := f 53 51,
    group := BitVec.ofNat 32 (f 95 64), step := BitVec.ofNat 32 (f 127 96), chunk := f 159 128, sectors := f 175 160,
    lateNs := f 223 192, tcrc := BitVec.ofNat 64 (f 319 256),
    sigs := (List.range 16).map fun i => BitVec.ofNat 64 (leNat (slice b (64 + 8 * i) 8)) }

/-- Step 1 of Table 9-4: true when a manifest from the source of a rank is intact and of a valid kind and format. -/
def manOk (rank : Nat) (b : List Byte) : Bool :=
  let m := Man.parse b
  b.length == 192 && crc64 (b.take 56 ++ b.drop 64) == BitVec.ofNat 64 (leNat (slice b 56 8)) && m.format == 1 &&
    decide (1 ≤ m.kind) && decide (m.kind ≤ 4) && m.src == rank

/-! ### Geometry of a chunk (R334, R337, R349) -/

/-- A link port by the number that a descriptor names. -/
def lportOf (i : Nat) : Fin 2 := ⟨i % 2, Nat.mod_lt _ (by decide)⟩

/-- A link port is changed. -/
def State.updLport (p : Fin 2) (f : LPort → LPort) (s : State) : State := { s with lports := s.lports.set p (f s.lports[p]) }

/-- Logical tile size of a type (R337). -/
def logicalN (t : Nat) : Nat := if t = 14 then 2048 else elemsPerTile t

/-- Logical tiles of chunk c of a tensor (R36). -/
def chunkTiles (r : BitVec 1024) (c : Nat) : Nat := min 16 (ceilDiv (recTiles r) (perLogical r) - 16 * c)

/-- Stored tiles of chunk c of a tensor. -/
def chunkStored (r : BitVec 1024) (c : Nat) : Nat := min (16 * perLogical r) (recTiles r - 16 * perLogical r * c)

/-- True when a chunk of a tensor type travels WIDE: a W96 tensor, or the SEND of a forwarding pair under TRANSPORT WIDE (R349, R355). -/
def wideChunk (r : Run) (paired : Bool) : Bool := recType r.rec1 == 14 || (paired && !dNarrow r.desc)

/-- Transported tiles of a logical tile (R349). -/
def perTransport (t : Nat) (wide : Bool) : Nat := if wide then logicalN t / 256 else 1

/-- The rank of this cluster (R335). -/
def State.rankNo (s : State) : Nat := s.chartVal Chart.rank 0

/-- The collective side of a descriptor. -/
def State.coll? (s : State) (n : Nat) (seq : Word) : Option Coll := s.colls.find? fun c => c.stream == n && c.seq == seq

/-- True when a peer has paused (R370). -/
def State.paused (s : State) (rank : Nat) : Bool := s.peerPaused.contains rank

/-- LATE_NS last announced by a peer (R368). -/
def State.lateOf (s : State) (rank : Nat) : Nat := ((s.peerLate.find? fun p => p.1 == rank).map Prod.snd).getD 0

/-- T_C in nanoseconds for a timer started at a time (R360): a value that an UPDATE has replaced still holds for a timer started before
(12_chart R485). -/
def State.collTimeout (s : State) (start : Time) : Nat :=
  match s.chart.tcPast.find? fun x => decide (start < x.1) with
  | some x => x.2
  | none => s.chartVal Chart.collTimeoutUs 2000 * 1000

/-- The record of a collective (Table 9-6): TILE is the chunk index. -/
def State.collRec (n : Nat) (seq : Word) (reason : Nat) (sev : Sev) (chunk : Option Nat) (s : State) : State :=
  let r := s.run? n seq
  s.workReport n seq
    { reason := reason, sev := sev, addr := (r.map fun x => dTensor x.desc).getD 0, unit := .linkPort,
      unitIndex := (r.map fun x => dLport x.desc).getD 0, tile := (chunk.map (BitVec.ofNat 32)).getD 0xFFFFFFFF }

/-! ### Beats (R344, R345; when a beat passes: log 9) -/

/-- LP_TX_META of a beat (Table 9-1). -/
def LinkBeat.side (b : LinkBeat) : Word :=
  BitVec.ofNat 32 (pack [(1, b2n b.som), (1, b2n b.eom), (9, b.bytes), (5, 0), (12, b.rank), (4, 0)])

/-- META of a port whose last beat is given, or of one on which no beat has passed since reset: 0 in every field (Table 9-1). -/
def metaOf (beats : List LinkBeat) : Word := (beats.getLast?.map LinkBeat.side).getD 0

/-- The beats of a payload, 256 bytes each; the last one carries what is left. -/
def payloadBeats (rank : Nat) (payload : List Byte) : List LinkBeat :=
  let n := ceilDiv payload.length 256
  (List.range n).map fun i =>
    { som := false, eom := i + 1 == n, bytes := min 256 (payload.length - 256 * i), rank := rank, data := slice payload (256 * i) 256 }

/-- The beats of a message: the manifest with bytes 192 to 255 zero, then the payload. -/
def LinkMsg.beats (m : LinkMsg) : List LinkBeat :=
  { som := true, eom := m.payload.isEmpty, bytes := 192, rank := m.rank, data := slice m.man 0 256 } :: payloadBeats m.rank m.payload

/-! ### Outgoing chunks (R339, R349 to R352, R357) -/

/-- A chunk whose tiles are being read or drained. -/
def SendChunk.new (c : Nat) : SendChunk :=
  { chunk := c, st := .reading, tiles := [], cores := [], msg := ⟨0, [], []⟩, nacks := 0, sends := 0, failed := false, flagged := [],
    replay := false }

/-- Chunks of a SEND that count against its staging: not yet acknowledged or given up (R357). -/
def Coll.staged (c : Coll) : Nat :=
  (c.send.filter fun k => match k.st with | .acked | .givenUp => false | _ => true).length

/-- A chunk of a SEND begins. -/
def State.beginChunk (n : Nat) (seq : Word) (c : Nat) (s : State) : State :=
  (s.updColl n seq fun x => { x with send := x.send ++ [SendChunk.new c] }).updRun n seq fun r => { r with issued := r.issued + 1 }

/-- Entries and payloads of transported tiles laid out as R349 states. -/
def layPayload (tiles : List (BitVec 128 × List Byte)) : List Byte :=
  let table := ceilDiv (16 * tiles.length) 64
  let z := tiles.foldl (fun (a : Nat × List Byte × List Byte) t =>
    let len := t.2.length / 64
    let e := if len = 0 then t.1 else mkEntry (withAddr (entWord0 t.1) a.1) (entCheck t.1)
    (a.1 + len, a.2.1 ++ leBytes 16 e.toNat, a.2.2 ++ t.2)) (table, [], [])
  slice z.2.1 0 (64 * table) ++ z.2.2

/-- The entry of a ZERO tile of a chunk under the tensor record of its transported tiles: its CLASS and container version (02_tile_container
R565). -/
def chunkZero (r : BitVec 1024) (quality : Nat) : BitVec 128 := mkEntry (entryWord 0 0 0 (recClass r) quality 0 (recVer r)) zeroCheck

/-- Transported tile i of a chunk under a tensor record: entry, payload, image; ZERO when the tensor has no such tile. -/
def SendChunk.tile (r : BitVec 1024) (k : SendChunk) (i : Nat) : BitVec 128 × List Byte × List Byte :=
  match k.tiles.find? fun t => t.1 == i with
  | some (_, .ok img, e, p) => (e, p, img)
  | some (_, .zero, e, _) => (if entState e = 0 ∧ entCheck e = zeroCheck then e else chunkZero r 0, [], List.replicate 4096 0)
  | _ => (chunkZero r 0, [], List.replicate 4096 0)

/-- Tiles that a chunk of a SEND needs before it can be formed. -/
def sendNeeds (r : Run) (paired : Bool) (c : Nat) : Nat :=
  if paired then chunkTiles r.rec1 c * perTransport (recType r.rec1) (wideChunk r paired) else chunkStored r.rec1 c

/-- A chunk's tiles fail: it is sent as FAILED, and they count in ERR_TILES (R362, R365). -/
def State.chunkFails (n : Nat) (seq : Word) (c : Nat) (s : State) : State :=
  match s.run? n seq with
  | none => s
  | some r =>
    let m := chunkStored r.rec1 c
    ((s.updRun n seq fun x => { x with errTiles := x.errTiles + m }).flagRun n seq RunFlags.tileErr).updChunk n seq c fun k =>
      { k with failed := true, tiles := [], msg := ⟨0, [], []⟩ }

/-- A formed chunk is staged: in the Harbour, where its bytes are already, or in the staging region when the Harbour is over-full (R357;
01_five_levels R32); without room in either its stream stalls (R35). -/
def State.stageChunk (n c tiles : Nat) (s : State) : State × Bool :=
  let o : SpillOf := .outgoing n c
  let bytes := ((s.harbourItems.filter fun x => x.1 == o).map Prod.snd).sum
  match s.admitHeld o bytes tiles with
  | (t, true) => ((t.spillFound n).spillStore o 0 (ceilDiv bytes 64), true)
  | (t, false) => (t.spillStall n true, false)

/-- The tensor record under which the SEND of a pair codes a drained tile: its transported type, class F0, level 1, dynamic table, no
folding, no verification, no residual (R342); W96 tiles, ZERO ones among them, have the container version of their type
(02_tile_container R41, Table 2-13): DEDUCED, since R565 gives a ZERO entry its tensor's version (log 86). -/
def sumRecord (r : BitVec 1024) (t : Nat) : BitVec 1024 :=
  let clear (x hi lo : Nat) : Nat := x - bits x hi lo * 2 ^ lo
  let a := clear (clear (clear (clear (clear (clear (clear r.toNat 3 0) 27 27) 323 320) 326 324) 328 327) 348 347) 447 384
  let b := if t = 14 then clear a 26 25 + 2 * 2 ^ 25 else a
  BitVec.ofNat 1024 (b + t + 2 ^ 324 + 2 ^ 347)

/-- A chunk of which every tile has come is formed: payload, signatures and state (R349 to R352). -/
def State.formChunk (n : Nat) (r : Run) (paired : Bool) (k : SendChunk) (s : State) : State :=
  match k.st with
  | .reading =>
    if k.failed then s.updChunk n r.seq k.chunk fun x => { x with st := .ready }
    else if k.tiles.length < sendNeeds r paired k.chunk then s
    else if k.tiles.any fun t => match t.2.1 with | .err _ _ _ => true | _ => false then
      (s.chunkFails n r.seq k.chunk).updChunk n r.seq k.chunk fun x => { x with st := .ready }
    else
      let t := recType r.rec1
      let wide := wideChunk r paired
      let per := perTransport t wide
      let m := chunkTiles r.rec1 k.chunk
      let all := (List.range (m * per)).map (k.tile (if paired then sumRecord r.rec1 (if wide then 14 else t) else r.rec1))
      let sig (i : Nat) : Dword := tileSignature (if wide then 14 else t) (((all.drop (per * i)).take per).map fun x => x.2.2)
      let msg : LinkMsg := ⟨dPeer r.desc, (List.range m).flatMap fun i => leBytes 8 (sig i).toNat, layPayload (all.map fun x => (x.1, x.2.1))⟩
      match s.stageChunk n k.chunk k.tiles.length with
      | (t, true) => t.updChunk n r.seq k.chunk fun x => { x with st := .ready, msg := msg }
      | (t, false) => t
  | _ => s

/-- Every chunk of a SEND that can be formed is formed. -/
def State.formChunks (s : State) : State :=
  forAll (s.colls.filter Coll.isSend) (fun c s =>
    match s.run? c.stream c.seq with
    | none => s
    | some r => forAll c.send (fun k s => s.formChunk c.stream r c.paired.isSome k) s) s

/-- COLLECTIVE_SEND: a lone SEND reads the tiles of its next chunk while its staging has room (R339, R357). -/
def State.sendGo (n : Nat) (s : State) : State :=
  match s.frontRun n (· == 0x20) with
  | none => s
  | some r =>
    match s.coll? n r.seq with
    | none => s
    | some c =>
      if c.paired.isSome ∨ r.flags.parked ∨ 8 ≤ c.staged ∨ r.total ≤ r.issued then s
      else
        let k := dFirst r.desc + r.issued
        let s1 := (s.discardStop n).beginChunk n r.seq k
        let s2 := s1.issuedNow n r.seq
        forAll (List.range (chunkStored r.rec1 k)) (fun i s =>
          s.startRead n r.seq r.issued (.send k i) (dTensor r.desc) r.rec1 (16 * perLogical r.rec1 * k + i)) s2

/-! ### Tiles of a chunk that are executed again (05_streams_and_order R205, R206) -/

/-- A transported tile of a chunk is executed again: a lone SEND decodes the held payload again, and the SEND of a pair codes the drained
image again. -/
def State.redoSendTile (n : Nat) (r : Run) (paired : Bool) (k : SendChunk) (i : Nat) (s : State) : State :=
  match k.tiles.find? fun t => t.1 == i with
  | none => s
  | some (_, d, e, p) =>
    let s1 := (s.flagRun n r.seq RunFlags.again).updChunk n r.seq k.chunk fun x => { x with
      st := .reading
      tiles := x.tiles.filter fun t => t.1 != i
      cores := x.cores.filter fun t => t.1 != i
      msg := ⟨0, [], []⟩
      replay := true }
    let unit := k.chunk - dFirst r.desc
    if paired then
      let t := if wideChunk r true then 14 else recType r.rec1
      let img := match d with | .ok b => b | _ => List.replicate 4096 0
      let w := WJob.new s1.nextId n r.seq unit (.received k.chunk) (dTensor r.desc) (sumRecord r.rec1 t) i .ready
      s1.addW { w with data := img, quality0 := entQuality e, replay := true }
    else
      let j : RJob :=
        { id := s1.nextId, stream := n, seq := r.seq, unit := unit, use := .send k.chunk i, recAddr := dTensor r.desc, trec := r.rec1,
          tile := 16 * perLogical r.rec1 * k.chunk + i, stage := .ready, entryAt := s1.time, entry := e,
          buf := (List.range (entLen e)).map fun b => (b, slice p (64 * b) 64), bad := none, replay := true, avoid := none, noFill := false, alone := false }
      { s1.numbered with rjobs := s1.rjobs ++ [j] }

/-- A tile whose core has left before its chunk has reached its link port is executed again. -/
def State.replaySendTile (n : Nat) (r : Run) (paired : Bool) (k : SendChunk) (i : Nat) (core : Fin 16) (s : State) : State :=
  if k.tiles.any fun t => t.1 == i then (s.replayedFrom core 1).redoSendTile n r paired k i else s

/-- Every tile of an outgoing chunk that a core which has left had done is done again, unless the chunk has been handed to its link
port. -/
def State.replaySends (onGone : Fin 16 → Bool) (s : State) : State :=
  forAll (s.colls.filter Coll.isSend) (fun c s => match s.run? c.stream c.seq with
    | none => s
    | some r => forAll (c.send.filter fun k => (k.st == .reading || k.st == .ready) && !k.failed &&
          decide (dFirst r.desc + r.doneUnits ≤ k.chunk)) (fun k s =>
        forAll (k.cores.filter fun t => onGone t.2) (fun t s => s.replaySendTile c.stream r c.paired.isSome k t.1 t.2) s) s) s

/-! ### Sending (R345, R347, R364) -/

/-- The manifest of a chunk as it is sent now. -/
def State.chunkMan (s : State) (r : Run) (paired : Bool) (late : Nat) (k : SendChunk) : Man :=
  let wide := wideChunk r paired
  let m := Man.plain 1 s.rankNo (dPeer r.desc) (dGroup r.desc) (dStep r.desc) k.chunk
  { m with
    elem := if wide then 14 else recType r.rec1
    tiles := chunkTiles r.rec1 k.chunk
    late := late != 0
    lateNs := late
    replay := k.replay
    wide := wide
    failed := k.failed
    sectors := k.msg.payload.length / 64
    tcrc := if k.msg.payload = [] then 0 else crc64 k.msg.payload
    sigs := (List.range 16).map fun i => BitVec.ofNat 64 (leNat (slice k.msg.man (8 * i) 8)) }

/-- True when the first sending of a chunk is in turn: every earlier descriptor of the stream but the RECV of its own pair has ended
(R182, R342). -/
def State.sendTurn (s : State) (c : Coll) (r : Run) : Bool :=
  match s.stream? c.stream with
  | none => false
  | some x => (runsBefore r.seq x.runs).all fun y => y.allDone || c.paired == some y.seq

/-- The first chunk of a SEND that may be sent now, wherever it is staged. -/
def State.nextChunk (s : State) (c : Coll) (r : Run) : Option SendChunk :=
  if s.paused (dPeer r.desc) then none
  else c.send.find? fun k => k.st == .ready &&
    (decide (k.chunk - dFirst r.desc < r.doneUnits) || (k.chunk - dFirst r.desc == r.doneUnits && s.sendTurn c r))

/-- A message that waits for a port. -/
def State.queueMsg (p : Fin 2) (isChunk : Bool) (n c : Nat) (m : Man) (s : State) : State :=
  s.updLport p fun x => { x with tx := x.tx ++ [(isChunk, n, c, ⟨m.dst, m.bytes, []⟩)] }

/-- A message leaves a port, beat by beat. -/
def State.sendMsg (p : Fin 2) (m : LinkMsg) (s : State) : State := s.updLport p fun x => { x with out := m.beats }

/-- The plausibility checks of the tiles of a chunk of a forwarding pair (11_integrity R421 to R424). -/
def State.chunkPlausible (n : Nat) (r : Run) (k : SendChunk) (s : State) : State :=
  let own := recType r.rec1
  let t := if wideChunk r true then 14 else own
  let rec1 := r.rec1 - BitVec.ofNat 1024 own + BitVec.ofNat 1024 t
  let tileNo (i : Nat) : Nat := if own = 14 then 128 * k.chunk + i else 16 * k.chunk + i / perTransport own (t == 14)
  forAll (k.tiles.mergeSort fun a b => decide (a.1 ≤ b.1)) (fun x s => match x.2.1 with
    | .ok img => s.plausible n r.seq (dTensor r.desc) rec1 (tileNo x.1) img (k.flagged.contains x.1)
    | _ => s) s

/-- The worst quality of the tiles of a chunk. -/
def SendChunk.quality (k : SendChunk) : Nat :=
  k.tiles.foldl (fun q t => match t.2.1 with | .err _ _ _ => q | _ => worstQuality q (entQuality t.2.2.1)) 0

/-- A chunk is sent on its port, for the first time or again. -/
def State.sendChunk (p : Fin 2) (c : Coll) (r : Run) (k : SendChunk) (s : State) : State :=
  let m := s.chunkMan r c.paired.isSome c.late k
  let s1 := ((s.updColl c.stream c.seq fun x => { x with spoke := true }).sendMsg p ⟨m.dst, m.bytes, k.msg.payload⟩).bump .collTxChunks
  let s2 := s1.updChunk c.stream c.seq k.chunk fun x => { x with st := .sent s.time, sends := x.sends + 1 }
  if k.chunk - dFirst r.desc < r.doneUnits then s2.bump .collResend
  else
    let s3 := whenB c.paired.isSome (State.chunkPlausible c.stream r k) s2
    (s3.updRun c.stream c.seq fun x => { x with quality := worstQuality x.quality k.quality }).unitEnds c.stream c.seq 0

/-- The next chunk of each SEND on a port. -/
def State.nextChunks (s : State) (p : Fin 2) : List (Coll × Run × SendChunk) :=
  s.colls.filterMap fun c =>
    if !c.isSend then none
    else
      (s.run? c.stream c.seq).bind fun r =>
        if lportOf (dLport r.desc) ≠ p then none else (s.nextChunk c r).map fun k => (c, r, k)

/-- The chunks that may be sent on a port: those that the block holds itself. -/
def State.sendable (s : State) (p : Fin 2) : List (Coll × Run × SendChunk) :=
  (s.nextChunks p).filter fun x => s.inPlace (.outgoing x.1.stream x.2.2.chunk)

/-- Chunks that are next on a port come back from the staging region. -/
def State.loadChunks (s : State) : State :=
  forAll ((List.finRange 2).flatMap fun p => s.nextChunks p) (fun x s => s.spillLoad (.outgoing x.1.stream x.2.2.chunk)) s

/-- True when the link ports take and send messages: the cluster runs and is not HELD, and the
port is there and ON (Table 12-18, R561). -/
def State.linkOn (s : State) (p : Fin 2) : Bool :=
  s.phase == .run && !s.chart.held && s.lports[p].fn.st == .on && s.portThere .link p.val

/-- The request of a FAILED message that takes the place of a chunk of its descriptor; with its descriptor gone, one without a deadline. -/
def State.failedReq (s : State) (n c : Nat) : Req :=
  match s.colls.find? fun x => x.isSend && x.stream == n && x.send.any fun k => k.chunk == c && k.st == .givenUp with
  | some x => s.reqOf n x.seq false
  | none => ⟨3, none, n, ((s.stream? n).map Stream.weightNow).getD 1, true⟩

/-- CHUNK_SEND: at a message boundary a port sends a waiting ACK, NACK or NOTICE, else a CHUNK that the arbitration grants (R347). -/
def State.chunkSend (p : Fin 2) (s : State) : State :=
  if !s.linkOn p then s
  else
    let free (x : Bool × Nat × Nat × LinkMsg) : Bool := !s.paused x.2.2.2.rank
    match s.lports[p].tx.find? fun x => !x.1 && free x with
    | some x => (s.updLport p fun y => { y with tx := y.tx.erase x }).sendMsg p x.2.2.2
    | none =>
      let failed := s.lports[p].tx.filter free
      let ready := s.sendable p
      let reqs := failed.map (fun x => s.failedReq x.2.1 x.2.2.1) ++ ready.map fun x => s.reqOf x.1.stream x.1.seq false
      match grant (s.arb (resLink p.val)) reqs with
      | none => s
      | some (r, a, forced) =>
        let s1 := s.granted a forced
        match failed.find? fun x => x.2.1 == r.stream with
        | some x => ((s1.updLport p fun y => { y with tx := y.tx.erase x }).sendMsg p x.2.2.2).bump .collTxChunks
        | none =>
          match ready.find? fun x => x.1.stream == r.stream with
          | some (c, run, k) => s1.sendChunk p c run k
          | none => s1

/-! ### Answers to a SEND (R359, R361) -/

/-- A chunk of a SEND has been acknowledged (R359, R365). -/
def State.chunkAcked (n : Nat) (r : Run) (k : SendChunk) (s : State) : State :=
  match k.st with
  | .acked | .givenUp | .reading => s
  | _ =>
    let bytes := 4096 * chunkStored r.rec1 k.chunk
    (s.updChunk n r.seq k.chunk fun x => { x with st := .acked, tiles := [], msg := ⟨0, [], []⟩ }).updRun n r.seq fun x =>
      { x with outCount := x.outCount + 1, inBytes := x.inBytes + bytes }

/-- A SEND gives a chunk up: a FAILED message takes its place (R359, R361). -/
def State.giveUp (n : Nat) (r : Run) (c : Coll) (k : SendChunk) (reason : Nat) (s : State) : State :=
  let s1 := whenB (!k.failed) (State.chunkFails n r.seq k.chunk) s
  let m := s.chunkMan r c.paired.isSome c.late { k with failed := true, msg := ⟨0, [], []⟩ }
  ((s1.updChunk n r.seq k.chunk fun x => { x with st := .givenUp }).queueMsg (lportOf (dLport r.desc)) true n k.chunk m).collRec
    n r.seq reason .contained (some k.chunk)

/-- A NACK for a chunk of a SEND. A chunk that has not been sent yet has nothing to send again. -/
def State.chunkNacked (n : Nat) (r : Run) (c : Coll) (k : SendChunk) (reason : Nat) (s : State) : State :=
  let sentBefore := decide (k.chunk - dFirst r.desc < r.doneUnits)
  match k.st with
  | .acked | .givenUp | .reading => s
  | _ =>
    if !sentBefore then s
    else if reason = 3 then s.updChunk n r.seq k.chunk fun x => { x with st := .noSpace s.time, sends := 0 }
    else if reason = 1 ∨ reason = 2 ∨ reason = 4 then
      if 2 ≤ k.nacks then s.giveUp n r c k (if reason = 2 then 0x51 else 0x50)
      else s.updChunk n r.seq k.chunk fun x => { x with st := .ready, nacks := x.nacks + 1, sends := 0 }
    else s

/-- NO_SPACE_RESEND: 10 µs after a NACK NO_SPACE the chunk is sent again (R359). -/
def State.noSpaceResend (n c : Nat) (s : State) : State :=
  forAll (s.colls.filter fun x => x.stream == n && x.isSend) (fun x s =>
    match x.send.find? fun k => k.chunk == c with
    | some k => match k.st with
      | .noSpace t => if t + 10000 ≤ s.time then s.updChunk n x.seq c fun y => { y with st := .ready } else s
      | _ => s
    | none => s) s

/-- SEND_TIMEOUT: an unanswered chunk is sent again, or given up after the third sending (R361, R370). -/
def State.sendTimeout (n c : Nat) (s : State) : State :=
  forAll (s.colls.filter fun x => x.stream == n && x.isSend) (fun x s =>
    match s.run? n x.seq, x.send.find? fun k => k.chunk == c with
    | some r, some k => match k.st with
      | .sent t =>
        if s.paused (dPeer r.desc) ∨ s.time < t + s.collTimeout t + s.lateOf (dPeer r.desc) then s
        else if 3 ≤ k.sends then s.giveUp n r x k 0x52
        else s.updChunk n x.seq c fun y => { y with st := .ready }
      | _ => s
    | _, _ => s) s

/-! ### Notices (R366, R368 to R370) -/

/-- The next chunk that a collective will send or expects (R350). -/
def Coll.nextOf (c : Coll) (r : Run) : Nat :=
  if c.isSend then dFirst r.desc + r.doneUnits
  else (((List.range (dChunks r.desc)).map (· + dFirst r.desc)).find? fun k => !c.accepted.contains k).getD
    (dFirst r.desc + dChunks r.desc)

/-- A collective has sent its peer a message, or has one on its port for it. -/
def State.speaks (n : Nat) (seq : Word) (s : State) : State := s.updColl n seq fun c => { c with spoke := true }

/-- A NOTICE to the peer of a collective; it is sent with control messages. -/
def State.notice (c : Coll) (r : Run) (f : Man → Man) (s : State) : State :=
  (s.speaks c.stream c.seq).queueMsg (lportOf (dLport r.desc)) false c.stream (c.nextOf r)
    (f (Man.plain 4 s.rankNo (dPeer r.desc) (dGroup r.desc) (dStep r.desc) (c.nextOf r)))

/-- The RECV of a SEND's own pair. -/
def State.pairedRecv (s : State) (c : Coll) : Option Run := if c.isSend then c.paired.bind fun q => s.run? c.stream q else none

/-- True for a collective that reads the tiles of its tensor. -/
def Coll.readsTiles (c : Coll) (r : Run) : Bool := if c.isSend then c.paired.isNone else dAccum r.desc

/-- True for a tile that lies on a warned group: its payload, where the directory cache holds its entry; else its pool has channels of such a
group (DESIGN CHOICE, log 14). -/
def State.warnedTile (s : State) (r : BitVec 1024) (tile : Nat) : Bool :=
  let warned (a : Nat) : Bool := (s.entryOf a).any fun x => s.therm x.2.group != .normal
  (s.pool? (recPool r)).any fun p => match s.cached (entryAddr r tile) with
    | some e => entState e != 0 && warned (p.base + 64 * entAddr e)
    | none => p.chans.any fun c => s.therm c.group != .normal

/-- Tiles that a collective has still to read on warned groups. -/
def State.warnedLeft (s : State) (c : Coll) (r : Run) : Nat :=
  let first := dFirst r.desc * 16 * perLogical r.rec1 + c.tilesRead
  if c.readsTiles r then
    ((List.range (collTiles r.desc r.rec1 - c.tilesRead)).filter fun i => s.warnedTile r.rec1 (first + i)).length
  else 0

/-- Their bytes, at the average payload of those read so far, or dense while none has been (DESIGN CHOICE, log 14). -/
def State.leftBytes (s : State) (c : Coll) (r : Run) : Nat :=
  if c.tilesRead = 0 then 4096 * s.warnedLeft c r else s.warnedLeft c r * c.bytesRead / c.tilesRead

/-- Tiles that a collective has still to do beside them. -/
def State.otherLeft (s : State) (c : Coll) (r : Run) : Nat :=
  collTiles r.desc r.rec1 - (if c.readsTiles r then c.tilesRead else r.inBytes / 4096) - s.warnedLeft c r

/-- Nanoseconds for a number of tiles at the rate measured before the warning, as numerator and denominator; none where none was. -/
def Coll.atRate (c : Coll) (tiles : Nat) : Option (Nat × Nat) := c.before.bind fun b => if b.2 = 0 then none else some (tiles * b.1, b.2)

/-- The read rate granted on the warned groups: the slowest that has been measured (log 14). -/
def State.warnedRate (s : State) : Option Nat :=
  ((s.therms.filter fun t => t.st != .normal).filterMap GroupTherm.rate).foldl (fun a x => some (match a with | some y => min x y | none => x)) none

/-- Nanoseconds that holds of channels of warned groups are expected to last still (10_memory_channels R391). -/
def State.warnedHold (s : State) : Nat :=
  (s.chanEntries.map fun x =>
    let c := s.chan x.2.chan
    if c.held && s.therm x.2.group != .normal then c.holdAt + 1000 * c.holdUs.toNat - s.time else 0).foldl max 0

/-- D of R366 for a collective; none while no rate has been measured: the reads on warned groups at the granted rate and the other tiles at
the rate from before the warning, less DEADLINE, or less the whole at the latter rate. With DEADLINE 0 and no rate from before the
warning, it is a free value (log 14). -/
def State.delayOf (s : State) (c : Coll) (r : Run) : Option Nat :=
  let bytes := s.leftBytes c r
  s.warnedRate.bind fun rate =>
    if bytes ≠ 0 ∧ rate = 0 then some (2 ^ 32 - 1)
    else
      let reads := if bytes = 0 then 0 else bytes * 1000000000 / rate
      if dDeadline r.desc ≠ 0 then
        let other := match c.atRate (s.otherLeft c r) with | some x => x.1 / x.2 | none => 0
        some (s.time + reads + other + s.warnedHold - dDeadline r.desc)
      else if bytes = 0 then some s.warnedHold
      else match c.atRate (s.warnedLeft c r) with
        | some x => some ((bytes * 1000000000 * x.2 - x.1 * rate) / (rate * x.2) + s.warnedHold)
        | none => some (Config.projectedDelay s.freeCtr)

/-- The measures of every collective when the first group enters THERM_WARN (R366). -/
def State.warnBegins (s : State) : State :=
  { s with colls := s.colls.map fun c =>
      match s.run? c.stream c.seq with
      | none => c
      | some r => { c with
          projAt := s.time
          before := r.head.map fun h => (s.time - h, r.inBytes / 4096) } }

/-- A delay is announced when it exceeds SLACK_NS, and again when it has grown by SLACK_NS / 2 (R366). -/
def State.announce (c : Coll) (r : Run) (d : Nat) (s : State) : State :=
  if dSlack r.desc < d ∧ (!c.lateSent ∨ (c.late < d ∧ dSlack r.desc ≤ 2 * (d - c.late))) then
    let s1 := (s.updColl c.stream c.seq fun x => { x with late := d, lateSent := true }).notice c r fun m => { m with late := true, lateNs := d }
    whenB (!c.lateSent) (State.collRec c.stream c.seq 0x55 .corrected (some (c.nextOf r))) s1
  else s

/-- COLL_PROJECTION: the delay of a collective is projected once per 10 µs while a group is in THERM_WARN (R366); a forwarding pair
includes the delay that its RECV's peer has announced (R368). -/
def State.project (n : Nat) (s : State) : State :=
  let warn := s.therms.any fun t => t.st == .warn
  forAll (s.colls.filter fun x => x.stream == n) (fun c s =>
    match s.run? n c.seq with
    | none => s
    | some r =>
      let peerDelay := ((s.pairedRecv c).map fun y => s.lateOf (dPeer y.desc)).getD 0
      if (!warn ∧ peerDelay = 0) ∨ s.time < c.projAt + 10000 then s
      else
        match (if warn then s.delayOf c r else some 0) with
        | none => s
        | some own =>
          let d := min (2 ^ 32 - 1) (own + peerDelay)
          ((whenB warn State.chosen s).updColl n c.seq fun x => { x with projAt := s.time }).announce c r d) s

/-- The stored tiles of a chunk of a tensor, by their numbers. -/
def chunkTileNos (r : BitVec 1024) (c : Nat) : List Nat := (List.range (chunkStored r c)).map (· + 16 * perLogical r * c)

/-- True when the next chunk of a collective needs a read or a write on a channel group (R369): of its presence words and entries, of a
payload whose entry is known, or of one that has been asked for. New payloads take eligible channels, which that group has none of
(10_memory_channels R384). -/
def State.needsGroup (s : State) (c : Coll) (r : Run) (group : Nat) : Bool :=
  let inGroup (a : Nat) : Bool := (s.entryOf a).any fun x => x.2.group == group
  let mine (id : Nat) : Bool := (s.rjob? id).any fun j => j.stream == c.stream && j.seq == c.seq
  let asked := (s.reqs ++ s.holdq).any fun q => inGroup q.addr &&
    match q.purpose with | .presence j | .entry j | .payload j _ => mine j | _ => false
  let payload (e : BitVec 128) : Bool := entState e != 0 && (s.pool? (recPool r.rec1)).any fun p => inGroup (p.base + 64 * entAddr e)
  let held := s.rjobs.any fun j => j.stream == c.stream && j.seq == c.seq && j.stage == .payload 0 && payload j.entry
  let reads := c.readsTiles r
  let writes := !c.isSend && !(dForward r.desc && (!c.pairKnown || c.paired.isSome))
  let next := if c.isSend then dFirst r.desc + r.issued else c.nextOf r
  asked || held || (decide (next < dFirst r.desc + dChunks r.desc) && (reads || writes) &&
    (chunkTileNos r.rec1 next).any fun t => inGroup (entryAddr r.rec1 t) || inGroup (presenceAddr r.rec1 t) ||
      (reads && (s.cached (entryAddr r.rec1 t)).any payload))

/-- A SEND parks after a number of its chunks: those behind them are given up, with their reads (R369). -/
def State.parkSend (c : Coll) (r : Run) (chunks : Nat) (s : State) : State :=
  let n := c.stream
  let last := dFirst r.desc + chunks
  let gone (j : RJob) : Bool := j.stream == n && j.seq == c.seq && match j.use with | .send k _ => decide (last ≤ k) | _ => false
  let s1 := forAll (s.rjobs.filter gone) (fun j s => s.cancelRead j) (s.flagRun n c.seq fun f => { f with parked := true })
  (s1.updColl n c.seq fun x => { x with send := x.send.filter fun k => decide (k.chunk < last) }).updRun n c.seq fun y =>
    { y with issued := min y.issued chunks, total := chunks }

/-- Chunks that a collective finishes before it parks: up to the last one that is staged (R369). -/
def Coll.stagedTo (c : Coll) (r : Run) : Nat :=
  if c.isSend then ((c.send.filter fun k => k.st != .reading).map fun k => k.chunk + 1 - dFirst r.desc).foldl max 0
  else (c.accepted.map fun k => k + 1 - dFirst r.desc).foldl max 0

/-- A collective parks at the chunk boundary after its staged chunks (R369): a RECV still takes the chunks missing in front of the last
one staged. -/
def State.parkColl (c : Coll) (r : Run) (s : State) : State :=
  let k := c.stagedTo r
  if c.isSend then s.parkSend c r k
  else (s.flagRun c.stream c.seq fun f => { f with parked := true }).updRun c.stream c.seq fun y =>
    { y with total := min y.total (k * 16 * perLogical y.rec1) }

/-- True for a chunk in front of the boundary at which its RECV ends. -/
def Run.takesChunk (r : Run) (chunk : Nat) : Bool := decide ((chunk - dFirst r.desc) * 16 * perLogical r.rec1 < r.total)

/-- Collectives that stood when a channel group entered THERM_CRIT park at the first chunk that turns out to need the group, while it is
there (R369; DEDUCED, log 14: where a tile's payload lies is known once its entry has been read). -/
def State.critParks (s : State) : State :=
  forAll s.colls (fun c s =>
    match s.run? c.stream c.seq with
    | none => s
    | some r => if !r.flags.parked && c.crit.any fun g => s.therm g == .crit && s.needsGroup c r g then s.parkColl c r else s) s

/-- THERM_CRIT on a channel group: the collectives that need it park (R369). -/
def State.thermPark (group : Nat) (s : State) : State :=
  ({ s with colls := s.colls.map fun c => { c with crit := group :: c.crit.filter fun g => g != group && s.therm g == .crit } } : State).critParks

/-- A SEND whose pair's RECV has parked sends what that RECV still hands over, and parks behind it (R368). -/
def State.parkPairs (s : State) : State :=
  forAll s.colls (fun c s =>
    match s.run? c.stream c.seq, s.pairedRecv c with
    | some r, some y =>
      if y.flags.parked && !r.flags.parked then s.parkSend c r (ceilDiv y.total (16 * perLogical y.rec1)) else s
    | _, _ => s) s

/-- A SEND behind a RECV of its own pair whose peer has paused tells its own peer, once for each pause, also when it comes to be checked, or
its RECV comes to name that peer, after the pause began (R368). -/
def State.relayPauses (s : State) : State :=
  forAll s.colls (fun c s =>
    match s.pairedRecv c, s.run? c.stream c.seq with
    | some y, some r =>
      if s.paused (dPeer y.desc) && !c.relayed then
        (s.updColl c.stream c.seq fun x => { x with relayed := true }).notice c r fun m => { m with pause := true }
      else s
    | _, _ => s) s

/-- A parked collective tells its peer once its staged chunks have been sent (R369). The first collective at the head of a stream that
has parked sends RESUMED as its first message when it has no chunk ready (R370). -/
def State.collNotices (s : State) : State :=
  let s0 := s.parkPairs.relayPauses
  forAll s0.colls (fun c s =>
    match s.run? c.stream c.seq, s.stream? c.stream with
    | some r, some x =>
      let through := if c.isSend then decide (r.total ≤ r.doneUnits) else !r.takesChunk (c.nextOf r)
      if r.flags.parked && !c.pauseSent && through then
        ((s.updColl c.stream c.seq fun x => { x with pauseSent := true }).notice c r fun m => { m with pause := true }).collRec
          c.stream c.seq 0x56 .corrected (some (c.nextOf r))
      else if x.wasParked && (x.runs.head?.map Run.seq) == some r.seq && r.head.isSome then
        let s1 := s.updStream c.stream fun y => { y with wasParked := false }
        if !c.spoke && !c.send.any (fun k => k.st == .ready) then s1.notice c r fun m => { m with resumed := true } else s1
      else s
    | _, _ => s) s0

/-- A PAUSE from a peer: its timers stop, and it is sent nothing further (R370). -/
def State.peerPauses (rank n : Nat) (seq : Word) (chunk : Nat) (s : State) : State :=
  if s.paused rank then s
  else ({ s with peerPaused := s.peerPaused ++ [rank] } : State).collRec n seq 0x57 .corrected (some chunk)

/-- The pause of a peer ends (R370): its timers start again. -/
def State.peerResumes (rank : Nat) (s : State) : State :=
  if !s.paused rank then s
  else
    let again (k : SendChunk) : SendChunk := match k.st with | .sent _ => { k with st := .sent s.time } | _ => k
    let mine (c : Coll) : Bool := (s.run? c.stream c.seq).any fun r => dPeer r.desc == rank
    let behind (c : Coll) : Bool := (s.pairedRecv c).any fun y => dPeer y.desc == rank
    { s with
      peerPaused := s.peerPaused.filter (· != rank)
      colls := updWhere behind (fun c => { c with relayed := false })
        (updWhere mine (fun c => { c with timer := s.time, send := c.send.map again }) s.colls) }

end Sys2Proof.Machine
end

