-- ==== Sys2Proof/Machine/Recv.lean ====
section
/-! DEFINITION. Receipt of link messages, and what a COLLECTIVE_RECV does with its chunks (09_collectives R340 to R343, R352 to R355, R357
to R363, R368, R370). -/

namespace Sys2Proof.Machine

/-! ### Received payloads (R349, R352) -/

/-- A transported tile of a payload, decoded and checked (R352). DESIGN CHOICE: an entry that names sectors past the end of the payload
fails with reason DIR_CORRUPT and DETAIL_A 0, which names no check of Table 2-12; the spec does not say what it reports (log 14). -/
def State.wireTile (s : State) (t stride : Nat) (payload : List Byte) (i : Nat) : BitVec 128 × List Byte × Dec :=
  let e := BitVec.ofNat 128 (leNat (slice payload (16 * i) 16))
  let f := entryFail e
  if payload.length < 16 * (i + 1) ∨ f ≠ 0 then (e, [], .err 0x3C f (bits e.toNat 31 0))
  else if entState e = 0 then (e, [], .zero)
  else if entState e = 3 then (e, [], .err 0x3D 0 0)
  else if payload.length < 64 * (entAddr e + entLen e) then (e, [], .err 0x3C 0 (bits e.toNat 31 0))
  else
    let p := slice payload (64 * entAddr e) (64 * entLen e)
    (e, p, if entState e = 2 then checkRaw e p
      else checkCoded (s.chartVal Chart.seeds []) (s.chartVal Chart.tables []) t stride e p)

/-- The image of a decoded tile. -/
def decImage (d : Dec) : List Byte := match d with | .ok img => img | _ => List.replicate 4096 0

/-- Transported tiles that a chunk message must carry for a tensor. -/
def wireCount (r : BitVec 1024) (m : Man) : Nat := m.tiles * perTransport (recType r) m.wide

/-- Step 8 of Table 9-4: true when the transported type fits R337, R340 and R341. -/
def wireFits (r : Run) (m : Man) : Bool :=
  let t := recType r.rec1
  if m.wide then m.elem == 14 && pairsWith 14 t
  else if dAccum r.desc then pairsWith m.elem t && m.elem != 14 && logicalN m.elem == logicalN t
  else m.elem == t && t != 14

/-! ### Staging (R357; 01_five_levels R32) -/

/-- Spilled data takes another name: what it holds has moved on. -/
def State.renameSpill (a b : SpillOf) (s : State) : State :=
  { s with lagoon := updWhere (fun x => x.of_ == a) (fun x => { x with of_ := b }) s.lagoon }

/-- Received bytes are staged in the Harbour, or in the staging region when it is full (R357); false when neither has room. -/
def State.stageBytes (o : SpillOf) (bytes tiles : Nat) (s : State) : State × Bool :=
  match s.makeRoomFor o bytes tiles with
  | (t, true) => (t.spillStore o 0 (ceilDiv bytes 64), true)
  | (t, false) => (t, false)

/-- An ACK or a NACK for a chunk (R350). -/
def State.answerChunk (p : Fin 2) (m : Man) (nack : Nat) (s : State) : State :=
  s.queueMsg p false 65536 m.chunk
    { Man.plain (if nack = 0 then 2 else 3) s.rankNo m.src m.group m.step m.chunk with nack := nack }

/-- The answer of a RECV to its peer. -/
def State.answerFor (n : Nat) (seq : Word) (p : Fin 2) (m : Man) (nack : Nat) (s : State) : State :=
  (s.speaks n seq).answerChunk p m nack

/-- A chunk is accepted or given up: the timer starts again (R360). -/
def State.chunkTaken (n : Nat) (seq : Word) (k : RecvChunk) (s : State) : State :=
  s.updColl n seq fun c => { c with
    accepted := c.accepted ++ [k.chunk], recv := c.recv ++ [k], gone := c.gone + b2n k.failed, timer := s.time, expiries := 0 }

/-- OUT_COUNT and IN_BYTES of an accepted chunk (R365). -/
def State.chunkCounts (n : Nat) (r : Run) (c : Nat) (s : State) : State :=
  let bytes := 4096 * chunkStored r.rec1 c
  (s.bump .collRxChunks).updRun n r.seq fun x => { x with outCount := x.outCount + 1, inBytes := x.inBytes + bytes }

/-- The tiles of a chunk count in ERR_TILES. -/
def State.chunkErr (n : Nat) (r : Run) (c : Nat) (s : State) : State :=
  let m := chunkStored r.rec1 c
  (s.updRun n r.seq fun x => { x with errTiles := x.errTiles + m }).flagRun n r.seq RunFlags.tileErr

/-- A chunk that is neither added nor committed. -/
def RecvChunk.lost (c : Nat) : RecvChunk := { chunk := c, wide := false, elem := 0, failed := true, spoilt := false, tiles := [], sigs := [] }

/-- A chunk is accepted as failed (steps 7 and 8 of Table 9-4). -/
def State.acceptFailed (p : Fin 2) (n : Nat) (r : Run) (m : Man) (s : State) : State :=
  (((s.answerFor n r.seq p m 0).chunkTaken n r.seq (RecvChunk.lost m.chunk)).chunkCounts n r m.chunk).chunkErr n r m.chunk

/-- The records of transported tiles that fail decoding (R109; step 9 of Table 9-4). -/
def State.wireRecords (n : Nat) (r : Run) (m : Man) (tiles : List (BitVec 128 × List Byte × Dec)) (s : State) : State :=
  forAll tiles.zipIdx (fun x s => match x.1.2.2 with
    | .err reason a b => s.workReport n r.seq
        { reason := reason, sev := .contained, addr := dTensor r.desc, unit := .linkPort, unitIndex := dLport r.desc,
          tile := BitVec.ofNat 32 (16 * m.chunk + x.2 / perTransport (recType r.rec1) m.wide), detailA := a, detailB := b }
    | _ => s) s

/-- A LATE announcement of a peer (R366, R368). -/
def State.announced (m : Man) (s : State) : State :=
  if m.late then { s with peerLate := upsert (fun p => p.1 == m.src) (m.src, m.lateNs) s.peerLate } else s

/-! ### Receipt (Table 9-4) -/

/-- The RECV that a chunk belongs to. -/
def State.recvOf (s : State) (p : Fin 2) (m : Man) : Option (Coll × Run) :=
  s.colls.findSome? fun c =>
    if c.isSend then none
    else (s.run? c.stream c.seq).bind fun r =>
      if lportOf (dLport r.desc) == p && dGroup r.desc == m.group && dStep r.desc == m.step && dPeer r.desc == m.src &&
          decide (dFirst r.desc ≤ m.chunk) && decide (m.chunk < dFirst r.desc + dChunks r.desc) then some (c, r) else none

/-- The SEND that an ACK or a NACK answers, with its chunk. -/
def State.sendOf (s : State) (p : Fin 2) (m : Man) : Option (Coll × Run × SendChunk) :=
  s.colls.findSome? fun c =>
    if !c.isSend then none
    else (s.run? c.stream c.seq).bind fun r =>
      if lportOf (dLport r.desc) == p && dGroup r.desc == m.group && dStep r.desc == m.step && dPeer r.desc == m.src then
        (c.send.find? fun k => k.chunk == m.chunk).map fun k => (c, r, k)
      else none

/-- The collective that a NOTICE concerns. -/
def State.noticeOf (s : State) (p : Fin 2) (m : Man) : Option (Coll × Run) :=
  s.colls.findSome? fun c => (s.run? c.stream c.seq).bind fun r =>
    if lportOf (dLport r.desc) == p && dGroup r.desc == m.group && dStep r.desc == m.step && dPeer r.desc == m.src then some (c, r)
    else none

/-- Engines of a core that may serve the RECV have decoded the tiles of a chunk (01_five_levels Table 1-7 step 3; 15_register_map R548). -/
def State.wireDecoded (r : Run) (tiles : List (BitVec 128 × List Byte × Dec)) (s : State) : State :=
  match pick (s.onServers (descNeed r.desc)) s.choice with
  | some c => s.chosen.decodedOn c (tiles.filter fun x => x.2.1 != []).length
  | none => s

/-- Steps 5 to 10 of Table 9-4 for a chunk of a fetched RECV. Its stream stalls while neither the Harbour nor the staging region has room
(01_five_levels R35). A parked one answers chunks behind its boundary with NACK NO_SPACE (log 14). -/
def State.takeChunk (p : Fin 2) (m : Man) (man payload : List Byte) (c : Coll) (r : Run) (s : State) : State :=
  let n := c.stream
  if c.accepted.contains m.chunk then s.answerFor n r.seq p m 0
  else if !r.takesChunk m.chunk then s.answerFor n r.seq p m 3
  else if payload.length ≠ 64 * m.sectors ∨ m.tcrc ≠ (if payload = [] then 0 else crc64 payload) then
    ((s.bump .linkCrcErr).collRec n r.seq 0x50 .corrected (some m.chunk)).answerFor n r.seq p m 1
  else if m.failed then s.acceptFailed p n r m
  else if !wireFits r m then (s.collRec n r.seq 0x54 .contained (some m.chunk)).acceptFailed p n r m
  else
    let t := if m.wide then 14 else m.elem
    let per := perTransport (recType r.rec1) m.wide
    let tiles := (List.range (wireCount r.rec1 m)).map (s.wireTile t (recStride r.rec1) payload)
    let sig (i : Nat) : Dword := tileSignature t (((tiles.drop (per * i)).take per).map fun x => decImage x.2.2)
    let s0 := s.wireDecoded r tiles
    let bad := tiles.any fun x => x.2.2.isErr
    if bad ∨ m.tiles ≠ chunkTiles r.rec1 m.chunk ∨ (List.range 16).any (fun i => sig i != nth m.sigs i 0) then
      (s0.wireRecords n r m tiles).answerFor n r.seq p m 2
    else if 8 ≤ (c.recv.filter fun k => !k.failed).length then s0.answerFor n r.seq p m 3
    else
      match (s0.renameSpill (.early p man) (.received n m.chunk)).stageBytes (.received n m.chunk) payload.length tiles.length with
      | (s1, false) => (s1.spillStall n true).answerFor n r.seq p m 3
      | (s1, true) =>
        let k : RecvChunk :=
          { chunk := m.chunk, wide := m.wide, elem := t, failed := false, spoilt := false, tiles := tiles.map fun x => (x.1, x.2.1, decImage x.2.2),
            sigs := m.sigs }
        (((s1.spillFound n).answerFor n r.seq p m 0).chunkTaken n r.seq k).chunkCounts n r m.chunk

/-- Transported tiles of a chunk whose RECV is not known: its entry table holds one entry for each (R349). DESIGN CHOICE: HARBOUR_SPILL counts
eight for each logical tile of a WIDE one (R357; log 86). -/
def entryCount (m : Man) : Nat := if m.wide then m.tiles * 8 else m.tiles

/-- Steps 4 to 10 of Table 9-4 for a CHUNK message; `early` says that it is staged as early already. -/
def State.gotChunk (p : Fin 2) (m : Man) (msg : LinkMsg) (early : Bool) (s : State) : State :=
  match s.recvOf p m with
  | some (c, r) => s.takeChunk p m msg.man msg.payload c r
  | none =>
    if early then s
    else if s.lports[p].early.length < 4 then
      match s.stageBytes (.early p msg.man) msg.payload.length (entryCount m) with
      | (t, true) => (t.updLport p fun x => { x with early := x.early ++ [msg] }).bump .collEarly
      | (t, false) => t.answerChunk p m 3
    else s.answerChunk p m 3

/-- Step 3 of Table 9-4. -/
def State.gotControl (p : Fin 2) (m : Man) (s : State) : State :=
  if m.kind = 4 then
    match s.noticeOf p m with
    | none => s
    | some (c, _) =>
      let s1 := s.announced m
      let s2 := if m.resumed then s1.peerResumes m.src else s1
      if m.pause then s2.peerPauses m.src c.stream c.seq m.chunk else s2
  else
    match s.sendOf p m with
    | none => s
    | some (c, r, k) => if m.kind = 2 then s.chunkAcked c.stream r k else s.chunkNacked c.stream r c k m.nack

/-- A message of a rank arrives on a link port (R358), in the beats of R345 with the LP_RX_META that the integrator drives. -/
def State.receive (p : Fin 2) (rank : Nat) (man payload : List Byte) (s0 : State) : State :=
  if !s0.linkOn p then s0
  else
    let s := s0.updLport p fun x => { x with rx := (⟨rank, man, payload⟩ : LinkMsg).beats }
    let m := Man.parse man
    if !manOk rank man then
      (s.bump .linkCrcErr).report { reason := 0x50, sev := .corrected, unit := .linkPort, unitIndex := p.val }
    else if m.dst ≠ s.rankNo then
      s.report { reason := 0x53, sev := .corrected, unit := .linkPort, unitIndex := p.val, tile := BitVec.ofNat 32 m.chunk,
                 group := m.group, step := m.step }
    else if m.kind ≠ 1 then s.gotControl p m
    else ((s.peerResumes m.src).announced m).gotChunk p m ⟨rank, man, payload⟩ false

/-- Early chunks whose RECV has been fetched are examined again (R358), once they are back from the staging region. -/
def State.earlyChunks (s : State) : State :=
  forAll (List.finRange 2) (fun p s =>
    forAll s.lports[p].early (fun msg s =>
      let m := Man.parse msg.man
      if (s.recvOf p m).isNone then s
      else if !s.inPlace (.early p msg.man) then s.spillLoad (.early p msg.man)
      else (s.updLport p fun x => { x with early := x.early.erase msg }).gotChunk p m msg true) s) s

/-- RECV_TIMEOUT: a NACK MISSING for the lowest chunk not yet accepted, and after the third expiry in a row the chunk is given up
(R360, R362, R370). -/
def State.recvTimeout (n : Nat) (s : State) : State :=
  forAll (s.colls.filter fun x => x.stream == n && !x.isSend) (fun c s =>
    match s.run? n c.seq with
    | none => s
    | some r =>
      let k := c.nextOf r
      match r.head with
      | none => s
      | some h =>
        if s.paused (dPeer r.desc) ∨ dFirst r.desc + dChunks r.desc ≤ k ∨ !r.takesChunk k ∨ s.time <
            max h c.timer + s.collTimeout (max h c.timer) + s.lateOf (dPeer r.desc) then s
        else if 2 ≤ c.expiries then
          ((s.chunkTaken n c.seq (RecvChunk.lost k)).chunkErr n r k).collRec n c.seq 0x52 .contained (some k)
        else
          (s.updColl n c.seq fun x => { x with expiries := x.expiries + 1, timer := s.time, spoke := true }).queueMsg (lportOf (dLport r.desc)) false
            n k { Man.plain 3 s.rankNo (dPeer r.desc) (dGroup r.desc) (dStep r.desc) k with nack := 4 }) s

/-! ### Adding and committing (R340, R341, R363, R364) -/

/-- True for a RECV whose sums go to a SEND, or wait until it is known whether they do (R343). -/
def Coll.forwards (c : Coll) (r : Run) : Bool := dForward r.desc && (!c.pairKnown || c.paired.isSome)

/-- A received narrow tile is committed as it came (R340), from the staged bytes of its chunk; the entry of a ZERO tile is the
tensor's own (02_tile_container R565). -/
def State.commitWire (n : Nat) (r : Run) (tile : Nat) (x : BitVec 128 × List Byte × List Byte) (s : State) : State :=
  let zero := entState x.1 == 0
  let w := WJob.new s.nextId n r.seq r.issued .copy (dTensor r.desc) r.rec1 tile (if zero then .writing else .space)
  let p := Part.new (dTensor r.desc) r.rec1 tile x.2.2 (entCheck x.1) (entState x.1) x.2.1 (entQuality x.1)
  s.addW { w with parts := [{ p with template := if zero then none else some (entWord0 x.1) }] }

/-- A logical tile of a received chunk becomes an accumulator tile (R340, R341). -/
def State.sumWire (n : Nat) (r : Run) (k : RecvChunk) (i : Nat) (core : Fin 16) (s : State) : State :=
  let t := recType r.rec1
  let per := perLogical r.rec1
  let first := (16 * k.chunk + i) * per
  let dests := ((List.range per).map (· + first)).filter fun d => decide (d < recTiles r.rec1)
  let tr := perTransport t k.wide
  let parts := (k.tiles.drop (tr * i)).take tr
  let addend : Addend :=
    { k := 0, etype := k.elem, need := tr, added := false, lost := k.spoilt,
      tiles := parts.zipIdx.map fun x => (x.2, if entState x.1.1 = 0 then .zero else .ok x.1.2.2, maxExp k.elem x.1.2.2) }
  let a := AccTile.new s.nextId n r.seq r.issued core t (t == 5 && k.elem == 5) (logicalN t) dests 1
  let b := { a with held := [addend], chunk := some (k.chunk, i) }
  if !dAccum r.desc then s.addAcc b
  else
    let gaps := ((List.range per).filter fun d => decide (recTiles r.rec1 ≤ first + d)).map fun d => (d, Dec.zero, 0)
    let pre : Addend := { Addend.new 0 t per with tiles := gaps }
    forAll (List.range dests.length) (fun d s =>
      s.startRead n r.seq r.issued (.preload a.id d) (dTensor r.desc) r.rec1 (first + d))
      (s.addAcc { b with preload := some pre, preloaded := false })

/-- The chunk that a RECV forwards failed: its SEND sends it as FAILED (R362). -/
def State.forwardFailed (n : Nat) (c : Coll) (chunk : Nat) (s : State) : State :=
  match c.paired.bind fun q => (s.run? n q).bind fun r => (s.coll? n q).map fun x => (r, x) with
  | none => s
  | some (r, x) =>
    let s1 := if x.send.any fun k => k.chunk == chunk then s else s.beginChunk n r.seq chunk
    if x.send.any fun k => k.chunk == chunk && k.failed then s1 else s1.chunkFails n r.seq chunk

/-- Chunks of a SEND begin in ascending order. -/
def State.sendReaches (s : State) (n : Nat) (c : Coll) (chunk : Nat) : Bool :=
  match c.paired.bind fun q => s.run? n q with
  | some r => decide (chunk ≤ dFirst r.desc + r.issued)
  | none => true

/-- The next logical tile of a RECV has been taken. -/
def State.recvNext (n : Nat) (r : Run) (stored : Nat) (s : State) : State :=
  (s.updRun n r.seq fun x => { x with sub := x.sub + 1, issued := x.issued + stored }).issuedNow n r.seq

/-- A core that can add a tile of a received chunk. -/
def State.recvCore (s : State) (r : Run) (k : RecvChunk) : Option (Fin 16) :=
  s.accCore (reduceNeed (descPort r.desc)) (accSlots (recType r.rec1 == 5 && k.elem == 5) (logicalN (recType r.rec1)))

/-- A logical tile of a received chunk starts on a core, or its stream waits for a reduce unit behind others that do
(05_streams_and_order R192). -/
def State.recvSum (n : Nat) (r : Run) (k : RecvChunk) (i stored : Nat) (s : State) : State :=
  if s.unitOpen resReduce n then
    match s.recvCore r k with
    | some core => (((s.discardStop n).unitTaken resReduce n r.seq false).chosen.sumWire n r k i core).recvNext n r stored
    | none => s.unitWait resReduce n 0x21
  else s.unitWait resReduce n 0x21

/-- COLLECTIVE_RECV: the next logical tile of the lowest chunk is added or committed once the chunk is back from the staging region, or a
chunk that failed is passed over. -/
def State.recvGo (n : Nat) (s : State) : State :=
  match s.frontRun n (· == 0x21) with
  | none => s
  | some r =>
    match s.coll? n r.seq with
    | none => s
    | some c =>
      let chunk := dFirst r.desc + r.sub / 16
      let i := r.sub % 16
      match c.recv.find? fun k => k.chunk == chunk with
      | none => s
      | some k =>
        if k.failed then
          if dForward r.desc ∧ (!c.pairKnown ∨ !s.sendReaches n c chunk) then s
          else
            let m := chunkStored r.rec1 chunk
            let s1 := forAll (List.range m) (fun u s => s.addDone n r.seq (r.issued + u)) ((s.discardStop n).forwardFailed n c chunk)
            s1.updRun n r.seq fun x => { x with sub := x.sub + chunkTiles x.rec1 chunk, issued := x.issued + m }
        else if !s.inPlace (.received n chunk) then s.spillLoad (.received n chunk)
        else
          let stored := min (perLogical r.rec1) (recTiles r.rec1 - (16 * chunk + i) * perLogical r.rec1)
          if !dAccum r.desc && !k.wide && !k.spoilt then
            ((s.discardStop n).commitWire n r (16 * chunk + i) (nth k.tiles i (chunkZero r.rec1 0, [], []))).recvNext n r stored
          else s.recvSum n r k i stored

/-! ### Sums of a forwarding pair (R342, R343, R354, R355) -/

/-- A tile of a SEND's chunk is complete. -/
def State.chunkTile (n : Nat) (seq : Word) (c i : Nat) (d : Dec) (e : BitVec 128) (payload : List Byte) (replay : Bool)
    (core : Option (Fin 16)) (s : State) : State :=
  s.updChunk n seq c (SendChunk.got i d e payload replay core)

/-- SIG_SKIP: the sum check is skipped when the drained tile or an addend holds a non-finite element (R354). -/
def AccTile.skipsCheck (a : AccTile) (ds : List Drained) (t : Nat) : Bool :=
  a.acc.tag.any (· != 0) || ds.any fun d => tileNonfinite t d.img

/-- A sum is drained for the SEND of its pair (R342, R355), an all-zero W96 tile with the container version of W96 (DEDUCED,
log 86); it waits while the SEND has no room for its chunk, and its stream stalls while there is no room for its images (01_five_levels R35). -/
def State.sumTo (a : AccTile) (c : Coll) (s : State) : State :=
  match a.chunk, c.paired.bind fun q => (s.run? a.stream q).bind fun r => (s.coll? a.stream q).map fun x => (r, x) with
  | some (chunk, i), some (r, x) =>
    let there := x.send.any fun k => k.chunk == chunk
    if !there ∧ (8 ≤ x.staged ∨ chunk ≠ dFirst r.desc + r.issued) then s
    else
      let wide := wideChunk r true
      let t := if wide then 14 else recType r.rec1
      let tr := perTransport (recType r.rec1) wide
      let ds := a.acc.drain t
      let clamped := (ds.map Drained.clamped).sum
      match s.imageRooms (ds.filter fun d => !allZero d.img).length with
      | (t0, none) => t0.spillStall a.stream true
      | (t0, some base) =>
      let s1 := whenB (!there) (State.beginChunk a.stream r.seq chunk) (t0.spillFound a.stream)
      let s2 := (s1.bumpN .drainOvf ((ds.map Drained.ovf).sum)).bumpN .intSat clamped
      let s3 := whenB (a.skipsCheck ds t) (State.bump .sigSkip) s2
      let s4 := forAll ds.zipIdx (fun d s =>
        let j := i * tr + d.2
        let tile := (a.dests.headD 0) + (if wide && recType r.rec1 == 14 then d.2 else 0)
        let b := a.acc.boundCheck t d.1
        let s5 := s.boundRec a.stream r.seq (dTensor r.desc) tile b
        let s6 := whenB b.isSome (State.updChunk a.stream r.seq chunk fun k => { k with flagged := k.flagged ++ [j] }) s5
        let q := a.acc.quality d.1 clamped
        if allZero d.1.img then s6.chunkTile a.stream r.seq chunk j .zero (chunkZero (sumRecord r.rec1 t) q) [] a.replay none
        else
          let id := base + ((ds.take d.2).filter fun x => !allZero x.img).length
          let w := WJob.new id a.stream r.seq (chunk - dFirst r.desc) (.received chunk) (dTensor r.desc) (sumRecord r.rec1 t) j .ready
          s6.addW { w with data := d.1.img, quality0 := q, replay := a.replay }) s3
      let gone := forAll a.dests.zipIdx (fun d s => s.addDone a.stream a.seq (a.unit + d.2)) (s4.dropA a.id)
      gone.updColl a.stream a.seq fun y => { y with sums := y.sums.filter fun z => z.id != a.id }
  | _, _ => s

/-- A coded tile of a SEND's chunk takes its place in the chunk. -/
def State.sumCoded (id : Nat) (s : State) : State :=
  match s.wjob? id with
  | none => s
  | some w =>
    match w.src, w.parts with
    | .received chunk, p :: _ =>
      let e := mkEntry (entryWord 0 p.sectors p.state 0 p.quality (if p.state = 1 then recSeed p.trec else 0) (recVer p.trec)) p.check
      (s.dropW id).chunkTile w.stream w.seq chunk w.tile (.ok p.img) e p.payload w.replay (some w.coder)
    | _, _ => s

/-- The type that an accumulator tile drains to: that of its tensor, or the one that the SEND of its pair transports; a sum that is kept
until the SEND is known counts as W96 (R308, R355; log 14). -/
def State.drainType (s : State) (a : AccTile) : Nat :=
  match s.run? a.stream a.seq, s.coll? a.stream a.seq with
  | some r, some c =>
    if !c.forwards r then recType r.rec1
    else match c.paired.bind fun q => s.run? a.stream q with
      | some y => if wideChunk y true then 14 else recType r.rec1
      | none => 14
  | some r, none => recType r.rec1
  | none, _ => a.etype

/-- A sum whose SEND is not known is kept in the Harbour, or in the staging region when it is full (R343); without room in either it stays
on its core, and its stream stalls. -/
def State.keepSum (a : AccTile) (s : State) : State :=
  match s.makeRoomFor (.sum a.id) (16 * a.nacc) 1 with
  | (t, true) =>
    (((t.spillFound a.stream).dropA a.id).updColl a.stream a.seq fun y => { y with sums := y.sums ++ [a] }).spillStore (.sum a.id) 0
      (ceilDiv a.nacc 4)
  | (t, false) => t.spillStall a.stream true

/-- The drain of an accumulator tile to its tensor; a hop whose sum check is skipped counts (R354). Says whether it has been drained. -/
def State.drainOwn (a : AccTile) (hw : List HwFault) (s : State) : State × Bool :=
  let hop := a.chunk.isSome && (s.run? a.stream a.seq).any fun r => dAccum r.desc && a.skipsCheck (a.acc.drain (recType r.rec1)) (recType r.rec1)
  match s.drainRoom a hw with
  | (t, true) => (whenB hop (State.bump .sigSkip) t, true)
  | q => q

/-- ACCUMULATOR_DRAIN of an accumulator tile whose addends are all in: to its tensor, to the SEND of its pair, or to the Harbour while
the SEND is not known (R308, R341 to R343). -/
def State.drainDue (a : AccTile) (hw : List HwFault) (s : State) : State :=
  match a.chunk, s.run? a.stream a.seq, s.coll? a.stream a.seq with
  | some _, some r, some c =>
    if !c.forwards r then (s.drainOwn a hw).1
    else if c.pairKnown then s.sumTo a c
    else s.keepSum a
  | _, _, _ => (s.drainOwn a hw).1

/-- True for the sum of a hop, which R353 checks. -/
def State.isHop (s : State) (a : AccTile) : Bool := a.chunk.isSome && (s.run? a.stream a.seq).any fun r => dAccum r.desc

/-- An accumulator tile in which an adder has moved an element: its residue matches, since the adder computed it from the moved sum. -/
def AccTile.moved (e : Nat) (d : Int) (a : AccTile) : AccTile :=
  let content := a.acc.content.modify e (· + d)
  { a with acc := { a.acc with content := content, residue := content.map resOf } }

/-- The preload and the addends that count in P (R302, R341). -/
def AccTile.summed (a : AccTile) : List Addend := (a.preload.toList ++ a.held).filter fun p => !p.isZero

/-- The check of R353 on an accumulator tile that drains to a type: the difference and TOL when it fails. A tile that R354 excepts does
not. -/
def AccTile.sumFails (a : AccTile) (t : Nat) : Option (Int × Nat) :=
  let ds := a.acc.drain t
  let x := sumCheckOf t (logicalN a.etype) a.summed a.acc.cVal a.acc.addends ds
  if a.skipsCheck ds t || decide (x.1.natAbs ≤ x.2) then none else some x

/-- The drain of an accumulator tile in which an adder has moved an element: the check of R353 finds it, and the tile is recomputed
(R354), or the moved element is drained. DEDUCED: without such a fault the check passes, since a correct adder never fails it (R353), also
where the saturation of an FP8 drain puts the formula beyond TOL (log 86). -/
def State.drainMoved (a : AccTile) (e : Nat) (d : Int) (hw : List HwFault) (s : State) : State :=
  let b := a.moved e d
  match (if s.isHop a then b.sumFails (s.drainType a) else none) with
  | some x => s.updA a.id (AccTile.fault 0x05 (low32 x.1) (x.2 % 2 ^ 32))
  | none => s.drainDue b hw

/-- ACCUMULATOR_DRAIN (R308), with the faults that it meets. -/
def State.accDrain (id : Nat) (hw : List HwFault) (s : State) : State :=
  match s.acc? id with
  | none => s
  | some a =>
    if !s.accWorks a || !a.allIn then s
    else
      match residueOf hw, sumFaultOf hw with
      | some e, _ => s.updA id (AccTile.fault 0x04 e 0)
      | none, some x => s.drainMoved a x.1 x.2 hw
      | none, none => s.drainDue a hw

/-- Sums that wait in the Harbour go on once the SEND is known (R343) and they are back from the staging region. -/
def State.sumsGo (s : State) : State :=
  forAll (s.colls.filter fun c => c.pairKnown && c.sums != []) (fun c s =>
    forAll c.sums (fun a s =>
      if !s.inPlace (.sum a.id) then s.spillLoad (.sum a.id)
      else if c.paired.isSome then s.sumTo a c
      else match s.drainOwn a [] with
        | (t, true) => t.updColl a.stream a.seq fun y => { y with sums := y.sums.filter fun z => z.id != a.id }
        | (t, false) => t) s) s

/-- A failed accumulator tile of a forwarding RECV makes its chunk FAILED (R362); while the SEND is not known it waits. -/
def State.accFailsNow (a : AccTile) (s : State) : State :=
  match a.chunk, s.run? a.stream a.seq, s.coll? a.stream a.seq with
  | some (chunk, _), some r, some c =>
    if !c.forwards r then s.accFails a
    else if !c.pairKnown ∨ !s.sendReaches a.stream c chunk then s
    else (s.forwardFailed a.stream c chunk).accFails a
  | _, _, _ => s.accFails a

/-- Received chunks leave the staging when every tile that they cover has been committed or handed on (R357). -/
def State.recvDone (s : State) : State :=
  forAll (s.colls.filter fun c => !c.isSend) (fun c s =>
    match s.run? c.stream c.seq with
    | none => s
    | some r => s.updColl c.stream c.seq fun x => { x with
        recv := x.recv.filter fun k =>
          decide (r.doneUnits < min r.total ((k.chunk - dFirst r.desc + 1) * 16 * perLogical r.rec1)) }) s

end Sys2Proof.Machine
end

