-- ==== Sys2Proof/Machine/Channels.lean ====
section
/-! DEFINITION. Channel and thermal events, map-out, map-in, the Causeway, LOST tiles (10_memory_channels R386 to R405, R411; 12_chart
Table 12-18). -/

namespace Sys2Proof.Machine

/-! ### Events (R388, R389) -/

/-- CODE of an event. -/
def evCode (ev : Dword) : Nat := bits ev.toNat 3 0
/-- TARGET of an event. -/
def evTarget (ev : Dword) : Nat := bits ev.toNat 15 4
/-- ARG of an event. -/
def evArg (ev : Dword) : Word := BitVec.ofNat 32 (bits ev.toNat 47 16)

/-- True when an event is discarded: a code that is not listed, a set RSV bit, or a target that no pool of the die lists. Without
an applied Chart the target is not checked (12_chart Table 12-18). -/
def State.evBad (s : State) (ev : Dword) : Bool :=
  let c := evCode ev
  let t := evTarget ev
  c == 0 || decide (6 < c) || bits ev.toNat 63 48 != 0 ||
    (s.chart.applied.isSome && !(s.chanEntries.any fun x => if c ≤ 3 then x.2.chan == t else x.2.group == t))

/-- True when the event port takes events: EV_READY falls for a warm reset (R496). -/
def State.evOn (s : State) : Bool := match s.phase with | .run | .life _ _ _ => true | _ => false

/-- An event of a row: discarded when it is bad; the row acts on its own code. -/
def State.event (code : Nat) (ev : Dword) (act : State → State) (s : State) : State :=
  if !s.evOn then s
  else if s.evBad ev then (s.bump .evBad).report { reason := 0x69, sev := .corrected, unit := .eventPort }
  else if evCode ev = code then act s
  else s

/-- CH_HOLD (R390, R391). -/
def State.holdChan (ch : Nat) (us : Word) (s : State) : State :=
  s.updChan ch fun c =>
    { c with held := true, holdUs := us, holdAt := if c.held then c.holdAt else s.time, holdReps := if c.held then c.holdReps else 0 }

/-- CH_RELEASE (R390, R393): waiting requests are issued again. -/
def State.releaseChan (ch : Nat) (s : State) : State :=
  s.updChan ch fun c => { c with held := false, holdUs := 0, holdReps := 0, dead := false }

/-- CH_DEAD (R393). -/
def State.killChan (ch : Nat) (s : State) : State :=
  (s.updChan ch fun c => { c with dead := true }).report { reason := 0x63, sev := .uncontained }

/-- A group as its events have left it; one that has had none is THERM_NORMAL (R389). -/
def State.groupTherm (s : State) (group : Nat) : GroupTherm :=
  (s.therms.find? fun t => t.group == group).getD ⟨group, .normal, none, 0, s.time⟩

/-- A group is changed. -/
def State.updTherm (group : Nat) (f : GroupTherm → GroupTherm) (s : State) : State :=
  { s with therms := upsert (fun t => t.group == group) (f (s.groupTherm group)) s.therms }

/-- The thermal state of a group (R411); a window of 10 µs begins when the group leaves THERM_NORMAL. -/
def State.setTherm (group : Nat) (x : Therm) (s : State) : State :=
  s.updTherm group fun t => if t.st = .normal then ⟨group, x, none, 0, s.time⟩ else { t with st := x }

/-- A thermal event: a record at each entry into WARN or CRIT (R411); the measures of collectives stand from the first warning (R366), and
collectives that need a critical group park (R369). -/
def State.thermEvent (group : Nat) (x : Therm) (s : State) : State :=
  let entry := x != .normal && s.therm group != x
  let s0 := if x != .normal && s.therms.all fun t => t.st == .normal then s.warnBegins else s
  let s1 := whenB entry (State.report { reason := 0x68, sev := .corrected }) (s0.setTherm group x)
  if x = .crit ∧ entry then s1.thermPark group else s1

/-- Sectors that a read has brought count for their group (R411). -/
def State.readBytes (addr sectors : Nat) (s : State) : State :=
  match s.entryOf addr with
  | some x => if s.therm x.2.group = .normal then s else s.updTherm x.2.group fun t => { t with bytes := t.bytes + 64 * sectors }
  | none => s

/-- A window of 10 µs over its length, in bytes per second. -/
def GroupTherm.measured (now : Time) (t : GroupTherm) : GroupTherm :=
  { t with rate := some (t.bytes * 1000000000 / (now - t.since)), bytes := 0, since := now }

/-- RATE_MEASURE: a window of 10 µs ends, and the read rate that the controller has granted a group is measured (R411). -/
def State.measureRate (group : Nat) (s : State) : State :=
  let t := s.groupTherm group
  if t.st = .normal ∨ s.time < t.since + 10000 then s else s.updTherm group (GroupTherm.measured s.time)

/-- HOLD_LIMIT_US of a channel in nanoseconds; none for a channel that no pool lists. -/
def State.holdLimit (s : State) (ch : Nat) : Option Nat :=
  (s.chanEntries.find? fun x => x.2.chan == ch).map fun x => x.1.holdLimitUs * 1000

/-- HOLD_LONG (R392). -/
def State.holdLong (ch : Nat) (s : State) : State :=
  let c := s.chan ch
  match s.holdLimit ch with
  | none => s
  | some limit =>
    if c.held ∧ c.holdAt + (c.holdReps + 1) * limit ≤ s.time then
      (s.updChan ch fun x => { x with holdReps := x.holdReps + 1 }).report
        { reason := 0x62, sev := .corrected, rep := decide (0 < c.holdReps), detailA := ch }
    else s

/-! ### MAP_OUT and MAP_IN (R394 to R396, R401, R402) -/

/-- Pools that this cluster allocates whose list names a channel. -/
def State.ownPools (s : State) (ch : Nat) : List Pool :=
  (s.chartVal Chart.pools []).filter fun p => (s.poolSt? p.id).isSome && p.chans.any fun c => c.chan == ch

/-- RESULT of DJ_CHAN_STAT. -/
def State.chanResult (r : Nat) (s : State) : State := { s with regs := { s.regs with chanResult := r } }

/-- DJ_CHAN_LIST. -/
def State.chanList (s : State) : Nat := s.regs.chanListLo.toNat + 2 ^ 32 * s.regs.chanListHi.toNat

/-- Entries of the tensor list. -/
def State.tensorList (s : State) (img : Image) : List Nat :=
  (List.range (bits s.regs.chanLcount.toNat 23 0)).map fun i => imgNat img (s.chanList + 8 * i) 8

/-- BAD_LIST (Table 10-9); a poisoned list has no readable entry, and a list on a dead channel arrives poisoned (R393). -/
def State.badList (s : State) (img : Image) : Bool :=
  let n := bits s.regs.chanLcount.toNat 23 0
  n == 0 || s.chanList % 64 != 0 || s.spanBad img s.chanList (8 * n) || (s.tensorList img).any fun a => a % 128 != 0

/-- The extents of a channel in a pool. -/
def extentsOf (p : Pool) (ch : Nat) : List (Nat × Nat) := (p.chans.filter fun c => c.chan == ch).map fun c => (c.start, c.size)

/-- True when a run has a sector on a channel of a pool. -/
def onChannel (p : Pool) (ch a n : Nat) : Bool := (extentsOf p ch).any fun x => decide (a < x.1 + x.2) && decide (x.1 < a + n)

/-- The free sectors of a mapped-out channel leave the free lists. -/
def State.shrink (ch : Nat) (s : State) : State :=
  forAll (s.ownPools ch) (fun p s => s.updPool p.id fun q => { q with
    free := (extentsOf p ch).foldl (fun l x => cutRuns x.1 (x.1 + x.2) l) q.free }) s

/-- Bytes of the tensor list. -/
def State.listBytes (s : State) : Nat := 8 * bits s.regs.chanLcount.toNat 23 0

/-- MAP_OUT (R394, R396, R402). DEDUCED: a command whose list lies on a held channel is not accepted before the list can be read, so BUSY
stands until the hold ends (R390; log 90). -/
def State.mapOut (img : Image) (s : State) : State :=
  let ch := bits s.regs.chanArg.toNat 11 0
  let c := s.chan ch
  if s.chart.held ∨ s.ownPools ch = [] then s.chanResult 1
  else if c.out && !c.unfinished && !(s.causeway.any fun k => k.chan == ch) then s.chanResult 2
  else if s.listBytes ≠ 0 ∧ s.chanList % 64 = 0 ∧ s.spanHeld s.chanList s.listBytes then { s with mapWait := some img }
  else if s.badList img then (s.bumpN .memPoison (s.spanLost img s.chanList s.listBytes)).chanResult 4
  else if s.causeway.isSome then s.chanResult 5
  else
    let s1 := if c.out then s else ((s.updChan ch fun x => { x with out := true }).shrink ch).degrade .channel
    { s1 with
      causeway := some ⟨ch, s.tensorList img, 0, false, none, none, 0, none, 0⟩
      cwChannel := ch }.chanResult 0

/-- A MAP_OUT that waited for its list goes on once the list can be read (R390). -/
def State.mapAgain (s : State) : State :=
  match s.mapWait with
  | some img => if s.spanHeld s.chanList s.listBytes then s else State.mapOut img { s with mapWait := none }
  | none => s

/-- A MAP_OUT whose result needs no entry of the list (NOT_LISTED, ALREADY_OUT, and BAD_LIST from COUNT or the address). -/
def State.mapOutPlain (s : State) : State :=
  let ch := bits s.regs.chanArg.toNat 11 0
  let c := s.chan ch
  if s.chart.held ∨ s.ownPools ch = [] ∨ c.out ∧ !c.unfinished ∨ bits s.regs.chanLcount.toNat 23 0 = 0 ∨ s.chanList % 64 ≠ 0 then
    s.mapOut ⟨[], []⟩
  else s

/-- The clear sectors of an extent join the free list; sectors that wait for their two epochs do not (R401, R190). -/
def regrow (p : Pool) (ch : Nat) (q : PoolSt) : PoolSt :=
  let clear (x : Nat × Nat) : List (Nat × Nat) :=
    (q.used ++ q.delayed.map fun d => (d.2.1, d.2.2)).foldl (fun l r => cutRuns r.1 (r.1 + r.2) l) [x]
  { q with free := joinFree p ((extentsOf p ch).foldl (fun l x => (clear x).foldl (fun l r => insertRun r l) (cutRuns x.1 (x.1 + x.2) l)) q.free) }

/-- MAP_IN (R401). -/
def State.mapIn (s : State) : State :=
  let ch := bits s.regs.chanArg.toNat 11 0
  let c := s.chan ch
  if s.chart.held ∨ s.ownPools ch = [] then s.chanResult 1
  else if !c.out then s.chanResult 3
  else if s.causeway.isSome then s.chanResult 5
  else if c.dead then s.chanResult 6
  else
    (forAll (s.ownPools ch) (fun p s => s.updPool p.id (regrow p ch))
      (s.updChan ch fun x => { x with out := false, unfinished := false })).chanResult 0

/-- A write of DJ_CHAN_CMD: a row acts on its own OP. -/
def State.chanCmd (op : Nat) (w : Word) (act : State → State) (s : State) : State :=
  if s.phase = .run ∧ bits w.toNat 1 0 = op then act s else s

/-! ### The Causeway (R397 to R400, R404) -/

/-- Another home cluster that has locked the Causeway's tile is told to unlock it (Table 10-10, step 8). -/
def State.causewayUnlock (s : State) : State :=
  match s.causeway.bind Causeway.lock with
  | some c => s.sendRing (.commit { c.2 with op := .unlock })
  | none => s

/-- The Causeway goes on to the next tile, and its tile is unlocked. -/
def State.causewayNext (s : State) : State :=
  let next (k : Causeway) : Causeway := { k with tile := k.tile + 1, spaceSent := false, locked := none, job := none, lock := none }
  { s.causewayUnlock with causeway := s.causeway.map next }

/-- Sectors on a channel that are still marked in use, other than those of LOST tiles. -/
def State.residueOn (s : State) (ch : Nat) : Nat :=
  ((s.ownPools ch).map fun p => match s.poolSt? p.id with
    | none => 0
    | some q => ((extentsOf p ch).map fun x =>
        runTotal (clipRuns x.1 (x.1 + x.2) q.used) - runTotal (clipRuns x.1 (x.1 + x.2) (s.lostIn p.id))).sum).sum

/-- The list is finished (R400). -/
def State.causewayEnds (ch : Nat) (s : State) : State :=
  let s1 := { s with causeway := none }.updChan ch fun x => { x with unfinished := false }
  if s.residueOn ch = 0 then s1 else s1.report { reason := 0x67, sev := .contained }

/-- A write job of the Causeway for a tile with its payload and the entry fields that it keeps. -/
def State.causewayJob (recAddr : Nat) (trec : BitVec 1024) (tile : Nat) (w0 : BitVec 64) (p : Part) (stage : WStage) (s : State) :
    State :=
  let w := WJob.new s.nextId causewayStream 0 0 .copy recAddr trec tile stage
  let id := s.nextId
  let s1 := (s.addW { w with parts := [{ p with template := some w0 }] }).bump .causewayTiles
  { s1 with causeway := s.causeway.map fun k => { k with locked := some (entryAddr trec tile), job := some id } }

/-- A tile is committed LOST: its entry unchanged except for STATE (R404). -/
def State.causewayLost (recAddr : Nat) (trec : BitVec 1024) (tile : Nat) (e : BitVec 128) (s : State) : State :=
  s.causewayJob recAddr trec tile (entWord0 (withState e 3)) (Part.new recAddr trec tile [] (entCheck e) 0 [] (entQuality e)) .writing

/-- The Causeway waits for space: one record for each wait (R399). -/
def State.causewayWaits (recAddr : Nat) (tile : Word) (s : State) : State :=
  let told := s.causeway.any Causeway.spaceSent
  let s1 := { s with causeway := s.causeway.map fun k => { k with spaceSent := true, askedAt := s.epoch } }
  if told then s1 else s1.report { reason := 0x66, sev := .corrected, addr := recAddr, tile := tile }

/-- The sectors that the tile in progress asks for, as class 6 work: every waiting request that can be granted has been granted before
(05_streams_and_order R192). The request waits when it cannot be placed (R399). -/
def State.causewayAlloc (id : Nat) (s : State) : State :=
  match s.wjob? id with
  | none => s
  | some w =>
    match w.request with
    | none => s
    | some (pool, sizes) =>
      match s.pool? pool, s.poolSt? pool with
      | some p, some ps =>
        match s.tryAlloc p ps w.recAddr w.tile sizes with
        | .granted starts free skew =>
          let runs := grantRuns starts sizes
          let s1 := (s.unitTaken (resSectors pool) causewayStream 0 false).updW id fun x =>
            { (x.placed pool (List.zipWith (fun z r => (z.1, r.1, r.2)) sizes runs)) with stage := .mapping (mapWrites runs) }
          let s2 : State := { s1 with causeway := s1.causeway.map fun k => { k with spaceSent := false } }
          s2.takeGrant pool runs free skew (.partMap id)
        | _ => (s.updW id fun x => { x with stage := .spaceWait }).causewayWaits w.recAddr (BitVec.ofNat 32 w.tile)
      | _, _ => s

/-- The lock of a tile at another home cluster is asked for (step 3); `locked` stands once it has answered. -/
def State.causewayLock (recAddr : Nat) (trec : BitVec 1024) (tile : Nat) (e : BitVec 128) (s : State) : State :=
  let c : RemoteCommit :=
    { op := .lock, cluster := s.clusterNo, job := s.nextId, pool := recPool trec, recAddr := recAddr, tile := tile,
      entryAddr := entryAddr trec tile, mapAddr := presenceAddr trec tile, entry := e, seq := 0, handle := 0, expect := none, skipZero := false,
      cls := 6 }
  { s.numbered.sendRing (.commit c) with causeway := s.causeway.map fun k => { k with lock := some (recHomeCluster trec, c) } }

/-! ### The block's own pages (R397) -/

/-- Own pages, staging chunks and history pages on the Causeway's channel that have not moved; a page that is
being wiped holds nothing and is freed by itself. -/
def State.pagesOn (s : State) (ch : Nat) : List Spill :=
  s.lagoon.filter fun x => !x.asked && x.of_ != .wiped x.id && (s.pool? x.pool).any fun p => onChannel p ch x.first x.sectors

/-- A page is written to fresh sectors once its contents are back, and its old ones are given up; a page that finds no room waits, and is
tried again once per epoch. Contents that the channel can no longer give are lost as poison loses them. -/
def State.movePage (x : Spill) (s : State) : State :=
  if !(x.came || x.poison.isSome) then (s.updSpill x.id fun y => { y with moving := true }).spillLoad x.of_
  else if s.causeway.any fun k => k.spaceSent && k.askedAt == s.epoch then s
  else
    let aside : State := s.updSpill x.id fun y => { y with of_ := .spare x.of_.staging, moving := true }
    match aside.spillSpaceFor true x.of_ x.sectors with
    | (_, false) => s.causewayWaits 0 0xFFFFFFFF
    | (t, true) =>
      let t1 := (t.spillStore x.of_ 0 x.sectors).spillDrop x
      let t2 : State := { t1 with causeway := t1.causeway.map fun k => { k with spaceSent := false } }
      match t2.spill? x.of_ with
      | some y => t2.updSpill y.id fun z => { z with poison := x.poison }
      | none => t2

/-- True while the Causeway may not read at an address: its channel is held (R390), or its group is at THERM_CRIT (R411). -/
def State.readWaits (s : State) (a : Nat) : Bool := s.heldAddr a || s.critAddr a

/-- The record of a tile that the Causeway copies unchanged although it fails its check: HEADER_ERROR for its header and MAX_EXP
(11_integrity R418), else MIGRATE_CHECK. -/
def causewayNote (recAddr tile : Nat) (d : Dec) : Note :=
  match d with
  | .err 0x30 a b => { reason := 0x30, sev := .contained, addr := recAddr, tile := BitVec.ofNat 32 tile, detailA := a, detailB := b }
  | _ => { reason := 0x65, sev := .contained, addr := recAddr, tile := BitVec.ofNat 32 tile }

/-- Steps 4 to 6 of Table 10-10. A tile whose payload waits for its channel stays locked. -/
def State.causewayMove (k : Causeway) (recAddr : Nat) (trec : BitVec 1024) (e : BitVec 128) (p : Pool) (img : Image) (s : State) : State :=
  let a := p.base + 64 * entAddr e
  let s0 : State := { s with causeway := some { k with expect := e } }
  if (s.chan k.chan).dead then s0.causewayLost recAddr trec k.tile e
  else if s.readWaits a then { s with causeway := some { k with locked := some (entryAddr trec k.tile) } }
  else
    let bad := poisonedSectors img a (entLen e)
    if bad ≠ 0 then (s0.bumpN .memPoison bad).causewayLost recAddr trec k.tile e
    else
      let payload := imgRead img a (64 * entLen e)
      let d := if entState e = 2 then checkRaw e payload
        else checkCoded (s.chartVal Chart.seeds []) (s.chartVal Chart.tables []) (recType trec) (recStride trec) e payload
      let s1 := whenB d.isErr (State.report (causewayNote recAddr k.tile d)) s0
      let part := Part.new recAddr trec k.tile (decImage d) (entCheck e) (entState e) payload (entQuality e)
      (s1.causewayJob recAddr trec k.tile (entWord0 e) part .space).causewayAlloc s1.nextId

/-- A tile on the channel is moved once its home cluster has locked it (step 3). -/
def State.causewayTakes (k : Causeway) (recAddr : Nat) (trec : BitVec 1024) (e : BitVec 128) (p : Pool) (img : Image) (s : State) :
    State :=
  if recHomeCluster trec = s.clusterNo ∨ k.locked.isSome then s.causewayMove k recAddr trec e p img
  else if k.lock.isSome then s
  else s.causewayLock recAddr trec k.tile e

/-- Steps 1 and 2 of Table 10-10: the presence bit and the entry of the next tile; a poisoned presence word counts as ones, and a tile
whose entry cannot be read or is corrupt is skipped. A LOST tile on the channel is counted as one (R400). -/
def State.causewayRead (k : Causeway) (recAddr : Nat) (trec : BitVec 1024) (img : Image) (s : State) : State :=
  let pa := presenceAddr trec k.tile
  let ea := entryAddr trec k.tile
  let e := BitVec.ofNat 128 (imgNat img ea 16)
  let lostMap := s.deadAddr pa || imgPoison img pa 8
  let present := lostMap || (imgNat img pa 8).testBit (k.tile % 64)
  let s1 := s.bumpN .memPoison (s.spanLost img pa 8)
  if s.readWaits pa ∨ (present && s.readWaits ea) then s
  else if !present then s1.causewayNext
  else if s.deadAddr ea || imgPoison img ea 16 then (s1.bump .memPoison).causewayNext
  else if entryFail e ≠ 0 then s1.causewayNext
  else
    match s.pool? (recPool trec), s.poolSt? (recPool trec) with
    | some p, some _ =>
      if !onChannel p k.chan (entAddr e) (entLen e) then s1.causewayNext
      else if entState e = 3 then (s1.loseSectors p.id (entAddr e) (entLen e)).causewayNext
      else if entState e = 0 then s1.causewayNext
      else s1.causewayTakes k recAddr trec e p img
    | _, _ => s1.causewayNext

/-- CAUSEWAY_TILE: the block's own pages, then the next tile of the list (Table 10-10), the next tensor, or the end of the list. A list entry
whose record cannot be read or is bad is passed over. -/
def State.causewayTile (img : Image) (s : State) : State :=
  match s.causeway with
  | none => s
  | some k =>
    if s.phase ≠ .run ∨ k.job.isSome then s
    else if s.pagesOn k.chan ≠ [] then forAll (s.pagesOn k.chan) (fun x s => s.movePage x) s
    else
      match k.list with
      | [] => s.causewayEnds k.chan
      | recAddr :: rest =>
        let trec := imgRec img recAddr
        let next := { s with causeway := some { k with list := rest, tile := 0 } }
        let bad := s.spanLost img recAddr 128
        if s.readWaits recAddr then s
        else if bad ≠ 0 then next.bumpN .memPoison bad
        else if recordBad s.poolIds trec ∨ recTiles trec ≤ k.tile then next
        else s.causewayRead k recAddr trec img

/-- CAUSEWAY_SPACE: an epoch has passed while the Causeway waits for space (R399). -/
def State.causewaySpace (s : State) : State :=
  match s.causeway with
  | none => s
  | some k =>
    if s.epoch ≤ k.askedAt then s
    else match k.job with
      | none => forAll (s.pagesOn k.chan) (fun x s => s.movePage x) s
      | some id => if (s.wjob? id).any fun w => w.stage == .spaceWait then s.causewayAlloc id else s

/-- What the Causeway does once its tile's job has gone on: a copy whose new channel has died asks for sectors again (R393), and a tile that
has been committed or discarded is unlocked (step 8). -/
def State.causewayDone (s : State) : State :=
  match s.causeway.bind Causeway.job with
  | none => s
  | some id =>
    match s.wjob? id with
    | none => s.causewayNext
    | some w =>
      if w.stage = .space then s.causewayAlloc id
      else if w.ended then ((s.releaseOlds w).dropW id).causewayNext
      else s

end Sys2Proof.Machine
end

