-- ==== Sys2Proof/Machine/Power.lean ====
section
/-! DEFINITION. Clocks, current ramps, resets, shutting down and enabling functions, the whole cluster, and the life cycle
(13_clocks_power_lifecycle R487 to R516; 05_streams_and_order Tables 5-28, 5-29; 12_chart R480 to R482). -/

namespace Sys2Proof.Machine

/-! ### Functions (R499, R500; Table 5-29) -/

/-- State of a function; none for one that has no state now. -/
def State.fn? (s : State) (f : FnId) : Option Fn :=
  match f with
  | .core c => some (s.core c).fn
  | .port .memory i => some s.mports[i]
  | .port .delivery i => some s.dports[i].fn
  | .port .intake i => if h : i.val < 4 then some s.iports[i.val].fn else none
  | .port .link i => if h : i.val < 2 then some s.lports[i.val].fn else none
  | .stream n => (s.stream? n).map Stream.fn
  | .cluster => some s.cluster

/-- The state of a function is replaced. -/
def State.setFn (f : FnId) (x : Fn) (s : State) : State :=
  match f with
  | .core c => s.updCore c fun k => { k with fn := x }
  | .port .memory i => { s with mports := s.mports.set i x }
  | .port .delivery i => s.updDport i fun p => { p with fn := x }
  | .port .intake i =>
    if h : i.val < 4 then { s with iports := s.iports.set i.val { s.iports[i.val] with fn := x } } else s
  | .port .link i =>
    if h : i.val < 2 then { s with lports := s.lports.set i.val { s.lports[i.val] with fn := x } } else s
  | .stream n => s.updStream n fun y => { y with fn := x }
  | .cluster => { s with cluster := x }

/-- Enable (Table 5-29). -/
def Fn.enabled (f : Fn) : Fn :=
  match f.st with
  | .off => Fn.isOn
  | .shutting => { f with st := .pendingOn }
  | _ => f

/-- The shut-down completes (Table 5-29). -/
def Fn.completed (f : Fn) : Fn := if f.st = .pendingOn then Fn.isOn else Fn.isOff

/-- A core goes straight to its ramp, since its tiles move at once; every other function finishes its work before (Table 13-5). -/
def firstStage : FnId → ShutStage
  | .core _ => .ramp
  | _ => .before

/-! ### The governor (R503 to R507, Table 13-7) -/

/-- Supply current while all SRAM is wiped, in mA. -/
def wipeCurrent (hardening : Nat) : Nat := if hardening = 0 then 9000 else if hardening = 1 then 3000 else 5000

/-- I_FULL_MA, or the figure of Table 13-7 without an applied Chart. -/
def State.iFull (s : State) : Nat :=
  s.chartVal Chart.iFull (if s.params.hardening = 0 then 28000 else if s.params.hardening = 1 then 9400 else 16000)

/-- True when every queue is disabled with its fetch idle, every stream is OFF, and no Causeway, Ferry test or WIPE runs (12_chart
R473). -/
def State.isIdle (s : State) : Bool :=
  s.chart.applied.isSome && s.queues.toList.all (fun q => !q.enable && q.wait.isNone) && s.streams == [] && s.causeway.isNone && s.mapWait.isNone &&
    !s.test.running.any fun x => x.cause == 0

/-- True while a load draws current that no figure gives: the cluster works, or a core is under test (R504; 14_field_test R519). -/
def State.loaded (s : State) : Bool := (s.chart.applied.isSome && s.phase == .run && !s.isIdle) || s.test.running.isSome

/-- I_CAP_MA (R505). -/
def State.cap (s : State) : Nat := s.chartVal Chart.iCap 65535

/-- True while the current is on its way to a target. -/
def Power.moving (p : Power) : Bool := p.intent.isSome || p.ballast || p.est != p.target

/-- The current in HELD or IDLE (Table 13-7), under the cap. -/
def State.restCurrent (s : State) : Nat := min s.cap (heldCurrent s.params.hardening)

/-- I_EST_MA: the current of a ramp until it is over, then that of a load, a free value under the cap (R504, R505; log 13), or that of HELD or
IDLE (R508). -/
def State.current (s : State) : Nat :=
  if s.power.moving then s.power.est
  else if s.loaded then min s.cap (Config.loadCurrent s.freeCtr)
  else if s.phase = .run ∧ s.cluster.st ≠ .off ∧ !s.wiping then s.restCurrent
  else s.power.est

/-- True when PWR_GRANT is honoured (R507). -/
def State.granting (s : State) : Bool := s.chartVal Chart.grantEn false && s.power.grant

/-- INTENT_LEAD_NS (R506). -/
def State.intentLead (s : State) : Nat := s.chartVal Chart.intentLead 1000

/-- The current from which a change counts: changes within one lead count as one, from the current before the first (R506). -/
def State.rampBase (s : State) : Nat × Time :=
  match s.power.small with
  | some x => if s.time < x.2 + s.intentLead then x else (s.current, s.time)
  | none => (s.current, s.time)

/-- The current target changes: a large change is announced, and a fall is held with ballast (R504, R506). A target that has been
announced and not reached is not announced again, and none lies above the cap (R505). -/
def State.powerTo (level : Nat) (s : State) : Power :=
  let target := min s.cap level
  if s.power.intent.isSome && s.power.target == target then s.power
  else
    let now := s.current
    let x := s.rampBase
    let big := decide (s.iFull < 4 * (if target < x.1 then x.1 - target else target - x.1))
    { s.power with
      est := now, target := target, intent := if big then some (decide (now < target), target, s.time) else none,
      leadOver := !big || s.granting, ballast := decide (target < now), small := if big then none else some x }

/-- The governor takes a new target. -/
def State.rampTo (target : Nat) (s : State) : State := { s with power := s.powerTo target }

/-- INTENT_LEAD_EXPIRY: the current begins to move (R506). -/
def State.leadExpires (s : State) : State :=
  match s.power.intent with
  | some x => if x.2.2 + s.intentLead ≤ s.time then { s with power := { s.power with leadOver := true } } else s
  | none => s

/-- The current has reached its target. -/
def State.rampEnds (s : State) : State :=
  { s with power := { s.power with est := s.power.target, intent := none, ballast := false } }

/-- The target of a cluster that is ON follows its work (R504, R506): that of the load when work begins, that of HELD or IDLE when it is over. -/
def State.governs (s : State) : State :=
  if s.phase ≠ .run ∨ s.cluster.st ≠ .on ∨ s.wiping ∨ s.power.moving then s
  else if s.loaded then
    if s.power.target = s.restCurrent then s.chosen.rampTo (Config.loadCurrent s.chosen.freeCtr) else s
  else if s.power.target = s.restCurrent then s
  else s.rampTo s.restCurrent

/-- True when work is held back: a rise that has been announced waits for its lead (R506), or what runs already asks for more than the cap
(R505). -/
def State.heldBack (s : State) : Bool :=
  (s.power.intent.any (fun x => x.1) && !s.power.leadOver) ||
    (decide (s.cap < Config.loadCurrent s.freeCtr) && s.loaded &&
      ((List.finRange 16).any fun c => (List.finRange 8).any (s.engineBusy c) || s.checkerBusy c))

/-- BALLAST: idle toggling replaces the current of work that has stopped, until a fall or the ramp of a core or a port is over (R504). -/
def State.ballastOn (s : State) : Bool :=
  let falls (f : Fn) : Bool := f.stage == .ramp
  s.power.ballast || s.cores.any (fun k => falls k.fn) || s.dports.any (fun p => falls p.fn) || s.iports.any (fun p => falls p.fn) ||
    s.lports.any (fun p => falls p.fn) || s.mports.any falls

/-- PWR_GRANT_CHANGE: the lead is waived while the grant is honoured (R507). -/
def State.grantChange (level : Bool) (s : State) : State :=
  let s1 := { s with power := { s.power with grant := level } }
  if s1.granting then { s1 with power := { s1.power with leadOver := true } } else s1

/-! ### Clocks (R491) -/

/-- Bit of a clock in DJ_CLK_STAT. -/
def clkBit (c : Clk) : BitVec 8 := BitVec.ofNat 8 (2 ^ c.ctorIdx)

/-- The CLK_LOST record. -/
def State.clkRecord (again : Bool) (s : State) : State :=
  { s.report { reason := 0x84, sev := .corrected, rep := again, detailA := s.regs.clkStat.toNat } with clkRec := s.time }

/-- True for a clock that the instance has and uses (16_integration Table 16-2): LCLK only on DJ4-X, MCLK2 and MCLK3 not there, DCLK not
when DCLK_SYNC is 1. -/
def State.clkUsed (s : State) (c : Clk) : Bool :=
  match c with
  | .lclk => s.params.hardening == 2
  | .mclk2 | .mclk3 => s.params.hardening != 2
  | .dclk => !s.params.dclkSync
  | .eclk | .mclk0 | .mclk1 | .hclk => true

/-- CLK_LOST. -/
def State.clkLost (c : Clk) (s : State) : State :=
  if !s.clkUsed c then s
  else if s.regs.clkStat &&& clkBit c ≠ 0 then s
  else { s with regs := { s.regs with clkStat := s.regs.clkStat ||| clkBit c } }.clkRecord false

/-- CLK_LOST_REPEAT. -/
def State.clkRepeat (s : State) : State :=
  if s.regs.clkStat ≠ 0 ∧ s.clkRec + s.svcAfter s.clkRec ≤ s.time then s.clkRecord true else s

/-- CLOCK_RETURN. -/
def State.clkReturn (c : Clk) (s : State) : State :=
  { s with regs := { s.regs with clkStat := s.regs.clkStat &&& ~~~clkBit c } }

/-! ### All SRAM (R502; 12_chart R482) -/

/-- A queue after a wipe: nothing is held for it. -/
def Queue.emptied (q : Queue) : Queue := { q with wait := none, early := [] }

/-- The work that a sector request served is gone: what it brings goes back (01_five_levels R34; 07_compression R269). -/
def OwnAsk.given (a : OwnAsk) : OwnAsk := { a with of_ := .gone }

/-- Everything that SRAM holds has been wiped: streams, work, stores, port buffers, allocator. The answers of requests already issued
are discarded. -/
def State.sramCleared (s : State) : State :=
  { s with
    queues := s.queues.map Queue.emptied
    streams := []
    rjobs := []
    wjobs := []
    accs := []
    atoll := []
    scatter := none
    readers := []
    groups := []
    dports := s.dports.map fun p => { p with units := [], bus := none }
    iports := s.iports.map fun p => { p with wait := none }
    lports := s.lports.map fun p => { p with tx := [], out := [], rx := [], early := [] }
    reqs := s.reqs.map fun r => { r with purpose := .discarded }
    holdq := []
    colls := []
    peerLate := []
    peerPaused := []
    commits := []
    barriers := []
    dirCache := []
    arbs := []
    pools := []
    remoteWaits := []
    grants := []
    remoteAsks := []
    remoteLocks := []
    contrib := []
    lagoon := []
    asks := s.asks.map OwnAsk.given
    unitWaits := [] }

/-- A Causeway that a reset, a drain or HELD ends is unfinished (10_memory_channels R402). -/
def State.causewayStops (s : State) : State :=
  match s.causeway with
  | none => { s with mapWait := none }
  | some k => { s.causewayUnlock with causeway := none, mapWait := none }.updChan k.chan fun c => { c with unfinished := true }

/-- What other clusters still wait for is answered UNAVAILABLE, so that they ask again (01_five_levels R23): their commits that have not
been written, and their requests for sectors. -/
def State.refuseRemote (s : State) : State :=
  let s1 := forAll (s.commits.filter fun c => !c.written) (fun c s => match c.remote with
    | some k => s.answer k c.job .unavailable
    | none => s) s
  forAll s1.remoteAsks (fun r s => s.answer r.cluster r.job .unavailable) s1

/-- The work that a wipe of all SRAM ends outside it: the Causeway, and what other clusters wait for. -/
def State.workEnds (s : State) : State := s.causewayStops.refuseRemote

/-- A queue in HELD: ENABLE is cleared. -/
def Queue.held (q : Queue) : Queue := { q with enable := false }

/-- The NO_CHART record (Table 12-17). -/
def State.noChart (s : State) : State := s.report { reason := 0x7C, sev := .corrected }

/-- The Chart-load state in HELD for a reason. -/
def ChartSt.inHeld (c : ChartSt) (reason : Nat) : ChartSt :=
  { c with
    held := true, load := .none, reason := reason, chartId := 0, staged := [], overflow := false, dmaLeft := 0, dmaNext := [],
    poisoned := false, applied := none, update := none, drain := none, tcPast := [],
    svcPast := [] }

/-- The cluster enters HELD: all SRAM is wiped and every queue is disabled (R482). -/
def State.enterHeld (reason : Nat) (s : State) : State :=
  let s1 := s.workEnds.sramCleared
  { s1 with
    queues := s1.queues.map Queue.held
    chart := s1.chart.inHeld reason
    test := { s1.test with waiting := s1.test.waiting.filter fun x => x.cause == 1 }
    wiping := true }

/-- A Chart has been applied or a drain has ended. -/
def State.dropDrain (s : State) : State := { s with chart := { s.chart with drain := none } }

/-! ### Draining (12_chart R481) -/

/-- A stream is closed as a drain closes it (R163, Table 5-29); a barrier member keeps its place while its instance can fill (R481). -/
def State.drainStream (n : Nat) (s : State) : State :=
  match s.stream? n with
  | none => s
  | some x =>
    match x.fn.st with
    | .on => s.updStream n fun y => { y with fn := ⟨.shutting, .before⟩ }
    | .pendingOn => s.updStream n Stream.unlatch
    | _ => s

/-- A drain begins; a life-cycle change keeps its own stream open (R513). -/
def State.startDrain (why : DrainFor) (s : State) : State :=
  let keep := match why with | .life n _ => some n | _ => none
  forAll (s.streams.filter fun x => some x.num != keep) (fun x s => s.drainStream x.num)
    { s with chart := { s.chart with drain := some why } }

/-- True when the drain has ended: every stream that was open when it began, but one being kept, is OFF, and nothing is outstanding. A stream
that has been opened since is ON with nothing to do, since no queue fetches. -/
def State.drainOver (s : State) : Bool :=
  let keep := match s.chart.drain with | some (.life n _) => some n | _ => none
  s.streams.all (fun x => some x.num == keep || (x.fn.st == .on && x.runs == [] && x.todo == [])) &&
    s.queues.toList.all (fun q => q.wait.isNone && q.early == []) && s.reqs == [] && s.holdq == [] && s.commits == [] && (s.causeway.bind Causeway.job).isNone

/-- DRAIN_DONE: HELD, or the ramp of the cluster or of a life-cycle change (R481, R501, R513). -/
def State.drainDone (s : State) : State :=
  match s.chart.drain with
  | none => s
  | some why =>
    if !s.drainOver then s
    else
      match why with
      | .updateFailed r => (s.rampTo (wipeCurrent s.params.hardening)).enterHeld r
      | .disable _ =>
        if s.cluster.stage = .before then { s with cluster := { s.cluster with stage := .ramp } }.rampTo (wipeCurrent s.params.hardening)
        else s
      | .life n t =>
        if s.phase = .run then
          { s.dropDrain with phase := .life .rampWipe n t }.rampTo (wipeCurrent s.params.hardening)
        else s

/-! ### Warm reset (R495 to R497) -/

/-- A record of which only the first half has been written. -/
def Purpose.halfRecord : Purpose → Bool
  | .cmpl _ _ rest _ _ => rest != []
  | _ => false

/-- A record. -/
def Purpose.isRecord : Purpose → Bool
  | .cmpl _ _ _ _ _ => true
  | _ => false

/-- Descriptors that have been fetched and have no record (R497): those without one, and those whose second half has not been issued. -/
def State.unrecorded (s : State) : Nat :=
  (s.streams.map Stream.held).sum + (s.queues.toList.map fun q => b2n q.wait.isSome + q.early.length).sum +
    (s.reqs.filter fun r => r.purpose.halfRecord).length + (s.holdq.filter fun r => r.purpose.isRecord).length

/-- The parts of a tile whose sectors go back: those whose WRITE16 has not been issued (R496). A part that another cluster commits is
that cluster's. -/
def State.uncommitted (s : State) (w : WJob) : List Part :=
  (w.parts.zipIdx.filter fun x => match w.stage with
    | .queued i => x.2 != i || s.commits.any fun c => c.job == w.id && c.part == i && c.remote.isNone && !c.written
    | _ => true).map Prod.fst

/-- Requests that a warm reset still waits for with their purpose: entries and presence bits, and map bits. -/
def Purpose.outlives : Purpose → Bool
  | .entryWrite _ | .presenceWrite _ | .mapBit | .remoteMap _ _ _ => true
  | _ => false

/-- A delivery port at a warm reset: a unit whose first beat has passed ends with zero data and POISON, and others go (R496). -/
def DPort.abandon (p : DPort) : DPort :=
  { p with units := p.units.flatMap fun u =>
      if p.begun u = 0 then [] else if p.tailOnBus u then [{ u with job := none }] else [{ p.endPoisoned false u with job := none }] }

/-- The write of a directory entry, by its commit. -/
def Purpose.entryOf (id : Nat) : Purpose → Bool
  | .entryWrite c => c == id
  | _ => false

/-- A WRITE16 that a held channel has kept back has not been issued: its commit is not written (R496 step 5). -/
def State.unissueCommits (s : State) : State :=
  let back (c : Commit) : Bool := s.holdq.any fun r => Purpose.entryOf c.id r.purpose
  { s with
    commits := updWhere back (fun c => { c with written := false }) s.commits
    holdq := s.holdq.filter fun r => !s.commits.any fun c => Purpose.entryOf c.id r.purpose }

/-- The sectors of a tile that a warm reset ends: those of its parts that no entry names, and those that it has replaced. -/
def State.tileEnds (w : WJob) (s : State) : State := (s.dropPlaces (s.uncommitted w)).releaseOlds w

/-- A link message at a warm reset: its first beat has passed, and the beats that have not passed carry zero bytes (R496 step 4). How many have
passed by then is a free choice (log 51). -/
def LPort.cut (n : Nat) (p : LPort) : LPort :=
  let k := 1 + n % p.out.length
  { p with
    tx := [], rx := [], early := []
    out := p.out.zipIdx.map fun b => if b.2 < k then b.1 else { b.1 with data := List.replicate b.1.data.length 0 } }

/-- Steps 1 to 6 of a warm reset begin: fetching stops, work in flight is abandoned, and its sectors go back (R496, R497). -/
def State.warmStart (src : Nat) (s : State) : State :=
  let ended := s.unrecorded
  let s0 := (s.unissueCommits.workEnds.rampTo (wipeCurrent s.params.hardening))
  let s1 := forAll s0.wjobs State.tileEnds s0
  let s2 := forAll s1.lagoon State.spillDrop s1
  let s3 := s2.dropReqs fun p => !p.outlives
  { s3 with
    phase := .warm .quiesce src ended
    warmWait := none
    offWait := none
    cluster := Fn.isOn
    queues := s3.queues.map Queue.emptied
    streams := []
    rjobs := []
    wjobs := []
    accs := []
    atoll := []
    scatter := none
    readers := []
    groups := []
    colls := []
    barriers := []
    remoteWaits := []
    remoteAsks := []
    remoteLocks := []
    contrib := []
    asks := s3.asks.map OwnAsk.given
    unitWaits := []
    commits := s3.commits.filter Commit.written
    dports := s3.dports.map DPort.abandon
    iports := s3.iports.map fun p => { p with wait := none }
    lports := s3.lports.map (LPort.cut s3.choice)
    freeCtr := s3.freeCtr + 1
    test := { s3.test with running := none, waiting := [], pkg := none }
    chart := { s3.chart with
      load := .none, staged := [], overflow := false, dmaLeft := 0, dmaNext := [], poisoned := false, update := none
      drain := none }
    wiping := false }

/-- A warm reset is asked for; one that finds the cluster shutting down waits (R495). -/
def State.warmReset (src : Nat) (s : State) : State :=
  match s.phase with
  | .run | .life _ _ _ =>
    if s.cluster.st = .shutting ∨ s.cluster.st = .pendingOn then { s with warmWait := some (s.warmWait.getD src) } else s.warmStart src
  | _ => s

/-- True for a request that its channel keeps back: it is not outstanding, and no event can free it before the reset is over (R496 step 1;
DEDUCED, log 22). -/
def State.keptBack (s : State) (p : Purpose → Bool) : Bool := s.holdq.any fun r => p r.purpose && s.mustWait r

/-- True when every outstanding request has been answered and every begun delivery has ended (R496). What a held or dead channel keeps back has
not been issued: the reset ends it. -/
def State.quiesced (s : State) : Bool :=
  s.reqs == [] && s.holdq.all s.mustWait &&
    s.commits.all (fun c => s.keptBack fun p => match p with | .presenceWrite x => x == c.id | _ => false) &&
    s.grants.all (fun g => s.keptBack fun p => match p with | .remoteMap c j _ => c == g.1 && j == g.2.1 | _ => false) &&
    s.dports.toList.all fun p => p.units == [] && p.bus.isNone

/-- A core after a warm reset: it is ON unless it is retired (R520, R542); WINDOW_COUNT returns to its reset value 0 (11_integrity Table
11-13). -/
def Core.warm (k : Core) (present : Bool) : Core :=
  { k with fn := if present && !k.retired then Fn.isOn else Fn.isOff, faults := [], out := false, keepOff := false }

/-- Steps 10 and 11 of a warm reset: every register returns to its reset value but those that Table 13-3, R442, R533 and R542 keep. -/
def State.warmEnd (src ended : Nat) (s : State) : State :=
  let z := State.cold s.params s.time s.lc s.lcInvalid
  let e := s.err
  let t : State :=
    { z with
      pending := s.pending
      lcIn := s.lcIn
      err := { e with ack := 0, svcAck := 0, ceCount := 0, irqError := false, irqService := false, irqTest := false }
      regs := { z.regs with scratch := s.regs.scratch }
      counters := s.counters
      ring := s.ring
      asks := s.asks
      chans := s.chans
      therms := s.therms
      lost := s.lost
      cores := Vector.ofFn fun c => (s.cores[c]).warm (decide (c.val < s.params.cores))
      power := { z.power with est := heldCurrent s.params.hardening, target := heldCurrent s.params.hardening, grant := s.power.grant }
      test := { z.test with
        misr := s.test.misr, mbistFail := s.test.mbistFail, repair := s.test.repair, failLog := s.test.failLog
        spares := s.test.spares, lastRefusal := s.test.lastRefusal, segments := s.test.segments
        wrappers := s.test.wrappers, taSo := s.test.taSo }
      clkRec := s.clkRec
      freeCtr := s.freeCtr
      nextId := s.nextId }
  (t.report { reason := 0x80, sev := .corrected, detailA := src, detailB := ended }).noChart

/-! ### Cold reset, supply, management reset (R493, R494, R498, R509) -/

/-- The block as a cold reset leaves it, in a phase; the free choices go on (log 7). -/
def State.coldAgain (ph : Phase) (lcIn : Nat) (s : State) : State :=
  let lc := if 5 ≤ lcIn then 4 else lcIn
  { (State.cold s.params s.time lc (decide (5 ≤ lcIn))) with
    pending := s.pending, phase := ph, lcIn := lcIn, freeCtr := s.freeCtr, nextId := s.nextId,
    power := { Power.reset with grant := s.power.grant } }

/-- COLD_RESET_ASSERT (R494). -/
def State.coldAssert (s : State) : State := s.coldAgain .coldLow 0

/-- COLD_RESET_RELEASE: LC_IN is sampled (R493, R510). -/
def State.coldRelease (lcIn : Nat) (s : State) : State := if s.phase = .coldLow then s.coldAgain .repair lcIn else s

/-- The spare that a repair word names: array, kind, spare (14_field_test Table 14-3). -/
def spareOf (w : Word) : Nat × Nat × Nat :=
  (bits w.toNat 15 0, bits w.toNat 16 16, if bit w.toNat 16 then 0 else bits w.toNat 17 17)

/-- True when a word names an SRAM array and a spare that is not used. -/
def State.spareFree (s : State) (w : Word) : Bool :=
  decide (bits w.toNat 15 0 < Config.sramCount s.params.hardening s.params.cores) && !s.test.spares.contains (spareOf w)

/-- REPAIR_WORD (14_field_test R527). -/
def State.repairWord (w : Word) (s : State) : State :=
  if s.phase ≠ .repair ∨ !bit w.toNat 31 then s
  else if s.spareFree w then { s with test := { s.test with spares := s.test.spares ++ [spareOf w] } }
  else { s with test := { s.test with repairBad := s.test.repairBad ++ [w] } }

/-- REPAIR_DONE: all SRAM is wiped (R493). -/
def State.repairDone (s : State) : State := if s.phase = .repair then { s with phase := .coldWipe } else s

/-- The core of an SRAM instance; none for a shared SRAM, and for a number that names no instance (14_field_test R534). -/
def State.sramOwner (s : State) (i : Nat) : Option (Fin 16) :=
  if i < Config.sramCount s.params.hardening s.params.cores then Config.sramCore s.params.hardening s.params.cores i else none

/-- Step 6 of Table 13-4, then the records of LC_IN and of repair words (R510; 14_field_test R527). -/
def State.coldEnd (s : State) : State :=
  let s1 := { s with phase := .run }.noChart
  let s2 := if s.lcInvalid then s1.report { reason := 0x83, sev := .contained, detailA := s.lcIn } else s1
  let s3 := forAll s.test.repairBad (fun w s =>
    let u : UnitId × Nat := match s.sramOwner (bits w.toNat 15 0) with | some c => (.core, c.val) | none => (.cluster, 0)
    s.report { reason := 0x99, sev := .corrected, unit := u.1, unitIndex := u.2, detailA := w.toNat }) s2
  { s3 with test := { s3.test with repairBad := [] } }

/-- SUPPLY_LOSS (R509). -/
def State.supplyLoss (s : State) : State := s.coldAgain .off 0

/-- True while the management domain runs. -/
def State.powered (s : State) : Bool := match s.phase with | .off | .coldLow => false | _ => true

/-- MG_RST_N (R498). -/
def State.mgReset (s : State) : State :=
  if s.powered then { s with err := { s.err with mgq := [], mgOut := [], loss := true } } else s

/-- True when the ports take writes (15_register_map R541). -/
def State.regsOpen (s : State) : Bool := match s.phase with | .run | .warm _ _ _ | .life _ _ _ => true | _ => false

/-! ### The whole cluster (R501) -/

/-- True while an accepted LIFECYCLE runs (R513). -/
def State.inLife (s : State) : Bool :=
  match s.phase, s.chart.drain with
  | .life _ _ _, _ => true
  | .run, some (.life _ _) => true
  | _, _ => false

/-- A write of 0 to CLUSTER_EN (Table 5-29). The drain of a disable that finds a life-cycle change running begins when that has ended
(log 83). -/
def State.clusterOff (src : Nat) (s : State) : State :=
  match s.phase with
  | .run | .life _ _ _ =>
    match s.cluster.st with
    | .on =>
      let s1 := { s with cluster := ⟨.shutting, .before⟩ }
      if s.inLife then { s1 with offWait := some src } else s1.startDrain (.disable src)
    | .pendingOn => { s with cluster := { s.cluster with st := .shutting } }
    | _ => s
  | _ => s

/-- A write of 1 to CLUSTER_EN; an OFF cluster enters HELD. -/
def State.clusterOn (s : State) : State :=
  match s.phase with
  | .run | .life _ _ _ =>
    match s.cluster.st with
    | .off => { s.rampTo (heldCurrent s.params.hardening) with cluster := Fn.isOn, chart := s.chart.inHeld 0x7C }.noChart
    | .shutting => { s with cluster := { s.cluster with st := .pendingOn } }
    | _ => s
  | _ => s

/-- The source of a disable. -/
def State.offSource (s : State) : Nat := match s.chart.drain with | some (.disable n) => n | _ => 0

/-- The SRAM of a cluster that shuts down has been wiped. -/
def State.clusterWiped (s : State) : State :=
  let s1 := s.workEnds.sramCleared
  let src := s.offSource
  { s1 with
    queues := s1.queues.map Queue.held
    cluster := { s1.cluster with stage := .wiped }
    chart := { s1.chart.inHeld 0 with held := false, drain := some (.disable src) }
    test := { s1.test with waiting := s1.test.waiting.filter fun x => x.cause == 1 } }

/-- The cluster is OFF, or its latched enable is carried out; a warm reset that waited then runs (R495, R501). -/
def State.clusterDone (s : State) : State :=
  let src := s.offSource
  let s1 := { s.dropDrain with cluster := s.cluster.completed }
  let s2 := if s.cluster.st = .pendingOn then { s1 with chart := s1.chart.inHeld 0x7C }.noChart
    else s1.report { reason := 0x85, sev := .corrected, detailA := src }
  match s2.warmWait with
  | some w => s2.warmStart w
  | none => s2

/-! ### Life cycle (R511 to R513) -/

/-- LIFECYCLE: every other stream is drained and closed. -/
def State.lifecycle (n : Nat) (s : State) : State :=
  match s.headRun n with
  | none => s
  | some r =>
    if r.kind ≠ 0x43 ∨ r.started ∨ r.finished ∨ s.phase ≠ .run then s
    else
      let src := match s.chart.drain with | some (.disable k) => some k | _ => s.offWait
      { (s.startRun n r) with offWait := src }.startDrain (.life n (dTarget r.desc))

/-- Steps 4 and 5 of R513: all SRAM but the descriptor's own stream is wiped, and DJ_LC takes the target. -/
def State.lifeWiped (n target : Nat) (s : State) : State :=
  let own := s.streams.filter fun x => x.num == n
  let s1 := s.workEnds.sramCleared
  let s2 := { s1 with streams := own, phase := .life .wiped n target, lc := target }
  (s2.report { reason := 0x81, sev := .corrected, detailA := s.lc, detailB := target }).updStream n Stream.headEnds

/-- True when the completion record of a LIFECYCLE has been written. -/
def State.lifeRecorded (s : State) (n : Nat) : Bool :=
  s.reqs == [] && s.holdq == [] && (s.stream? n).all fun x => !x.runs.any fun r => r.kind == 0x43 && r.started

/-- Step 7 of R513: the stream is closed and the cluster enters HELD; a disable that waited is carried out. -/
def State.lifeEnd (s : State) : State :=
  let s1 := { s with phase := .run }.enterHeld 0x7C
  let s2 := s1.noChart
  match s.offWait with
  | none => s2
  | some src =>
    let c : Fn := ⟨if s.cluster.st = .pendingOn then .pendingOn else .shutting, .before⟩
    { s2 with offWait := none, cluster := c }.startDrain (.disable src)

/-! ### Commands for cores and ports (R499; 14_field_test R520) -/

/-- KIND and INDEX of DJ_FN_SEL. -/
def State.selected (s : State) : Nat × Nat := (bits s.regs.fnSel.toNat 2 0, bits s.regs.fnSel.toNat 11 8)

/-- The port kind of a KIND. -/
def kindOfSel (k : Nat) : PortKind := if k = 1 then .memory else if k = 2 then .delivery else if k = 3 then .intake else .link

/-- The function that a selection names. -/
def fnOfSel (k i : Nat) : FnId :=
  if k = 0 then .core ⟨i % 16, Nat.mod_lt _ (by decide)⟩ else .port (kindOfSel k) ⟨i % 8, Nat.mod_lt _ (by decide)⟩

/-- RESULT of a command that does not reach its function; none when it does. -/
def State.fnRefused (s : State) (cmd : Word) : Option Nat :=
  let k := s.selected.1
  let i := s.selected.2
  if 5 ≤ k ∨ bits s.regs.fnSel.toNat 7 3 ≠ 0 ∨ bits s.regs.fnSel.toNat 31 12 ≠ 0 ∨ bits cmd.toNat 31 2 ≠ 0 then some 4
  else if k = 0 then
    if h : i < 16 then
      if s.params.cores ≤ i then some 2
      else if (s.core ⟨i, h⟩).retired then some 3
      else if s.chart.applied.isSome && !s.active ⟨i, h⟩ then some 2
      else none
    else some 2
  else if portCount s.params.hardening (kindOfSel k) ≤ i then some 2
  else if s.chart.applied.isSome && !s.portThere (kindOfSel k) i then some 2
  else none

/-- RESULT of DJ_FN_STAT. -/
def State.fnResult (r : Nat) (s : State) : State := { s with regs := { s.regs with fnResult := r } }

/-- A core out of service under R430, or under test: its own rules hold (R520). -/
def State.heldForTest (s : State) (f : FnId) : Option (Fin 16) :=
  match f with
  | .core c => if (s.core c).out || s.underTest c then some c else none
  | _ => none

/-- A command on the selected function (Table 5-29): 1 ENABLE, 2 DISABLE, 3 RESET. -/
def State.fnAct (op : Nat) (f : FnId) (s : State) : State :=
  match s.heldForTest f, s.fn? f with
  | some c, _ =>
    if op = 3 then s.fnResult 4
    else if op = 1 then s.fnResult 0
    else if s.underTest c then (s.updCore c fun k => { k with fn := k.fn.disabled .ramp }).fnResult 0
    else (s.updCore c fun k => { k with keepOff := true }).fnResult 0
  | none, some x =>
    let y := if op = 1 then x.enabled else if op = 2 then x.disabled (firstStage f) else (x.disabled (firstStage f)).enabled
    (s.setFn f y).fnResult (if op ≠ 2 ∧ y.st = .pendingOn then 1 else 0)
  | none, none => s

/-- A write of DJ_FN_CMD; a row acts on its own OP. -/
def State.fnCmd (op : Nat) (w : Word) (s : State) : State :=
  if !s.regsOpen ∨ bits w.toNat 1 0 ≠ op then s
  else
    match s.fnRefused w with
    | some r => s.fnResult r
    | none => s.fnAct op (fnOfSel s.selected.1 s.selected.2)

/-! ### Shut-down stages (R500, Table 13-5) -/

/-- True for a core under test: the stages of its test are those of Table 14-2. -/
def State.inTest (s : State) (f : FnId) : Bool := match f with | .core c => s.underTest c | _ => false

/-- The ramp of a function ends, and its wipe begins; the cluster's ramp waits for its lead (R506). -/
def State.fnRamped (f : FnId) (s : State) : State :=
  match s.fn? f with
  | none => s
  | some x =>
    if x.stage ≠ .ramp ∨ s.inTest f then s
    else if f = .cluster then
      if s.power.leadOver then s.rampEnds.setFn f { x with stage := .wipe } else s
    else s.setFn f { x with stage := .wipe }

/-- The wipe of a function ends. -/
def State.fnWiped (f : FnId) (s : State) : State :=
  match s.fn? f with
  | none => s
  | some x =>
    if x.stage ≠ .wipe ∨ s.inTest f then s
    else if f = .cluster then s.clusterWiped
    else s.setFn f { x with stage := .wiped }

/-- A core whose latched enable is carried out or that is OFF. -/
def State.coreDone (c : Fin 16) (s : State) : State := s.updCore c fun k => { k with fn := k.fn.completed }

/-- SHUT_DOWN_COMPLETES (Table 5-29). -/
def State.shutDownDone (f : FnId) (s : State) : State :=
  match s.fn? f with
  | none => s
  | some x =>
    if x.stage ≠ .wiped ∨ s.inTest f then s
    else
      match f with
      | .cluster => s.clusterDone
      | .stream n => s.streamOff n
      | _ => s.setFn f x.completed

/-! ### Ramps and wipes of the whole cluster (R496, R502, R513) -/

/-- A ramp of a warm reset ends. -/
def State.warmRamped (s : State) : State :=
  match s.phase with
  | .warm .rampWipe src n => if s.power.leadOver then { s.rampEnds with phase := .warm .wipe src n } else s
  | .warm .rampHeld src n => if s.power.leadOver then s.warmEnd src n else s
  | _ => s

/-- The wipe of a warm reset ends, and the current falls to the HELD level. -/
def State.warmWiped (s : State) : State :=
  match s.phase with
  | .warm .wipe src n => { s.sramCleared with phase := .warm .rampHeld src n }.rampTo (heldCurrent s.params.hardening)
  | _ => s

/-- The ramp of a life-cycle change ends: LC_REQ carries the target, and all SRAM is wiped (R513). -/
def State.lifeRamped (s : State) : State :=
  match s.phase with
  | .life .rampWipe n t => if s.power.leadOver then { s.rampEnds with phase := .life .wipe n t, lcReq := some t } else s
  | _ => s

/-- CURRENT_RAMP_DONE for every scope but a core test. -/
def State.rampDone (sc : Scope) (s : State) : State :=
  match sc with
  | .fn f => s.fnRamped f
  | .wipeCore c => s.fnRamped (.core c)
  | .warm => s.warmRamped
  | .life => s.lifeRamped
  | .held => if s.phase = .run ∧ s.cluster.st = .on ∧ s.power.moving ∧ s.power.leadOver then s.rampEnds else s
  | .cold | .test _ | .shared => s

/-- SRAM_WIPE_DONE for every scope but tests and WIPE descriptors. -/
def State.wipeDone (sc : Scope) (s : State) : State :=
  match sc with
  | .fn f => s.fnWiped f
  | .warm => s.warmWiped
  | .cold => if s.phase = .coldWipe then s.coldEnd else s
  | .held => if s.wiping then { s.rampTo (heldCurrent s.params.hardening) with wiping := false } else s
  | .life => match s.phase with | .life .wipe n t => s.lifeWiped n t | _ => s
  | .wipeCore _ | .test _ | .shared => s

end Sys2Proof.Machine
end

