-- ==== Sys2Proof/Machine/ChartLoad.lean ====
section
/-! DEFINITION. Loading a Chart: the commands of the Chart-load page, the DMA fetch, the end of validation, application and replacement
(12_chart R471 to R486; 10_memory_channels R382, R383, R402). -/

namespace Sys2Proof.Machine

/-! ### Commands (R472, R474, R511) -/

/-- RESULT of DJ_CHART_STAT. -/
def State.chartResult (r : Nat) (s : State) : State := { s with chart := { s.chart with result := r } }

/-- KIND of DJ_CHART_CTL is UPDATE. -/
def State.ctlUpdate (s : State) : Bool := bit s.regs.chartCtl.toNat 0
/-- SOURCE of DJ_CHART_CTL is DMA. -/
def State.ctlDma (s : State) : Bool := bit s.regs.chartCtl.toNat 1
/-- DJ_CHART_ADDR. -/
def State.chartAddr (s : State) : Nat := s.regs.chartAddrLo.toNat + 2 ^ 32 * s.regs.chartAddrHi.toNat

/-- RESULT that START sets, in the order of R472 after the life-cycle lock (R511). A cluster that is OFF answers NOT_IDLE to every START (R501);
DEDUCED: in a reset, in a life-cycle change and while the cluster shuts down a FULL Chart finds it not idle, and an UPDATE that finds no Chart
applied any more, or one about to go, finds it HELD (log 91). -/
def State.startCode (s : State) : Nat :=
  let n := s.regs.chartLen.toNat
  if s.lc = 0 ∨ s.lc = 4 then 5
  else if s.chart.load ≠ .none then 1
  else if s.cluster.st = .off then 2
  else if s.phase ≠ .run ∨ s.cluster.st ≠ .on then (if s.ctlUpdate then 3 else 2)
  else if !s.ctlUpdate && !s.chart.held && !s.isIdle then 2
  else if s.ctlUpdate && s.chart.held then 3
  else if s.ctlDma && (s.chartAddr % 64 != 0 || n % 8 != 0 || n == 0 || decide (chartLimit s.ctlUpdate < n)) then 4
  else 0

/-- Memory port and beat sectors of the Chart fetch (R475). -/
def State.chartPort (s : State) : Fin 8 × Nat :=
  if s.chart.held then (0, if bit s.regs.chartCtl.toNat 2 then 4 else 2)
  else
    let m := ((List.finRange 8).find? fun m => s.chartVal (fun c => c.memEn.toNat.testBit m.val) false).getD 0
    (m, s.beatSectors m)

/-- The reads of a DMA load. -/
def State.chartFetch (s : State) : State :=
  let p := s.chartPort
  let n := ceilDiv s.regs.chartLen.toNat 64
  let at_ := s.chartAddr
  forAll (cutSpan p.2 n at_ n)
    (fun q s => s.issue (newReq p.1 .read q.1 q.2 [] (.chart ((q.1 - at_) / 64))))
    { s with chart := { s.chart with len := s.regs.chartLen.toNat, dmaLeft := n } }

/-- START. -/
def State.chartStart (s : State) : State :=
  let code := s.startCode
  if code = 5 then
    (s.chartResult 5).report { reason := 0x82, sev := .corrected, detailA := s.lc + 8 * b2n s.lcInvalid }
  else if code ≠ 0 then s.chartResult code
  else
    let c : ChartSt :=
      { s.chart with
        load := .loading, isUpdate := s.ctlUpdate, result := 0, count := 0, staged := [], overflow := false, dmaLeft := 0,
        dmaNext := [], poisoned := false }
    let s1 := { s with chart := c }
    if s.ctlDma then s1.chartFetch else s1

/-- A piece of 4,096 staged bytes is written to the staging region when the Harbour is full (R476; 01_five_levels Table 1-11). -/
def State.stagePiece (i : Nat) (s : State) : State :=
  if (s.spill? (.chartBytes i)).isSome then s
  else
    let p := s.admitHeld (.chartBytes i) 4096 0
    p.1.spillStore (.chartBytes i) 0 64

/-- The whole pieces of an UPDATE that are staged; a FULL Chart has the Harbour of HELD to itself. -/
def State.stageChart (s : State) : State :=
  if s.chart.held then s
  else forAll (List.range ((s.chart.staged.length + 64 * s.chart.dmaNext.length) / 4096)) State.stagePiece s

/-- The pieces that have been spilled. -/
def State.chartPieces (s : State) : List SpillOf :=
  s.lagoon.filterMap fun x => match x.of_ with | .chartBytes i => some (.chartBytes i) | _ => none

/-- Validation begins: what has been spilled is read back, and the running clusters of the die are asked for their identity (R28, R463,
R474, R475; log 15). -/
def State.validateNow (s : State) : State :=
  (forAll s.chartPieces State.spillLoad { s with chart := { s.chart with load := .validating } }).sendRing .identCheck

/-- A write of DJ_CHART_DATA: 4 bytes in a window load, never beyond the limit (R474). -/
def State.chartData (w : Word) (s : State) : State :=
  let c := s.chart
  if c.load ≠ .loading ∨ c.dmaLeft ≠ 0 then s
  else if chartLimit c.isUpdate < c.staged.length + 4 then { s with chart := { c with overflow := true } }
  else
    { s with chart := { c with
        staged := c.staged ++ leBytes 4 w.toNat
        count := BitVec.ofNat 32 (c.staged.length + 4) } }.stageChart

/-- FINISH of a window load. -/
def State.chartFinish (s : State) : State :=
  if s.chart.load = .loading ∧ s.chart.dmaLeft = 0 then { s with chart := { s.chart with result := 0 } }.validateNow else s

/-- A request of the Chart fetch. -/
def Purpose.isChart : Purpose → Bool
  | .chart _ => true
  | _ => false

/-- The staged bytes are discarded. -/
def ChartSt.emptied (c : ChartSt) : ChartSt :=
  { c with load := .none, staged := [], overflow := false, dmaLeft := 0, dmaNext := [], poisoned := false, update := none }

/-- ABORT in state LOADING. -/
def State.chartAbort (s : State) : State :=
  if s.chart.load = .loading then { (s.dropReqs Purpose.isChart) with chart := { s.chart.emptied with result := 0 } } else s

/-- A write of DJ_CHART_CMD; a row acts on its own OP. -/
def State.chartCmd (op : Nat) (w : Word) (act : State → State) (s : State) : State :=
  if s.regsOpen ∧ bits w.toNat 1 0 = op then act s else s

/-! ### Failure (R477, R478, R480, R481) -/

/-- A load fails: its record, then HELD, or a drain for an UPDATE. -/
def State.loadFails (f : ChartFail) (s : State) : State :=
  let off := if f.reason = 0x7B then s.chart.errOff else BitVec.ofNat 32 f.off
  let s1 := { (s.dropReqs Purpose.isChart) with
    chart := { s.chart.emptied with result := 5, reason := f.reason, errOff := off } }
  let s2 := s1.report
    { reason := f.reason, sev := .contained, detailA := off.toNat, detailB := f.tag + 65536 * f.step }
  if s.chart.isUpdate && !s.chart.held then
    let s3 := { s2 with chart := { s2.chart with load := .draining } }
    if s3.chart.drain.isSome then s3 else s3.startDrain (.updateFailed f.reason)
  else if s.cluster.st = .on then s2.enterHeld f.reason
  else s2

/-- Staged bytes come back from memory with poison: the load ends (R475). -/
def State.chartPoison (s : State) : State :=
  if s.chart.load = .loading ∨ s.chart.load = .validating then s.loadFails ⟨0x7B, 0, 0, 0⟩ else s

/-- Bytes of a DMA load of a length that some of its sectors hold. -/
def dmaBytes (len : Nat) (got : List (Nat × List Byte)) : Nat := (got.map fun x => min 64 (len - 64 * x.1)).sum

/-- Sectors of a DMA load have come (R475); DJ_CHART_COUNT counts the bytes staged so far (R471). -/
def State.gotChart (base addr n : Nat) (img : Image) (bad : Bool) (s : State) : State :=
  let c := s.chart
  if c.load ≠ .loading then s
  else if bad ∨ imgPoison img addr (64 * n) then s.loadFails ⟨0x7B, 0, 0, 0⟩
  else
    let next := c.dmaNext ++ (List.range n).map fun i => (base + i, imgRead img (addr + 64 * i) 64)
    let left := c.dmaLeft - n
    let count := BitVec.ofNat 32 (dmaBytes c.len next)
    if left ≠ 0 then { s with chart := { c with dmaNext := next, dmaLeft := left, count := count } }.stageChart
    else
      let all := (List.range (ceilDiv c.len 64)).flatMap fun i => ((next.find? fun x => x.1 == i).map Prod.snd).getD []
      { s with chart := { c with
          staged := all.take c.len, count := count, dmaNext := [], dmaLeft := 0 } }.stageChart.validateNow

/-! ### Free lists (10_memory_channels R382, R383, R402, Table 10-2) -/

/-- Sectors that one byte of an allocation map marks. -/
def mapByteRuns (base a : Nat) (b : Byte) : List (Nat × Nat) := (onesFrom 8 (8 * (a - base)) b.toNat).map fun i => (i, 1)

/-- The runs that an allocation map marks; a poisoned word marks all of its sectors. -/
def mapRuns (p : Pool) (img : Image) : List (Nat × Nat) :=
  let inside (a : Nat) : Bool := decide (p.mapBase ≤ a) && decide (a < p.mapBase + ceilDiv p.size 8)
  let cells := (img.cells.filter fun c => inside c.1).flatMap fun c => mapByteRuns p.mapBase c.1 (imgByte img c.1)
  let poisoned := (img.poison.filter fun a => inside (a / 64 * 64)).map fun a => (8 * (a / 64 * 64 - p.mapBase), 512)
  joinRuns (clipRuns 0 p.size ((cells ++ poisoned).foldl (fun l r => insertRun r (cutRuns r.1 (r.1 + r.2) l)) []))

/-- The free runs of the extents of mapped-in channels. -/
def State.freeRuns (s : State) (p : Pool) (used : List (Nat × Nat)) : List (Nat × Nat) :=
  joinFree p ((p.chans.filter fun c => !(s.chan c.chan).out).foldl (fun l c =>
    (used.foldl (fun l r => cutRuns r.1 (r.1 + r.2) l) [(c.start, c.size)]).foldl (fun l r => insertRun r l) l) [])

/-- The maps as they are read: sectors on a dead channel arrive poisoned (R393). -/
def State.mapImage (s : State) (img : Image) (p : Pool) : Image :=
  if s.spanOn Chan.dead p.mapBase (ceilDiv p.size 8) then
    { img with poison := img.poison ++ (((List.range (ceilDiv p.size 512)).map fun i => p.mapBase + 64 * i).filter s.deadAddr) }
  else img

/-- A pool whose free list is rebuilt from its map: READY from the second epoch on. -/
def State.rebuilt (s : State) (img : Image) (p : Pool) : PoolSt :=
  let used := mapRuns p (s.mapImage img p)
  { id := p.id, free := s.freeRuns p used, used := used, delayed := [], readyEpoch := s.epoch + 2, waiting := [] }

/-! ### Application (R451, R479, R483 to R485) -/

/-- A core when a FULL Chart is applied: inactive ones are OFF, active ones that are neither retired nor out of service are ON (R458).
A core under test goes on with its test, whose end leaves an inactive one OFF. -/
def Core.applied (k : Core) (active tested : Bool) : Core :=
  if tested then k
  else if !active then { k with fn := Fn.isOff }
  else if k.fn.st = .off ∧ !k.retired ∧ !k.out then { k with fn := Fn.isOn }
  else k

/-- A FULL Chart is applied. -/
def State.applyFull (c : Chart) (img : Image) (s : State) : State :=
  let listed (f : ChanEntry → Nat) (x : Nat) : Bool := c.pools.any fun p => p.chans.any fun e => f e == x
  let ch : ChartSt :=
    { s.chart.emptied with
      held := false, reason := if s.chart.reason = 0x7C then 0 else s.chart.reason, chartId := c.chartId, applied := some c,
      tcPast := [], svcPast := [] }
  let s1 := { s with
    chart := ch
    lfsr := c.lfsrSeed
    cores := Vector.ofFn fun k => (s.cores[k]).applied (c.active.toNat.testBit k.val) (s.underTest k)
    chans := s.chans.filter fun x => listed ChanEntry.chan x.id
    therms := s.therms.filter fun t => listed ChanEntry.group t.group
    test := { s.test with ferryAt := s.time } }
  let own := c.pools.filter fun p => decide (Pool.allocCluster p = c.cluster)
  let bad := (own.map fun p => s1.spanLost img p.mapBase (ceilDiv p.size 8)).sum
  { (s1.bumpN .memPoison bad) with pools := own.map (s1.rebuilt img) }.report
    { reason := 0x7D, sev := .corrected, detailA := c.chartId.toNat, detailB := 0 }

/-- Retired cores (DJ_CORE_RETIRED). -/
def State.retiredCores (s : State) : List Nat := ((List.finRange 16).filter fun c => (s.core c).retired).map Fin.val

/-- The current of a load that fails validation moves to the wipe level when HELD is entered; that of a load that fails at its DMA stays
in the estimate until the wipe is over (R502, R503; log 13). -/
def State.failRamp (s : State) : State :=
  if (s.chart.isUpdate && !s.chart.held) || s.cluster.st != .on then s else s.rampTo (wipeCurrent s.params.hardening)

/-- True while a map that this cluster is to rebuild from lies on a held channel (10_memory_channels R390). -/
def State.mapsHeld (s : State) (c : Chart) : Bool :=
  let t := { s with chart := { s.chart with applied := some c } }
  c.pools.any fun p => decide (Pool.allocCluster p = c.cluster) && t.spanHeld p.mapBase (ceilDiv p.size 8)

/-- CHART_VALIDATION_DONE, once what has been spilled is back. `peers` are the running clusters of the die, `img` the allocation maps. -/
def State.validated (peers : List Peer) (img : Image) (s : State) : State :=
  if s.chart.load ≠ .validating ∨ !s.chartPieces.all s.inPlace then s
  else
    let upd := s.chart.isUpdate
    match validateChart ⟨s.params, s.retiredCores, s.chart.applied, peers⟩ upd s.chart.overflow s.chart.staged with
    | .error f => s.failRamp.loadFails f
    | .ok (c, tags) =>
      if s.cluster.st ≠ .on then { s with chart := s.chart.emptied }
      else if upd then
        let held := tags.contains 7 || tags.contains 8
        { s with chart := { s.chart.emptied with load := .switching, update := some (c, held, tags) } }
      else if s.mapsHeld c then s
      else s.applyFull c img

/-- True while an UPDATE with TABLES or SEEDS keeps tiles from engines and checker decoders (Table 12-19, step 1). -/
def State.assignStopped (s : State) : Bool := s.chart.update.any fun u => u.2.1

/-- True when no tile is on an engine or a checker decoder, and no settlement or recomputation is open (Table 12-19, step 2). A tile that has
been coded is checked with the tables that coded it (R484), so its checking is waited for too (log 84). -/
def State.enginesEmpty (s : State) : Bool :=
  !(s.rjobs.any fun j => match j.stage with | .onEngine _ _ => true | _ => false) &&
    !(s.wjobs.any fun w => (match w.stage with | .onEngine _ _ => true | _ => false) ||
      w.parts.any fun p => match p.verify with | .waiting | .checking _ | .disagreed _ _ | .third _ _ _ => true | _ => false) &&
    s.accs.all fun a => a.faulted.isNone

/-- UPDATE_SWITCH: steps 3 to 5 of Table 12-19. -/
def State.updateSwitch (s : State) : State :=
  match s.chart.update with
  | none => s
  | some (c, held, tags) =>
    if held && !s.enginesEmpty then s
    else
      let kept (old new : Nat) (l : List (Time × Nat)) : List (Time × Nat) := if new = old then l else l ++ [(s.time, old)]
      let ch : ChartSt :=
        { s.chart.emptied with
          applied := some c, chartId := c.chartId
          tcPast := kept (s.chartVal Chart.collTimeoutUs 2000 * 1000) (c.collTimeoutUs * 1000) s.chart.tcPast
          svcPast := kept s.svcInterval (c.svcInterval * 1000000000) s.chart.svcPast }
      { s with
        chart := ch
        lfsr := if tags.contains 9 then c.lfsrSeed else s.lfsr
        test := if tags.contains 0xB then { s.test with ferryAt := s.time } else s.test }.report
        { reason := 0x7D, sev := .corrected, detailA := c.chartId.toNat, detailB := 1 }

end Sys2Proof.Machine
end

