-- ==== Sys2Proof/Machine/Test.lean ====
section
/-! DEFINITION. Core tests, the Ferry, TEST descriptors, memory repair, pattern packages and test access (14_field_test R517 to R534;
11_integrity R430, R431). -/

namespace Sys2Proof.Machine

/-! ### Packages (R528, R529; Tables 14-4 to 14-6) -/

/-- Bits of a manifest or header. -/
def byteBits (l : List Byte) (hi lo : Nat) : Nat := bits (leNat l) hi lo

/-- STORE_OFFSET of a manifest. -/
def manOffset (m : List Byte) : Nat := byteBits m 127 64
/-- LENGTH of a manifest. -/
def manLength (m : List Byte) : Nat := byteBits m 159 128
/-- PACKAGE_ID of a manifest. -/
def manId (m : List Byte) : Nat := byteBits m 47 32
/-- VERSION of a manifest. -/
def manVersion (m : List Byte) : Nat := byteBits m 63 48
/-- DIGEST of a manifest. -/
def manDigest (m : List Byte) : List Byte := slice m 24 48

/-- One tile of a package, of container version 3 or 4, decoded with a seed of zeros; none when it fails (R529). -/
def packageTile (pkg : List Byte) (i : Nat) : Option (List Byte) :=
  let e := BitVec.ofNat 128 (leNat (slice pkg (64 + 16 * i) 16))
  if entryFail e ≠ 0 ∨ 3 ≤ entState e ∨ entVer e = 0 then none
  else if entState e = 0 then some (List.replicate 4096 0)
  else if entSeed e ≠ 0 ∨ pkg.length < 64 * (entAddr e + entLen e) then none
  else
    let p := slice pkg (64 * entAddr e) (64 * entLen e)
    match (if entState e = 2 then checkRaw e p else checkCoded [(0, List.replicate 256 0)] [] 13 0 e p) with
    | .ok img => some img
    | _ => none

/-- The dense images of the tiles from i on, in entry order. -/
def packageTiles (pkg : List Byte) : Nat → Nat → Option (List Byte)
  | 0, _ => some []
  | n + 1, i => (packageTile pkg i).bind fun img => (packageTiles pkg n (i + 1)).map fun rest => img ++ rest

/-- True when n pattern records from index k stand at the front of a stream, and zero bytes follow (Table 14-6). -/
def patternsOk : Nat → Nat → List Byte → Bool
  | 0, _, l => allZero l
  | n + 1, k, l =>
    let h := leNat (slice l 0 16)
    let chains := bits h 43 35
    let cells := bits h 53 44
    let size := 16 + ceilDiv (3 * ceilDiv (chains * cells) 8) 16 * 16
    bits h 31 0 == k && decide (1 ≤ bits h 34 32) && decide (bits h 34 32 ≤ 4) && decide (1 ≤ chains) && decide (chains ≤ 256) &&
      decide (1 ≤ cells) && decide (cells ≤ 512) && decide (size ≤ l.length) && patternsOk n (k + 1) (l.drop size)

/-- The conditions of R529 in order, as far as a package meets them. A byte that came with PP_ERR spoils the digest. -/
def packageConds (hardening : Nat) (m pkg : List Byte) (err : Bool) : List Bool :=
  let h := slice pkg 0 64
  let n := byteBits h 191 160
  let tiles := if pkg.length < 64 + 16 * n then none else packageTiles pkg n 0
  [byteBits m 31 0 == 0x4D504A44 && byteBits h 31 0 == 0x4B504A44 && byteBits h 39 32 == 1,
    manId m == byteBits h 79 64 && manVersion m == byteBits h 95 80,
    decide (byteBits h 111 96 ≤ 0x4201) && decide (0x4201 ≤ byteBits h 127 112),
    bit (byteBits h 194 192) hardening,
    !err && sha384 pkg == manDigest m,
    tiles.isSome,
    (tiles.map fun st => patternsOk (byteBits h 159 128) 0 st).getD false]

/-- The positions of the bits that a MASK leaves and that differ from EXPECT. -/
def failingBits (n expect mask seen : Nat) : List Nat :=
  (List.range n).filter fun i => mask.testBit i && (seen.testBit i != expect.testBit i)

/-- The failing patterns among n records at the front of a stream, for what the chains gave: index, first failing chain, failing bits
(Table 14-1, R531). A pattern of which nothing is said gave its EXPECT. -/
def scanFails (seen : List ScanSeen) : Nat → List Byte → List (Word × Nat × Nat)
  | 0, _ => []
  | n + 1, l =>
    let h := leNat (slice l 0 16)
    let cells := bits h 53 44
    let all := bits h 43 35 * cells
    let part := ceilDiv all 8
    let rest := scanFails seen n (l.drop (16 + ceilDiv (3 * part) 16 * 16))
    match seen.find? fun o => o.index == bits h 31 0 with
    | none => rest
    | some o =>
      match failingBits all (leNat (slice l (16 + part) part)) (leNat (slice l (16 + 2 * part) part)) (leNat o.bits) with
      | [] => rest
      | b :: more => (BitVec.ofNat 32 (bits h 31 0), b / cells, more.length + 1) :: rest

/-- The failing patterns of a package. -/
def packageScan (pkg : List Byte) (seen : List ScanSeen) : List (Word × Nat × Nat) :=
  let h := slice pkg 0 64
  ((packageTiles pkg (byteBits h 191 160) 0).map fun st => scanFails seen (byteBits h 159 128) st).getD []

/-- The number of the first condition that a package breaks; none when it meets all. -/
def packageFails (hardening : Nat) (m pkg : List Byte) (err : Bool) : Option Nat :=
  ((packageConds hardening m pkg err).findIdx? fun c => !c).map (· + 1)

/-! ### The ends of a descriptor (R524) -/

/-- A TEST descriptor ends. -/
def Run.tested (ok : Bool) (r : Run) : Run :=
  if ok then { r with finished := true }
  else { r with finished := true, errTiles := 1, flags := r.flags.tileErr }

/-- The TEST descriptor at the head of a stream ends. -/
def Stream.testEnds (ok : Bool) (x : Stream) : Stream :=
  match x.runs with
  | r :: rest => if r.kind = 0x42 ∧ r.started then { x with runs := r.tested ok :: rest } else x
  | [] => x

/-- The TEST descriptor at the head of a stream completes with BAD_FIELD. -/
def Stream.testRefused (x : Stream) : Stream :=
  match x.runs with
  | r :: rest => if r.kind = 0x42 then { x with runs := { r with status := 0x14, finished := true } :: rest } else x
  | [] => x

/-- The interrupt at the end of a core test or a LOAD_PACKAGE (R533). -/
def State.testIrq (s : State) : State := { s with err := { s.err with irqTest := true } }

/-! ### LOAD_PACKAGE (R529) -/

/-- Cores that are ON and active. -/
def State.onCores (s : State) : List (Fin 16) := (List.finRange 16).filter fun c => s.active c && (s.core c).fn.st == .on

/-- The tiles of a package are decoded on the checker decoder of a core that the block chooses (log 7). -/
def State.packageDecoded (pkg : List Byte) (s : State) : State :=
  let n := byteBits (slice pkg 0 64) 191 160
  match pick s.onCores s.choice with
  | some c => if pkg.length < 64 + 16 * n then s else s.chosen.checkedOn c n
  | none => s

/-- A package whose bytes the pattern port asks for: they lie at STORE_OFFSET, and the length is a multiple of 8 (R528; 16_integration
Table 16-6). -/
def PkgLoad.new (stream : Option Nat) (m : List Byte) : PkgLoad :=
  { stream := stream, manifest := m, bytes := [], err := false, offset := manOffset m, len := ceilDiv (manLength m) 8 * 8 }

/-- A SCAN part reads its package when the pattern port serves no other one. -/
def State.scanReads (s : State) : State :=
  match s.test.running with
  | some x =>
    if x.part = 2 ∧ s.test.pkg.isNone then { s with test := { s.test with pkg := some (PkgLoad.new none (x.man.getD [])) } } else s
  | none => s

/-- A package that has been read becomes the current one, or is rejected. -/
def State.packageRead (n : Nat) (m pkg : List Byte) (err : Bool) (s : State) : State :=
  let s0 := (State.scanReads { s with test := { s.test with pkg := none } }).packageDecoded pkg
  match packageFails s.params.hardening m pkg err with
  | some c =>
    (((s0.report { reason := 0x95, sev := .corrected, detailA := c, detailB := manId m }).updStream n (Stream.testEnds false))).testIrq
  | none =>
    let t := { s0.test with
      pkgValid := true, pkgId := manId m, pkgVersion := manVersion m, pkgCount := byteBits (slice pkg 0 64) 159 128
      pkgManifest := m }
    ((({ s0 with test := t }.report { reason := 0x97, sev := .corrected, detailA := manId m, detailB := manVersion m }).updStream n
      (Stream.testEnds true))).testIrq

/-- LOAD_PACKAGE: the manifest is read; the package follows through the pattern port, which serves one package at a time. A manifest that
is not one, or that arrives with poison, is rejected at once. -/
def State.loadPackage (n : Nat) (img : Image) (s : State) : State :=
  match s.headRun n with
  | none => s
  | some r =>
    if r.kind ≠ 0x42 ∨ dOp r.desc ≠ 3 ∨ r.started ∨ r.finished ∨ s.test.pkg.isSome ∨ s.spanHeld (dArgB r.desc) 128 then s
    else
      let m := if s.spanBad img (dArgB r.desc) 128 then List.replicate 128 0 else imgRead img (dArgB r.desc) 128
      let s1 := (s.startRun n r).bumpN .memPoison (s.spanLost img (dArgB r.desc) 128)
      if byteBits m 31 0 ≠ 0x4D504A44 ∨ manLength m = 0 then s1.packageRead n m [] false
      else { s1 with test := { s1.test with pkg := some (PkgLoad.new (some n) m) } }

/-- Pattern-store bytes arrive for the package being read (R528). -/
def State.patternBytes (data : List Byte) (err : Bool) (s : State) : State :=
  match s.test.pkg with
  | none => s
  | some p =>
    let all := (p.bytes ++ data).take p.len
    let p1 : PkgLoad := { p with bytes := all, err := p.err || err }
    let s1 := { s with test := { s.test with pkg := some p1 } }
    match p1.stream with
    | none => s1
    | some n =>
      if all.length < p.len then s1
      else s1.packageRead n p.manifest (all.take (manLength p.manifest)) p1.err

/-! ### Starting a core test (R518 to R523) -/

/-- A core is eligible for a test: active and not retired (R521). -/
def State.eligibleCore (s : State) (c : Fin 16) : Bool := s.active c && !(s.core c).retired

/-- True when a core is the only ON core that meets a condition. -/
def State.soleOn (s : State) (p : Fin 16 → Bool) (c : Fin 16) : Bool := s.onCores.filter p == [c]

/-- The role or port that keeps a core from its Ferry test: a role bit, or 256 plus the entry of the port in FABRIC (R522; log 20). -/
def State.ferryHolds (s : State) (c : Fin 16) : Option Nat :=
  match (List.range 4).find? fun r => s.soleOn (fun k => (s.roles k).testBit r) c with
  | some r => some (2 ^ r)
  | none =>
    match s.chart.applied with
    | none => none
    | some x =>
      ((x.fabricPorts s.params.hardening).find? fun e => e.2.1 &&
        s.soleOn (fun k => (nth x.fabric e.1 0).toNat.testBit k.val && (s.roles k &&& e.2.2) != 0) c).map fun e => 256 + e.1

/-- Eligible cores in the order of the Ferry: ascending after the core tested last, wrapping. -/
def State.ferryOrder (s : State) : List (Fin 16) :=
  let first := match s.test.ferryLast with | some c => c + 1 | none => 0
  ((List.range 16).filterMap fun i =>
    let k := (first + i) % 16
    if h : k < 16 then some (⟨k, h⟩ : Fin 16) else none).filter s.eligibleCore

/-- DJ_TEST_STAT FERRY_NEXT: the next eligible core of the Ferry. -/
def State.ferryNext (s : State) : Nat := ((s.ferryOrder.head?).map Fin.val).getD 0

/-- The Ferry chooses its core; those skipped on the way have their records. None when every eligible core is skipped. -/
def ferryChoose : List (Fin 16) → State → Option (Fin 16) × State
  | [], s => (none, s)
  | c :: rest, s =>
    match s.ferryHolds c with
    | none => (some c, s)
    | some h => ferryChoose rest
        (s.report { reason := 0x96, sev := .corrected, unit := .core, unitIndex := c.val, detailA := c.val, detailB := h })

/-- The first waiting test is replaced. -/
def State.setFirstTest (x : Option CoreTest) (s : State) : State :=
  { s with test := { s.test with waiting := x.toList ++ s.test.waiting.drop 1 } }

/-- A test starts on a core (Table 14-2, step 1). -/
def State.beginTest (x : CoreTest) (c : Fin 16) (s : State) : State :=
  let man := if s.test.pkgValid then some s.test.pkgManifest else none
  let ferry := x.cause == 0
  let next := ferry || (x.cause == 2 && x.lbist && x.mbist && x.scan)
  let t := { s.test with
    running := some { x with core := c.val, man := man }
    waiting := s.test.waiting.drop 1
    ferryLast := if next then some c.val else s.test.ferryLast
    ferryAt := if ferry then s.time else s.test.ferryAt
    ferryStart := if ferry then some s.time else s.test.ferryStart }
  { s with test := t }.updCore c fun k => { k with
    fn := ⟨if k.keepOff then .shutting else .pendingOn, .before⟩
    keepOff := false }

/-- A descriptor's test whose core is not eligible any more completes with BAD_FIELD; any other is dropped. -/
def State.testVoid (x : CoreTest) (s : State) : State :=
  (whenB (x.cause == 2) (State.updStream x.stream Stream.testRefused) s).setFirstTest none

/-- True when a core can enter its test now: out of service and OFF, or neither shutting down nor waiting. -/
def State.testReady (s : State) (x : CoreTest) (c : Fin 16) : Bool :=
  if (s.core c).out then x.cause == 1 && (s.core c).fn.st == .off else (s.core c).fn.st == .on || (s.core c).fn.st == .off

/-- A test of a named core starts, waits, or is void. -/
def State.startOn (x : CoreTest) (c : Fin 16) (s : State) : State :=
  if x.cause ≠ 1 ∧ !s.eligibleCore c then s.testVoid x
  else if s.testReady x c then s.beginTest x c
  else s

/-- True when a shared-SRAM MBIST may run for a stream: it is the only open one, and nothing else is in flight (R525). -/
def State.aloneFor (s : State) (n : Nat) : Bool :=
  s.streams.all (fun x => x.num == n && decide (x.held ≤ 1)) &&
    s.queues.toList.all fun q => q.wait.isNone && q.early == []

/-- The first waiting test starts when no other runs (R518). -/
def State.startTest (s : State) : State :=
  match s.test.running, s.test.waiting with
  | none, x :: _ =>
    if h : x.core < 16 then s.startOn x ⟨x.core, h⟩
    else if x.core = 16 then
      if s.aloneFor x.stream then
        { s with test := { s.test with running := some { x with part := 1 }, waiting := s.test.waiting.drop 1 } }
      else s.testVoid x
    else
      match ferryChoose s.ferryOrder s with
      | (none, t) => { t with test := { t.test with waiting := t.test.waiting.drop 1, ferryAt := t.time } }
      | (some c, t) =>
        let y : CoreTest := { x with core := c.val }
        (t.setFirstTest (some y)).startOn y c
  | _, _ => s

/-- True when tests may run: the cluster has an applied Chart and is not in a reset. -/
def State.testsRun (s : State) : Bool := s.phase == .run

/-- CORE_TEST_START. -/
def State.coreTestStart (s : State) : State := if s.testsRun then s.startTest else s

/-- FERRY_TIMER (R521, R523). -/
def State.ferryTimer (s : State) : State :=
  let interval := s.chartVal Chart.ferryInterval 0 * 1000000000
  if !s.testsRun ∨ interval = 0 ∨ s.time < s.test.ferryAt + interval ∨ s.test.waiting.any (fun x => x.cause == 0) then s
  else
    { s with test := { s.test with waiting := queueTest (CoreTest.new 17 0 true true true 0) s.test.waiting } }.startTest

/-- A TEST descriptor at the head of its stream asks for its test (R524). `op` is the row's. -/
def State.askTest (n op : Nat) (shared : Bool) (s : State) : State :=
  match s.headRun n with
  | none => s
  | some r =>
    if r.kind ≠ 0x42 ∨ dOp r.desc ≠ op ∨ (dCore r.desc == 255) ≠ shared ∨ r.started ∨ r.finished then s
    else if shared && !s.aloneFor n then s.updStream n Stream.testRefused
    else
      let x := if shared then CoreTest.new 16 2 false true false n
        else CoreTest.new (dCore r.desc) 2 (op != 1) (op != 0) (op == 2) n
      let s1 := s.startRun n r
      { s1 with test := { s1.test with waiting := queueTest { x with order := r.order } s1.test.waiting } }.coreTestStart

/-! ### The parts of a core test (R517, R519, R526, R530, R531) -/

/-- True when a part runs in a test; SCAN runs when PATTERNS is 1 and a package was valid. -/
def State.runsPart (s : State) (x : CoreTest) (p : Nat) : Bool :=
  if p = 0 then x.lbist else if p = 1 then x.mbist
  else x.scan && s.chartVal Chart.patterns false && x.man.isSome

/-- The first part from p on that a test runs; 3 is the wipe. -/
def State.partFrom (s : State) (x : CoreTest) (p : Nat) : Nat := (([0, 1, 2].filter fun q => decide (p ≤ q)).find? (s.runsPart x)).getD 3

/-- A test enters its next part; SCAN reads the package again, behind a package that is being loaded. -/
def State.enterPart (x : CoreTest) (p : Nat) (s : State) : State :=
  State.scanReads { s with test := { s.test with running := some { x with part := s.partFrom x p } } }

/-- A part has ended: passed, or failed. -/
def CoreTest.after (x : CoreTest) (ok : Bool) : CoreTest :=
  { x with ran := x.ran ||| 2 ^ x.part, failed := if ok then x.failed else x.failed ++ [x.part] }

/-- The ramp of a test ends (Table 14-2, step 3). -/
def State.testRamped (c : Fin 16) (s : State) : State :=
  match s.test.running with
  | some x =>
    if x.core = c.val ∧ x.part = 4 ∧ (s.core c).fn.stage = .ramp then
      (s.updCore c fun k => { k with fn := { k.fn with stage := .wipe } }).enterPart x 0
    else s
  | none => s

/-- LBIST_DONE. -/
def State.lbistDone (misr : Dword) (s : State) : State :=
  match s.test.running with
  | some x =>
    if x.part ≠ 0 then s
    else
      let ok := misr == Config.lbistRef s.params.hardening
      let s1 := { s with test := { s.test with misr := misr } }
      let s2 := if ok then s1
        else s1.report { reason := 0x91, sev := .contained, unit := .core, unitIndex := x.core, detailA := bits misr.toNat 31 0,
                         detailB := bits misr.toNat 63 32 }
      s2.enterPart (x.after ok) 1
  | none => s

/-- A repair word (Table 14-3): instance, kind, spare, address. -/
def repairFor (arr kind spare addr : Nat) : Word :=
  BitVec.ofNat 32 (pack [(16, arr), (1, kind), (1, spare), (12, addr), (1, 0), (1, 1)])

/-- A repair that MBIST has loaded: its word is reported, and kept while there is room (R526). -/
def State.repaired (u : UnitId) (i : Nat) (w : Word) (s : State) : State :=
  let t := { s.test with
    repair := if s.test.repair.length < 64 then s.test.repair ++ [w] else s.test.repair
    spares := if s.test.spares.contains (spareOf w) then s.test.spares else s.test.spares ++ [spareOf w] }
  { s with test := t }.report { reason := 0x98, sev := .corrected, unit := u, unitIndex := i, detailA := w.toNat }

/-- The ways to cover the failing cells of an instance with the spares that it has left, two rows and one column at most: the repair words of
each (R526). -/
def State.spareCovers (s : State) (arr : Nat) (cells : List (Nat × Nat)) : List (List Word) :=
  let rows := [0, 1].filter fun k => !s.test.spares.contains (arr, 0, k)
  let cols := if s.test.spares.contains (arr, 1, 0) then [] else (cells.map Prod.snd).eraseDups
  (none :: cols.map some).filterMap fun c =>
    let left := ((cells.filter fun x => some x.2 != c).map Prod.fst).eraseDups
    if rows.length < left.length then none
    else some ((c.toList.map fun x => repairFor arr 1 0 x) ++ (left.zip rows).map fun x => repairFor arr 0 x.2 x.1)

/-- MBIST of one instance: failures that the spares can cover are repaired, in a way that the block chooses (log 7), and the instance is
tested again (R526). The answer is the address at which it fails. -/
def State.mbistOne (u : UnitId) (i : Nat) (r : MbistResult) (s : State) : State × Option Nat :=
  if r.cells = [] then (s, none)
  else match pick (s.spareCovers r.arr r.cells) s.choice with
    | none => (s, some r.addr)
    | some ws => (forAll ws (fun w s => s.repaired u i w) s.chosen, if r.again then some r.addr else none)

/-- MBIST of every instance of a test, and the first that fails: instance and address. -/
def State.mbistAll (u : UnitId) (i : Nat) : List MbistResult → State → State × Option (Nat × Nat)
  | [], s => (s, none)
  | r :: rest, s =>
    let p := s.mbistOne u i r
    let q := p.1.mbistAll u i rest
    (q.1, (p.2.map fun a => (r.arr, a)).or q.2)

/-- MBIST_DONE of a core or of the shared SRAMs (R525, R526). -/
def State.mbistDone (results : List MbistResult) (s : State) : State :=
  match s.test.running with
  | some x =>
    if x.part ≠ 1 then s
    else
      let shared := decide (16 ≤ x.core)
      let u : UnitId := if shared then .cluster else .core
      let i := if shared then 0 else x.core
      match s.mbistAll u i results with
      | (s1, none) => s1.enterPart (x.after true) 2
      | (s1, some (a, addr)) =>
        let flag : BitVec 17 := BitVec.ofNat 17 (2 ^ (if shared then 16 else x.core))
        let s2 := { s1 with test := { s1.test with mbistFail := s1.test.mbistFail ||| flag } }.report
          { reason := 0x92, sev := .contained, unit := u, unitIndex := i, detailA := a, detailB := addr }
        (whenB shared (State.degrade .sram) s2).enterPart (x.after false) 2
  | none => s

/-- A failing pattern as DJ_FAIL_LOG holds it: the bit count stops at 65,535. -/
def failEntry (f : Word × Nat × Nat) : Word × Nat × Nat := (f.1, f.2.1 % 65536, min f.2.2 65535)

/-- SCAN_DONE: the bits that the chains gave are compared with EXPECT under MASK; the result counts when the whole package has been read with
its digest (R517, R530, R531). -/
def State.scanDone (seen : List ScanSeen) (s : State) : State :=
  match s.test.running, s.test.pkg with
  | some x, some p =>
    if x.part ≠ 2 ∨ p.stream.isSome ∨ (p.bytes.length < p.len ∧ !p.err) then s
    else
      let pkg := p.bytes.take (manLength p.manifest)
      let s0 := { s with test := { s.test with pkg := none } }.packageDecoded pkg
      if p.err ∨ sha384 pkg ≠ manDigest p.manifest then
        let same := s.test.pkgManifest == p.manifest
        let s1 := { s0 with test := { s0.test with pkgValid := s0.test.pkgValid && !same } }
        (s1.report { reason := 0x94, sev := .corrected, detailA := manId p.manifest, detailB := manVersion p.manifest }).enterPart x 3
      else
        match packageScan pkg seen with
        | [] => s0.enterPart (x.after true) 3
        | f :: more =>
          let e := failEntry f
          let s1 := { s0 with test := { s0.test with failLog := ((f :: more).take 16).map failEntry } }
          (s1.report { reason := 0x93, sev := .contained, unit := .core, unitIndex := x.core, detailA := f.1.toNat,
                       detailB := e.2.1 + 65536 * e.2.2 }).enterPart (x.after false) 3
  | _, _ => s

/-! ### The end of a test (R431, R519, R520, R525) -/

/-- A core passes: it returns to service, or ends OFF after a DISABLE, and its fault counts are cleared. -/
def Core.passes (active : Bool) (k : Core) : Core :=
  { k with fn := if k.fn.st = .pendingOn ∧ active then Fn.isOn else Fn.isOff, faults := [], out := false, keepOff := false }

/-- A core is retired. -/
def Core.retires (k : Core) : Core := { k with fn := Fn.isOff, out := false, keepOff := false, retired := true }

/-- The wipe that ends a core test is over (Table 14-2, step 6). -/
def State.testWiped (c : Fin 16) (s : State) : State :=
  match s.test.running with
  | none => s
  | some x =>
    if x.core ≠ c.val ∨ x.part ≠ 3 then s
    else
      let ok := x.failed == []
      let s0 := { s with test := { s.test with running := none } }
      let note : Note := { reason := 0, sev := .corrected, unit := .core, unitIndex := c.val }
      let s1 :=
        if ok then
          let wasOut := (s.core c).out
          let s' := (s0.updCore c (Core.passes (s.chart.applied.isNone || s.active c))).report
            { note with reason := 0x90, detailA := x.ran, detailB := x.cause }
          whenB wasOut (State.report { note with reason := 0x0F }) s'
        else
          ((s0.updCore c Core.retires).report
            { note with reason := 0x10, sev := .contained, detailA := x.failed.headD 0 }).degrade .core
      (whenB (x.cause == 2) (State.updStream x.stream (Stream.testEnds ok)) s1).testIrq

/-- The wipe that ends a shared-SRAM MBIST is over (R525). The Harbour, the Atoll and the directory cache are empty; the stream of the
descriptor and the free lists stand (log 21). -/
def State.sharedWiped (s : State) : State :=
  match s.test.running with
  | none => s
  | some x =>
    if x.core ≠ 16 ∨ x.part ≠ 3 then s
    else
      let t : State :=
        { s with
          test := { s.test with running := none }
          dirCache := []
          contrib := []
          lports := s.lports.map fun p => { p with early := [] } }
      t.updStream x.stream (Stream.testEnds (x.failed == []))

/-! ### Test access (R532) -/

/-- True when a life-cycle state opens a test access (Table 13-9). -/
def State.accessOpen (s : State) (k : TestAccess) : Bool :=
  match k with
  | .identification => true
  | .bist _ => s.lc != 4
  | .directScan c => (s.lc == 1 || s.lc == 3) && (s.core c).fn.st == .off

/-- The core that a test access belongs to. -/
def accessCore : TestAccess → Option (Fin 16)
  | .bist c => c
  | .directScan c => some c
  | .identification => none

/-- A segment insertion bit opens. The spec leaves what the network and the wrapper then shift to the ICL and the wrapper description:
DESIGN CHOICE, the registers of a wrapper that a direct scan opens, and the test outputs, are free from then on (log 20). -/
def State.segmentOpens (bitNo : Nat) (k : TestAccess) (s : State) : State :=
  let free (i : Nat) : List Byte := Config.bytes (s.freeCtr + i)
  let w := match k with
    | .directScan c => [Wrapper.mk c (free 0) (leNat (free 1) % 2 == 1) (free 2) (BitVec.ofNat 128 (leNat (free 3)))]
    | _ => []
  let kept := s.test.wrappers.filter fun x => !w.any fun y => y.core == x.core
  { s with
    freeCtr := s.freeCtr + 5
    test := { s.test with
      segments := (s.test.segments.erase (bitNo, k)) ++ [(bitNo, k)], wrappers := kept ++ w, taSo := leNat (free 4) % 2 == 1 } }

/-- TEST_ACCESS: an opening that the life-cycle state allows takes place; a refused one is counted, and reported at most once per 1 ms. -/
def State.testAccess (bitNo : Nat) (k : TestAccess) (s : State) : State :=
  if !s.powered then s
  else if s.accessOpen k then s.segmentOpens bitNo k
  else
    let s1 := s.bump .testRefused
    let due := match s.test.lastRefusal with | some t => decide (t + 1000000 ≤ s.time) | none => true
    if !due then s1
    else
      let u : UnitId × Nat := match accessCore k with | some c => (.core, c.val) | none => (.cluster, 0)
      { s1 with test := { s1.test with lastRefusal := some s.time } }.report
        { reason := 0x9A, sev := .corrected, unit := u.1, unitIndex := u.2, detailA := bitNo, detailB := s.lc + 8 * b2n s.lcInvalid }

end Sys2Proof.Machine
end

