-- ==== Sys2Proof/Machine/Tiles.lean ====
section
/-! DEFINITION. Tiles in and out: the next tile of a descriptor, intake beats, delivery beats and their stalls (06_expansion R209 to R225;
07_compression R253 to R263, R275, R286; 10_memory_channels R407; 11_integrity R420, R433; 13_clocks_power_lifecycle Table 13-5). -/

namespace Sys2Proof.Machine

/-! ### The next tile of a descriptor -/

/-- True while the cluster works on descriptors. -/
def State.working (s : State) : Bool := s.phase == .run && !s.chart.held && !s.clkIsLost .eclk

/-- True unless the delivery or intake port that a descriptor's work uses is out of service: such work waits at its stream's head
(Table 13-5). Chunks of a link port wait in the Harbour instead. -/
def State.portOpen (s : State) (d : BitVec 512) : Bool :=
  match descPort d with
  | some (.delivery, i) => s.dports[dportOf i].fn.st == .on
  | some (.intake, i) => if h : i < 4 then s.iports[i].fn.st == .on else true
  | _ => true


/-- The next tile of a descriptor of a kind that reads stored tiles starts its reading (R211, R214). -/
def State.readNext (n kind : Nat) (use : Use) (s : State) : State :=
  match s.frontRun n (· == kind) with
  | none => s
  | some r0 =>
    if !s.working ∨ !s.portOpen r0.desc then s
    else
      let s1 := s.startRun n r0
      match s1.run? n r0.seq with
      | none => s1
      | some r =>
        if r.issued < r.total ∧ r.issued < r.doneUnits + readAhead then
          ((s1.updRun n r.seq fun y => { y with issued := y.issued + 1 }).issuedNow n r.seq).startRead n r.seq r.issued use
            (dTensor r.desc) r.rec1 (dFirst r.desc + r.issued)
        else s1

/-- Tiles of a descriptor between acceptance and commit (R262). -/
def State.accepted (s : State) (n : Nat) (seq : Word) : Nat :=
  (s.wjobs.filter fun w => w.stream == n && w.seq == seq && w.stage != .beats && w.stage != .done).length

/-- Room in the Harbour, or in the staging region, for one more retained image, with the number of its tile; a stream stalls without it
(R263; 01_five_levels R35). -/
def State.roomFor (n : Nat) (s : State) : State × Option Nat :=
  match s.numbered.makeRoomFor (.image s.nextId) 4096 1 with
  | (t, true) => (t.spillFound n, some s.nextId)
  | (t, false) => (t.spillStall n true, none)

/-- The next tile of a memory source is read (R261, R262). -/
def State.sourceNext (n : Nat) (r : Run) (s : State) : State :=
  if r.issued < r.total ∧ s.accepted n r.seq < 32 then
    match s.roomFor n with
    | (s1, none) => s1
    | (s1, some id) =>
      let tile := r.tileOf r.issued
      let addr := dSrcAddr r.desc + 4096 * (tile - r.baseTile)
      let w := WJob.new id n r.seq r.issued (.memory addr) (dTensor r.desc) r.rec1 tile (.source 64)
      ((s1.addW w).updRun n r.seq fun y => { y with issued := y.issued + 1 }).readSource id addr
  else s

/-- A COMPRESS or RESUME that may run goes on: it starts, and the next tile of a memory source is read. Beats bring the tiles of an
intake port. -/
def State.sourceGo (n : Nat) (seq : Word) (s : State) : State :=
  match s.run? n seq with
  | none => s
  | some r => if r.started ∧ !r.finished ∧ dSource r.desc = 4 then s.sourceNext n r else s

/-- COMPRESS. -/
def State.compressGo (n : Nat) (s : State) : State :=
  match s.frontRun n (· == 2) with
  | none => s
  | some r => if s.working then (s.startRun n r).sourceGo n r.seq else s

/-- RESUME. -/
def State.resumeGo (n : Nat) (s : State) : State :=
  match s.frontRun n (· == 3) with
  | none => s
  | some r => if s.working then (s.startResume n r).sourceGo n r.seq else s

/-! ### Intake beats (R255 to R260, R286) -/

/-- STREAM of IP_META. -/
def ipStream (side : Word) : Nat := bits side.toNat 15 0
/-- BEAT of IP_META. -/
def ipBeat (side : Word) : Nat := bits side.toNat 18 16
/-- ERR of IP_META. -/
def ipErr (side : Word) : Bool := bit side.toNat 19

/-- The intake descriptor that takes a stream's beats: its first one with units left to start. -/
def State.intakeRun (s : State) (port : Fin 4) (n : Nat) : Option Run :=
  (s.frontRun n fun k => k == 2 || k == 3).bind fun r =>
    if intakeKind r.desc && dSource r.desc == port.val && r.status == 0 then some r else none

/-- The tile of a stream whose beats are coming in. -/
def State.partTile (s : State) (n : Nat) : Option WJob := s.wjobs.find? fun w => w.stream == n && w.stage == .beats

/-- The run of a stream that takes the beats of a tile in progress, unless it has stopped before that tile (R274). -/
def State.beatRun (s : State) (port : Fin 4) (n : Nat) : Option Run :=
  match s.partTile n with
  | some w => if w.src == .intake port then (s.run? n w.seq).filter fun r => decide (w.unit < r.total) else none
  | none => s.intakeRun port n

/-- True for a tile to be coded that no engine has coded yet. -/
def WJob.uncoded (w : WJob) : Bool := w.unissued || match w.stage with | .onEngine _ _ => true | _ => false

/-- True when a RESUME has coded the tiles that were retained for it: only then does it take new beats (R275). -/
def State.retainedCoded (s : State) (n : Nat) (r : Run) : Bool :=
  r.cont.all fun p => !s.wjobs.any fun w => w.stream == n && w.seq == r.seq && decide (w.unit < p.accepted) && w.uncoded

/-- True when IP_READY may rise for a beat of a stream (R257, R262, R275; Table 13-5). -/
def State.beatReady (s : State) (port : Fin 4) (n : Nat) : Bool :=
  s.working && s.iports[port].fn.st == .on && s.portThere .intake port.val &&
    match s.beatRun port n with
    | some r => s.retainedCoded n r && ((s.partTile n).isSome || decide (s.accepted n r.seq < 32))
    | none => false

/-- An intake port is changed. -/
def State.updIport (p : Fin 4) (f : IPort → IPort) (s : State) : State := { s with iports := s.iports.set p (f s.iports[p]) }

/-- A beat waits for IP_READY (R257, R259); the inputs of a port that no Chart enables are ignored (R561). -/
def State.beatWaits (port : Fin 4) (side : Word) (s : State) : State :=
  if !s.portThere .intake port.val then s
  else s.updIport port fun p => if p.wait.isSome then p else { p with wait := some (side, s.time), stall := none }

/-- A beat passes. -/
def State.beatPasses (port : Fin 4) (s : State) : State := s.updIport port fun p => { p with wait := none, stall := none }

/-- The tile whose first beat this is, with its number. -/
def State.openTile (port : Fin 4) (n id : Nat) (r : Run) (s : State) : State :=
  let w := WJob.new id n r.seq r.issued (.intake port) (dTensor r.desc) r.rec1 (r.tileOf r.issued) .beats
  (s.addW w).updRun n r.seq fun y => { y with issued := y.issued + 1 }

/-- A beat joins the tile in progress; the eighth one completes it (R258, R260). -/
def State.beatJoins (port : Fin 4) (n : Nat) (side : Word) (data : List Byte) (faults : List (Nat × Nat × Bool)) (s : State) : State :=
  match s.partTile n with
  | none => s
  | some w =>
    let s1 := s.updW w.id fun x => { x with
      data := x.data ++ slice data 0 512
      fail := if ipErr side then some 0x42 else x.fail }
    let k := ((s.stream? n).map Stream.beat).getD 0
    if k < 7 then s1.updStream n fun y => { y with beat := k + 1 }
    else
      let s2 := s1.updStream n fun y => { y with beat := 0 }
      if w.fail.isSome || ipErr side then s2.failSource (.intakePort, port.val) w.id 0x42 0 0
      else (s2.updW w.id fun x => { x with stage := .source 0 }).quantiseTile w.id faults

/-- The tile in progress fails for its beat order (R258). -/
def State.beatFails (port : Fin 4) (n : Nat) (s : State) : State :=
  match s.partTile n with
  | none => s
  | some w => (s.failSource (.intakePort, port.val) w.id 0x43 0 0).updStream n fun y => { y with beat := 0 }

/-- A run that takes beats is started by its first one. -/
def State.startIntake (n : Nat) (r : Run) (s : State) : State := if r.kind = 3 then s.startResume n r else s.startRun n r

/-- A beat that begins a tile. -/
def State.beatBegins (port : Fin 4) (n : Nat) (side : Word) (data : List Byte) (s : State) : State :=
  match s.beatRun port n with
  | none => s.beatWaits port side
  | some r0 =>
    let s0 := s.startIntake n r0
    match s0.partTile n, s0.run? n r0.seq with
    | some _, _ => s0.beatWaits port side
    | none, some r =>
      if !s0.beatReady port n ∨ r.finished ∨ r.total ≤ r.issued then s0.beatWaits port side
      else
        match s0.roomFor n with
        | (t, none) => t.beatWaits port side
        | (t, some id) =>
          let s1 := (t.beatPasses port).openTile port n id r
          if ipBeat side = 0 then s1.beatJoins port n side data []
          else (s1.beatFails port n).updStream n fun y => { y with discard := true }
    | _, _ => s0

/-- A beat passes a port that is ready for its stream (R258). -/
def State.beatTaken (port : Fin 4) (side : Word) (data : List Byte) (faults : List (Nat × Nat × Bool)) (s : State) : State :=
  let n := ipStream side
  match s.stream? n with
  | none => s.beatWaits port side
  | some x =>
    if x.discard && ipBeat side != 0 then s.beatPasses port
    else
      let s1 := s.updStream n fun y => { y with discard := false }
      match s1.partTile n with
      | none => s1.beatBegins port n side data
      | some _ =>
        if ipBeat side = x.beat then (s1.beatPasses port).beatJoins port n side data faults
        else if ipBeat side = 0 then (s1.beatFails port n).beatBegins port n side data
        else ((s1.beatPasses port).beatFails port n).updStream n fun y => { y with discard := true }

/-- True when a stop record holds a stream, and no tile of it comes in (R286). -/
def State.stopHolds (s : State) (n : Nat) : Bool := ((s.stream? n).any fun x => x.stop.isSome) && (s.partTile n).isNone

/-- INTAKE_BEAT: a beat is presented with its sideband and data; it passes when IP_READY may rise for it. While a stop record holds the
stream, the descriptor that follows starts first: it continues the record or discards it (R277, R286). -/
def State.intakeBeat (port : Fin 4) (side : Word) (data : List Byte) (faults : List (Nat × Nat × Bool)) (s : State) : State :=
  let n := ipStream side
  if !s.beatReady port n then s.beatWaits port side
  else if s.stopHolds n then
    match s.beatRun port n with
    | none => s.beatWaits port side
    | some r =>
      let s0 := s.startIntake n r
      if !s0.beatReady port n ∨ s0.stopHolds n then s0.beatWaits port side else s0.beatTaken port side data faults
  else s.beatTaken port side data faults

/-- 1 ms in nanoseconds. -/
def stallNs : Nat := 1000000

/-- True when a stall record is due: 1 ms after the wait began, then at each SERVICE interval. -/
def State.stallDue (s : State) (since : Time) (last : Option Time) : Bool :=
  match last with
  | none => decide (since + stallNs ≤ s.time)
  | some t => decide (t + s.svcAfter t ≤ s.time)

/-- INTAKE_STALL (R259). -/
def State.intakeStall (port : Fin 4) (s : State) : State :=
  let p := s.iports[port]
  match p.wait with
  | none => s
  | some (_, since) =>
    if s.stallDue since p.stall then
      (s.updIport port fun q => { q with stall := some s.time }).report
        { reason := 0x41, sev := .corrected, rep := p.stall.isSome, unit := .intakePort, unitIndex := port.val }
    else s

/-- A port that shuts down fails the tiles whose beats have come in part; their further beats are discarded (Table 13-5, R258). -/
def State.failParts (port : Fin 4) (s : State) : State :=
  forAll (s.wjobs.filter fun w => w.stage == .beats && w.src == .intake port) (fun w s =>
    (s.failSource (.intakePort, port.val) w.id 0x42 0 0).updStream w.stream fun y => { y with beat := 0, discard := true }) s

/-! ### Delivery beats (R215 to R222, R420) -/

/-- A unit whose tail beat has passed leaves its port, and counts in its descriptor (R225, R233, R242). -/
def State.unitLeaves (port : Fin 8) (u : DUnit) (s : State) : State :=
  let s1 := s.updDport port fun p => { p with units := p.units.filter fun x => x.id != u.id }
  if u.again then s1
  else
    match s1.run? u.stream u.seq with
    | none => s1
    | some r =>
      let merge := r.kind == 0x12
      let s2 := match u.job with | some j => s1.dropR j | none => s1
      let s3 := if merge then
          { s2 with groups := s2.groups.filter fun g => !(g.stream == u.stream && g.seq == u.seq && g.num == u.unit) } else s2
      let s4 := s3.updRun u.stream u.seq fun y => { y with
        outCount := y.outCount + 1
        errTiles := y.errTiles + b2n u.poison
        quality := if u.poison || merge then y.quality else worstQuality y.quality u.quality }
      let s5 := whenB (!merge && !u.poison && u.beats.any fun b => metaDemoted b.1) (State.bump .structDemote) s4
      s5.unitEnds u.stream u.seq (if merge then 8192 * mergeKt r.rec1 else 4096)

/-- The group of a delivery unit. -/
def State.groupOf (s : State) (u : DUnit) : Option MGroup :=
  s.groups.find? fun g => g.stream == u.stream && g.seq == u.seq && g.num == u.unit

/-- A tile or group is delivered again (R206): its read goes back to an engine, its group to a merge unit, or, for a ZERO tile or one
that failed before it reached an engine, its beats go out once more. -/
def State.deliverAgain (port : Fin 8) (u : DUnit) (avoid : Option (Fin 16)) (s : State) : State :=
  match u.job.bind s.rjob?, s.groupOf u with
  | some j, _ => s.replayRead j avoid
  | none, some g => s.replayGroup g avoid
  | none, none =>
    let s1 := (s.updDport port fun p => p.retry fun x => x.id == u.id).flagRun u.stream u.seq RunFlags.again
    s1.addUnit port { u with id := s1.nextId, next := 0, replay := true, again := false }

/-- The record of a mismatch of duplicated copies on a beat (R420). -/
def State.dupRecord (port : Fin 8) (u : DUnit) (beat : Nat) (s : State) : State :=
  let d := ((s.run? u.stream u.seq).map Run.desc).getD 0
  let s1 := (s.bump .dupMismatch).workReport u.stream u.seq
    { reason := 0x0A, sev := .corrected, unit := .deliveryPort, unitIndex := port.val, addr := dTensor d,
      tile := if dKind d = 1 then BitVec.ofNat 32 (dFirst d + u.unit) else 0xFFFFFFFF, detailA := beat }
  match s1.groupOf u with
  | some g => s1.coreFault g.core
  | none => s1

/-- A beat passes; `dup` says that the duplicated copies differed on it (R420). -/
def State.beatOut (port : Fin 8) (dup : Bool) (s : State) : State :=
  let p := s.dports[port]
  match p.bus with
  | none => s
  | some (id, beat) =>
    match p.units.find? fun u => u.id == id with
    | none => s.updDport port fun q => { q with bus := none, stall := none, last := some beat }
    | some u =>
      let tail := metaLast beat.1
      let out := if dup && tail then (beat.1 ||| outcomeBits true false 0, beat.2) else beat
      let s1 := s.updDport port fun q => { q with
        bus := none
        stall := none
        last := some out
        units := updWhere (fun x => x.id == id) (fun x => { x with next := x.next + 1 }) q.units }
      let s2 := if dup then s1.dupRecord port u (bits beat.1.toNat 53 48) else s1
      if dup && !u.again then
        let core := (s.groupOf u).map MGroup.core
        if tail then (s2.updDport port fun q => { q with units := q.units.filter fun x => x.id != id }).deliverAgain port u core
        else s2.deliverAgain port u core
      else if tail then s2.unitLeaves port u
      else s2

/-- True when the duplicated copies differ among the faults that a step meets. -/
def dupOf (hw : List HwFault) : Bool := hw.any fun f => f == .dupMismatch

/-- DELIVERY_BEAT. -/
def State.deliveryBeat (port : Fin 8) (hw : List HwFault) (s : State) : State := s.beatOut port (dupOf hw)

/-- PORT_STALL (R219). -/
def State.portStall (port : Fin 8) (s : State) : State :=
  let p := s.dports[port]
  match p.bus with
  | none => s
  | some (id, _) =>
    if s.stallDue p.since p.stall then
      let note : Note := { reason := 0x40, sev := .corrected, rep := p.stall.isSome, unit := .deliveryPort, unitIndex := port.val }
      let s1 := s.updDport port fun q => { q with stall := some s.time }
      match p.units.find? fun u => u.id == id with
      | some u => s1.workReport u.stream u.seq note
      | none => s1.report note
    else s

end Sys2Proof.Machine
end

