-- ==== Sys2Proof/Machine/Answers.lean ====
section
/-! DEFINITION. Memory responses, by what their request belongs to (10_memory_channels R376 to R379, R382, R393; 05_streams_and_order
R158). -/

namespace Sys2Proof.Machine

/-! ### Reads -/

/-- The outstanding request of a port with a tag. -/
def State.req? (s : State) (port : Fin 8) (tag : Nat) : Option MemReq := s.reqs.find? fun r => r.port == port && r.tag == tag

/-- A request is no longer outstanding. -/
def State.dropReq (r : MemReq) (s : State) : State :=
  { s with reqs := s.reqs.filter fun x => !(x.port == r.port && x.tag == r.tag) }

/-- Every sector of a request poisoned. -/
def poisonAll (r : MemReq) : Image := ⟨[], (List.range r.sectors).map fun i => r.addr + 64 * i⟩

/-- The address of the first poisoned sector of a request. -/
def firstPoison (img : Image) (addr n : Nat) : Option Nat :=
  ((List.range n).map fun i => addr + 64 * i).find? fun a => imgPoison img a 64

/-- The reason that poisoned sectors of a request carry (R379, R393). -/
def poisonReason (dead : Bool) : Nat := if dead then 0x63 else 0x60

/-- The presence word of a read job, from its sector. -/
def State.presenceOf (s : State) (id : Nat) (img : Image) : Nat × Bool :=
  match s.rjob? id with
  | none => (0, false)
  | some j =>
    let a := presenceAddr j.trec j.tile
    (imgNat img a 8, imgPoison img a 8)

/-- The entry of a read job, from its sector, with its poison. -/
def State.entryOfJob (s : State) (id : Nat) (img : Image) (port : Fin 8) (dead : Bool) :
    BitVec 128 × Option (Nat × Nat × Fin 8) :=
  match s.rjob? id with
  | none => (0, none)
  | some j =>
    let a := entryAddr j.trec j.tile
    (BitVec.ofNat 128 (imgNat img a 16), if imgPoison img a 16 then some (poisonReason dead, a, port) else none)

/-- A held source tile has been read again: it goes to its space. One that memory does not give either can serve no recomputation. -/
def State.spillBack (id : Nat) (bad : Bool) (s : State) : State :=
  match s.lagoon.find? fun x => x.id == id with
  | none => s
  | some x =>
    let s1 : State := match x.of_, bad with
      | .addend a i, true =>
        let mine := s.contrib.filter fun (c : Nat × Nat × BitVec 128 × List Byte) => c.1 == a
        let k := (mine[i]?).map fun c => c.2.1
        s.updA a fun y => { y with held := updWhere (fun p => some p.k == k) (fun p => { p with lost := true }) y.held }
      | _, _ => s
    let s2 := s1.updSpill id fun y => { y with reads := y.reads - 1 }
    if 1 < x.reads then s2 else s2.spillStore x.of_ 0 x.sectors

/-- Data goes to the work that a read belongs to. `faults` are the bound-check faults met while a dense source is quantised. -/
def State.readData (r : MemReq) (img : Image) (dead : Bool) (faults : List (Nat × Nat × Bool)) (s : State) : State :=
  match r.purpose with
  | .presence id => let p := s.presenceOf id img; s.gotPresence id p.1 p.2
  | .entry id => let p := s.entryOfJob id img r.port dead; (s.fillCache id p.1 p.2.isSome).gotEntry id p.1 p.2
  | .payload id base => s.gotPayload id base r.addr r.sectors r.port img dead
  | .source id base => s.gotSource id base r.addr r.sectors r.port img dead faults
  | .index n base => s.gotIndex n base r.addr img (imgPoison img r.addr (64 * r.sectors))
  | .chart base => s.gotChart base r.addr r.sectors img (imgPoison img r.addr (64 * r.sectors))
  | .spillAgain id => s.spillBack id (imgPoison img r.addr (64 * r.sectors))
  | .spillRead id => (s.updSpill id (Spill.arrived (firstPoison img r.addr r.sectors)))
  | .partWrite _ _ | .partMap _ | .remoteMap _ _ _ | .entryWrite _ | .mapBit | .presenceWrite _ | .cmpl _ _ _ _ _ | .exportWrite _
  | .spillMap _ | .spillWrite _ | .discarded => s

/-- A read is answered: what its group gives counts for the rate of R411, and poisoned sectors count in MEM_POISON (R379). -/
def State.readAnswer (r : MemReq) (img : Image) (dead : Bool) (faults : List (Nat × Nat × Bool)) (s : State) : State :=
  let bad := poisonedSectors img r.addr r.sectors
  (whenB (bad != 0) (State.bumpN .memPoison bad) (s.readBytes r.addr r.sectors)).readData r img dead faults

/-! ### Writes -/

/-- One write of a part's payload is acknowledged. -/
def Part.acked (p : Part) : Part := { p with acks := p.acks - 1 }

/-- One map write of a grant is acknowledged; the last one makes the sectors usable (R382). -/
def State.mapAcked (id : Nat) (s : State) : State :=
  match (s.wjob? id).map WJob.stage with
  | some (.mapping n) => if n ≤ 1 then s.grantReady id else s.updW id fun x => { x with stage := .mapping (n - 1) }
  | _ => s

/-- The write of a request is acknowledged. -/
def State.writeAcked (r : MemReq) (s : State) : State :=
  match r.purpose with
  | .partWrite w i => s.updPart w i Part.acked
  | .partMap w => s.mapAcked w
  | .remoteMap c j _ => s.remoteMapped c j
  | .entryWrite c => s.entryAcked c
  | .presenceWrite c => s.presenceAcked c
  | .cmpl src a rest irq fin => s.cmplHalf src a rest irq fin
  | .exportWrite n => s.exportAcked n
  | .spillMap id => s.spillMapped id
  | .spillWrite id => s.spillWritten id
  | .mapBit | .discarded | .presence _ | .entry _ | .payload _ _ | .source _ _ | .index _ _ | .chart _ | .spillRead _ | .spillAgain _ => s

/-- An ERR response: the write of an entry goes by R378; every other write is issued again (log 23). -/
def State.writeErr (r : MemReq) (s : State) : State :=
  match r.purpose with
  | .entryWrite c => s.entryErr c
  | .discarded => s
  | _ => s.issue r

/-- A write is answered. -/
def State.writeAnswer (r : MemReq) (err : Bool) (s : State) : State := if err then s.writeErr r else s.writeAcked r

/-! ### Requests of a dead channel (R393) -/

/-- A payload write of a dead channel is abandoned: its part asks for other sectors and is written from what is retained. -/
def State.replacePart (id i : Nat) (s : State) : State :=
  match s.wjob? id with
  | none => s
  | some w =>
    match w.parts[i]? with
    | none => s
    | some p =>
      let s1 := (s.dropPlaces [p]).dropReqs fun q => match q with | .partWrite x y => x == id && y == i | _ => false
      s1.updPart id i fun q => { q with place := none, acks := 0 }

/-- What becomes of a request that waits for a dead channel: a read is poisoned, a payload goes elsewhere, an entry write meets ERR; other
writes wait for the channel (log 24). -/
def State.deadAnswer (r : MemReq) (s : State) : State :=
  match r.kind, r.purpose with
  | .read, _ => s.readAnswer r (poisonAll r) true []
  | _, .partWrite w i => s.replacePart w i
  | _, .entryWrite c => s.entryErr c
  | _, _ => { s with holdq := s.holdq ++ [r] }

/-- Requests that wait for dead channels are answered. -/
def State.answerDead (s : State) : State :=
  let dead (r : MemReq) : Bool := s.deadAddr r.addr
  forAll (s.holdq.filter dead) (fun r s => s.deadAnswer r) { s with holdq := s.holdq.filter fun r => !dead r }

end Sys2Proof.Machine
end

