-- ==== Sys2Proof/Machine/Assign.lean ====
section
/-! DEFINITION. Assignment of work to engines, checker decoders, ports and sectors (01_five_levels R15 to R17; 05_streams_and_order R192 to
R195, R205, R567; 06_expansion R217, R218; 07_compression R263, R265, R272; 11_integrity R426; 12_chart R483; 13_clocks_power_lifecycle
R500; 14_field_test R519). -/

namespace Sys2Proof.Machine

/-! ### Engines -/

/-- What an engine may take: a tile that has been read, or a reference image to code. -/
inductive Work where
  | read (j : RJob)
  | write (w : WJob)
  deriving DecidableEq, Repr

/-- Work that asks for an engine, with the engines that may take it. -/
structure Ask where
  req : Req
  slots : List (Fin 16 × Fin 8)
  work : Work
  deriving DecidableEq, Repr

/-- Free engines for some work, without a core that it must not run on again, when another core could serve it (R205; log 22). -/
def State.slotsFor (s : State) (need : Need) (avoid : Option (Fin 16)) : List (Fin 16 × Fin 8) :=
  let other := (s.servers need).any fun c => some c != avoid
  (s.engineSlots need).filter fun x => !(other && some x.1 == avoid)

/-- True when a tile for delivery may take an engine: its port is in service and has room, and every earlier tile of its stream has
one (R218; Table 13-5). -/
def State.deliverTurn (s : State) (j : RJob) (r : Run) : Bool :=
  s.portOpen r.desc && decide (s.portLoad (dportOf (dDport r.desc)) < 16) &&
    !(s.rjobs.takeWhile fun x => x.id != j.id).any fun x => x.stream == j.stream && x.use == .deliver && !x.placed

/-- What the decoding of a tile needs: a tile of a MERGE group is decoded on the core of its group (06_expansion R236). -/
def State.readNeed (s : State) (j : RJob) (r : Run) : Need :=
  let on (g : Nat) : Need := { descNeed r.desc with only := (s.groups.find? fun x => x.id == g).map MGroup.core }
  match j.use with
  | .mergeA g _ | .mergeW g _ => on g
  | _ => descNeed r.desc

/-- The request of a tile that has been read, once its payload is in the Harbour. -/
def State.readAsk (s : State) (j : RJob) : Option Ask :=
  match s.run? j.stream j.seq with
  | none => none
  | some r =>
    if j.stage = .ready ∧ s.inPlace (.payload j.id) ∧ (j.use ≠ .deliver ∨ s.deliverTurn j r) then
      some ⟨s.reqOf j.stream j.seq j.replay, s.slotsFor (s.readNeed j r) j.avoid, .read j⟩
    else none

/-- True when an earlier accepted tile of a descriptor has no engine yet: tiles of COMPRESS and RESUME are coded in ascending order
(R263). -/
def State.codeTurn (s : State) (w : WJob) : Bool :=
  match w.src with
  | .intake _ | .memory _ =>
    !(s.wjobs.takeWhile fun x => x.id != w.id).any fun x =>
      x.stream == w.stream && x.seq == w.seq && x.unissued && x.stage != .beats
  | _ => true

/-- True when a reference image may be coded: it is in the Harbour, and has not been stopped for space. -/
def State.mayCode (s : State) (w : WJob) : Bool :=
  w.stage == .ready && s.inPlace (.image w.id) && (s.run? w.stream w.seq).any fun r => decide (w.unit < r.total)

/-- The request of a reference image. -/
def State.writeAsk (s : State) (w : WJob) : Option Ask :=
  match s.run? w.stream w.seq with
  | none => none
  | some r =>
    if s.mayCode w && w.needsEngine && s.codeTurn w then
      some ⟨s.reqOf w.stream w.seq w.replay, s.slotsFor (descNeed r.desc) w.avoid, .write w⟩
    else none

/-- The requests of each stream are reduced to one: its first class 1 request, else its first. -/
def firstAsks : List Ask → List Ask
  | [] => []
  | a :: rest =>
    let others := (firstAsks rest).filter fun b => b.req.stream != a.req.stream
    match (firstAsks rest).find? fun b => b.req.stream == a.req.stream with
    | some b => (if b.req.cls = 1 ∧ a.req.cls ≠ 1 then b else a) :: others
    | none => a :: others

/-- The requests for engines: those that can be met now, and those that wait beside them. -/
def State.engineAsks (s : State) : List Ask × List Ask :=
  let all := s.rjobs.filterMap s.readAsk ++ s.wjobs.filterMap s.writeAsk
  (firstAsks (all.filter fun a => a.slots != []), firstAsks (all.filter fun a => a.slots == []))

/-- A tile takes an engine. The measures of R202 are those in force when a tile to be coded is issued. -/
def State.takeEngine (w : Work) (c : Fin 16) (e : Fin 8) (s : State) : State :=
  match w with
  | .read j =>
    let k := { j with stage := .onEngine c e }
    let s1 := (s.updR j.id fun _ => k).roleFound j.stream
    if j.use = .deliver then s1.openUnit k else s1
  | .write w =>
    let late := (s.stream? w.stream).any Stream.catchup
    ((s.updW w.id fun x => { x with stage := .onEngine c e, issued := true, catchup := if x.issued then x.catchup else late }).issuedNow
      w.stream w.seq).roleFound w.stream

/-- One grant of an engine (R192 to R195). -/
def State.assignOne (s : State) : Option State :=
  let asks := s.engineAsks
  match grant (s.arb resEngine) (asks.1.map Ask.req) (asks.2.map Ask.req) with
  | none => none
  | some (r, a, forced) =>
    match asks.1.find? fun x => x.req == r with
    | none => none
    | some x => (pick x.slots s.choice).map fun p => (s.chosen.granted a forced).takeEngine x.work p.1 p.2

/-- Engines are granted until no request can be met. -/
def State.assignEngines : Nat → State → State
  | 0, s => s
  | fuel + 1, s => match s.assignOne with | none => s | some t => t.assignEngines fuel

/-! ### Checker decoders -/

/-- A part that asks for a checker decoder, with the cores that may take it. -/
structure CheckAsk where
  req : Req
  job : Nat
  part : Nat
  cores : List (Fin 16)
  deriving DecidableEq, Repr

/-- The request of a part: a first checker on another core than the coder, or the third evaluation on core c of R426. It waits while it has
no core that is free. -/
def State.checkAsk (s : State) (w : WJob) (i : Nat) (p : Part) : Option CheckAsk :=
  match p.verify with
  | .waiting =>
    some ⟨s.reqOf w.stream w.seq w.contains, w.id, i,
      (List.finRange 16).filter fun c => c != w.coder && s.active c && (s.core c).fn.st == .on && !s.checkerBusy c⟩
  | .disagreed b _ =>
    (s.thirdCore w.coder b).map fun c => ⟨s.reqOf w.stream w.seq true, w.id, i, if s.checkerBusy c then [] else [c]⟩
  | _ => none

/-- The requests for checker decoders. A stopped assignment leaves the checks of coded tiles alone, which the tables
that coded them must decode (12_chart R484; log 84). -/
def State.checkAsks (s : State) : List CheckAsk :=
  s.wjobs.flatMap fun w => w.parts.zipIdx.filterMap fun x => s.checkAsk w x.2 x.1

/-- A part takes a checker decoder. -/
def Verify.taken (c : Fin 16) : Verify → Verify
  | .waiting => .checking c
  | .disagreed b seen => .third b c seen
  | v => v

/-- One grant of a checker decoder. -/
def State.checkOne (s : State) : Option State :=
  let asks := s.checkAsks.filter fun a => a.cores != []
  match grant (s.arb resChecker) (asks.map CheckAsk.req) ((s.checkAsks.filter fun a => a.cores == []).map CheckAsk.req) with
  | none => none
  | some (r, a, forced) =>
    match asks.find? fun x => x.req == r with
    | none => none
    | some x => (pick x.cores s.choice).map fun c =>
        (s.chosen.granted a forced).updPart x.job x.part fun p => { p with verify := p.verify.taken c }

/-- Checker decoders are granted until no request can be met. -/
def State.assignCheckers : Nat → State → State
  | 0, s => s
  | fuel + 1, s => match s.checkOne with | none => s | some t => t.assignCheckers fuel

/-- A selected part whose last possible checker has gone is committed without verification (R568); a settlement whose core c has gone
has no majority (Table 11-3). -/
def State.checkersGone (s : State) : State :=
  forAll s.wjobs (fun w0 s => forAll (List.range w0.parts.length) (fun i s =>
    match s.wjob? w0.id with
    | none => s
    | some w =>
      match w.parts[i]? with
      | none => s
      | some p =>
        match p.verify with
        | .waiting =>
          if s.hasChecker w.coder then s else (s.noChecker w).updPart w.id i fun q => { q with verify := .none }
        | .disagreed b seen =>
          if (s.thirdCore w.coder b).isSome then s else s.noMajority w i p w.coder b 0xFF seen
        | _ => s) s) s

/-! ### ROLE_WAIT (R567) -/

/-- True when a run has an accumulator tile or a group to start, or one that has lost its core. -/
def State.wantsUnit (s : State) (x : Stream) (r : Run) : Bool :=
  let lost (c : Fin 16) : Bool := (s.core c).fn.st != .on && (s.core c).fn.stage != .before
  (r.started && !r.finished && decide (r.issued < r.total) && (r.kind == 0x10 || r.kind == 0x12)) ||
    (s.unitWaits.any fun w => w.stream == x.num && w.kind == r.kind) ||
    (s.scatter.any fun z => z.stream == x.num && z.seq == r.seq && z.todo != []) ||
    (s.accs.any fun a => a.stream == x.num && a.seq == r.seq && (a.away || lost a.core)) ||
    (s.groups.any fun g => g.stream == x.num && g.seq == r.seq && (g.away || lost g.core))

/-- The run of a stream whose work waits for a core with its role: no ON core has it. -/
def State.lacksCore (s : State) (x : Stream) : Option Run :=
  x.runs.find? fun r =>
    (kindRole r.kind).isSome && r.status == 0 && s.onServers (descNeed r.desc) == [] &&
      (s.wantsUnit x r || s.rjobs.any (fun j => j.stream == x.num && j.seq == r.seq && j.stage == .ready) ||
        s.wjobs.any fun w => w.stream == x.num && w.seq == r.seq && s.mayCode w && w.needsEngine)

/-- Streams stall, or go on. -/
def State.roleStalls (s : State) : State :=
  forAll s.streams (fun x s =>
    match s.lacksCore x with
    | some r => s.roleStall x.num r.seq (descNeed r.desc)
    | none => if x.stallRole.isSome then s.roleFound x.num else s) s

/-! ### Sectors (R272) -/

/-- Who waits for sectors of a pool: a tile of this cluster, or another cluster. -/
inductive SectorAsk where
  | own (job : Nat)
  | other (r : RemoteRequest)
  deriving DecidableEq, Repr

/-- The rank of a request of another cluster, as its message gives it; the streams of other clusters are numbered behind this one's. -/
def remoteRank (r : RemoteRequest) : Req := ⟨r.cls, r.urgent, 65538 * (r.cluster + 1) + r.stream, r.weight, true⟩

/-- Waiting requests for sectors of a pool, of this cluster and of others, each with whether it can be answered now. -/
def State.allocAsks (s : State) (pool : Nat) : List (Req × SectorAsk × Bool) :=
  match s.pool? pool, s.poolSt? pool with
  | some p, some ps =>
    let answered (recAddr tile : Nat) (sizes : List (Nat × Nat)) : Bool := s.tryAlloc p ps recAddr tile sizes != .waits
    (ps.waiting.filterMap fun id =>
      (s.wjob? id).bind fun w =>
        if !s.requestTurn w then none
        else w.request.map fun q => (s.reqOf w.stream w.seq w.contains, .own id, answered w.recAddr w.tile q.2)) ++
      (s.remoteAsks.filter fun r => r.pool == pool).map fun r => (remoteRank r, .other r, answered r.recAddr r.tile r.sizes)
  | _, _ => []

/-- A request for sectors is evaluated. -/
def State.serveAsk (x : SectorAsk) (s : State) : State :=
  match x with
  | .own id => s.serveRequest id
  | .other r => s.serveRemote r false

/-- One waiting request of a pool is answered, chosen as R272 states. -/
def State.allocOne (pool : Nat) (s : State) : Option State :=
  let all := s.allocAsks pool
  let asks := all.filter fun x => x.2.2
  match grant (s.arb (resSectors pool)) (asks.map Prod.fst) ((all.filter fun x => !x.2.2).map Prod.fst) with
  | none => none
  | some (r, a, forced) => (asks.find? fun x => x.1 == r).map fun x => (s.granted a forced).serveAsk x.2.1

/-- Waiting requests of a pool are answered while any can be. -/
def State.allocAll (pool : Nat) : Nat → State → State
  | 0, s => s
  | fuel + 1, s => match s.allocOne pool with | none => s | some t => t.allocAll pool fuel

/-- Waiting requests of every pool, those of other clusters among them. -/
def State.allocWaiting (s : State) : State :=
  forAll s.pools (fun p s => s.allocAll p.id (p.waiting.length + s.remoteAsks.length)) s

/-! ### Memory-port request slots (R192; 10_memory_channels R375) -/

/-- The descriptor whose work spilled data serves, and whether that is class 1 work; none for data of no descriptor. -/
def State.spillWork (s : State) (o : SpillOf) : Option (Nat × Word × Bool) :=
  let coll (n : Nat) (isSend : Bool) : Option (Nat × Word × Bool) :=
    (s.colls.find? fun c => c.stream == n && c.isSend == isSend).map fun c => (n, c.seq, false)
  match o with
  | .image w => (s.wjob? w).map fun x => (x.stream, x.seq, x.contains)
  | .payload j => (s.rjob? j).map fun x => (x.stream, x.seq, x.replay)
  | .addend a _ => (s.acc? a).map fun x => (x.stream, x.seq, x.replay || x.faulted.isSome)
  | .sum a => (s.colls.find? fun c => c.sums.any fun x => x.id == a).map fun c => (c.stream, c.seq, false)
  | .received n _ => coll n false
  | .outgoing n _ => coll n true
  | .directory | .records _ _ => s.scatter.map fun x => (x.stream, x.seq, x.replay)
  | .history n _ _ => (s.headRun n).map fun r => (n, r.seq, false)
  | .spare _ | .context _ | .wiped _ | .early _ _ | .chartBytes _ => none

/-- The descriptor whose work a memory request serves, and whether that is class 1 work. -/
def State.workOf (s : State) (p : Purpose) : Option (Nat × Word × Bool) :=
  match p with
  | .presence j | .entry j | .payload j _ => (s.rjob? j).map fun x => (x.stream, x.seq, x.replay)
  | .source w _ => (s.wjob? w).map fun x => (x.stream, x.seq, x.contains)
  | .index n _ => (s.scat? n).map fun x => (n, x.seq, x.replay)
  | .exportWrite n => (s.headRun n).map fun r => (n, r.seq, false)
  | .spillMap i | .spillWrite i | .spillRead i | .spillAgain i => (s.lagoon.find? fun x => x.id == i).bind fun x => s.spillWork x.of_
  | _ => (s.writerOf p).map fun x => (x.stream, x.seq, x.contains)

/-- The class of a memory access that serves no tile of a descriptor of this cluster: that of another cluster's work, 3 for an early chunk,
6 for class 6 work, else 1 (DESIGN CHOICE, log 57). -/
def State.otherClass (s : State) (p : Purpose) : Nat :=
  match p with
  | .entryWrite c | .presenceWrite c => ((s.commits.find? fun x => x.id == c).map Commit.cls).getD 1
  | .remoteMap _ _ cls => cls
  | .spillMap i | .spillWrite i | .spillRead i | .spillAgain i =>
    if (s.lagoon.find? fun x => x.id == i).any fun x => match x.of_ with | .early _ _ => true | _ => false then 3
    else if s.classSix p then 6 else 1
  | _ => if s.classSix p then 6 else 1

/-- True for the request at which a memory port counts a tile of its stream's round: the first one for its payload or its dense source, and
the entry write of a tile that reads neither (R193; log 57). -/
def State.tileBegins (s : State) (p : Purpose) : Bool :=
  match p with
  | .payload _ 0 | .source _ 0 => true
  | .entryWrite c => (s.commits.find? fun x => x.id == c).any fun x => x.part == 0 &&
      (s.writerOf p).any fun w => match w.src with | .intake _ | .drain _ => true | _ => false
  | _ => false

/-- The request of a memory access for a slot of its port; a page that the Causeway moves is class 6 work whatever it holds. -/
def State.slotReq (s : State) (r : MemReq) : Req :=
  match s.workOf r.purpose with
  | none => ⟨s.otherClass r.purpose, none, 65537, 1, false⟩
  | some (n, seq, again) =>
    let q := { s.reqOf n seq again with counts := s.tileBegins r.purpose }
    if s.classSix r.purpose ∧ q.cls ≠ 6 ∧ !again then { q with cls := 6, urgent := none } else q

/-- One waiting request of a port takes a free tag, as R192 to R195 choose. -/
def State.issueOne (m : Fin 8) (s : State) : Option State :=
  let mine := s.holdq.filter fun r => r.port == m
  let l := mine.filter s.issuable
  match s.freeTag m s.choice, grant (s.arb (resMemory m.val)) (l.map s.slotReq) ((mine.filter fun r => !s.issuable r).map s.slotReq) with
  | some t, some (r, a, forced) => (l.find? fun x => s.slotReq x == r).map fun x =>
      let s1 := s.chosen.granted a forced
      { s1 with holdq := s1.holdq.erase x, reqs := s1.reqs ++ [{ x with tag := t }] }
  | _, _ => none

/-- Waiting requests of a port are issued while any can be. -/
def State.issueAll (m : Fin 8) : Nat → State → State
  | 0, s => s
  | fuel + 1, s => (s.issueOne m).elim s fun t => t.issueAll m fuel

/-- Requests whose channel serves again, and those that waited for a tag, are issued. -/
def State.issueWaiting (s : State) : State :=
  forAll (List.finRange 8) (fun m s => s.issueAll m (s.holdq.filter fun r => r.port == m).length) s

/-- A part that lost its sectors asks again. -/
def State.askAgain (s : State) : State :=
  { s with wjobs := s.wjobs.map fun w =>
      if w.stage == .writing && w.parts.any Part.needsPlace then { w with stage := .space } else w }

/-! ### Delivery ports (R217) -/

/-- True when a unit has a beat to offer: a tail beat leaves only when the outcome is known. -/
def DUnit.hasBeat (u : DUnit) : Bool :=
  decide (u.next < u.beats.length) && (u.decoded || decide (u.next + 1 < u.beats.length))

/-- The first unit of each stream. -/
def firstUnits : List DUnit → List DUnit
  | [] => []
  | u :: us => u :: (firstUnits us).filter fun x => x.stream != u.stream

/-- Units of a port whose next beat may go out: those whose turn it is. A port that shuts down, and a warm reset, finish the units that
have begun (Table 13-5, R496). -/
def State.offerable (s : State) (p : Fin 8) : List DUnit :=
  let d := s.dports[p]
  let warm := match s.phase with | .warm _ _ _ => true | _ => false
  let serves (u : DUnit) : Bool := warm || d.fn.st == .on || (d.fn.stage == .before && decide (0 < u.next))
  (firstUnits (d.units.filter fun u => warm || s.turn u.stream u.seq u.unit)).filter fun u => serves u && u.hasBeat

/-- A beat with its outcome bits. -/
def DUnit.beatNow (u : DUnit) (b : BitVec 128 × List Byte × List Byte) : BitVec 128 × List Byte × List Byte :=
  let last := metaLast b.1
  (b.1 ||| outcomeBits (u.bad || (last && u.poison)) (last && u.replay) (if last then u.quality else 0), b.2)

/-- A port raises DP_VALID with the beat of the unit that R192 to R194 choose; a tile counts in its stream's round at its tail beat. -/
def State.offer (p : Fin 8) (s : State) : State :=
  if s.dports[p].bus.isSome then s
  else
    let us := s.offerable p
    match grant (s.arb (resDelivery p.val)) (us.map fun u =>
        { s.reqOf u.stream u.seq u.replay with counts := decide (u.beats.length ≤ u.next + 1) }) with
    | none => s
    | some (r, a, forced) =>
      match us.find? fun u => u.stream == r.stream with
      | none => s
      | some u =>
        match u.beats[u.next]? with
        | none => s
        | some b => (s.granted a forced).updDport p fun d => { d with bus := some (u.id, u.beatNow b), since := s.time, stall := none }

/-- Every port offers its next beat. -/
def State.offers (s : State) : State := forAll (List.finRange 8) (fun p s => s.offer p) s

end Sys2Proof.Machine
end

