-- ==== Sys2Proof/Machine/HwFaults.lean ====
section
/-! DEFINITION. Hardware faults that a step meets: corrected and uncorrectable SRAM words, parity errors (11_integrity R414 to R417,
R429; Table 11-2). -/

namespace Sys2Proof.Machine

/-! ### Where a fault lies (Table 11-6) -/

/-- A core by its number. -/
def coreNo (c : Nat) : Fin 16 := ⟨c % 16, Nat.mod_lt _ (by decide)⟩

/-- Unit and index of a store. -/
def State.storeUnit (s : State) (x : SramStore) : UnitId × Nat :=
  match x with
  | .engine c _ | .checker c | .tables c => (.core, c)
  | .accumulator a => (.core, ((s.acc? a).map fun y => y.core.val).getD 0)
  | .atoll => (.atoll, 0)
  | .retained _ | .readAhead _ | .addendChunk _ _ | .sentChunk _ _ => (.harbour, 0)
  | .delivery p => (.deliveryPort, p)
  | .context _ => (.streamTracker, 0)
  | .dirCache _ | .history _ => (.cluster, 0)
  | .allocator _ => (.allocator, 0)

/-- The core whose store it is (R429). -/
def State.storeCore (s : State) (x : SramStore) : Option (Fin 16) :=
  match x with
  | .engine c _ | .checker c | .tables c => some (coreNo c)
  | .accumulator a => (s.acc? a).map AccTile.core
  | _ => none

/-! ### Responses of Table 11-2 -/

/-- The jobs on one engine, or on a whole core. -/
def onCore (c : Fin 16) (e : Option Nat) (x : RStage) : Bool :=
  match x with | .onEngine d f => d == c && (e.isNone || e == some f.val) | _ => false

/-- The same for a tile being coded. -/
def onCoreW (c : Fin 16) (e : Option Nat) (x : WStage) : Bool :=
  match x with | .onEngine d f => d == c && (e.isNone || e == some f.val) | _ => false

/-- Tiles in flight on an engine, or on a core, are executed again on another core (R205, R206). -/
def State.replayCore (c : Fin 16) (e : Option Nat) (s : State) : State :=
  let s1 := forAll (s.rjobs.filter fun j => onCore c e j.stage) (fun j s => s.replayTile j (some c)) s
  forAll (s1.wjobs.filter fun w => onCoreW c e w.stage) (fun w s => s.replayWrite w (some c)) s1

/-- The groups of a merge unit are executed again. -/
def State.replayGroups (c : Fin 16) (s : State) : State :=
  forAll (s.groups.filter fun g => g.core == c) (fun g s => s.replayGroup g (some c)) s

/-- Checker decodings of a core are done again on another one when one is free. -/
def State.recheck (c : Fin 16) (s : State) : State :=
  let others := (List.finRange 16).filter fun k => k != c && s.active k && (s.core k).fn.st == .on && !s.checkerBusy k
  { s with wjobs := s.wjobs.map fun w => { w with parts := w.parts.map fun p =>
      match p.verify with
      | .checking b =>
        if b = c then { p with verify := match others.find? fun k => k != w.coder with | some k => .checking k | none => .waiting } else p
      | .third b k seen => if k = c then { p with verify := .disagreed b seen } else p
      | _ => p } }

/-- The work of a core that its tables have served: its tiles in flight are executed again, those that it has coded and not committed among
them, and its checker decodings are done again (05_streams_and_order R205, R206). -/
def State.tablesLost (c : Fin 16) (s : State) : State :=
  let s1 := s.replayCore c none
  (forAll (s1.wjobs.filter fun w => w.coder == c && s1.codedInFlight w) (fun w s => s.replayWrite w (some c)) s1).recheck c

/-- The unit that a delivery port's buffers hold first is executed and delivered again (05_streams_and_order R206). -/
def State.bufferLost (p : Fin 8) (s : State) : State :=
  match s.dports[p].units.head? with
  | some u => s.deliverAgain p u none
  | none => s

/-- The reads of a dense source. -/
def Purpose.ofSource (id : Nat) : Purpose → Bool
  | .source w _ => w == id
  | _ => false

/-- A tile whose retained image is lost is read again from memory, or fails at its source (R260, R261; log 25). -/
def State.sourceAgain (w : WJob) (s : State) : State :=
  match w.src with
  | .memory a =>
    ((s.dropReqs (Purpose.ofSource w.id)).updW w.id fun x =>
      { x with stage := .source 64, data := [], buf := [], carry := [], carryLost := false, quality0 := 0 }).readSource w.id a
  | .intake p => s.failSource (.intakePort, p.val) w.id 0x42 0 0
  | _ => s.failSource (.harbour, 0) w.id 0x42 0 0

/-- A retained image is lost before its tile goes to its commit; the beats of a tile that has come in part are discarded from now on
(07_compression R258). -/
def State.imageLost (id : Nat) (s : State) : State :=
  match s.wjob? id with
  | none => s
  | some w =>
    match w.stage with
    | .queued _ | .done => s
    | .beats => (s.sourceAgain w).updStream w.stream fun y => { y with beat := 0, discard := true }
    | .source _ => s.sourceAgain w
    | _ => (s.replayWrite w none).sourceAgain w

/-- A payload that waits in the Harbour is read again, from its entry on (05_streams_and_order R191). -/
def State.payloadLost (id : Nat) (s : State) : State :=
  match s.rjob? id with
  | none => s
  | some j =>
    match j.stage with
    | .payload _ | .ready => (s.dropReqs (Purpose.ofRead id)).wantEntry id
    | _ => s

/-- The addends of an accumulator tile cannot be added any more. -/
def AccTile.addendsLost (a : AccTile) : AccTile := { a with held := a.held.map fun p => { p with lost := true } }

/-- A received chunk held as an addend is lost: the sum fails when the addend is needed. -/
def State.addendLost (n chunk : Nat) (s : State) : State :=
  { s with
    accs := updWhere (fun a => a.stream == n && a.chunk.map Prod.fst == some chunk) AccTile.addendsLost s.accs
    colls := s.colls.map fun c =>
      if c.stream = n ∧ !c.isSend then { c with recv := updWhere (fun k => k.chunk == chunk) (fun k => { k with spoilt := true }) c.recv }
      else c }

/-- True when the RECV of a pair still holds the received chunk that a chunk of its SEND was formed from. -/
def State.pairHolds (s : State) (n : Nat) (send : Word) (chunk : Nat) : Bool :=
  s.colls.any fun y => y.stream == n && !y.isSend && y.paired == some send &&
    y.recv.any fun k => k.chunk == chunk && !k.failed && !k.spoilt

/-- A staged chunk is lost: a lone SEND reads it again; a forwarding pair forms it again from its held addends, or sends it FAILED when
those are lost too. -/
def State.stagedLost (n chunk : Nat) (s : State) : State :=
  forAll (s.colls.filter fun c => c.stream == n && c.isSend) (fun c s =>
    match c.send.find? fun k => k.chunk == chunk, s.run? n c.seq with
    | some k, some r =>
      let open_ := match k.st with | .ready | .sent _ | .noSpace _ => true | _ => false
      if !open_ ∨ k.failed then s
      else if c.paired.isSome then
        if s.pairHolds n c.seq chunk then
          forAll (k.tiles.filter fun t => match t.2.1 with | .ok _ => true | _ => false) (fun t s => s.redoSendTile n r true k t.1) s
        else s.chunkFails n c.seq chunk
      else
        let s1 := (s.flagRun n c.seq RunFlags.again).updChunk n c.seq chunk fun x =>
          { x with st := .reading, tiles := [], cores := [], msg := ⟨0, [], []⟩, replay := true }
        forAll (List.range (chunkStored r.rec1 chunk)) (fun i s =>
          s.startRead n c.seq (chunk - dFirst r.desc) (.send chunk i) (dTensor r.desc) r.rec1 (16 * perLogical r.rec1 * chunk + i)) s1
    | _, _ => s) s

/-- Memory address of the i-th source tile that an accumulator tile holds. -/
def State.heldAt (s : State) (acc i : Nat) : Option Nat :=
  ((s.contrib.filter fun c => c.1 == acc)[i]?).bind fun c => (s.acc? acc).bind fun a => (s.run? a.stream a.seq).bind fun r =>
    (s.pool? (recPool (match r.addends[c.2.1]? with
      | some x => x.2.1
      | none => if dPreload r.desc = 1 then (r.srcs.map fun x => x.2.1).headD 0 else r.rec1))).map fun p => p.base + 64 * entAddr c.2.2.1

/-- A source tile that an accumulator tile holds is read again from memory (Table 11-2), into its place in the staging region. -/
def State.heldAgain (acc i : Nat) (s : State) : State :=
  match s.spill? (.addend acc i), s.heldAt acc i with
  | some x, some addr =>
    (s.updSpill x.id fun y => { y with reads := s.spanPieces addr x.sectors, came := false, want := false, poison := none }).readSpan addr
      x.sectors fun _ => .spillAgain x.id
  | _, _ => s

/-- A kept sum is lost: it is formed again from its held addends, or fails when those are lost too (09_collectives R343). -/
def State.sumLost (id : Nat) (s : State) : State :=
  forAll (s.colls.filter fun c => c.sums.any fun a => a.id == id) (fun c s =>
    forAll (c.sums.filter fun a => a.id == id) (fun a s =>
      let held := c.recv.any fun k => some k.chunk == a.chunk.map Prod.fst && !k.failed && !k.spoilt
      if held then s.flagRun c.stream c.seq RunFlags.again
      else
        let t := s.updColl c.stream c.seq fun y => { y with sums := y.sums.filter fun z => z.id != id }
        { t with accs := t.accs ++ [{ a with failed := true }] }) s) s

/-- The allocator rebuilds its free lists, and grants again two epochs later (10_memory_channels R383). -/
def State.allocatorLost (pool : Nat) (s : State) : State :=
  match s.pool? pool with
  | none => s
  | some p => s.updPool pool fun q => { q with free := s.freeRuns p q.used, delayed := [], readyEpoch := s.epoch + 2 }

/-- A history entry holds no history (06_expansion R246). -/
def State.historyLost (n tile : Nat) (s : State) : State :=
  s.updStream n fun x => { x with hist := x.hist.map fun h => { h with entries := h.entries.filter fun e => e.1 != tile } }

/-- A page of history entries holds no history. -/
def State.pageLost (n : Nat) (key : Word) (page : Nat) (s : State) : State :=
  s.updStream n fun x => { x with hist := x.hist.map fun h =>
    if h.key = key then { h with entries := h.entries.filter fun e => e.1 / 1024 != page } else h }

/-- Severity of the record of an uncorrectable word (Table 11-2). -/
def State.storeSev (s : State) (x : SramStore) : Sev :=
  match x with
  | .context _ => .contained
  | .atoll => if s.scatter.any Scatter.second then .contained else .corrected
  | .retained w => if (s.wjob? w).any fun y => match y.src with | .memory _ => false | _ => true then .contained else .corrected
  | .addendChunk n k =>
    if s.accs.any fun a => a.stream == n && a.chunk.map Prod.fst == some k && a.faulted.isSome then .contained else .corrected
  | .sentChunk n k =>
    if s.colls.any fun c => c.stream == n && c.isSend && c.paired.isSome && !s.pairHolds n c.seq k && c.send.any fun y => y.chunk == k
    then .contained else .corrected
  | _ => .corrected

/-- The work that a store holds: stream, SEQ, tensor record and tile; a chunk of a collective is no tile (Table 11-6). -/
def State.storeWork (s : State) (x : SramStore) : Option (Nat × Word × Nat × Option Nat) :=
  let read (j : RJob) : Nat × Word × Nat × Option Nat := (j.stream, j.seq, j.recAddr, some j.tile)
  let write (w : WJob) : Nat × Word × Nat × Option Nat := (w.stream, w.seq, w.recAddr, some w.tile)
  let run (n : Nat) (seq : Word) (t : Option Nat) : Option (Nat × Word × Nat × Option Nat) :=
    (s.run? n seq).map fun r => (n, seq, dTensor r.desc, t)
  match x with
  | .engine c e =>
    if e < 8 then
      match s.rjobs.find? fun j => onCore (coreNo c) (some e) j.stage, s.wjobs.find? fun w => onCoreW (coreNo c) (some e) w.stage with
      | some j, _ => some (read j)
      | none, some w => some (write w)
      | none, none => none
    else (s.groups.find? fun g => g.core == coreNo c && !g.ended).bind fun g => run g.stream g.seq none
  | .checker c => (s.wjobs.find? fun w => w.parts.any fun p => match p.verify with
      | .checking b => b == coreNo c | .third _ b _ => b == coreNo c | _ => false).map write
  | .accumulator a => (s.acc? a).bind fun y => run y.stream y.seq y.dests.head?
  | .atoll => s.scatter.bind fun y => run y.stream y.seq none
  | .retained w => (s.wjob? w).map write
  | .readAhead j => (s.rjob? j).map read
  | .addendChunk n k => (s.colls.find? fun c => c.stream == n && !c.isSend && c.recv.any fun y => y.chunk == k).bind fun c => run n c.seq none
  | .sentChunk n k => (s.colls.find? fun c => c.stream == n && c.isSend && c.send.any fun y => y.chunk == k).bind fun c => run n c.seq none
  | .delivery p => (s.dports.toList[p]?).bind fun d => d.units.head?.bind fun u =>
      (s.run? u.stream u.seq).map fun r => (u.stream, u.seq, dTensor r.desc, if r.kind = 1 then some (dFirst r.desc + u.unit) else none)
  | .context n | .history n => (s.stream? n).map fun y => (n, (y.runs.head?.map Run.seq).getD 0, 0, none)
  | .tables _ | .dirCache _ | .allocator _ => none

/-- A record about a store, which names the work that it holds (R436). -/
def State.storeReport (x : SramStore) (note : Note) (s : State) : State :=
  match s.storeWork x with
  | some (n, seq, a, tile) => s.workReport n seq { note with addr := a, tile := (tile.map (BitVec.ofNat 32)).getD 0xFFFFFFFF }
  | none => s.report note

/-- The response of Table 11-2. Engine numbers from 8 on name the merge unit of the core. -/
def State.storeLost (x : SramStore) (word : Nat) (s : State) : State :=
  match x with
  | .engine c e => if e < 8 then s.replayCore (coreNo c) (some e) else s.replayGroups (coreNo c)
  | .checker c => s.recheck (coreNo c)
  | .tables c => s.tablesLost (coreNo c)
  | .delivery p => s.bufferLost ⟨p % 8, Nat.mod_lt _ (by decide)⟩
  | .accumulator a => s.updA a fun y => if y.faulted.isSome ∨ y.failed then y else y.fault 0x04 word 0
  | .atoll => s.atollLost word
  | .retained w => s.imageLost w
  | .readAhead j => s.payloadLost j
  | .addendChunk n k => s.addendLost n k
  | .sentChunk n k => s.stagedLost n k
  | .context n => s.contextLost n
  | .dirCache a => s.cacheDrop a
  | .allocator p => s.allocatorLost p
  | .history n => s.historyLost n word

/-- An uncorrectable word is used (R416, R429). -/
def State.sramUe (x : SramStore) (arr word : Nat) (s : State) : State :=
  let u := s.storeUnit x
  let core := s.storeCore x
  let s1 := (s.bump .sramUe).storeReport x
    { reason := 0x02, sev := s.storeSev x, unit := u.1, unitIndex := u.2, detailA := arr, detailB := word }
  let s2 := s1.storeLost x word
  match core with
  | some c => s2.coreFault c
  | none => s2

/-! ### Spilled state that comes back with poison (R416; 10_memory_channels Table 10-2) -/

/-- The store whose row of Table 11-2 holds for spilled data; none for space that holds nothing, staged Chart bytes, and an early chunk. -/
def SpillOf.store : SpillOf → Option SramStore
  | .context n => some (.context n)
  | .history n _ _ => some (.history n)
  | .directory | .records _ _ => some .atoll
  | .image w => some (.retained w)
  | .payload j => some (.readAhead j)
  | .addend a _ => some (.accumulator a)
  | .received n k => some (.addendChunk n k)
  | .outgoing n k => some (.sentChunk n k)
  | .sum a => some (.accumulator a)
  | .spare _ | .wiped _ | .early _ _ | .chartBytes _ => none

/-- The response to poison in spilled data. A source tile that an accumulator tile holds is read again, with the content that it had; an
early chunk has not been accepted, and its sender sends it again (log 18). -/
def State.spillLost (o : SpillOf) (s : State) : State :=
  match o with
  | .context n => s.contextLost n
  | .history n key page => s.pageLost n key page
  | .directory | .records _ _ => s.atollLost 0
  | .image w => s.imageLost w
  | .payload j => s.payloadLost j
  | .received n k => s.addendLost n k
  | .outgoing n k => s.stagedLost n k
  | .sum a => s.sumLost a
  | .early p man => s.updLport p fun x => { x with early := x.early.filter fun m => m.man != man }
  | .chartBytes _ => s.chartPoison
  | .addend a i => s.heldAgain a i
  | .spare _ | .wiped _ => s

/-- STATE_POISON: a space has come back with poison at an address. -/
def State.spillPoison (x : Spill) (addr : Nat) (s : State) : State :=
  let s1 := s.updSpill x.id fun y => { y with poison := none }
  let s2 := match x.of_.store with
    | none => s1
    | some y =>
      let u := s.storeUnit y
      s1.storeReport y { reason := 0x12, sev := s.storeSev y, unit := u.1, unitIndex := u.2, detailA := addr, detailB := addr / 2 ^ 32 }
  s2.spillLost x.of_

/-- The responses that are due. -/
def State.spillPoisons (s : State) : State :=
  forAll s.lagoon (fun x s => match x.poison with | some a => if x.came then s.spillPoison x a else s | none => s) s

/-! ### Faults of a step -/

/-- The faults of SRAM words among those that a step meets. -/
def State.sramFaults (hw : List HwFault) (s : State) : State :=
  forAll hw (fun f s => match f with
    | .correctable x arr =>
      let u := s.storeUnit x
      match s.storeCore x with
      | some c => (s.sramCe u.1 u.2 arr).correctedIn c
      | none => s.sramCe u.1 u.2 arr
    | .uncorrectable x arr word => s.sramUe x arr word
    | _ => s) s

/-- The path of a parity error among the faults that a step meets. -/
def parityOf (hw : List HwFault) : Option Nat := hw.findSome? fun f => match f with | .parity p => some p | _ => none

/-- A step meets its faults: the SRAM words, then a parity error, after which `again` is done in place of the step's own work (R417). -/
def State.withFaults (hw : List HwFault) (u : UnitId × Nat) (again work : State → State) (s : State) : State :=
  let s1 := s.sramFaults hw
  match parityOf hw with
  | some path => again (s1.busParity u.1 u.2 path)
  | none => work s1

/-- Faulty payloads that an engine has coded. -/
def madeOf (hw : List HwFault) : List (Nat × List Byte) :=
  hw.filterMap fun f => match f with | .madePayload i b => some (i, b) | _ => none

end Sys2Proof.Machine
end

