-- ==== Sys2Proof/Machine/Settle.lean ====
section
/-! DEFINITION. What follows at once from a change of the state: work leaves cores that go out of service, waiting requests are issued,
assigned, granted, committed and retired, shut-downs take their next stage, ports offer their next beat (05_streams_and_order R182,
R192, R197, R198; 13_clocks_power_lifecycle R500; the rules of the operations that it calls). -/

namespace Sys2Proof.Machine

/-! ### Heads of streams (R203) -/

/-- True when every tile of a run has been issued (Table 5-31): no unit is left to start, and none waits for its engine. -/
def State.issuedOut (s : State) (n : Nat) (r : Run) : Bool :=
  r.allIssued && !(s.rjobs.any fun j => j.stream == n && j.seq == r.seq && !j.placed) &&
    !(s.wjobs.any fun w => w.stream == n && w.seq == r.seq && w.unissued)

/-- E of R203 is noted for each descriptor that has reached the head of its stream: every tile in front of it has been issued. -/
def State.headRuns (s : State) (n : Nat) : List Run → List Run
  | [] => []
  | r :: rs => { r with head := some (r.head.getD s.time) } :: (if s.issuedOut n r then s.headRuns n rs else rs)

/-- Every stream. -/
def State.headTimes (s : State) : State :=
  { s with streams := s.streams.map fun x => { x with runs := s.headRuns x.num x.runs } }

/-! ### Cores that leave (R205, R206; Table 13-5) -/

/-- True for a core that keeps no work: it is not ON, and no longer finishes its tiles for a test. -/
def State.coreGone (s : State) (c : Fin 16) : Bool := (s.core c).fn.st != .on && (s.core c).fn.stage != .before

/-- A checker decoding that its core has left is done again (Table 13-5). -/
def Verify.without (gone : Fin 16 → Bool) : Verify → Verify
  | .checking b => if gone b then .waiting else .checking b
  | .third b c seen => if gone c then .disagreed b seen else .third b c seen
  | v => v

/-- The same for the parts of a tile. -/
def WJob.without (gone : Fin 16 → Bool) (w : WJob) : WJob :=
  { w with parts := w.parts.map fun p => { p with verify := p.verify.without gone } }

/-- Work in flight leaves the cores that are gone. -/
def State.evacuate (s : State) : State :=
  let onGone (c : Fin 16) : Bool := s.coreGone c
  let s1 := forAll s.rjobs (fun j s => match j.stage with
    | .onEngine c _ => if onGone c then s.replayTile j none else s
    | _ => s) s
  let s2 := forAll s1.wjobs (fun w s => match w.stage with
    | .onEngine c _ => if onGone c then s.replayWrite w none else s
    | _ => if onGone w.coder && s.codedInFlight w then s.replayWrite w none else s) s1
  let s3 := { s2 with wjobs := s2.wjobs.map (WJob.without onGone) }.replaySends onGone
  let s4 := forAll (s3.accs.filter fun a => a.away || onGone a.core) (fun a s => s.moveAcc a) s3
  forAll (s4.groups.filter fun g => g.away || onGone g.core) (fun g s => s.replayGroup g none) s4

/-! ### Reads and images -/

/-- Source tiles that a stream has read for accumulator tiles and that wait to be added, ZERO tiles among them. Those of an addend whose
other tiles are still being read belong to the addend in turn, and those of a tile that waits for a core wait with it (R567). -/
def State.unadded (s : State) (n : Nat) : Nat :=
  ((s.accs.filter fun a => a.stream == n && !a.away).map fun a =>
    ((a.held.filter fun p => p.complete && !p.added).map fun p => p.tiles.length).sum +
      (a.preload.filter fun p => p.complete && !a.preloaded).elim 0 fun p => p.tiles.length).sum

/-- True when a unit of a stream comes in front of another one. -/
def State.unitBefore (s : State) (n : Nat) (a b : Word × Nat) : Bool :=
  if a.1 = b.1 then decide (a.2 < b.2)
  else (s.stream? n).any fun x => (runsBefore b.1 x.runs).any fun r => r.seq == a.1

/-- ZERO tiles, and tiles that failed before an engine, which wait at a delivery port in front of a tile. -/
def State.zerosAhead (s : State) (j : RJob) : Nat :=
  ((List.finRange 8).map fun p => (s.dports[p].units.filter fun u =>
    u.stream == j.stream && u.job.isNone && !u.again && j.use == .deliver && s.unitBefore j.stream (u.seq, u.unit) (j.seq, j.unit)).length).sum

/-- Tiles of MERGE groups that have been read and whose K block has still to be walked, in front of a tile. -/
def State.mergedAhead (s : State) (j : RJob) : Nat :=
  match j.use with
  | .mergeA g kb | .mergeW g kb =>
    ((s.groups.filter fun x => x.stream == j.stream && x.seq == j.seq && decide (x.id ≤ g)).map fun x =>
      (x.tiles.filter fun t => decide (x.walked ≤ t.2.1) && (x.id != g || decide (t.2.1 < kb))).length).sum
  | _ => 0

/-- Update tiles of a SCATTER_ACC that have been read and have not entered, in front of a tile. -/
def State.updatesAhead (s : State) (j : RJob) : Nat :=
  match j.use, s.scat? j.stream with
  | .update u, some x => (x.tiles.filter fun t => decide (t.1 < u)).length
  | _, _ => 0

/-- Tiles of its stream that are in front of a read job (R408): those whose reading began earlier, and those that have been read, ZERO tiles
among them, and wait to be delivered, merged or added. -/
def State.payloadsAhead (s : State) (j : RJob) : Nat :=
  ((s.rjobs.takeWhile fun x => x.id != j.id).filter fun x => x.stream == j.stream).length + s.unadded j.stream + s.zerosAhead j +
    s.mergedAhead j + s.updatesAhead j

/-- Payloads that ask for room in the Harbour, one for each stream, within the limit of R408: that of the tile in turn, and those ahead of
it. -/
def State.harbourAsks (s : State) : List (Req × RJob) :=
  ((firstAsks ((s.rjobs.filter fun j => j.stage == .payload 0 && decide (s.payloadsAhead j ≤ s.ahead j.trec)).map fun j =>
    ⟨s.reqOf j.stream j.seq j.replay, [], .read j⟩)).filterMap fun a => match a.work with | .read j => some (a.req, j) | .write _ => none)

/-- One payload takes room in the Harbour, or in the staging region (01_five_levels R32), as R192 to R195 choose, and is read; one whose
entry is too old by now starts over (R191). Without room every stream that asks stalls (01_five_levels R35). -/
def State.payloadOne (s : State) : State × Bool :=
  let asks := s.harbourAsks
  match grant (s.arb resHarbour) (asks.map Prod.fst) with
  | none => (s, false)
  | some (r, a, forced) =>
    match asks.find? fun x => x.1 == r with
    | none => (s, false)
    | some (_, j) =>
      if s.readLate j then (s.restartRead j.id, true)
      else match s.makeRoomFor (.payload j.id) (64 * entLen j.entry) 1 with
        | (t, true) => (((t.granted a forced).spillFound j.stream).readPayload j, true)
        | (t, false) => (forAll asks (fun x s => s.spillStall x.2.stream true) t, false)

/-- Payloads take room while there is some. -/
def State.readPayloads : Nat → State → State
  | 0, s => s
  | fuel + 1, s => match s.payloadOne with | (t, true) => t.readPayloads fuel | (t, false) => t

/-- Payloads and images that an engine is to take come back from the staging region (R32). -/
def State.stagedBack (s : State) : State :=
  let s1 := forAll (s.rjobs.filter fun j => j.stage == .ready) (fun j s => s.spillLoad (.payload j.id)) s
  forAll (s1.wjobs.filter fun w => w.stage == .ready) (fun w s => s.spillLoad (.image w.id)) s1

/-- Images that need no engine go on (07_compression R271). -/
def State.codeZeros (s : State) : State :=
  forAll s.wjobs (fun w s => if s.mayCode w && !w.needsEngine then s.codeZero w else s) s

/-! ### Accumulator tiles -/

/-- Accumulator tiles load their preloads, and fail where an addend failed (R292, R293, R305). -/
def State.accSteps (s : State) : State :=
  let s1 := { s with accs := s.accs.map AccTile.check }
  let s2 := forAll s1.accs (fun a s => s.loadPreload a) s1
  let s3 := forAll (s2.accs.filter AccTile.full) (fun a s =>
    if ((s.run? a.stream a.seq).any fun r => r.flags.countLimit) then s else s.countStop a.stream a.seq) s2
  (forAll (s3.accs.filter AccTile.failed) (fun a s => s.accFailsNow a) s3).atollEnds

/-! ### Units (R192 to R195, R320) -/

/-- The chunk that a RECV adds next. -/
def State.recvChunk (s : State) (n : Nat) (r : Run) : Option RecvChunk :=
  (s.coll? n r.seq).bind fun c => c.recv.find? fun k => k.chunk == dFirst r.desc + r.sub / 16 && !k.failed

/-- What waits for a unit: its descriptor, and whether a unit is free for it. -/
def State.unitLook (s : State) (w : UnitWait) : Option (Run × Bool) :=
  let n := w.stream
  let front : Option Run := (s.frontRun n (· == w.kind)).filter fun r => s.portOpen r.desc
  if w.res = resAtoll then ((s.readers.find? fun x => x.stream == n).bind fun x => s.run? n x.seq).map fun r => (r, s.scatter.isNone)
  else if w.kind = 0x11 then
    ((s.scatter.filter fun z => z.stream == n && z.todo != []).bind fun z => s.run? n z.seq).map fun r => (r, (s.accCore (reduceNeed none) 1).isSome)
  else if w.kind = 0x10 then (front.filter fun r => decide (r.issued < r.total)).map fun r => (r, (s.reduceCore r).isSome)
  else if w.kind = 0x12 then
    (s.stream? n).bind fun x => (front.filter fun r => r.groupsLeft x && s.groupPort r && s.blockRoom n r.seq).map fun r => (r, (s.groupCore r x).isSome)
  else front.bind fun r => (s.recvChunk n r).map fun k => (r, s.inPlace (.received n k.chunk) && (s.recvCore r k).isSome)

/-- The work that waited for a unit begins on it. -/
def State.unitGo (w : UnitWait) (r : Run) (s : State) : State :=
  if w.res = resAtoll then s.scatterTake w.stream r
  else if w.kind = 0x11 then s.drainTiles 1
  else if w.kind = 0x10 then s.reduceStart w.stream r
  else if w.kind = 0x12 then (match s.stream? w.stream with | some x => s.groupStart w.stream r x | none => s)
  else s.recvGo w.stream

/-- Waits whose descriptor is over are dropped. -/
def State.unitClean (s : State) : State := { s with unitWaits := s.unitWaits.filter fun w => (s.unitLook w).isSome }

/-- One unit of a resource goes to the stream that R192 to R195 choose among those that one is free for. -/
def State.unitOne (res : Nat) (s : State) : Option State :=
  let all := s.unitWaits.filterMap fun w =>
    if w.res = res then (s.unitLook w).map fun x => (w, x.1, { s.reqOf w.stream x.1.seq false with counts := true }, x.2) else none
  let l := all.filter fun x => x.2.2.2
  match grant (s.arb res) (l.map fun x => x.2.2.1) ((all.filter fun x => !x.2.2.2).map fun x => x.2.2.1) with
  | none => none
  | some (q, a, forced) =>
    (l.find? fun x => x.1.stream == q.stream).map fun x =>
      let alone := { s with
        unitWaits := s.unitWaits.filter fun w => w.res != res
        arbs := upsert (fun y => y.res == res) { s.arb res with starve := [] } s.arbs }
      let t := (alone.unitGo x.1 x.2.1).granted a forced
      { t with unitWaits := t.unitWaits ++ (s.unitWaits.filter fun w => w.res == res && w != x.1 && !t.unitWaits.contains w) }

/-- Free units of a resource are given out while any can be. -/
def State.unitAll (res : Nat) : Nat → State → State
  | 0, s => s
  | fuel + 1, s => match s.unitOne res with | none => s | some t => t.unitAll res fuel

/-- Reduce units, merge units and the Atoll. -/
def State.unitsServe (s : State) : State :=
  if s.unitWaits = [] ∨ !s.working then s
  else
    let t := s.unitClean
    let k := t.unitWaits.length
    ((t.unitAll resReduce k).unitAll resMerge k).unitAll resAtoll k

/-! ### Space of the Lagoon and the staging region that is needed no more (01_five_levels R34) -/

/-- True while the data of a space exists, or while space that another cluster has granted may still be used. -/
def State.spillLive (s : State) (o : SpillOf) : Bool :=
  match o with
  | .spare _ => s.streams != [] || s.chart.load != .none
  | .context n => (s.stream? n).any fun y => y.slot.isNone
  | .history n key page => (s.stream? n).any fun y => y.hist.any fun h => h.key == key && h.pages.contains page
  | .wiped i => s.lagoon.any fun x => x.id == i && (x.maps != 0 || x.dirty != [] || x.writes != 0)
  | .directory => s.scatter.isSome
  | .records p page => s.scatter.any fun z => (s.run? z.stream z.seq).any fun r =>
      let k := z.records r.rec1 p
      decide (28 * page < k) || (!z.draining && decide (28 * page ≤ k))
  | .image w => (s.wjob? w).any fun x => x.stage != .done
  | .payload j => (s.rjob? j).isSome
  | .addend a i => decide (i < (s.contrib.filter fun c => c.1 == a).length)
  | .received n k => s.colls.any fun c => c.stream == n && !c.isSend && c.recv.any fun x => x.chunk == k
  | .outgoing n k => s.colls.any fun c => c.stream == n && c.isSend && c.send.any fun x =>
      x.chunk == k && match x.st with | .acked | .givenUp => false | _ => true
  | .early p man => s.lports[p].early.any fun m => m.man == man
  | .sum a => s.colls.any fun c => c.sums.any fun x => x.id == a
  | .chartBytes i => decide (4096 * i < s.chart.staged.length + 64 * s.chart.dmaNext.length)

/-- Space whose data is gone is freed. -/
def State.spillFrees (s : State) : State := forAll (s.lagoon.filter fun x => !s.spillLive x.of_) State.spillDrop s

/-! ### Commits and retirement -/

/-- A tile that has ended leaves in its turn (R182). -/
def State.retireOne (s : State) : Option State :=
  (s.wjobs.find? fun w => w.ended && w.stream != causewayStream && s.turn w.stream w.seq w.unit).map fun w => s.retire w

/-- Tiles leave while any may. -/
def State.retireAll : Nat → State → State
  | 0, s => s
  | fuel + 1, s => match s.retireOne with | none => s | some t => t.retireAll fuel

/-- Parts whose turn has come go to their home cluster (Table 7-3). -/
def State.commitSends (s : State) : State :=
  forAll s.wjobs (fun w0 s =>
    match s.wjob? w0.id with
    | none => s
    | some w => match s.commitReady w with | some (i, p) => s.sendCommit w i p | none => s) s

/-! ### FENCE and WIPE -/

/-- FENCEs that have begun to wait are examined again (R184). -/
def State.fencesWait (s : State) : State :=
  forAll s.streams (fun x s =>
    match s.headRun x.num with
    | some r => if r.kind = 0x40 ∧ !dBarrier r.desc ∧ r.started ∧ !r.finished then s.fenceCheck x.num r else s
    | none => s) s

/-- A core as a descriptor names it, in range. -/
def coreOf (n : Nat) : Fin 16 := ⟨n % 16, Nat.mod_lt _ (by decide)⟩

/-- A WIPE of a core ends when the core is back (R174). -/
def State.wipesEnd (s : State) : State :=
  forAll s.streams (fun x s =>
    match s.headRun x.num with
    | some r =>
      let c := (s.core (coreOf (dCore r.desc))).fn
      if r.kind = 0x41 ∧ dScope r.desc = 1 ∧ r.started ∧ !r.finished ∧ r.sub = 2 ∧ (c.st = .on ∨ c.st = .off) ∧ c.stage = .idle then
        s.updStream x.num Stream.headEnds
      else s
    | none => s) s

/-! ### Shut-downs (R198, R500) -/

/-- True when a stream that shuts down has finished what it had fetched. -/
def State.streamQuiet (s : State) (x : Stream) : Bool := x.runs == [] && x.todo == [] && !s.inFlight x && !s.recordOpen x.num

/-- True when nothing is on a core. -/
def State.coreQuiet (s : State) (c : Fin 16) : Bool :=
  !(List.finRange 8).any (s.engineBusy c) && !s.checkerBusy c && !s.accs.any (fun a => a.core == c && !a.away) &&
    !(s.groups.any fun g => g.core == c && !g.away) && !s.wjobs.any fun w => w.coder == c && s.codedInFlight w

/-- The ramp of a function begins when its work is over. -/
def Fn.quiet (finished : Bool) (f : Fn) : Fn := if f.stage = .before ∧ finished then { f with stage := .ramp } else f

/-- Shut-downs go on to their ramps. -/
def State.shutStages (s : State) : State :=
  let s1 := forAll (List.finRange 4) (fun p s => whenB (s.iports[p].fn.stage == .before) (State.failParts p) s) s
  { s1 with
    streams := s1.streams.map fun x => { x with fn := x.fn.quiet (s1.streamQuiet x) }
    dports := s1.dports.map fun p => { p with fn := p.fn.quiet (!p.units.any fun u => decide (0 < p.begun u)) }
    iports := s1.iports.map fun p => { p with fn := p.fn.quiet true }
    lports := s1.lports.map fun p => { p with fn := p.fn.quiet true }
    mports := Vector.ofFn fun m => (s1.mports[m]).quiet (!s1.reqs.any fun r => r.port == m)
    cores := Vector.ofFn fun c => { s1.cores[c] with fn := (s1.cores[c]).fn.quiet (s1.coreQuiet c) } }

/-- A warm reset whose requests and deliveries have ended goes on, and a life-cycle change whose record has been written ends (R496,
R513). -/
def State.phaseStages (s : State) : State :=
  match s.phase with
  | .warm .quiesce src n => if s.quiesced then { s with phase := .warm .rampWipe src n } else s
  | .life .wiped n _ => if s.lifeRecorded n then s.lifeEnd else s
  | _ => s

/-! ### All of it -/

/-- Everything that waits takes its next step; work that the governor holds back gets no engine, checker or unit (13_clocks_power_lifecycle R505,
R506). -/
def State.settlePass (s : State) : State :=
  let s1 := s.headTimes.heldReads.presenceKnown.evacuate.answerDead.issueWaiting.spillPoisons
  let s2 := ((s1.carrySteps []).readPayloads s1.rjobs.length).stagedBack.codeZeros.accSteps
  let back := s2.heldBack
  let s3 := if s2.assignStopped || back then whenB back State.chosen s2 else s2.assignEngines 128
  let s4 := (if back then s3.checkersGone else s3.checkersGone.assignCheckers 16).askAgain.allocWaiting
  let s5 := (s4.retireAll s4.wjobs.length).commitSends
  let s6 := s5.formChunks.earlyChunks.sumsGo.recvDone.collNotices.loadChunks.mapAgain.causewayDone
  let s7 := s6.critParks.releaseSources.groupTails.atollWants
  let s8 := (if back then s7 else s7.unitsServe).parkSelves.spillFrees
  s8.fencesWait.unfilled.wipesEnd.roleStalls.shutStages.phaseStages.governs.offers

/-- A state settles: what the first pass makes possible is done in the second. All of it waits while ECLK is lost
(13_clocks_power_lifecycle R491). -/
def State.settle (s : State) : State := if s.clkIsLost .eclk then s else s.settlePass.settlePass

end Sys2Proof.Machine
end

