-- ==== Sys2Proof/Machine/Regs.lean ====
section
/-! DEFINITION. The register window: reads, writes, flags and latches (15_register_map R535 to R554), the error-log and
service registers (11_integrity R441 to R449), and the register tables of the other chapters. -/

namespace Sys2Proof.Machine

/-- A word of a number. -/
def word (n : Nat) : Word := BitVec.ofNat 32 n

/-- The half of a 64-bit value that an offset names: LO at 0, HI at 4. -/
def halfOf (x : Nat) (hi : Bool) : Word := word (if hi then x / 2 ^ 32 else x)

/-! ### The error log (R441, Table 11-6) -/

/-- Code of a severity (Table 11-6). -/
def Sev.code : Sev → Nat
  | .corrected => 0 | .contained => 1 | .uncontained => 2 | .service => 3

/-- Code of a unit (Table 11-6). -/
def UnitId.code : UnitId → Nat
  | .cluster => 0 | .core => 1 | .memoryPort => 2 | .deliveryPort => 3 | .intakePort => 4 | .linkPort => 5 | .eventPort => 6
  | .dieRing => 7 | .atoll => 8 | .harbour => 9 | .allocator => 10 | .streamTracker => 11

/-- The first 60 bytes of a record. -/
def Rec.body (r : Rec) : List Byte :=
  leBytes 60 (pack [(8, r.reason), (2, r.sev.code), (1, b2n r.rep), (1, b2n r.loss), (4, r.unit.code), (5, r.unitIndex), (3, 0),
    (8, 1), (32, r.recSeq.toNat), (32, r.fleet.toNat), (12, r.rank), (6, r.die), (3, r.cluster), (11, 0), (64, r.timestamp),
    (32, r.handle.toNat), (32, r.seq.toNat), (64, r.addr), (32, r.tile.toNat), (32, r.detailA.toNat), (32, r.detailB.toNat),
    (32, r.group.toNat), (32, r.step.toNat)])

/-- The 64 bytes of a record, with RCRC. -/
def Rec.bytes (r : Rec) : List Byte := r.body ++ leBytes 4 (crc32c r.body).toNat

/-- The word of the error log at a byte offset of its page; a slot without a record reads zero (DESIGN CHOICE, log 26). -/
def State.logWord (s : State) (off : Nat) : Word :=
  match s.err.log.find? fun r => r.recSeq.toNat % 64 == off / 64 with
  | some r => word (leNat (slice r.bytes (off % 64) 4))
  | none => 0

/-! ### Values of single registers -/

/-- DJ_CAPS (00_scope Table 0-2). -/
def State.caps (s : State) : Word :=
  word (pack [(8, 0x1C), (8, 0x18), (2, 3), (2, 3), (2, s.params.hardening), (5, s.params.cores)])

/-- DJ_CTL (13_clocks_power_lifecycle Table 13-11). -/
def State.ctlWord (s : State) : Word :=
  let en := s.cluster.st == .on || s.cluster.st == .pendingOn
  word (pack [(1, b2n en), (3, 0), (2, s.cluster.st.code)])

/-- DJ_IDENT_LOC (Table 15-4). -/
def State.identLoc (s : State) : Word :=
  word (pack [(12, s.chartVal Chart.rank 0), (6, s.die), (3, s.clusterNo), (1, b2n s.chart.applied.isSome)])

/-- LOAD of DJ_CHART_STAT (12_chart Table 12-15). -/
def LoadSt.code : LoadSt → Nat
  | .none => 0 | .loading => 1 | .validating => 2 | .switching => 3 | .draining => 4

/-- LOAD: DRAINING while a failed UPDATE drains the cluster. -/
def State.loadCode (s : State) : Nat :=
  match s.chart.drain with
  | some (.updateFailed _) => 4
  | _ => s.chart.load.code

/-- DJ_CHART_STAT (Table 12-15). -/
def State.chartStat (s : State) : Word :=
  word (pack [(1, b2n s.chart.held), (1, b2n s.isIdle), (3, s.loadCode), (3, s.chart.result), (8, s.chart.reason)])

/-- CAPPED: the work asks for more current than I_CAP_MA (R505; the estimate is a free value, log 13). -/
def State.capped (s : State) : Bool :=
  s.loaded && !s.power.moving && decide (s.cap < Config.loadCurrent s.freeCtr)

/-- DJ_PWR_STAT (13_clocks_power_lifecycle Table 13-6). -/
def State.pwrStat (s : State) : Word :=
  word (pack [(16, s.current), (1, b2n s.granting), (1, b2n s.power.intent.isSome), (1, b2n s.ballastOn), (1, b2n s.capped)])

/-- DJ_STATUS (Table 15-5). -/
def State.status (s : State) : Word :=
  word (pack [(1, b2n s.chart.held), (1, b2n s.isIdle), (3, s.loadCode), (2, s.cluster.st.code), (1, bits s.health.toNat 0 0),
    (1, b2n s.err.svcOpen), (1, b2n s.causeway.isSome), (1, b2n s.test.running.isSome), (1, b2n (s.regs.clkStat != 0)),
    (1, b2n s.capped)])

/-- DJ_REG_STAT (Table 15-8). -/
def State.regStat (s : State) : Word :=
  word (pack [(1, b2n s.regs.badSize), (1, b2n s.regs.badOffset), (1, b2n s.regs.mgDenied), (1, b2n (s.regs.lastPort == .mgmt))])

/-- DJ_CORE_RETIRED (11_integrity Table 11-10). -/
def State.retiredMask (s : State) : Word := word (pack (s.cores.toList.map fun k => (1, b2n k.retired)))

/-- DJ_CORE_FAULT of the selected core (Table 11-13). -/
def State.coreFaultWord (s : State) : Word :=
  let i := bits s.regs.coreFaultSel.toNat 3 0
  if h : i < 16 then
    let k := s.cores[i]
    word (pack [(2, min 3 (s.windowCount ⟨i, h⟩)), (1, b2n k.out), (1, b2n k.retired), (4, 0), (16, min 65535 k.lifetime)])
  else 0

/-- The memory pool that DJ_POOL_SEL names. -/
def State.selPool (s : State) : Option Pool := s.pool? (bits s.regs.poolSel.toNat 7 0)

/-- The selected pool with its allocator; none for a pool that this cluster does not allocate (10_memory_channels R386). -/
def State.selAlloc (s : State) : Option (Pool × PoolSt) :=
  match s.selPool with
  | some p => (s.poolSt? p.id).map fun q => (p, q)
  | none => none

/-- DJ_POOL_STAT (10_memory_channels Table 10-6). -/
def State.poolStat (s : State) : Word :=
  let held := match s.selPool with
    | some p => p.chans.any fun c => (s.chan c.chan).held || (s.chan c.chan).dead
    | none => false
  match s.selAlloc with
  | some (p, q) =>
    let out := (p.chans.filter fun c => (s.chan c.chan).out).length
    word (pack [(10, p.chans.length - out), (10, out), (1, 1), (1, b2n (s.poolReady q)), (1, b2n held)])
  | none => word (2 ^ 22 * b2n held)

/-- DJ_POOL_CAP. -/
def State.capCount (s : State) : Nat := match s.selAlloc with | some (p, _) => s.poolCap p | none => 0

/-- DJ_POOL_FREE. -/
def State.freeCount (s : State) : Nat := match s.selAlloc with | some (p, q) => s.poolFree p q | none => 0

/-- DJ_POOL_RESIDUE. -/
def State.residueCount (s : State) : Nat :=
  match s.selAlloc with | some (p, q) => min 0xFFFFFFFF (s.poolResidue p q) | none => 0

/-- DJ_CHAN_STAT (Table 10-5). -/
def State.chanStat (s : State) : Word :=
  word (pack [(1, b2n s.mapWait.isSome), (3, s.regs.chanResult), (1, b2n s.causeway.isSome), (12, s.cwChannel)])

/-- Code of a thermal state (Table 10-4). -/
def Therm.code : Therm → Nat
  | .normal => 0 | .warn => 1 | .crit => 2

/-- DJ_CHAN_STATE of the named channel; 0 when no pool lists it. -/
def State.chanState (s : State) : Word :=
  let ch := bits s.regs.chanArg.toNat 11 0
  match s.chanEntries.find? fun x => x.2.chan == ch with
  | some x =>
    let c := s.chan ch
    word (pack [(1, b2n c.held), (1, b2n c.dead), (1, b2n c.out), (1, b2n c.unfinished), (2, (s.therm x.2.group).code)])
  | none => 0

/-- DJ_CHAN_HOLD_US of the named channel. -/
def State.chanHoldUs (s : State) : Word :=
  let ch := bits s.regs.chanArg.toNat 11 0
  if (s.chanEntries.any fun x => x.2.chan == ch) && (s.chan ch).held then (s.chan ch).holdUs else 0

/-- STATE of the function that DJ_FN_SEL names; one that is absent or disabled reads OFF (log 27). -/
def State.selState (s : State) : Nat :=
  let k := s.selected.1
  let i := s.selected.2
  if k = 0 then if h : i < 16 then (s.core ⟨i, h⟩).fn.st.code else 0
  else if 4 < k ∨ !s.portThere (kindOfSel k) i then 0
  else ((s.fn? (fnOfSel k i)).map fun f => f.st.code).getD 0

/-- DJ_FN_STAT (Table 13-6). -/
def State.fnStat (s : State) : Word := word (pack [(1, 0), (2, s.selState), (3, s.regs.fnResult)])

/-- DJ_TEST_STAT (14_field_test Table 14-7). -/
def State.testStat (s : State) : Word :=
  let run := match s.test.running with
    | some x => [(1, 1), (4, if x.core < 16 then x.core else 0), (2, x.cause), (2, if x.part < 4 then x.part else 0)]
    | none => [(1, 0), (4, 0), (2, 0), (2, 0)]
  word (pack (run ++ [(1, b2n s.test.pkgValid), (4, s.ferryNext)]))

/-- DJ_FERRY_LAST: whole seconds since the last Ferry test started, saturating; 0 before the first. -/
def State.ferrySeconds (s : State) : Nat :=
  match s.test.ferryStart with
  | some t => min 0xFFFFFFFF ((s.time - t) / 1000000000)
  | none => 0

/-- A word of DJ_FAIL_LOG: INDEX, then the first failing chain and the failing bits. -/
def State.failWord (s : State) (i : Nat) : Word :=
  match s.test.failLog[i / 2]? with
  | some (index, chain, n) => if i % 2 = 0 then index else word (chain + 65536 * n)
  | none => 0

/-- DJ_CORE_STAT (Table 15-13); STATE reads its reset value until a Chart is applied (log 27). -/
def State.coreStat (s : State) (c : Fin 16) : Word :=
  let k := s.core c
  let st := if s.chart.applied.isSome then k.fn.st.code else 0
  word (pack ([(2, st), (1, b2n (s.active c)), (4, s.roles c), (1, b2n k.retired), (1, b2n k.out), (1, b2n (s.underTest c))] ++
    ((List.finRange 8).map fun e => (1, b2n (s.engineBusy c e))) ++
    [(1, b2n (s.checkerBusy c)), (1, b2n (s.accs.any fun a => a.core == c)), (1, b2n (s.groups.any fun g => g.core == c))]))

/-- The counter of a core page at an offset from 8 to 0x2C. -/
def Core.pageCount (k : Core) (off : Nat) : Nat :=
  match off / 8 with
  | 1 => k.decN | 2 => k.encN | 3 => k.chkN | 4 => k.replayN | _ => k.ceN

/-! ### Queues (05_streams_and_order Tables 5-1 to 5-9) -/

/-- FETCH_IDLE: nothing to fetch now, and no fetched descriptor waits for its stream. -/
def State.fetchIdle (s : State) (q : Fin 64) : Bool :=
  (s.queue q).wait.isNone && !s.mayFetch q &&
    !s.streams.any fun x => x.refused.any (fun d => d.1 == q) ||
      x.waiting != [] && (x.latched.map fun l => bits l.1.toNat 21 16).getD x.queue.val == q.val

/-- DJ_QSTAT (Table 5-4). -/
def State.qstat (s : State) (q : Fin 64) : Word :=
  let z := s.queue q
  let why := z.wait.map Prod.fst
  word (pack [(1, b2n (s.fetchIdle q)), (1, b2n (why == some .context || why == some .parked)), (1, b2n (why == some .full)),
    (1, b2n z.ringFull), (1, b2n z.badCfg)])

/-- DJ_QCTL (Table 5-2). -/
def Queue.qctl (z : Queue) : Word := word (pack [(1, b2n z.enable), (1, b2n z.fmtD3), (5, z.log2)])

/-- DJ_CCTL (Table 5-3). -/
def Queue.cctl (z : Queue) : Word := word (pack [(5, z.clog2), (1, b2n z.irqAll)])

/-- A register of a queue block; none for a reserved offset. -/
def State.queueReg (s : State) (q : Fin 64) (r : Nat) : Option Word :=
  let z := s.queue q
  match r with
  | 0x00 => some (halfOf z.base false)
  | 0x04 => some (halfOf z.base true)
  | 0x08 => some z.qctl
  | 0x0C => some (word z.qtail)
  | 0x10 => some (word z.qhead)
  | 0x14 => some (s.qstat q)
  | 0x18 => some (halfOf z.cbase false)
  | 0x1C => some (halfOf z.cbase true)
  | 0x20 => some z.cctl
  | 0x24 => some (word z.chead)
  | 0x28 => some (word z.ctail)
  | _ => none

/-- DJ_SCTL_STAT (Table 5-9). -/
def State.sctlStat (s : State) : Word :=
  let st := match s.stream? (bits s.regs.sctlArg0.toNat 15 0) with
    | some x => x.fn.st.code
    | none => 0
  word (pack [(1, 0), (3, s.regs.sctlResult), (2, st)])

/-! ### The context debug window (R552 to R554) -/

/-- A number as n bits, two's complement. -/
def signedBits (n : Nat) (x : Int) : Nat := (x % 2 ^ n).toNat

/-- The view of a stream's context (Table 15-10). -/
def Stream.view (x : Stream) : BitVec 512 :=
  let q := if x.fn.st = .pendingOn then (x.latched.map fun l => bits l.1.toNat 21 16).getD x.queue.val else x.queue.val
  let st := x.stop
  BitVec.ofNat 512 (pack [(16, x.num), (6, q), (2, x.fn.st.code), (8, x.weight), (32, x.expectSeq.toNat), (1, b2n x.deadline),
    (1, b2n x.pin), (1, b2n x.storeFwd), (1, b2n st.isSome), (4, min 8 x.held), (8, 0),
    (16, x.windowUs), (32, x.lateness), (64, x.lastCmpl), (16, x.sample.toNat), (5, x.tideN), (2, x.tideRun), (8, x.tideAge),
    (1, 0), (16, signedBits 16 x.tideLo), (16, signedBits 16 x.tideHi), (32, (st.map StopRec.tile).getD 0),
    (32, (st.map StopRec.remaining).getD 0), (32, (st.map fun r => r.seq.toNat).getD 0), (32, 0),
    (64, (st.map StopRec.recAddr).getD 0)])

/-- BANK of DJ_CTXDBG_BANK. -/
def State.bank (s : State) : Nat := bits s.regs.ctxdbgBank.toNat 1 0

/-- The live view of a slot of the current bank; a slot without a stream reads zero. -/
def State.slotView (s : State) (i : Nat) : BitVec 512 :=
  match s.streams.find? fun x => x.slot == some (4096 * s.bank + i) with
  | some x => x.view
  | none => 0

/-- The view that a read of a slot returns: its first word is live, another word comes from the latch when it holds the
slot. -/
def State.viewFor (s : State) (i w : Nat) : BitVec 512 :=
  match s.regs.dbgLatch with
  | some (j, v) => if w ≠ 0 ∧ j = i then v else s.slotView i
  | none => s.slotView i

/-- A word of the debug window. -/
def State.dbgWord (s : State) (off : Nat) : Word :=
  let i := (off - 0x40000) / 64
  let w := off % 64 / 4
  BitVec.extractLsb' (32 * w) 32 (s.viewFor i w)

/-! ### Reads -/

/-- Registers of the identification page (Tables 15-2, 10-4). -/
def State.identReg (s : State) (off : Nat) : Option Word :=
  match off with
  | 0x000 => some 0x7E1A4201
  | 0x004 => some s.caps
  | 0x008 => some s.ctlWord
  | 0x010 => some (word (s.lc + 8 * b2n s.lcInvalid))
  | 0x014 => some s.regs.scratch
  | 0x018 => some (s.chartVal Chart.fleet 0)
  | 0x01C => some s.identLoc
  | 0x020 => some (s.regs.ctxdbgBank &&& 3)
  | 0x400 => some (s.regs.chanArg &&& 0xFFF)
  | 0x404 => some s.regs.chanListLo
  | 0x408 => some s.regs.chanListHi
  | 0x40C => some (s.regs.chanLcount &&& 0xFFFFFF)
  | 0x410 => some 0
  | 0x414 => some s.chanStat
  | 0x418 => some (s.regs.poolSel &&& 0xFF)
  | 0x41C => some s.poolStat
  | 0x420 => some (halfOf s.capCount false)
  | 0x424 => some (halfOf s.capCount true)
  | 0x428 => some (halfOf s.freeCount false)
  | 0x42C => some (halfOf s.freeCount true)
  | 0x430 => some (word s.residueCount)
  | 0x434 => some s.chanState
  | 0x438 => some s.chanHoldUs
  | _ => none

/-- Registers of the status page (Tables 15-3, 11-10). -/
def State.statusReg (s : State) (off : Nat) : Option Word :=
  match off with
  | 0x1000 => some s.status
  | 0x1008 => some (halfOf s.time false)
  | 0x100C => some (halfOf s.time true)
  | 0x1010 => some s.irqStat
  | 0x1014 => some (s.regs.irqEn &&& 0xF)
  | 0x1018 => some (halfOf s.regs.cqPend.toNat false)
  | 0x101C => some (halfOf s.regs.cqPend.toNat true)
  | 0x1020 => some s.regStat
  | 0x1100 => some s.err.head
  | 0x1104 => some s.err.ack
  | 0x1108 => some s.errStat
  | 0x110C => some s.err.svcAck
  | 0x1110 => some s.health
  | 0x1114 => some s.retiredMask
  | 0x1118 => some (s.regs.coreFaultSel &&& 0xF)
  | 0x111C => some s.coreFaultWord
  | 0x1120 => some (word s.err.ceCount)
  | _ => none

/-- Registers of the Chart-load page (12_chart Table 12-14). -/
def State.chartReg (s : State) (off : Nat) : Option Word :=
  match off with
  | 0x3000 => some (s.regs.chartCtl &&& 7)
  | 0x3004 => some s.regs.chartAddrLo
  | 0x3008 => some s.regs.chartAddrHi
  | 0x300C => some s.regs.chartLen
  | 0x3010 => some 0
  | 0x3014 => some 0
  | 0x3018 => some s.chartStat
  | 0x301C => some s.chart.errOff
  | 0x3020 => some s.chart.count
  | 0x3024 => some s.chart.chartId
  | _ =>
    if 0x3100 ≤ off ∧ off < 0x3180 then
      some (halfOf (nth (s.chartVal Chart.policy []) ((off - 0x3100) / 8) 0).toNat (off % 8 == 4))
    else none

/-- Registers of the doorbell page (05_streams_and_order Tables 5-1 to 5-9). -/
def State.doorReg (s : State) (off : Nat) : Option Word :=
  match off with
  | 0x5000 => some (s.regs.sctlArg0 &&& 0xFF3FFFFF)
  | 0x5004 => some s.regs.sctlArg1
  | 0x5008 => some (s.regs.sctlArg2 &&& 0x00FFFF07)
  | 0x500C => some 0
  | 0x5010 => some s.sctlStat
  | _ => if h : (off - 0x4000) / 64 < 64 then s.queueReg ⟨(off - 0x4000) / 64, h⟩ (off % 64) else none

/-- Registers of the power page (13_clocks_power_lifecycle Table 13-6). -/
def State.powerReg (s : State) (off : Nat) : Option Word :=
  match off with
  | 0x8000 => some (s.regs.fnSel &&& 0xF07)
  | 0x8004 => some 0
  | 0x8008 => some s.fnStat
  | 0x8010 => some s.regs.clkMhz0
  | 0x8014 => some s.regs.clkMhz1
  | 0x8018 => some s.regs.clkMhz2
  | 0x801C => some s.regs.clkMhz3
  | 0x8020 => some (word s.regs.clkStat.toNat)
  | 0x8030 => some s.pwrStat
  | _ => none

/-- Registers of the test page (14_field_test Table 14-7). -/
def State.testReg (s : State) (off : Nat) : Option Word :=
  let t := s.test
  match off with
  | 0x9000 => some s.testStat
  | 0x9008 => some (halfOf t.misr.toNat false)
  | 0x900C => some (halfOf t.misr.toNat true)
  | 0x9010 => some (halfOf (Config.lbistRef s.params.hardening).toNat false)
  | 0x9014 => some (halfOf (Config.lbistRef s.params.hardening).toNat true)
  | 0x9018 => some (word t.mbistFail.toNat)
  | 0x9020 => some (if t.pkgValid then word (t.pkgId + 65536 * t.pkgVersion) else 0)
  | 0x9024 => some (if t.pkgValid then word t.pkgCount else 0)
  | 0x9028 => some (word s.ferrySeconds)
  | _ =>
    if 0x9100 ≤ off ∧ off < 0x9200 then some (nth t.repair ((off - 0x9100) / 4) 0)
    else if 0x9200 ≤ off ∧ off < 0x9280 then some (s.failWord ((off - 0x9200) / 4))
    else none

/-- Registers of the core pages (Table 15-12). -/
def State.corePageReg (s : State) (off : Nat) : Option Word :=
  let i := (off - 0x10000) / 4096
  let r := off % 4096
  if h : i < 16 then
    if s.params.cores ≤ i then some 0
    else if r = 0 then some (s.coreStat ⟨i, h⟩)
    else if 8 ≤ r ∧ r < 0x30 then some (halfOf (s.cores[i].pageCount r) (r % 8 == 4))
    else none
  else none

/-- Registers of the counter page (Table 15-9). -/
def State.counterReg (s : State) (off : Nat) : Option Word :=
  if off = 0x21000 then some 0
  else if off < 0x201A8 then some (halfOf (nth s.counters ((off - 0x20000) / 8) 0).toNat (off % 8 == 4))
  else none

/-- The register at an offset; none for a reserved offset (Table 15-1). -/
def State.readReg (s : State) (off : Nat) : Option Word :=
  match off / 4096 with
  | 0 => s.identReg off
  | 1 => s.statusReg off
  | 2 => some (s.logWord (off - 0x2000))
  | 3 => s.chartReg off
  | 4 => s.doorReg off
  | 5 => s.doorReg off
  | 8 => s.powerReg off
  | 9 => s.testReg off
  | n =>
    if 0x10 ≤ n ∧ n < 0x20 then s.corePageReg off
    else if 0x20 ≤ n ∧ n < 0x40 then s.counterReg off
    else if 0x40 ≤ n ∧ n < 0x80 then some (s.dbgWord off)
    else none

/-- The low offsets of the pairs of a page of fixed registers (R540; which pairs: log 28). -/
def fixedPairs : List Nat := [0x404, 0x420, 0x428, 0x1008, 0x3004, 0x9008, 0x9010]

/-- True for the LO register of a 64-bit pair (R540). -/
def isLo (off : Nat) : Bool :=
  fixedPairs.contains off ||
    (decide (0x4000 ≤ off) && decide (off < 0x5000) && (off % 64 == 0 || off % 64 == 0x18)) ||
    (decide (0x10000 ≤ off) && decide (off < 0x20000) && decide (8 ≤ off % 4096) && decide (off % 4096 < 0x30) && off % 8 == 0) ||
    (decide (0x20000 ≤ off) && decide (off < 0x201A8) && off % 8 == 0)

/-- The latch of a port. -/
def Regs.latch (r : Regs) (p : Port) : Option (Nat × Word) := match p with | .host => r.hostLatch | .mgmt => r.mgLatch

/-- The latch of a port is loaded. -/
def Regs.setLatch (r : Regs) (p : Port) (x : Nat × Word) : Regs :=
  match p with
  | .host => { r with hostLatch := some x }
  | .mgmt => { r with mgLatch := some x }

/-- The answer to a read leaves on its port. -/
def Regs.answer (r : Regs) (p : Port) (v : Word) : Regs :=
  match p with
  | .host => { r with hostRsp := v }
  | .mgmt => { r with mgRsp := v }

/-- An access sets flags of DJ_REG_STAT. -/
def Regs.flag (r : Regs) (p : Port) (size offset denied : Bool) : Regs :=
  { r with badSize := r.badSize || size, badOffset := r.badOffset || offset, mgDenied := r.mgDenied || denied, lastPort := p }

/-- True when a port reaches the page of an offset for reads (Table 15-1). -/
def reaches (p : Port) (off : Nat) : Bool := p == .host || decide (off < 0x3000)

/-- True for a single 32-bit access at a 4-byte aligned offset (R536). -/
def goodSize (off : BitVec 20) (be : BitVec 4) : Bool := be == 0xF && off.toNat % 4 == 0

/-- The value of a read that reaches its register, by way of the port's latch (R540). -/
def State.readValue (s : State) (p : Port) (off : Nat) (v : Word) : Word :=
  if isLo (off - 4) && decide (4 ≤ off) then
    match s.regs.latch p with
    | some (tag, hi) => if tag = off - 4 then hi else v
    | none => v
  else v

/-- The latching side effects of a read that reaches its register (R540, R553), and a fresh free estimate after DJ_PWR_STAT
(log 13). -/
def State.afterRead (p : Port) (off : Nat) (s : State) : State :=
  if isLo off then
    let hi := (s.readReg (off + 4)).getD 0
    { s with regs := s.regs.setLatch p (off, hi) }
  else if 0x40000 ≤ off ∧ off % 64 = 0 then
    let i := (off - 0x40000) / 64
    { s with regs := { s.regs with dbgLatch := some (i, s.slotView i) } }
  else if off = 0x8030 then { s with freeCtr := s.freeCtr + 1 }
  else s

/-- The answer of a port before step 6 of Table 13-4 (R541). -/
def State.earlyRead (s : State) (p : Port) (off : Nat) : Word :=
  if !s.powered then 0
  else if off = 0 then 0x7E1A4201
  else if off = 4 then s.caps
  else if p = .mgmt ∧ off / 4096 = 2 then s.logWord (off - 0x2000)
  else 0

/-- A read of the register window (R535 to R541). -/
def State.readAccess (p : Port) (off : BitVec 20) (be : BitVec 4) (s : State) : State :=
  let o := off.toNat
  if !s.regsOpen then
    { s with regs := s.regs.answer p (if goodSize off be then s.earlyRead p o else 0) }
  else if !goodSize off be then { s with regs := (s.regs.flag p true false false).answer p 0 }
  else
    match (if reaches p o then s.readReg o else none) with
    | none => { s with regs := (s.regs.flag p false true false).answer p 0 }
    | some v =>
      let out := s.readValue p o v
      let t := s.afterRead p o
      { t with regs := t.regs.answer p out }

/-! ### Writes with a behaviour of their own -/

/-- A write that the ports take (R541). -/
def State.onWrite (s : State) (f : State → State) : State := if s.regsOpen then f s else s

/-- DJ_ERR_ACK (R443). -/
def State.errAck (w : Word) (s : State) : State :=
  if laterSeq w s.err.ack && !laterSeq w s.err.head then { s with err := { s.err with ack := w } }
  else s.report { reason := 0x14, sev := .corrected, detailA := w.toNat, detailB := s.err.head.toNat }

/-- DJ_SVC_ACK (R449). -/
def State.svcAckWrite (w : Word) (s : State) : State :=
  if s.err.svcOpen && s.err.svcRecs.contains w then
    { s with err := { s.err with svcAck := w, svcOpen := false, svcRecs := [] } }
  else s

/-- DJ_CTL: CLUSTER_EN, then WARM_RST (R501, R496). -/
def State.ctlWrite (p : Port) (w : Word) (s : State) : State :=
  let src := match p with | .host => 1 | .mgmt => 2
  let s1 := if bit w.toNat 0 then s.clusterOn else s.clusterOff src
  if bit w.toNat 1 then s1.warmReset src else s1

/-- DJ_CTXDBG_BANK; a change of the bank empties the debug latch (R552, R553). -/
def State.bankWrite (w : Word) (s : State) : State :=
  let b := w &&& 3
  { s with regs := { s.regs with
      ctxdbgBank := b
      dbgLatch := if b = s.regs.ctxdbgBank then s.regs.dbgLatch else none } }

/-- DJ_IRQ_STAT: W1C bits that are not set in the same cycle are cleared (R546). -/
def State.irqClear (w setNow : Word) (s : State) : State :=
  let f (i : Nat) (old : Bool) : Bool := (old && !bit w.toNat i) || bit setNow.toNat i
  { s with err := { s.err with
      irqError := f 1 s.err.irqError
      irqService := f 2 s.err.irqService
      irqTest := f 3 s.err.irqTest } }

/-- DJ_CQ_PEND_LO and HI (R546, R547). -/
def State.cqClear (hi : Bool) (w setNow : Word) (s : State) : State :=
  let k := if hi then 32 else 0
  let up (x : Word) : Dword := BitVec.ofNat 64 (x.toNat * 2 ^ k)
  { s with regs := { s.regs with cqPend := (s.regs.cqPend &&& ~~~ (up w)) ||| up setNow } }

/-- DJ_CNT_CTL (R550). -/
def State.cntClear (w : Word) (s : State) : State :=
  if bit w.toNat 0 then { s with counters := List.replicate 53 0 } else s

/-- BAD_CFG holds for a queue with given LOG2_ENTRIES (Table 5-4, R153). -/
def Queue.badFor (z : Queue) (n : Nat) : Bool :=
  !(decide (6 ≤ n) && decide (n ≤ 16)) || !(decide (6 ≤ z.clog2) && decide (z.clog2 ≤ 16)) || z.base % 4096 != 0 || z.cbase % 4096 != 0

/-- DJ_QCTL: in HELD and OFF a write of ENABLE is ignored (12_chart Table 12-18); ENABLE is refused with BAD_CFG. -/
def State.qctlWrite (q : Fin 64) (w : Word) (s : State) : State :=
  let z := s.queue q
  let n := bits w.toNat 6 2
  let x := { z with fmtD3 := bit w.toNat 1, log2 := n }
  if s.chart.applied.isNone then s.setQueue q x
  else if !bit w.toNat 0 then s.setQueue q { x with enable := false }
  else if z.enable then s.setQueue q x
  else if z.badFor n then s.setQueue q { x with badCfg := true }
  else s.setQueue q { x with enable := true, badCfg := false }

/-- One half of a 64-bit value is replaced. -/
def putHalf (x : Nat) (hi : Bool) (w : Word) : Nat := if hi then x % 2 ^ 32 + 2 ^ 32 * w.toNat else x / 2 ^ 32 * 2 ^ 32 + w.toNat

/-- DJ_QBASE (R156). -/
def State.qbaseWrite (q : Fin 64) (hi : Bool) (w : Word) (s : State) : State :=
  let z := s.queue q
  s.setQueue q { z with base := putHalf z.base hi w, qhead := 0, qtail := 0 }

/-- DJ_CBASE (R156). -/
def State.cbaseWrite (q : Fin 64) (hi : Bool) (w : Word) (s : State) : State :=
  let z := s.queue q
  s.setQueue q { z with cbase := putHalf z.cbase hi w, chead := 0, ctail := 0, phase := true }

/-- DJ_QTAIL (R154). -/
def State.qtailWrite (q : Fin 64) (w : Word) (s : State) : State := s.setQueue q { s.queue q with qtail := bits w.toNat 16 0 }

/-- DJ_CHEAD (R157). -/
def State.cheadWrite (q : Fin 64) (w : Word) (s : State) : State := s.setQueue q { s.queue q with chead := bits w.toNat 16 0 }

/-- DJ_CCTL (Table 5-3). -/
def State.cctlWrite (q : Fin 64) (w : Word) (s : State) : State :=
  s.setQueue q { s.queue q with clog2 := bits w.toNat 4 0, irqAll := bit w.toNat 5 }

/-- A write of a queue register. -/
def State.queueWrite (q : Fin 64) (r : Nat) (w : Word) (s : State) : State :=
  match r with
  | 0x00 => s.qbaseWrite q false w
  | 0x04 => s.qbaseWrite q true w
  | 0x08 => s.qctlWrite q w
  | 0x0C => s.qtailWrite q w
  | 0x18 => s.cbaseWrite q false w
  | 0x1C => s.cbaseWrite q true w
  | 0x20 => s.cctlWrite q w
  | 0x24 => s.cheadWrite q w
  | _ => s

/-! ### Writes of registers without a behaviour of their own -/

/-- The plain registers take their value, without their reserved bits (R9); DJ_FN_SEL and DJ_SCTL_ARG keep the reserved bits that
a command judges. -/
def Regs.store (r : Regs) (off : Nat) (w : Word) : Option Regs :=
  match off with
  | 0x014 => some { r with scratch := w }
  | 0x400 => some { r with chanArg := w &&& 0xFFF }
  | 0x404 => some { r with chanListLo := w }
  | 0x408 => some { r with chanListHi := w }
  | 0x40C => some { r with chanLcount := w &&& 0xFFFFFF }
  | 0x418 => some { r with poolSel := w &&& 0xFF }
  | 0x1014 => some { r with irqEn := w &&& 0xF }
  | 0x1020 =>
    some { r with badSize := r.badSize && !bit w.toNat 0, badOffset := r.badOffset && !bit w.toNat 1,
                  mgDenied := r.mgDenied && !bit w.toNat 2 }
  | 0x1118 => some { r with coreFaultSel := w &&& 0xF }
  | 0x3000 => some { r with chartCtl := w &&& 7 }
  | 0x3004 => some { r with chartAddrLo := w }
  | 0x3008 => some { r with chartAddrHi := w }
  | 0x300C => some { r with chartLen := w }
  | 0x5000 => some { r with sctlArg0 := w }
  | 0x5004 => some { r with sctlArg1 := w }
  | 0x5008 => some { r with sctlArg2 := w }
  | 0x8000 => some { r with fnSel := w }
  | 0x8010 => some { r with clkMhz0 := w }
  | 0x8014 => some { r with clkMhz1 := w }
  | 0x8018 => some { r with clkMhz2 := w }
  | 0x801C => some { r with clkMhz3 := w }
  | _ => none

/-- A write that reaches a register; one that is RO, or lies in a read-only page, is ignored (R537). A write of DJ_CHAN_CMD
whose MAP_OUT would go on to read the tensor list is the MAP_OUT command, which brings that list. -/
def State.writeReg (p : Port) (off : Nat) (w : Word) (s : State) : State :=
  match s.regs.store off w with
  | some r => { s with regs := r }
  | none =>
    match off with
    | 0x008 => s.ctlWrite p w
    | 0x020 => s.bankWrite w
    | 0x410 => (s.chanCmd 1 w State.mapOutPlain).chanCmd 2 w State.mapIn
    | 0x1010 => s.irqClear w 0
    | 0x1018 => s.cqClear false w 0
    | 0x101C => s.cqClear true w 0
    | 0x1104 => s.errAck w
    | 0x110C => s.svcAckWrite w
    | 0x3010 =>
      ((s.chartCmd 1 w State.chartStart).chartCmd 2 w State.chartFinish).chartCmd 3 w State.chartAbort
    | 0x3014 => s.chartData w
    | 0x500C => s.sctlCmd w
    | 0x8004 => ((s.fnCmd 1 w).fnCmd 2 w).fnCmd 3 w
    | 0x21000 => s.cntClear w
    | _ =>
      if h : 0x4000 ≤ off ∧ off < 0x5000 then s.queueWrite ⟨(off - 0x4000) / 64, by omega⟩ (off % 64) w
      else s

/-- The registers that the management port writes (R537, R445). -/
def mgWrites (off : Nat) : Bool := off == 0x008 || off == 0x1104 || off == 0x110C

/-- A write of the register window (R535 to R541). A management write to any other offset than those of the
three registers it may write is a reserved access and sets MG_DENIED; a reserved offset is one of them (DEDUCED, log 33). -/
def State.writeAccess (p : Port) (off : BitVec 20) (be : BitVec 4) (w : Word) (s : State) : State :=
  let o := off.toNat
  if !s.regsOpen then s
  else if !goodSize off be then { s with regs := s.regs.flag p true false false }
  else
    if p = .mgmt ∧ !mgWrites o then { s with regs := s.regs.flag p false true true }
    else
      match s.readReg o with
      | none => { s with regs := s.regs.flag p false true false }
      | some _ => s.writeReg p o w

/-! ### Timers and the management port (R444, R448, R449) -/

/-- SVC_REPEAT: the DEGRADED record of an open request is sent again (R449). -/
def State.svcRepeat (s : State) : State :=
  if s.powered && s.err.svcOpen && decide (s.err.svcNext ≤ s.time) then
    s.sendDegraded (s.err.svcRecs.headD 0) true
  else s

/-- CE_WINDOW_EXPIRY: the count starts again (R448). -/
def State.ceExpires (s : State) : State :=
  if s.powered && decide (s.err.ceStart + s.ceWindow ≤ s.time) then
    { s with err := { s.err with ceCount := 0, ceStart := s.time, ceHit := false } }
  else s

/-- The beats of a record on the management port: eight of eight bytes, the last one marked (R444; 16_integration Table 16-3). -/
def Rec.beats (r : Rec) : List (Dword × Bool) :=
  ((groupsOf 8 8 r.bytes).map fun b => BitVec.ofNat 64 (leNat b)).zipIdx.map fun x => (x.1, x.2 == 7)

/-- MG_RECORD_OUT: the oldest record leaves (R444). -/
def State.recordOut (s : State) : State :=
  match s.err.mgq with
  | [] => s
  | r :: rest =>
    if s.powered then
      { s with err := { s.err with mgq := rest, mgOut := r.beats } }
    else s

/-- ROLE_WAIT: the record of a stream that stalls for want of a core is sent again every SERVICE interval
(05_streams_and_order R567). -/
def State.roleRepeat (n : Nat) (s : State) : State :=
  match s.stream? n with
  | none => s
  | some x =>
    match x.stallRole, s.lacksCore x with
    | some (role, port, last), some r =>
      if last + s.svcAfter last ≤ s.time then
        (s.updStream n fun y => { y with stallRole := some (role, port, s.time) }).roleRecord r role port true
      else s
    | _, _ => s

/-- SPILL_FULL: the record of a stream that stalls on a full spill region is sent again every SERVICE interval (01_five_levels
R35). -/
def State.spillRepeat (n : Nat) (s : State) : State :=
  match (s.stream? n).bind Stream.stallSpill with
  | none => s
  | some (pool, last) =>
    if last + s.svcAfter last ≤ s.time then
      (s.updStream n fun y => { y with stallSpill := some (pool, s.time) }).spillRec n pool true
    else s

end Sys2Proof.Machine
end

