-- ==== Sys2Proof/Machine/Wipe.lean ====
section
/-! DEFINITION. WIPE descriptors, ramps and wipes of every scope (05_streams_and_order R174; 13_clocks_power_lifecycle R500, R502),
and the work of an engine or checker that ends (06_expansion R214; 07_compression R268). -/

namespace Sys2Proof.Machine

/-! ### WIPE (R174) -/

/-- The WIPE at the head of a stream with a scope, before it starts. -/
def State.wipeRun (s : State) (n scope : Nat) : Option Run :=
  match s.headRun n with
  | some r => if s.working ∧ r.kind = 0x41 ∧ dScope r.desc = scope ∧ !r.started ∧ !r.finished then some r else none
  | none => none

/-- SCOPE STREAM_DATA: what the Harbour still holds for the stream is a stop record's tiles, which go (07_compression R277). -/
def State.wipeStream (n : Nat) (s : State) : State :=
  match s.wipeRun n 0 with
  | some r => (s.startRun n r).updStream n Stream.headEnds
  | none => s

/-- The stop records of descriptors that have completed: their retained tiles serve no work in flight (07_compression R277). -/
def State.idleStops (s : State) : List Stream :=
  s.streams.filter fun x => x.stop.any fun p => !x.runs.any (Run.named p.seq)

/-- SCOPE IDLE_SRAM: what the block keeps without work in flight goes: the directory cache, retained tiles of stopped descriptors with
their stop records, and early chunks, which no fetched RECV has taken. -/
def State.wipeIdle (n : Nat) (s : State) : State :=
  match s.wipeRun n 2 with
  | some r =>
    let s1 := s.startRun n r
    let s2 := forAll s1.idleStops (fun x s => s.discardStop x.num) s1
    let ports := s2.lports.map fun p => ({ p with early := [] } : LPort)
    ({ s2 with dirCache := [], lports := ports }).updStream n Stream.headEnds
  | none => s

/-- SCOPE CORE: a core that is ON shuts down and comes back; one that is OFF is wiped as it stands; one that shuts down already ends
the WIPE when it is over; an absent core has nothing to wipe (log 29). `sub` is 1 while an OFF core is wiped, 2 while the core comes
back. -/
def State.wipeCore (n : Nat) (s : State) : State :=
  match s.wipeRun n 1 with
  | none => s
  | some r =>
    let s1 := s.startRun n r
    if s.params.cores ≤ dCore r.desc then s1.updStream n Stream.headEnds
    else
      let c := coreOf (dCore r.desc)
      match (s.core c).fn.st with
      | .on => (s1.updCore c fun k => { k with fn := ⟨.pendingOn, .ramp⟩ }).updRun n r.seq fun y => { y with sub := 2 }
      | .off => s1.updRun n r.seq fun y => { y with sub := 1 }
      | .shutting | .pendingOn => s1.updRun n r.seq fun y => { y with sub := 2 }

/-- A core that was OFF has been wiped for the WIPEs that name it. -/
def State.wipesOf (c : Fin 16) (s : State) : State :=
  { s with streams := s.streams.map fun x =>
      match x.runs.head? with
      | some r => if r.kind = 0x41 ∧ dScope r.desc = 1 ∧ r.sub = 1 ∧ coreOf (dCore r.desc) = c then x.headEnds else x
      | none => x }

/-! ### Ramps and wipes -/

/-- CURRENT_RAMP_DONE. -/
def State.rampOf (sc : Scope) (s : State) : State :=
  match sc with
  | .test c => s.testRamped c
  | _ => s.rampDone sc

/-- SRAM_WIPE_DONE. -/
def State.wipeOf (sc : Scope) (s : State) : State :=
  match sc with
  | .test c => s.testWiped c
  | .shared => s.sharedWiped
  | .wipeCore c => (s.fnWiped (.core c)).wipesOf c
  | _ => s.wipeDone sc

/-! ### Engines and checkers -/

/-- True when a tile for delivery has been decoded; it stays with its engine until its tail beat has passed (R218). -/
def State.isDecoded (s : State) (j : RJob) : Bool :=
  s.dports.toList.any fun p => p.units.any fun u => u.job == some j.id && u.decoded && !u.again

/-- The read job that an engine decodes. -/
def State.readOn (s : State) (c : Fin 16) (e : Fin 8) : Option RJob :=
  s.rjobs.find? fun j => j.stage == .onEngine c e && !s.isDecoded j

/-- The write job on an engine. -/
def State.codeOn (s : State) (c : Fin 16) (e : Fin 8) : Option WJob := s.wjobs.find? fun w => w.stage == .onEngine c e

/-- A core that a tile is not executed on again after a parity error: none is left out (R417). -/
def anyCore : Option (Fin 16) := none

/-- TILE_DECODE_DONE. -/
def State.decodeDone (c : Fin 16) (e : Fin 8) (hw : List HwFault) (s : State) : State :=
  let s1 := s.sramFaults hw
  match s1.readOn c e with
  | none => s1
  | some j =>
    match parityOf hw with
    | some path => (s1.busParity .core c.val path).replayTile j anyCore
    | none => (s1.decodedOn c 1).decodeEnds j

/-- A drain image of a received sum goes on to its chunk (09_collectives R340). -/
def State.afterCode (w : WJob) (s : State) : State :=
  match w.src with
  | .received _ => if ((s.run? w.stream w.seq).map Run.kind) = some 0x20 then s.sumCoded w.id else s
  | _ => s

/-- TILE_CODE_DONE. -/
def State.codeDone (c : Fin 16) (e : Fin 8) (hw : List HwFault) (s : State) : State :=
  let s1 := s.sramFaults hw
  match s1.codeOn c e with
  | none => s1
  | some w =>
    match parityOf hw with
    | some path => (s1.busParity .core c.val path).replayWrite w anyCore
    | none => (s1.codeEnds w c (madeOf hw)).afterCode w

/-- The part that a checker decodes first: its job, its position and itself. -/
def State.checkedBy (s : State) (c : Fin 16) : Option (WJob × Nat × Part) :=
  s.wjobs.findSome? fun w => (w.parts.zipIdx.find? fun x => x.1.verify == .checking c).map fun x => (w, x.2, x.1)

/-- The part that a core evaluates third: its job, its position, itself, the first checker and what it saw. -/
def State.thirdBy (s : State) (c : Fin 16) : Option (WJob × Nat × Part × Fin 16 × Seen) :=
  s.wjobs.findSome? fun w => w.parts.zipIdx.findSome? fun x =>
    match x.1.verify with
    | .third b k seen => if k = c then some (w, x.2, x.1, b, seen) else none
    | _ => none

/-- The outcome of a checker decoder for the part that it decodes. -/
def State.checkSeen (c : Fin 16) (seen : Option Seen) (s : State) : State :=
  match s.checkedBy c with
  | some (w, i, p) => s.checkerEnds w i p c seen
  | none => s

/-- CHECKER_OUTCOME, with the faults that it meets: what a parity error spoils is decoded again (R417). -/
def State.checkDone (c : Fin 16) (seen : Option Seen) (hw : List HwFault) (s : State) : State :=
  s.withFaults hw (.core, c.val) (State.recheck c) (State.checkSeen c seen)

/-- The outcome of a third evaluation. -/
def State.thirdSeen (c : Fin 16) (seen : Option Seen) (s : State) : State :=
  match s.thirdBy c with
  | some (w, i, p, b, x) => s.thirdEnds w i p b c x seen
  | none => s

/-- THIRD_EVALUATION, with the faults that it meets. -/
def State.thirdDone (c : Fin 16) (seen : Option Seen) (hw : List HwFault) (s : State) : State :=
  s.withFaults hw (.core, c.val) (State.recheck c) (State.thirdSeen c seen)

/-- A delivery beat with the faults it meets: a parity error keeps the beat from its tile, which is delivered again (R417, R206). -/
def State.beatDone (port : Fin 8) (hw : List HwFault) (s : State) : State :=
  let s1 := s.sramFaults hw
  match parityOf hw with
  | none => s1.deliveryBeat port hw
  | some path =>
    let s2 := s1.busParity .deliveryPort port.val path
    match s2.dports[port].bus with
    | none => s2
    | some (id, _) =>
      match s2.dports[port].units.find? fun u => u.id == id with
      | some u => s2.deliverAgain port u anyCore
      | none => s2

/-- An intake beat with the faults it meets: a beat with a parity error does not pass (R417). -/
def State.beatIn (port : Fin 4) (side : Word) (data : List Byte) (hw : List HwFault) (s : State) : State :=
  s.withFaults hw (.intakePort, port.val) id (State.intakeBeat port side data (quantFaultsOf hw))

/-! ### Memory responses -/

/-- REPLAY of the tile that a read serves, and of its descriptor (05_streams_and_order R206). -/
def State.readReplays (r : MemReq) (s : State) : State :=
  match r.purpose with
  | .presence j | .entry j | .payload j _ =>
    match s.rjob? j with
    | some x => (s.updR j fun y => { y with replay := true }).flagRun x.stream x.seq RunFlags.again
    | none => s
  | .source w _ =>
    match s.wjob? w with
    | some x => (s.updW w fun y => { y with replay := true }).flagRun x.stream x.seq RunFlags.again
    | none => s
  | _ => s

/-- A read response: a beat with a parity error is not used, and the request is issued again (R417). -/
def State.readDone (r : MemReq) (img : Image) (hw : List HwFault) (s : State) : State :=
  (s.dropReq r).withFaults hw (.memoryPort, r.port.val) (fun s => (s.readReplays r).issue r)
    (State.readAnswer r img false (quantFaultsOf hw))

/-- A write response; one with a parity error is not used, and the write is issued again (log 83). -/
def State.writeDone (r : MemReq) (err : Bool) (par : Option Nat) (s : State) : State :=
  let s1 := s.dropReq r
  match par with
  | none => s1.writeAnswer r err
  | some path => (s1.busParity .memoryPort r.port.val path).issue r

end Sys2Proof.Machine
end

