-- ==== Sys2Proof/Machine/Work.lean ====
section
/-! DEFINITION. When a command is taken, and the next unit of work of a descriptor that needs more than one read for a unit: REDUCE, SCATTER_ACC, MERGE and the
collectives (06_expansion R235, R236; 08_accumulation R291, R320; 09_collectives R340, R357), and TEST descriptors (14_field_test
R524). -/

namespace Sys2Proof.Machine

/-! ### When a command is taken -/

/-- A write that the ports take (15_register_map R541). -/
def State.whenOpen (f : State → State) (s : State) : State := if s.regsOpen then f s else s

/-- An event of the management domain, which runs while the supply is on (13_clocks_power_lifecycle R494, R509). -/
def State.whenPowered (f : State → State) (s : State) : State := if s.powered then f s else s

/-- A row of a command register acts on its own value of a bit. -/
def State.onBit (w : Word) (i : Nat) (v : Bool) (f : State → State) (s : State) : State := if bit w.toNat i == v then f s else s

/-- A row of a command register acts on its own OP. -/
def State.onOp (w : Word) (op : Nat) (f : State → State) (s : State) : State := if bits w.toNat 1 0 = op then f s else s

/-- Source of a write in a record (13_clocks_power_lifecycle Table 13-13): 1 host command port, 2 management port. -/
def portCode (p : Port) : Nat := match p with | .host => 1 | .mgmt => 2

/-- True when a clock of a list is lost. -/
def State.clksLost (s : State) (l : List Clk) : Bool := l.any s.clkIsLost

/-- What crosses the domains of some clocks takes place while none of them is lost (13_clocks_power_lifecycle R491); the sender presents
it again when the clock is back (log 83). -/
def State.clocked (l : List Clk) (f : State → State) (s : State) : State := if s.clksLost l then s else f s

/-- A parity error on the path of a crossing is counted and reported; what it meets is not used (R490; 11_integrity R417). -/
def State.parityAt (u : UnitId × Nat) (path : Nat) (s : State) : State := s.whenPowered (State.busParity u.1 u.2 path)

/-- What crosses to unit `u`, with the path of the parity error that it meets, if it meets one (log 83). -/
def State.crossing (l : List Clk) (u : UnitId × Nat) (par : Option Nat) (f : State → State) (s : State) : State :=
  s.clocked l fun s =>
    match par with
    | none => f s
    | some path => s.parityAt u path

/-- The clocks that a register access of a port needs (R490, R491; Table 13-2). The register window lies in HCLK; what a write does, and the
states that the host and DJ_CTL and the status page show, lie in ECLK. The management port reads the error log and its registers without
either. DESIGN CHOICE: the spec lists no domain for each register (log 83). -/
def portClks (p : Port) (off : Nat) : List Clk :=
  match p with
  | .host => [.hclk, .eclk]
  | .mgmt =>
    if off = 0x1104 ∨ off = 0x110C then [.hclk]
    else if off / 4096 = 2 ∨ off / 256 = 0x11 then []
    else if off / 4096 = 1 ∨ off = 0x8 then [.hclk, .eclk]
    else [.hclk]

/-- A register write whose effect lies in ECLK: those of the host port, and those of DJ_CTL. -/
def State.register (par : Option Nat) (f : State → State) (s : State) : State := s.crossing [.hclk, .eclk] (.cluster, 0) par f

/-- A write of DJ_ERR_ACK or DJ_SVC_ACK: the error log lies in SCLK, and both ports reach it through HCLK. -/
def State.acknowledge (par : Option Nat) (f : State → State) (s : State) : State := s.crossing [.hclk] (.cluster, 0) par f

/-- A register read of a port: a parity error is counted, and the read is answered again (log 83). -/
def State.registerRead (p : Port) (off : Nat) (par : Option Nat) (f : State → State) (s : State) : State :=
  s.clocked (portClks p off) fun s =>
    match par with
    | none => f s
    | some path => f (s.parityAt (.cluster, 0) path)

/-- Memory ports that can answer a read: enabled, ON, with their clock running. -/
def State.portsUp (s : State) : Bool := s.memPorts.any fun m => !s.clkIsLost (memClk m)

/-- What a memory port returns to a step: it comes through a port in service and its clock domain, with parity (R490, R491). -/
def State.fromMemory (par : Option Nat) (f : State → State) (s : State) : State :=
  if s.portsUp then s.crossing [.eclk] (.cluster, 0) par f else s

/-- A command for the work of streams. -/
def State.atWork (f : State → State) (s : State) : State := if s.working then f s else s

/-! ### The next unit -/

/-- A started run of a kind that has reads left inside the units that it has started. -/
def State.runInside (s : State) (n kind : Nat) (left : Run → Bool) : Option Run :=
  (s.stream? n).bind fun x => x.runs.find? fun r => r.kind == kind && r.started && !r.finished && left r

/-- The run that a command works on: one with reads left inside its units, else the next one that may start units. -/
def State.workRun (s : State) (n kind : Nat) (left : Run → Bool) : Option Run :=
  match s.runInside n kind left with
  | some r => some r
  | none => s.frontRun n (· == kind)

/-- A unit of a run is begun with the run as it stands after its start. -/
def State.goOn (n kind : Nat) (left : Run → Bool) (go : Run → State → State) (s : State) : State :=
  match s.workRun n kind left with
  | none => s
  | some r0 =>
    if !s.working ∨ !s.portOpen r0.desc then s
    else
      let s1 := s.startRun n r0
      match s1.run? n r0.seq with
      | some r => go r s1
      | none => s1

/-- True when an accumulator tile of a run misses an addend. -/
def State.addendsLeft (s : State) (n : Nat) (r : Run) : Bool :=
  s.accs.any fun a => a.stream == n && a.seq == r.seq && !a.failed && decide (a.held.length < a.want)

/-- True when a group of a run has K blocks to start. -/
def State.blocksLeft (s : State) (n : Nat) (r : Run) : Bool := (s.blockGroup n r).isSome

/-- REDUCE. -/
def State.reduceCmd (n : Nat) (s : State) : State := s.goOn n 0x10 (s.addendsLeft n) (State.reduceGo n)

/-- MERGE. -/
def State.mergeCmd (n : Nat) (s : State) : State := s.goOn n 0x12 (s.blocksLeft n) (State.mergeGo n)

/-- SCATTER_ACC: its reads begin, or it issues its next read; behind another SCATTER_ACC of its stream it waits. -/
def State.scatterGo (n : Nat) (r : Run) (s : State) : State :=
  match s.scat? n with
  | none => s.scatterBegin n r
  | some x => if x.seq = r.seq ∧ !x.limit then s.scatterRead n r else s

/-- SCATTER_ACC. -/
def State.scatterCmd (n : Nat) (s : State) : State := s.goOn n 0x11 (fun _ => false) (State.scatterGo n)

/-- COLLECTIVE_SEND. -/
def State.sendCmd (n : Nat) (s : State) : State :=
  if !s.working then s
  else
    match s.frontRun n (· == 0x20) with
    | none => s
    | some r => (s.startRun n r).sendGo n

/-- EXPORT. -/
def State.exportCmd (n : Nat) (s : State) : State := if s.working then s.exportGo n else s

/-- COLLECTIVE_RECV. -/
def State.recvCmd (n : Nat) (s : State) : State :=
  if !s.working then s
  else
    match s.frontRun n (· == 0x21) with
    | none => s
    | some r => (s.startRun n r).recvGo n

/-- ALLOCATION_REQUEST: a request whose turn has come. -/
def State.allocCmd (id : Nat) (s : State) : State :=
  match s.wjob? id with
  | none => s
  | some w => if s.requestTurn w && w.stream != causewayStream then s.serveRequest id else s

/-- REPLAY of the descriptor of an accumulator tile. -/
def State.accReplays (id : Nat) (s : State) : State :=
  match s.acc? id with
  | some a => s.flagRun a.stream a.seq RunFlags.again
  | none => s

/-- Unit and core number of an accumulator tile. -/
def State.accUnit (s : State) (id : Nat) : UnitId × Nat := (.core, ((s.acc? id).map fun a => a.core.val).getD 0)

/-- REPLAY of the descriptor that holds the Atoll. -/
def State.scatterReplays (s : State) : State :=
  match s.scatter with
  | some x => s.flagRun x.stream x.seq RunFlags.again
  | none => s

/-- ACCUMULATOR_ADD. -/
def State.addCmd (id k : Nat) (hw : List HwFault) (s : State) : State :=
  s.withFaults hw (s.accUnit id) (State.accReplays id) (State.accAdd id k hw)

/-- ACCUMULATOR_DRAIN. -/
def State.drainCmd (id : Nat) (hw : List HwFault) (s : State) : State :=
  s.withFaults hw (s.accUnit id) (State.accReplays id) (State.accDrain id hw)

/-- ATOLL_DRAIN, with the faults that it meets. -/
def State.atollDrainCmd (hw : List HwFault) (s : State) : State :=
  s.withFaults hw (.atoll, 0) State.scatterReplays State.atollDrain

/-- MERGE_WALK, with the faults that it meets: a parity error has the group executed again (R417). -/
def State.walkCmd (group : Nat) (hw : List HwFault) (s : State) : State :=
  match s.groups.find? fun g => g.id == group with
  | none => s.sramFaults hw
  | some g => s.withFaults hw (.core, g.core.val) (State.replayGroup g anyCore) (State.mergeWalk group)


/-- ATOLL_UPDATE. -/
def State.updateCmd (lanes : Nat) (hw : List HwFault) (s : State) : State :=
  s.withFaults hw (.atoll, 0) State.scatterReplays (State.atollUpdate lanes hw)

end Sys2Proof.Machine
end

