-- ==== Sys2Proof/Machine/AccCmds.lean ====
section
/-! DEFINITION. Accumulators, the Atoll and the merge walker (06_expansion R237; 08_accumulation R290 to R332): one meaning for each row. -/

namespace Sys2Proof.Machine

/-- ACCUMULATOR_ADD (R292). -/
def execAccumulatorAdd (t : Time) (acc : Nat) (k : Nat) (hw : List HwFault) (s : State) : Host.Outcome State Fault Refusal :=
  .next (((s.timed t).clocked [.eclk] (State.addCmd acc k hw)).settle)

/-- RECOMPUTE_DONE (R427). -/
def execRecomputeDone (t : Time) (acc : Nat) (pass : Bool) (s : State) : Host.Outcome State Fault Refusal :=
  .next (((s.timed t).clocked [.eclk] (State.recomputed acc pass)).settle)

/-- ACCUMULATOR_DRAIN (R308). -/
def execAccumulatorDrain (t : Time) (acc : Nat) (hw : List HwFault) (s : State) : Host.Outcome State Fault Refusal :=
  .next (((s.timed t).clocked [.eclk] (State.drainCmd acc hw)).settle)

/-- ATOLL_UPDATE (R322). -/
def execAtollUpdate (t : Time) (lanes : Nat) (hw : List HwFault) (s : State) : Host.Outcome State Fault Refusal :=
  .next (((s.timed t).clocked [.eclk] (State.updateCmd lanes hw)).settle)

/-- ATOLL_DRAIN (R326). -/
def execAtollDrain (t : Time) (hw : List HwFault) (s : State) : Host.Outcome State Fault Refusal :=
  .next (((s.timed t).clocked [.eclk] (State.atollDrainCmd hw)).settle)

/-- MERGE_WALK (R239). -/
def execMergeWalk (t : Time) (group : Nat) (hw : List HwFault) (s : State) : Host.Outcome State Fault Refusal :=
  .next (((s.timed t).clocked [.eclk] (State.walkCmd group hw)).settle)

end Sys2Proof.Machine
end

