-- ==== Sys2Proof/Machine/ChannelCmds.lean ====
section
/-! DEFINITION. Channel events, MAP_OUT, MAP_IN and the Causeway (10_memory_channels R387 to R411): one meaning for each row. -/

namespace Sys2Proof.Machine

/-- CH_HOLD (R390). -/
def execChHold (t : Time) (ev : Dword) (par : Option Nat) (s : State) : Host.Outcome State Fault Refusal :=
  .next (((s.timed t).crossing [.hclk, .eclk] (.eventPort, 0) par (State.event 1 ev (State.holdChan (evTarget ev) (evArg ev)))).settle)

/-- CH_RELEASE (R390). -/
def execChRelease (t : Time) (ev : Dword) (par : Option Nat) (s : State) : Host.Outcome State Fault Refusal :=
  .next (((s.timed t).crossing [.hclk, .eclk] (.eventPort, 0) par (State.event 2 ev (State.releaseChan (evTarget ev)))).settle)

/-- CH_DEAD (R393). -/
def execChDead (t : Time) (ev : Dword) (par : Option Nat) (s : State) : Host.Outcome State Fault Refusal :=
  .next (((s.timed t).crossing [.hclk, .eclk] (.eventPort, 0) par (State.event 3 ev (State.killChan (evTarget ev)))).settle)

/-- THERM_NORMAL (R411). -/
def execThermNormal (t : Time) (ev : Dword) (par : Option Nat) (s : State) : Host.Outcome State Fault Refusal :=
  .next (((s.timed t).crossing [.hclk, .eclk] (.eventPort, 0) par (State.event 4 ev (State.thermEvent (evTarget ev) .normal))).settle)

/-- THERM_WARN (R411). -/
def execThermWarn (t : Time) (ev : Dword) (par : Option Nat) (s : State) : Host.Outcome State Fault Refusal :=
  .next (((s.timed t).crossing [.hclk, .eclk] (.eventPort, 0) par (State.event 5 ev (State.thermEvent (evTarget ev) .warn))).settle)

/-- THERM_CRIT (R411). -/
def execThermCrit (t : Time) (ev : Dword) (par : Option Nat) (s : State) : Host.Outcome State Fault Refusal :=
  .next (((s.timed t).crossing [.hclk, .eclk] (.eventPort, 0) par (State.event 6 ev (State.thermEvent (evTarget ev) .crit))).settle)

/-- HOLD_LONG (R392). -/
def execHoldLong (t : Time) (channel : Nat) (s : State) : Host.Outcome State Fault Refusal :=
  .next ((s.timed t).clocked [.eclk] (State.holdLong channel))

/-- MAP_OUT (R394). -/
def execMapOut (t : Time) (w : Word) (img : Image) (par : Option Nat) (s : State) : Host.Outcome State Fault Refusal :=
  .next (((s.timed t).register par (State.chanCmd 1 w (State.mapOut img))).settle)

/-- MAP_IN (R401). -/
def execMapIn (t : Time) (w : Word) (par : Option Nat) (s : State) : Host.Outcome State Fault Refusal :=
  .next (((s.timed t).register par (State.chanCmd 2 w State.mapIn)).settle)

/-- CAUSEWAY_TILE (R397). -/
def execCausewayTile (t : Time) (img : Image) (par : Option Nat) (s : State) : Host.Outcome State Fault Refusal :=
  .next (((s.timed t).fromMemory par (State.causewayTile img)).settle)

/-- CAUSEWAY_SPACE (R399). -/
def execCausewaySpace (t : Time) (s : State) : Host.Outcome State Fault Refusal :=
  .next (((s.timed t).clocked [.eclk] State.causewaySpace).settle)

end Sys2Proof.Machine
end

