-- ==== Sys2Proof/Machine/ChartCmds.lean ====
section
/-! DEFINITION. Loading a Chart (12_chart R471 to R486): one meaning for each row. -/

namespace Sys2Proof.Machine

/-- CHART_START (R472). -/
def execChartStart (t : Time) (w : Word) (par : Option Nat) (s : State) : Host.Outcome State Fault Refusal :=
  .next ((s.timed t).register par (State.chartCmd 1 w State.chartStart))

/-- CHART_DATA (R474). -/
def execChartData (t : Time) (w : Word) (par : Option Nat) (s : State) : Host.Outcome State Fault Refusal :=
  .next ((s.timed t).register par (State.whenOpen (State.chartData w)))

/-- CHART_FINISH (R474). -/
def execChartFinish (t : Time) (w : Word) (par : Option Nat) (s : State) : Host.Outcome State Fault Refusal :=
  .next ((s.timed t).register par (State.chartCmd 2 w State.chartFinish))

/-- CHART_ABORT (R474). -/
def execChartAbort (t : Time) (w : Word) (par : Option Nat) (s : State) : Host.Outcome State Fault Refusal :=
  .next ((s.timed t).register par (State.chartCmd 3 w State.chartAbort))

/-- CHART_VALIDATION_DONE (R477). -/
def execChartValidationDone (t : Time) (peers : List Peer) (img : Image) (par : Option Nat) (s : State) :
    Host.Outcome State Fault Refusal :=
  .next (((s.timed t).crossing [.eclk] (.cluster, 0) par (State.validated peers img)).settle)

/-- UPDATE_SWITCH (R483). -/
def execUpdateSwitch (t : Time) (s : State) : Host.Outcome State Fault Refusal :=
  .next (((s.timed t).clocked [.eclk] State.updateSwitch).settle)

end Sys2Proof.Machine
end

