-- ==== Sys2Proof/Machine/CollCmds.lean ====
section
/-! DEFINITION. Link ports and collectives (09_collectives R344 to R371): one meaning for each row. -/

namespace Sys2Proof.Machine

/-- CHUNK (R358). -/
def execChunk (t : Time) (port : Fin 2) (rank : Nat) (man : List Byte) (payload : List Byte) (par : Option Nat) (s : State) :
    Host.Outcome State Fault Refusal :=
  .next (((s.timed t).crossing [.lclk, .eclk] (.linkPort, port.val) par (State.receive port rank man payload)).settle)

/-- ACK (R359). -/
def execAck (t : Time) (port : Fin 2) (rank : Nat) (man : List Byte) (par : Option Nat) (s : State) :
    Host.Outcome State Fault Refusal :=
  .next (((s.timed t).crossing [.lclk, .eclk] (.linkPort, port.val) par (State.receive port rank man [])).settle)

/-- NACK (R359). -/
def execNack (t : Time) (port : Fin 2) (rank : Nat) (man : List Byte) (par : Option Nat) (s : State) :
    Host.Outcome State Fault Refusal :=
  .next (((s.timed t).crossing [.lclk, .eclk] (.linkPort, port.val) par (State.receive port rank man [])).settle)

/-- NOTICE (R370). -/
def execNotice (t : Time) (port : Fin 2) (rank : Nat) (man : List Byte) (par : Option Nat) (s : State) :
    Host.Outcome State Fault Refusal :=
  .next (((s.timed t).crossing [.lclk, .eclk] (.linkPort, port.val) par (State.receive port rank man [])).settle)

/-- CHUNK_SEND (R347). -/
def execChunkSend (t : Time) (port : Fin 2) (par : Option Nat) (s : State) : Host.Outcome State Fault Refusal :=
  .next (((s.timed t).crossing [.eclk, .lclk] (.linkPort, port.val) par (State.chunkSend port)).settle)

/-- NO_SPACE_RESEND (R359). -/
def execNoSpaceResend (t : Time) (stream : Nat) (chunk : Nat) (s : State) : Host.Outcome State Fault Refusal :=
  .next (((s.timed t).clocked [.eclk] (State.noSpaceResend stream chunk)).settle)

/-- RECV_TIMEOUT (R360). -/
def execRecvTimeout (t : Time) (stream : Nat) (s : State) : Host.Outcome State Fault Refusal :=
  .next (((s.timed t).clocked [.eclk] (State.recvTimeout stream)).settle)

/-- SEND_TIMEOUT (R361). -/
def execSendTimeout (t : Time) (stream : Nat) (chunk : Nat) (s : State) : Host.Outcome State Fault Refusal :=
  .next (((s.timed t).clocked [.eclk] (State.sendTimeout stream chunk)).settle)

/-- COLL_PROJECTION (R366). -/
def execCollProjection (t : Time) (stream : Nat) (s : State) : Host.Outcome State Fault Refusal :=
  .next (((s.timed t).clocked [.eclk] (State.project stream)).settle)

/-- RATE_MEASURE (R411). -/
def execRateMeasure (t : Time) (group : Nat) (s : State) : Host.Outcome State Fault Refusal :=
  .next ((s.timed t).clocked [.eclk] (State.measureRate group))

end Sys2Proof.Machine
end

