-- ==== Sys2Proof/Machine/ErrorCmds.lean ====
section
/-! DEFINITION. Error log, service requests, stall records, the management port (11_integrity R436 to R449; 05_streams_and_order R567;
01_five_levels R35): one meaning for each row. -/

namespace Sys2Proof.Machine

/-- ERR_ACK_WRITE (R443). -/
def execErrAckWrite (t : Time) (_p : Port) (w : Word) (par : Option Nat) (s : State) : Host.Outcome State Fault Refusal :=
  .next ((s.timed t).acknowledge par (State.whenOpen (State.errAck w)))

/-- SVC_ACK_WRITE (R449). -/
def execSvcAckWrite (t : Time) (_p : Port) (w : Word) (par : Option Nat) (s : State) : Host.Outcome State Fault Refusal :=
  .next ((s.timed t).acknowledge par (State.whenOpen (State.svcAckWrite w)))

/-- SVC_REPEAT (R449). -/
def execSvcRepeat (t : Time) (s : State) : Host.Outcome State Fault Refusal :=
  .next ((s.timed t).svcRepeat)

/-- SPILL_FULL (R35). -/
def execSpillFull (t : Time) (stream : Nat) (s : State) : Host.Outcome State Fault Refusal :=
  .next ((s.timed t).clocked [.eclk] (State.spillRepeat stream))

/-- ROLE_WAIT (R567). -/
def execRoleWait (t : Time) (stream : Nat) (s : State) : Host.Outcome State Fault Refusal :=
  .next ((s.timed t).clocked [.eclk] (State.roleRepeat stream))

/-- CE_WINDOW_EXPIRY (R448). -/
def execCeWindowExpiry (t : Time) (s : State) : Host.Outcome State Fault Refusal :=
  .next ((s.timed t).ceExpires)

/-- MG_RECORD_OUT (R444). -/
def execMgRecordOut (t : Time) (par : Option Nat) (s : State) : Host.Outcome State Fault Refusal :=
  .next ((s.timed t).crossing [] (.cluster, 0) par State.recordOut)

end Sys2Proof.Machine
end

