-- ==== Sys2Proof/Machine/PipeCmds.lean ====
section
/-! DEFINITION. Memory responses and the tile pipeline (06_expansion, 07_compression, 10_memory_channels, 11_integrity): one meaning for each row. -/

namespace Sys2Proof.Machine

/-- MEMORY_READ_RESPONSE (R376); an answer to no outstanding read breaks R376 on a port in use, and is ignored on any other (R561). -/
def execMemoryReadResponse (t : Time) (port : Fin 8) (tag : Nat) (img : Image) (hw : List HwFault) (s : State) :
    Host.Outcome State Fault Refusal :=
  if (s.timed t).clksLost [memClk port, .eclk] then .next (s.timed t)
  else
    match (s.timed t).req? port tag with
    | some r => if r.kind = .read then .next ((s.timed t).readDone r img hw).settle else .fault .unknownTag
    | none => if s.portThere .memory port.val then .fault .unknownTag else .next (s.timed t)

/-- MEMORY_WRITE_RESPONSE (R376); an answer to no outstanding write breaks R376 on a port in use, and is ignored on any other (R561). -/
def execMemoryWriteResponse (t : Time) (port : Fin 8) (tag : Nat) (err : Bool) (par : Option Nat) (s : State) :
    Host.Outcome State Fault Refusal :=
  if (s.timed t).clksLost [memClk port, .eclk] then .next (s.timed t)
  else
    match (s.timed t).req? port tag with
    | some r => if r.kind = .read then .fault .unknownTag else .next ((s.timed t).writeDone r err par).settle
    | none => if s.portThere .memory port.val then .fault .unknownTag else .next (s.timed t)

/-- READ_RESTART (R191). -/
def execReadRestart (t : Time) (job : Nat) (s : State) : Host.Outcome State Fault Refusal :=
  .next (((s.timed t).clocked [.eclk] (State.restartRead job)).settle)

/-- TILE_DECODE_DONE (R106). -/
def execTileDecodeDone (t : Time) (core : Fin 16) (eng : Fin 8) (hw : List HwFault) (s : State) :
    Host.Outcome State Fault Refusal :=
  .next (((s.timed t).clocked [.eclk] (State.decodeDone core eng hw)).settle)

/-- DELIVERY_BEAT (R215). -/
def execDeliveryBeat (t : Time) (port : Fin 8) (hw : List HwFault) (s : State) : Host.Outcome State Fault Refusal :=
  .next (((s.timed t).clocked [.dclk, .eclk] (State.beatDone port hw)).settle)

/-- PORT_STALL (R219). -/
def execPortStall (t : Time) (port : Fin 8) (s : State) : Host.Outcome State Fault Refusal :=
  .next ((s.timed t).clocked [.dclk, .eclk] (State.portStall port))

/-- INTAKE_BEAT (R257). -/
def execIntakeBeat (t : Time) (port : Fin 4) (side : Word) (data : List Byte) (hw : List HwFault) (s : State) :
    Host.Outcome State Fault Refusal :=
  .next (((s.timed t).clocked [.dclk, .eclk] (State.beatIn port side data hw)).settle)

/-- INTAKE_STALL (R259). -/
def execIntakeStall (t : Time) (port : Fin 4) (s : State) : Host.Outcome State Fault Refusal :=
  .next ((s.timed t).clocked [.dclk, .eclk] (State.intakeStall port))

/-- TILE_CODE_DONE (R112). -/
def execTileCodeDone (t : Time) (core : Fin 16) (eng : Fin 8) (hw : List HwFault) (s : State) :
    Host.Outcome State Fault Refusal :=
  .next (((s.timed t).clocked [.eclk] (State.codeDone core eng hw)).settle)

/-- CHECKER_OUTCOME (R268). -/
def execCheckerOutcome (t : Time) (core : Fin 16) (seen : Option Seen) (hw : List HwFault) (s : State) :
    Host.Outcome State Fault Refusal :=
  .next (((s.timed t).clocked [.eclk] (State.checkDone core seen hw)).settle)

/-- THIRD_EVALUATION (R426). -/
def execThirdEvaluation (t : Time) (core : Fin 16) (seen : Option Seen) (hw : List HwFault) (s : State) :
    Host.Outcome State Fault Refusal :=
  .next (((s.timed t).clocked [.eclk] (State.thirdDone core seen hw)).settle)

/-- ALLOCATION_REQUEST (R272). -/
def execAllocationRequest (t : Time) (job : Nat) (s : State) : Host.Outcome State Fault Refusal :=
  .next (((s.timed t).clocked [.eclk] (State.allocCmd job)).settle)

/-- TILE_COMMIT (R270). -/
def execTileCommit (t : Time) (img : Image) (par : Option Nat) (s : State) : Host.Outcome State Fault Refusal :=
  .next (((s.timed t).fromMemory par (State.takeCommit img)).settle)

end Sys2Proof.Machine
end

