-- ==== Sys2Proof/Machine/PowerCmds.lean ====
section
/-! DEFINITION. Resets, clocks, current, shutting down and enabling (13_clocks_power_lifecycle; 14_field_test R527): one meaning for each row. -/

namespace Sys2Proof.Machine

/-- COLD_RESET_ASSERT (R494). -/
def execColdResetAssert (t : Time) (s : State) : Host.Outcome State Fault Refusal :=
  .next ((s.timed t).coldAssert)

/-- COLD_RESET_RELEASE (R493). -/
def execColdResetRelease (t : Time) (lcIn : BitVec 3) (s : State) : Host.Outcome State Fault Refusal :=
  .next ((s.timed t).coldRelease lcIn.toNat)

/-- REPAIR_WORD (R527). -/
def execRepairWord (t : Time) (w : Word) (s : State) : Host.Outcome State Fault Refusal :=
  .next ((s.timed t).repairWord w)

/-- REPAIR_DONE (R493). -/
def execRepairDone (t : Time) (s : State) : Host.Outcome State Fault Refusal :=
  .next ((s.timed t).repairDone)

/-- WARM_RST_N (R496). -/
def execWarmRstN (t : Time) (s : State) : Host.Outcome State Fault Refusal :=
  .next (((s.timed t).clocked [.hclk, .eclk] (State.warmReset 0)).settle)

/-- WARM_RST (R496). -/
def execWarmRst (t : Time) (p : Port) (par : Option Nat) (s : State) : Host.Outcome State Fault Refusal :=
  .next (((s.timed t).register par (State.whenOpen (State.warmReset (portCode p)))).settle)

/-- MG_RST_N (R498). -/
def execMgRstN (t : Time) (s : State) : Host.Outcome State Fault Refusal :=
  .next ((s.timed t).mgReset)

/-- CLUSTER_DISABLE (R501). -/
def execClusterDisable (t : Time) (p : Port) (par : Option Nat) (s : State) : Host.Outcome State Fault Refusal :=
  .next (((s.timed t).register par (State.whenOpen (State.clusterOff (portCode p)))).settle)

/-- CLUSTER_ENABLE (R501). -/
def execClusterEnable (t : Time) (_p : Port) (par : Option Nat) (s : State) : Host.Outcome State Fault Refusal :=
  .next (((s.timed t).register par (State.whenOpen State.clusterOn)).settle)

/-- CLK_LOST (R491). -/
def execClkLost (t : Time) (c : Clk) (s : State) : Host.Outcome State Fault Refusal :=
  .next ((s.timed t).whenPowered (State.clkLost c))

/-- CLK_LOST_REPEAT (R491). -/
def execClkLostRepeat (t : Time) (s : State) : Host.Outcome State Fault Refusal :=
  .next ((s.timed t).whenPowered State.clkRepeat)

/-- PWR_GRANT_CHANGE (R507). -/
def execPwrGrantChange (t : Time) (level : Bool) (par : Option Nat) (s : State) : Host.Outcome State Fault Refusal :=
  .next (((s.timed t).crossing [.eclk] (.cluster, 0) par (State.grantChange level)).settle)

/-- INTENT_LEAD_EXPIRY (R506). -/
def execIntentLeadExpiry (t : Time) (s : State) : Host.Outcome State Fault Refusal :=
  .next (((s.timed t).clocked [.eclk] State.leadExpires).settle)

/-- CURRENT_RAMP_DONE (R504). -/
def execCurrentRampDone (t : Time) (sc : Scope) (s : State) : Host.Outcome State Fault Refusal :=
  .next (((s.timed t).clocked [.eclk] (State.rampOf sc)).settle)

/-- SRAM_WIPE_DONE (R502). -/
def execSramWipeDone (t : Time) (sc : Scope) (s : State) : Host.Outcome State Fault Refusal :=
  .next (((s.timed t).clocked [.eclk] (State.wipeOf sc)).settle)

/-- DRAIN_DONE (R481). -/
def execDrainDone (t : Time) (s : State) : Host.Outcome State Fault Refusal :=
  .next (((s.timed t).clocked [.eclk] State.drainDone).settle)

/-- FN_ENABLE (R499). -/
def execFnEnable (t : Time) (w : Word) (par : Option Nat) (s : State) : Host.Outcome State Fault Refusal :=
  .next (((s.timed t).register par (State.fnCmd 1 w)).settle)

/-- FN_DISABLE (R499). -/
def execFnDisable (t : Time) (w : Word) (par : Option Nat) (s : State) : Host.Outcome State Fault Refusal :=
  .next (((s.timed t).register par (State.fnCmd 2 w)).settle)

/-- FN_RESET (R499). -/
def execFnReset (t : Time) (w : Word) (par : Option Nat) (s : State) : Host.Outcome State Fault Refusal :=
  .next (((s.timed t).register par (State.fnCmd 3 w)).settle)

/-- SHUT_DOWN_COMPLETES (R197). -/
def execShutDownCompletes (t : Time) (f : FnId) (s : State) : Host.Outcome State Fault Refusal :=
  .next (((s.timed t).clocked [.eclk] (State.shutDownDone f)).settle)

/-- CLOCK_RETURN (R491). -/
def execClockReturn (t : Time) (c : Clk) (s : State) : Host.Outcome State Fault Refusal :=
  .next ((s.timed t).whenPowered (State.clkReturn c))

/-- SUPPLY_LOSS (R509). -/
def execSupplyLoss (t : Time) (s : State) : Host.Outcome State Fault Refusal :=
  .next ((s.timed t).supplyLoss)

end Sys2Proof.Machine
end

