-- ==== Sys2Proof/Machine/QueueCmds.lean ====
section
/-! DEFINITION. Queues, streams, fetching and completion (05_streams_and_order): one meaning for each row. -/

namespace Sys2Proof.Machine

/-- QUEUE_ENABLE (R155). -/
def execQueueEnable (t : Time) (q : Fin 64) (w : Word) (par : Option Nat) (s : State) : Host.Outcome State Fault Refusal :=
  .next ((s.timed t).register par (State.whenOpen (State.onBit w 0 true (State.qctlWrite q w))))

/-- QUEUE_DISABLE (R155). -/
def execQueueDisable (t : Time) (q : Fin 64) (w : Word) (par : Option Nat) (s : State) : Host.Outcome State Fault Refusal :=
  .next ((s.timed t).register par (State.whenOpen (State.onBit w 0 false (State.qctlWrite q w))))

/-- QBASE_WRITE (R156). -/
def execQbaseWrite (t : Time) (q : Fin 64) (hi : Bool) (w : Word) (par : Option Nat) (s : State) :
    Host.Outcome State Fault Refusal :=
  .next ((s.timed t).register par (State.whenOpen (State.qbaseWrite q hi w)))

/-- CBASE_WRITE (R156). -/
def execCbaseWrite (t : Time) (q : Fin 64) (hi : Bool) (w : Word) (par : Option Nat) (s : State) :
    Host.Outcome State Fault Refusal :=
  .next ((s.timed t).register par (State.whenOpen (State.cbaseWrite q hi w)))

/-- QTAIL_WRITE (R154). -/
def execQtailWrite (t : Time) (q : Fin 64) (w : Word) (par : Option Nat) (s : State) : Host.Outcome State Fault Refusal :=
  .next ((s.timed t).register par (State.whenOpen (State.qtailWrite q w)))

/-- CHEAD_WRITE (R157). -/
def execCheadWrite (t : Time) (q : Fin 64) (w : Word) (par : Option Nat) (s : State) : Host.Outcome State Fault Refusal :=
  .next ((s.timed t).register par (State.whenOpen (State.cheadWrite q w)))

/-- OPEN (R162). -/
def execOpenStream (t : Time) (w : Word) (par : Option Nat) (s : State) : Host.Outcome State Fault Refusal :=
  .next (((s.timed t).register par (State.whenOpen (State.onOp w 1 (State.sctlCmd w)))).settle)

/-- CLOSE (R163). -/
def execCloseStream (t : Time) (w : Word) (par : Option Nat) (s : State) : Host.Outcome State Fault Refusal :=
  .next (((s.timed t).register par (State.whenOpen (State.onOp w 2 (State.sctlCmd w)))).settle)

/-- DESCRIPTOR_FETCH (R176). -/
def execDescriptorFetch (t : Time) (q : Fin 64) (img : Image) (par : Option Nat) (s : State) : Host.Outcome State Fault Refusal :=
  .next (((s.timed t).fromMemory par fun s => s.atWork (State.fetch q img)).settle)

/-- CONTEXT_FETCH_DONE (R166). -/
def execContextFetchDone (t : Time) (q : Fin 64) (img : Image) (par : Option Nat) (s : State) : Host.Outcome State Fault Refusal :=
  .next (((s.timed t).fromMemory par fun s => s.atWork (State.contextBack q img)).settle)

/-- DESCRIPTOR_COMPLETION (R180). -/
def execDescriptorCompletion (t : Time) (src : CmplOf) (s : State) : Host.Outcome State Fault Refusal :=
  .next (((s.timed t).clocked [.eclk] (State.complete src)).settle)

end Sys2Proof.Machine
end

