-- ==== Sys2Proof/Machine/RegCmds.lean ====
section
/-! DEFINITION. Register reads and writes (15_register_map R535 to R554): one meaning for each row. -/

namespace Sys2Proof.Machine

/-- CNT_CLEAR (R550). -/
def execCntClear (t : Time) (w : Word) (par : Option Nat) (s : State) : Host.Outcome State Fault Refusal :=
  .next ((s.timed t).register par (State.whenOpen (State.cntClear w)))

/-- CTXDBG_BANK_WRITE (R553). -/
def execCtxdbgBankWrite (t : Time) (w : Word) (par : Option Nat) (s : State) : Host.Outcome State Fault Refusal :=
  .next ((s.timed t).register par (State.whenOpen (State.bankWrite w)))

/-- CTXDBG_SNAPSHOT (R553). -/
def execCtxdbgSnapshot (t : Time) (off : BitVec 20) (par : Option Nat) (s : State) : Host.Outcome State Fault Refusal :=
  .next ((s.timed t).registerRead .host off.toNat par (State.readAccess .host off 0xF))

/-- LO_REGISTER_READ (R540). -/
def execLoRegisterRead (t : Time) (p : Port) (off : BitVec 20) (be : BitVec 4) (par : Option Nat) (s : State) :
    Host.Outcome State Fault Refusal :=
  .next ((s.timed t).registerRead p off.toNat par (State.readAccess p off be))

/-- IRQ_STAT_CLEAR (R546). -/
def execIrqStatClear (t : Time) (w : Word) (setNow : Word) (par : Option Nat) (s : State) : Host.Outcome State Fault Refusal :=
  .next ((s.timed t).register par (State.whenOpen (State.irqClear w setNow)))

/-- CQ_PEND_CLEAR (R547). -/
def execCqPendClear (t : Time) (hi : Bool) (w : Word) (setNow : Word) (par : Option Nat) (s : State) :
    Host.Outcome State Fault Refusal :=
  .next ((s.timed t).register par (State.whenOpen (State.cqClear hi w setNow)))

/-- REGISTER_WRITE (R538). -/
def execRegisterWrite (t : Time) (p : Port) (off : BitVec 20) (be : BitVec 4) (w : Word) (par : Option Nat) (s : State) :
    Host.Outcome State Fault Refusal :=
  .next (((s.timed t).crossing (portClks p off.toNat) (.cluster, 0) par (State.writeAccess p off be w)).settle)

end Sys2Proof.Machine
end

