-- ==== Sys2Proof/Machine/Ring.lean ====
section
/-! DEFINITION. Messages that arrive over the die ring (01_five_levels R20 to R25, R28; 05_streams_and_order R188, R189; 11_integrity
R417; 12_chart R463, R485). The spec gives the ring no message format: log 15. -/

namespace Sys2Proof.Machine


/-! ### The signals of DR_TX (16_integration Table 16-5) -/

/-- One beat of a message: 512 data bits, a parity bit for each 32 of them, and the last beat's mark. -/
structure RingBeat where
  data : List Byte
  par : BitVec 16
  last : Bool
  deriving DecidableEq, Repr

/-- Even parity of four bytes (11_integrity R417): 1 when an odd number of their bits is set. -/
def parity32 (l : List Byte) : Bool := ((List.range 32).filter fun i => (leNat l).testBit i).length % 2 == 1

/-- The beats of a message's bytes. -/
def ringBeats (l : List Byte) : List RingBeat :=
  let n := max 1 (ceilDiv l.length 64)
  (List.range n).map fun i =>
    { data := slice l (64 * i) 64
      par := BitVec.ofNat 16 (((List.range 16).map fun w => b2n (parity32 (slice l (64 * i + 4 * w) 4)) * 2 ^ w).sum)
      last := i + 1 == n }

/-- What DR_TX_DATA, DR_TX_PAR and DR_TX_LAST carry for the messages sent, oldest first. The spec gives no message format, so the bytes of each
message are free (log 15). -/
def State.ringTx (s : State) : List RingBeat := (List.range s.ring.length).flatMap fun i => ringBeats (Config.ringForm i)

/-! ### Commits and requests of other clusters -/

/-- A commit from another cluster in the commit queue. -/
def Commit.ofRemote (id : Nat) (c : RemoteCommit) : Commit :=
  { id := id, job := c.job, part := 0, remote := some c.cluster, pool := c.pool, recAddr := c.recAddr, tile := c.tile,
    entryAddr := c.entryAddr, mapAddr := c.mapAddr, entry := c.entry, old := 0, presence := [], seq := c.seq,
    handle := c.handle, expect := c.expect, skipZero := c.skipZero, cls := c.cls, written := false, acked := false, tries := 0 }

/-- True when this cluster does not serve a commit: it is down, or it allocates the tile's pool and that is not READY (R23). -/
def State.turnsAway (s : State) (c : RemoteCommit) : Bool :=
  s.unavailable || (s.poolSt? c.pool).any fun p => !s.poolReady p

/-- True when another Causeway has locked a tile. -/
def State.lockTaken (s : State) (c : RemoteCommit) : Bool :=
  s.remoteLocks.any (fun l => l.2 == c.entryAddr && l.1 != c.cluster) || (s.causeway.bind Causeway.locked) == some c.entryAddr

/-- A commit from another cluster enters the commit queue, or is answered UNAVAILABLE (R188, R23). The lock of a Causeway of another cluster
is taken, and answered, and goes with its unlock (10_memory_channels R397; log 15). -/
def State.queueRemote (c : RemoteCommit) (s : State) : State :=
  match c.op with
  | .unlock => { s with remoteLocks := s.remoteLocks.erase (c.cluster, c.entryAddr) }
  | .lock =>
    if s.turnsAway c || s.lockTaken c then s.answer c.cluster c.job .unavailable
    else
      { s with remoteLocks := (s.remoteLocks.erase (c.cluster, c.entryAddr)) ++ [(c.cluster, c.entryAddr)] }.answer c.cluster c.job (.committed none)
  | .write =>
    if s.turnsAway c then s.answer c.cluster c.job .unavailable
    else { s.numbered with commits := s.commits ++ [Commit.ofRemote s.nextId c] }

/-- DIE_RING_COMMIT: one with a parity error is discarded, and its sender sends it again (R417). -/
def State.ringCommit (c : RemoteCommit) (hw : List HwFault) (s : State) : State := s.withFaults hw (.dieRing, 0) id (State.queueRemote c)

/-- DIE_RING_SECTOR_REQUEST: it is answered UNAVAILABLE before the pool is READY (R21, R23). -/
def State.ringRequest (r : RemoteRequest) (s : State) : State :=
  match s.poolSt? r.pool with
  | some ps => if s.unavailable || !s.poolReady ps then s.answer r.cluster r.job .unavailable else s.serveRemote r true
  | none => s.answer r.cluster r.job .unavailable

/-- DIE_RING_SECTOR_RELEASE: sectors that no entry named return at once, and others wait two epochs (R189, R190, R269). -/
def State.ringRelease (pool start size : Nat) (unnamed : Bool) (s : State) : State :=
  if unnamed then s.discardSectors pool start size else s.releaseSectors pool start size

/-- EPOCH_BOUNDARY: sectors whose epochs are over return, and spills that were refused ask again (R190). -/
def State.epochBoundary (s : State) : State := s.reclaim.askSpills

/-- The identity of this cluster, when it runs with a Chart. -/
def State.ownIdent (s : State) : Option Peer :=
  s.chart.applied.map fun c => ⟨c.fleet, c.rank, c.die, c.cluster, c.poolsScrc⟩

/-- DIE_RING_IDENT_CHECK: a running cluster answers with its own identity and POOLS check, which the loading cluster compares
(R28, R463). -/
def State.ringIdent (_p : Peer) (s : State) : State :=
  match s.ownIdent with
  | some q => s.sendRing (.identAnswer q)
  | none => s

end Sys2Proof.Machine
end

