-- ==== Sys2Proof/Machine/RingCmds.lean ====
section
/-! DEFINITION. The die ring and reader epochs (01_five_levels R19 to R24; 05_streams_and_order R188 to R190; 16_integration R562;
log 15): one meaning for each row. -/

namespace Sys2Proof.Machine

/-- DIE_RING_COMMIT (R188). -/
def execDieRingCommit (t : Time) (c : RemoteCommit) (hw : List HwFault) (s : State) : Host.Outcome State Fault Refusal :=
  .next (((s.timed t).clocked [.eclk] (State.ringCommit c hw)).settle)

/-- DIE_RING_SECTOR_REQUEST (R21). -/
def execDieRingSectorRequest (t : Time) (r : RemoteRequest) (par : Option Nat) (s : State) : Host.Outcome State Fault Refusal :=
  .next (((s.timed t).crossing [.eclk] (.dieRing, 0) par (State.ringRequest r)).settle)

/-- DIE_RING_INVALIDATE (R25). -/
def execDieRingInvalidate (t : Time) (entryAddr : Nat) (par : Option Nat) (s : State) : Host.Outcome State Fault Refusal :=
  .next ((s.timed t).crossing [.eclk] (.dieRing, 0) par (State.invalidate entryAddr))

/-- REMOTE_WAIT_RETRY (R23). -/
def execRemoteWaitRetry (t : Time) (job : Nat) (s : State) : Host.Outcome State Fault Refusal :=
  .next (((s.timed t).clocked [.eclk] (State.retryRemote job)).settle)

/-- EPOCH_BOUNDARY (R190). -/
def execEpochBoundary (t : Time) (s : State) : Host.Outcome State Fault Refusal :=
  .next (((s.timed t).clocked [.eclk] State.epochBoundary).settle)

/-- DIE_RING_CONTRIBUTION (R19). -/
def execDieRingContribution (t : Time) (acc : Nat) (k : Nat) (entry : BitVec 128) (payload : List Byte) (par : Option Nat) (s : State) :
    Host.Outcome State Fault Refusal :=
  .next (((s.timed t).crossing [.eclk] (.dieRing, 0) par (State.contribution acc k entry payload)).settle)

/-- DIE_RING_IDENT_CHECK (R28). -/
def execDieRingIdentCheck (t : Time) (p : Peer) (par : Option Nat) (s : State) : Host.Outcome State Fault Refusal :=
  .next ((s.timed t).crossing [.eclk] (.dieRing, 0) par (State.ringIdent p))

/-- DIE_RING_SECTOR_RELEASE (R189). -/
def execDieRingSectorRelease (t : Time) (pool start size : Nat) (unnamed : Bool) (par : Option Nat) (s : State) :
    Host.Outcome State Fault Refusal :=
  .next (((s.timed t).crossing [.eclk] (.dieRing, 0) par (State.ringRelease pool start size unnamed)).settle)

/-- DIE_RING_RESPONSE (R23). -/
def execDieRingResponse (t : Time) (job : Nat) (a : RingAnswer) (par : Option Nat) (s : State) :
    Host.Outcome State Fault Refusal :=
  .next (((s.timed t).crossing [.eclk] (.dieRing, 0) par (State.gotAnswer job a)).settle)

end Sys2Proof.Machine
end

