-- ==== Sys2Proof/Machine/TestCmds.lean ====
section
/-! DEFINITION. Built-in and in-field test (14_field_test R517 to R533): one meaning for each row. -/

namespace Sys2Proof.Machine

/-- FERRY_TIMER (R521). -/
def execFerryTimer (t : Time) (s : State) : Host.Outcome State Fault Refusal :=
  .next (((s.timed t).clocked [.hclk, .eclk] State.ferryTimer).settle)

/-- CORE_TEST_START (R519). -/
def execCoreTestStart (t : Time) (s : State) : Host.Outcome State Fault Refusal :=
  .next (((s.timed t).clocked [.eclk] State.coreTestStart).settle)

/-- LBIST_DONE (R517). -/
def execLbistDone (t : Time) (misr : Dword) (s : State) : Host.Outcome State Fault Refusal :=
  .next ((s.timed t).clocked [.eclk] (State.lbistDone misr))

/-- MBIST_DONE (R526). -/
def execMbistDone (t : Time) (results : List MbistResult) (s : State) : Host.Outcome State Fault Refusal :=
  .next ((s.timed t).clocked [.eclk] (State.mbistDone results))

/-- SCAN_DONE (R531). -/
def execScanDone (t : Time) (seen : List ScanSeen) (s : State) : Host.Outcome State Fault Refusal :=
  .next (((s.timed t).clocked [.eclk] (State.scanDone seen)).settle)

/-- PP_RESPONSE (R528). -/
def execPpResponse (t : Time) (data : List Byte) (err : Bool) (par : Option Nat) (s : State) : Host.Outcome State Fault Refusal :=
  .next (((s.timed t).crossing [.eclk] (.cluster, 0) par (State.patternBytes data err)).settle)

/-- TEST_ACCESS (R532). -/
def execTestAccess (t : Time) (bit : Nat) (kind : TestAccess) (par : Option Nat) (s : State) : Host.Outcome State Fault Refusal :=
  .next ((s.timed t).crossing [] (.cluster, 0) par (State.testAccess bit kind))

end Sys2Proof.Machine
end

