-- ==== Sys2Proof/Machine/WorkCmds.lean ====
section
/-! DEFINITION. Descriptors at work (06_expansion, 07_compression, 08_accumulation, 09_collectives, 10_memory_channels, 11_integrity,
14_field_test): one meaning for each row. -/

namespace Sys2Proof.Machine

/-- EXPAND (R209). -/
def execExpand (t : Time) (stream : Nat) (s : State) : Host.Outcome State Fault Refusal :=
  .next (((s.timed t).readNext stream 1 .deliver).settle)

/-- COMPRESS (R253). -/
def execCompress (t : Time) (stream : Nat) (s : State) : Host.Outcome State Fault Refusal :=
  .next (((s.timed t).compressGo stream).settle)

/-- RESUME (R275). -/
def execResume (t : Time) (stream : Nat) (s : State) : Host.Outcome State Fault Refusal :=
  .next (((s.timed t).resumeGo stream).settle)

/-- EXPORT (R278). -/
def execExportTiles (t : Time) (stream : Nat) (s : State) : Host.Outcome State Fault Refusal :=
  .next (((s.timed t).exportCmd stream).settle)

/-- REDUCE (R292). -/
def execReduce (t : Time) (stream : Nat) (s : State) : Host.Outcome State Fault Refusal :=
  .next (((s.timed t).reduceCmd stream).settle)

/-- SCATTER_ACC (R322). -/
def execScatterAcc (t : Time) (stream : Nat) (s : State) : Host.Outcome State Fault Refusal :=
  .next (((s.timed t).scatterCmd stream).settle)

/-- MERGE (R237). -/
def execMerge (t : Time) (stream : Nat) (s : State) : Host.Outcome State Fault Refusal :=
  .next (((s.timed t).mergeCmd stream).settle)

/-- COLLECTIVE_SEND (R339). -/
def execCollectiveSend (t : Time) (stream : Nat) (s : State) : Host.Outcome State Fault Refusal :=
  .next (((s.timed t).sendCmd stream).settle)

/-- COLLECTIVE_RECV (R340). -/
def execCollectiveRecv (t : Time) (stream : Nat) (s : State) : Host.Outcome State Fault Refusal :=
  .next (((s.timed t).recvCmd stream).settle)

/-- MIGRATE (R407). -/
def execMigrate (t : Time) (stream : Nat) (s : State) : Host.Outcome State Fault Refusal :=
  .next (((s.timed t).readNext stream 0x30 .migrate).settle)

/-- SCRUB (R433). -/
def execScrub (t : Time) (stream : Nat) (s : State) : Host.Outcome State Fault Refusal :=
  .next (((s.timed t).readNext stream 0x31 .scrub).settle)

/-- FENCE_STREAMS (R184). -/
def execFenceStreams (t : Time) (stream : Nat) (s : State) : Host.Outcome State Fault Refusal :=
  .next (((s.timed t).atWork (State.fenceStreams stream)).settle)

/-- FENCE_BARRIER (R186). -/
def execFenceBarrier (t : Time) (stream : Nat) (s : State) : Host.Outcome State Fault Refusal :=
  .next (((s.timed t).atWork (State.fenceBarrier stream)).settle)

/-- WIPE_STREAM_DATA (R174). -/
def execWipeStreamData (t : Time) (stream : Nat) (s : State) : Host.Outcome State Fault Refusal :=
  .next (((s.timed t).wipeStream stream).settle)

/-- WIPE_CORE (R174). -/
def execWipeCore (t : Time) (stream : Nat) (s : State) : Host.Outcome State Fault Refusal :=
  .next (((s.timed t).wipeCore stream).settle)

/-- WIPE_IDLE_SRAM (R174). -/
def execWipeIdleSram (t : Time) (stream : Nat) (s : State) : Host.Outcome State Fault Refusal :=
  .next (((s.timed t).wipeIdle stream).settle)

/-- TEST_LBIST (R524). -/
def execTestLbist (t : Time) (stream : Nat) (s : State) : Host.Outcome State Fault Refusal :=
  .next (((s.timed t).atWork (State.askTest stream 0 false)).settle)

/-- TEST_MBIST (R524). -/
def execTestMbist (t : Time) (stream : Nat) (s : State) : Host.Outcome State Fault Refusal :=
  .next (((s.timed t).atWork (State.askTest stream 1 false)).settle)

/-- TEST_MBIST_SHARED (R525). -/
def execTestMbistShared (t : Time) (stream : Nat) (s : State) : Host.Outcome State Fault Refusal :=
  .next (((s.timed t).atWork (State.askTest stream 1 true)).settle)

/-- FERRY_NOW (R524). -/
def execFerryNow (t : Time) (stream : Nat) (s : State) : Host.Outcome State Fault Refusal :=
  .next (((s.timed t).atWork (State.askTest stream 2 false)).settle)

/-- LOAD_PACKAGE (R529). -/
def execLoadPackage (t : Time) (stream : Nat) (img : Image) (par : Option Nat) (s : State) : Host.Outcome State Fault Refusal :=
  .next (((s.timed t).fromMemory par fun s => s.atWork (State.loadPackage stream img)).settle)

/-- LIFECYCLE (R513). -/
def execLifecycle (t : Time) (stream : Nat) (s : State) : Host.Outcome State Fault Refusal :=
  .next (((s.timed t).atWork (State.lifecycle stream)).settle)

end Sys2Proof.Machine
end

