-- ==== Sys2Proof/Machine/Dispatch.lean ====
section
/-! DEFINITION. The effect of every command: one arm for each row of spec/opcode_table.json. -/

namespace Sys2Proof.Machine

/-- The effect of a command on everything but the queue of waiting commands. -/
def exec (i : Instr) (s : State) : Host.Outcome State Fault Refusal :=
  match i with
  | .coldResetAssert t => Sys2Proof.Machine.execColdResetAssert t s
  | .coldResetRelease t lcIn => Sys2Proof.Machine.execColdResetRelease t lcIn s
  | .repairWord t w => Sys2Proof.Machine.execRepairWord t w s
  | .repairDone t => Sys2Proof.Machine.execRepairDone t s
  | .warmRstN t => Sys2Proof.Machine.execWarmRstN t s
  | .warmRst t p par => Sys2Proof.Machine.execWarmRst t p par s
  | .mgRstN t => Sys2Proof.Machine.execMgRstN t s
  | .clusterDisable t p par => Sys2Proof.Machine.execClusterDisable t p par s
  | .clusterEnable t p par => Sys2Proof.Machine.execClusterEnable t p par s
  | .clkLost t c => Sys2Proof.Machine.execClkLost t c s
  | .clkLostRepeat t => Sys2Proof.Machine.execClkLostRepeat t s
  | .pwrGrantChange t level par => Sys2Proof.Machine.execPwrGrantChange t level par s
  | .intentLeadExpiry t => Sys2Proof.Machine.execIntentLeadExpiry t s
  | .currentRampDone t sc => Sys2Proof.Machine.execCurrentRampDone t sc s
  | .sramWipeDone t sc => Sys2Proof.Machine.execSramWipeDone t sc s
  | .drainDone t => Sys2Proof.Machine.execDrainDone t s
  | .fnEnable t w par => Sys2Proof.Machine.execFnEnable t w par s
  | .fnDisable t w par => Sys2Proof.Machine.execFnDisable t w par s
  | .fnReset t w par => Sys2Proof.Machine.execFnReset t w par s
  | .shutDownCompletes t f => Sys2Proof.Machine.execShutDownCompletes t f s
  | .queueEnable t q w par => Sys2Proof.Machine.execQueueEnable t q w par s
  | .queueDisable t q w par => Sys2Proof.Machine.execQueueDisable t q w par s
  | .qbaseWrite t q hi w par => Sys2Proof.Machine.execQbaseWrite t q hi w par s
  | .cbaseWrite t q hi w par => Sys2Proof.Machine.execCbaseWrite t q hi w par s
  | .qtailWrite t q w par => Sys2Proof.Machine.execQtailWrite t q w par s
  | .cheadWrite t q w par => Sys2Proof.Machine.execCheadWrite t q w par s
  | .openStream t w par => Sys2Proof.Machine.execOpenStream t w par s
  | .closeStream t w par => Sys2Proof.Machine.execCloseStream t w par s
  | .descriptorFetch t q img par => Sys2Proof.Machine.execDescriptorFetch t q img par s
  | .contextFetchDone t q img par => Sys2Proof.Machine.execContextFetchDone t q img par s
  | .expand t stream => Sys2Proof.Machine.execExpand t stream s
  | .compress t stream => Sys2Proof.Machine.execCompress t stream s
  | .resume t stream => Sys2Proof.Machine.execResume t stream s
  | .exportTiles t stream => Sys2Proof.Machine.execExportTiles t stream s
  | .reduce t stream => Sys2Proof.Machine.execReduce t stream s
  | .scatterAcc t stream => Sys2Proof.Machine.execScatterAcc t stream s
  | .merge t stream => Sys2Proof.Machine.execMerge t stream s
  | .collectiveSend t stream => Sys2Proof.Machine.execCollectiveSend t stream s
  | .collectiveRecv t stream => Sys2Proof.Machine.execCollectiveRecv t stream s
  | .migrate t stream => Sys2Proof.Machine.execMigrate t stream s
  | .scrub t stream => Sys2Proof.Machine.execScrub t stream s
  | .fenceStreams t stream => Sys2Proof.Machine.execFenceStreams t stream s
  | .fenceBarrier t stream => Sys2Proof.Machine.execFenceBarrier t stream s
  | .wipeStreamData t stream => Sys2Proof.Machine.execWipeStreamData t stream s
  | .wipeCore t stream => Sys2Proof.Machine.execWipeCore t stream s
  | .wipeIdleSram t stream => Sys2Proof.Machine.execWipeIdleSram t stream s
  | .testLbist t stream => Sys2Proof.Machine.execTestLbist t stream s
  | .testMbist t stream => Sys2Proof.Machine.execTestMbist t stream s
  | .testMbistShared t stream => Sys2Proof.Machine.execTestMbistShared t stream s
  | .ferryNow t stream => Sys2Proof.Machine.execFerryNow t stream s
  | .loadPackage t stream img par => Sys2Proof.Machine.execLoadPackage t stream img par s
  | .lifecycle t stream => Sys2Proof.Machine.execLifecycle t stream s
  | .descriptorCompletion t src => Sys2Proof.Machine.execDescriptorCompletion t src s
  | .memoryReadResponse t port tag img hw => Sys2Proof.Machine.execMemoryReadResponse t port tag img hw s
  | .memoryWriteResponse t port tag err par => Sys2Proof.Machine.execMemoryWriteResponse t port tag err par s
  | .readRestart t job => Sys2Proof.Machine.execReadRestart t job s
  | .tileDecodeDone t core eng hw => Sys2Proof.Machine.execTileDecodeDone t core eng hw s
  | .deliveryBeat t port hw => Sys2Proof.Machine.execDeliveryBeat t port hw s
  | .portStall t port => Sys2Proof.Machine.execPortStall t port s
  | .intakeBeat t port side data hw => Sys2Proof.Machine.execIntakeBeat t port side data hw s
  | .intakeStall t port => Sys2Proof.Machine.execIntakeStall t port s
  | .tileCodeDone t core eng hw => Sys2Proof.Machine.execTileCodeDone t core eng hw s
  | .checkerOutcome t core seen hw => Sys2Proof.Machine.execCheckerOutcome t core seen hw s
  | .thirdEvaluation t core seen hw => Sys2Proof.Machine.execThirdEvaluation t core seen hw s
  | .allocationRequest t job => Sys2Proof.Machine.execAllocationRequest t job s
  | .tileCommit t img par => Sys2Proof.Machine.execTileCommit t img par s
  | .dieRingCommit t c hw => Sys2Proof.Machine.execDieRingCommit t c hw s
  | .dieRingSectorRequest t r par => Sys2Proof.Machine.execDieRingSectorRequest t r par s
  | .dieRingInvalidate t entryAddr par => Sys2Proof.Machine.execDieRingInvalidate t entryAddr par s
  | .remoteWaitRetry t job => Sys2Proof.Machine.execRemoteWaitRetry t job s
  | .epochBoundary t => Sys2Proof.Machine.execEpochBoundary t s
  | .accumulatorAdd t acc k hw => Sys2Proof.Machine.execAccumulatorAdd t acc k hw s
  | .recomputeDone t acc pass => Sys2Proof.Machine.execRecomputeDone t acc pass s
  | .accumulatorDrain t acc hw => Sys2Proof.Machine.execAccumulatorDrain t acc hw s
  | .atollUpdate t lanes hw => Sys2Proof.Machine.execAtollUpdate t lanes hw s
  | .atollDrain t hw => Sys2Proof.Machine.execAtollDrain t hw s
  | .mergeWalk t group hw => Sys2Proof.Machine.execMergeWalk t group hw s
  | .chunk t port rank man payload par => Sys2Proof.Machine.execChunk t port rank man payload par s
  | .ack t port rank man par => Sys2Proof.Machine.execAck t port rank man par s
  | .nack t port rank man par => Sys2Proof.Machine.execNack t port rank man par s
  | .notice t port rank man par => Sys2Proof.Machine.execNotice t port rank man par s
  | .chunkSend t port par => Sys2Proof.Machine.execChunkSend t port par s
  | .noSpaceResend t stream chunk => Sys2Proof.Machine.execNoSpaceResend t stream chunk s
  | .recvTimeout t stream => Sys2Proof.Machine.execRecvTimeout t stream s
  | .sendTimeout t stream chunk => Sys2Proof.Machine.execSendTimeout t stream chunk s
  | .collProjection t stream => Sys2Proof.Machine.execCollProjection t stream s
  | .rateMeasure t group => Sys2Proof.Machine.execRateMeasure t group s
  | .chHold t ev par => Sys2Proof.Machine.execChHold t ev par s
  | .chRelease t ev par => Sys2Proof.Machine.execChRelease t ev par s
  | .chDead t ev par => Sys2Proof.Machine.execChDead t ev par s
  | .thermNormal t ev par => Sys2Proof.Machine.execThermNormal t ev par s
  | .thermWarn t ev par => Sys2Proof.Machine.execThermWarn t ev par s
  | .thermCrit t ev par => Sys2Proof.Machine.execThermCrit t ev par s
  | .holdLong t channel => Sys2Proof.Machine.execHoldLong t channel s
  | .mapOut t w img par => Sys2Proof.Machine.execMapOut t w img par s
  | .mapIn t w par => Sys2Proof.Machine.execMapIn t w par s
  | .causewayTile t img par => Sys2Proof.Machine.execCausewayTile t img par s
  | .causewaySpace t => Sys2Proof.Machine.execCausewaySpace t s
  | .chartStart t w par => Sys2Proof.Machine.execChartStart t w par s
  | .chartData t w par => Sys2Proof.Machine.execChartData t w par s
  | .chartFinish t w par => Sys2Proof.Machine.execChartFinish t w par s
  | .chartAbort t w par => Sys2Proof.Machine.execChartAbort t w par s
  | .chartValidationDone t peers img par => Sys2Proof.Machine.execChartValidationDone t peers img par s
  | .updateSwitch t => Sys2Proof.Machine.execUpdateSwitch t s
  | .errAckWrite t p w par => Sys2Proof.Machine.execErrAckWrite t p w par s
  | .svcAckWrite t p w par => Sys2Proof.Machine.execSvcAckWrite t p w par s
  | .svcRepeat t => Sys2Proof.Machine.execSvcRepeat t s
  | .spillFull t stream => Sys2Proof.Machine.execSpillFull t stream s
  | .roleWait t stream => Sys2Proof.Machine.execRoleWait t stream s
  | .ceWindowExpiry t => Sys2Proof.Machine.execCeWindowExpiry t s
  | .mgRecordOut t par => Sys2Proof.Machine.execMgRecordOut t par s
  | .ferryTimer t => Sys2Proof.Machine.execFerryTimer t s
  | .coreTestStart t => Sys2Proof.Machine.execCoreTestStart t s
  | .lbistDone t misr => Sys2Proof.Machine.execLbistDone t misr s
  | .mbistDone t results => Sys2Proof.Machine.execMbistDone t results s
  | .scanDone t seen => Sys2Proof.Machine.execScanDone t seen s
  | .ppResponse t data err par => Sys2Proof.Machine.execPpResponse t data err par s
  | .testAccess t bit kind par => Sys2Proof.Machine.execTestAccess t bit kind par s
  | .cntClear t w par => Sys2Proof.Machine.execCntClear t w par s
  | .ctxdbgBankWrite t w par => Sys2Proof.Machine.execCtxdbgBankWrite t w par s
  | .ctxdbgSnapshot t off par => Sys2Proof.Machine.execCtxdbgSnapshot t off par s
  | .loRegisterRead t p off be par => Sys2Proof.Machine.execLoRegisterRead t p off be par s
  | .irqStatClear t w setNow par => Sys2Proof.Machine.execIrqStatClear t w setNow par s
  | .cqPendClear t hi w setNow par => Sys2Proof.Machine.execCqPendClear t hi w setNow par s
  | .registerWrite t p off be w par => Sys2Proof.Machine.execRegisterWrite t p off be w par s
  | .clockReturn t c => Sys2Proof.Machine.execClockReturn t c s
  | .supplyLoss t => Sys2Proof.Machine.execSupplyLoss t s
  | .dieRingContribution t acc k entry payload par => Sys2Proof.Machine.execDieRingContribution t acc k entry payload par s
  | .dieRingIdentCheck t p par => Sys2Proof.Machine.execDieRingIdentCheck t p par s
  | .dieRingSectorRelease t pool start size unnamed par => Sys2Proof.Machine.execDieRingSectorRelease t pool start size unnamed par s
  | .dieRingResponse t job a par => Sys2Proof.Machine.execDieRingResponse t job a par s

end Sys2Proof.Machine
end

