-- ==== Sys2Proof/Safety.lean ====
section
/-! DEFINITION. What counts as a safe step: it answers a next state. -/

namespace Sys2Proof.Machine

/-- The outcome is a next state. -/
def isNext (o : Host.Outcome State Fault Refusal) : Prop := ∃ t, o = .next t

/-- The state of an outcome, if it has one. -/
def nextState (o : Host.Outcome State Fault Refusal) : Option State :=
  match o with
  | .next t => some t
  | .fault _ => none
  | .refused _ => none

/-- The command answers a next state of which P holds. -/
def Runs (c : Instr) (s : State) (P : State → Prop) : Prop := ∃ t, exec c s = .next t ∧ P t

/-- A register access of a port reaches the registers: they answer, and no clock between the port and them is lost (15_register_map R541,
13_clocks_power_lifecycle R491). -/
def State.reached (s : State) : Bool := s.regsOpen && !s.clksLost [.hclk, .eclk]

/-- The command brings about a state of which P holds, and answers what follows at once from it (`State.settle`). -/
def Settles (c : Instr) (s : State) (P : State → Prop) : Prop := ∃ u, exec c s = .next u.settle ∧ P u

/-- From s to t one record has been sent, with this reason and severity; it carries the REC_SEQ that s had next (11_integrity R436,
R441). -/
def Sent (s t : State) (reason : Nat) (sev : Sev) : Prop :=
  t.err.head = s.err.head + 1 ∧ ∃ r, t.err.log.getLast? = some r ∧ r.reason = reason ∧ r.sev = sev ∧ r.recSeq = s.err.head

/-- From s to u one memory request has been added, to those outstanding or to those that wait to be issued (10_memory_channels R374,
R390), and no other. -/
def Asked (s u : State) (kind : ReqKind) (addr : Nat) (data : List Byte) (why : Purpose) : Prop :=
  ∃ r : MemReq, (u.reqs = s.reqs ++ [r] ∧ u.holdq = s.holdq ∨ u.reqs = s.reqs ∧ u.holdq = s.holdq ++ [r]) ∧ r.kind = kind ∧
    r.addr = addr ∧ r.data = data ∧ r.purpose = why

/-- The messages sent over the die ring once one more has been sent: none leaves a cluster whose DR_COUNT is 0 (16_integration R562). -/
def State.ringAfter (s : State) (m : RingMsg) : List RingMsg := if s.params.drCount = 0 then s.ring else s.ring ++ [m]

/-- Commands that neither write a register, nor change the life-cycle state, the governor, a thermal state or the time of a clock
record. -/
def PlainCommand : Instr → Prop
  | .coldResetAssert .. | .coldResetRelease .. | .warmRstN .. | .warmRst .. | .clkLost .. | .clkLostRepeat .. | .pwrGrantChange ..
  | .intentLeadExpiry .. | .currentRampDone .. | .sramWipeDone .. | .drainDone .. | .fnEnable .. | .fnDisable .. | .fnReset ..
  | .shutDownCompletes .. | .openStream .. | .closeStream .. | .memoryWriteResponse .. | .rateMeasure .. | .thermNormal ..
  | .thermWarn .. | .thermCrit .. | .mapOut .. | .mapIn .. | .chartValidationDone .. | .ctxdbgBankWrite .. | .ctxdbgSnapshot ..
  | .loRegisterRead .. | .cqPendClear .. | .registerWrite .. | .clockReturn .. | .supplyLoss .. => False
  | _ => True

/-- The error log and the management queue are in order (11_integrity R438, R441, R444): at most 64 records and at most 32, and the
records of the log carry the numbers that end just before the next REC_SEQ. -/
structure ErrState.Ok (e : ErrState) : Prop where
  log : e.log.length ≤ 64
  mgq : e.mgq.length ≤ 32
  numbered : ∀ i r, e.log[i]? = some r → r.recSeq + BitVec.ofNat 32 (e.log.length - i) = e.head

/-- What every command keeps of a state: its static inputs are p, the commands that wait are q, the counter page holds its 53 counters
(15_register_map Table 15-9), and the error log is in order. -/
structure Fits (p : Params) (q : List Instr) (s : State) : Prop where
  params : s.params = p
  pending : s.pending = q
  counters : s.counters.length = 53
  err : s.err.Ok

end Sys2Proof.Machine
end

