-- ==== Sys2Proof/Certificates/Slice0/Obligations.lean ====
section
/-! DEFINITION. The statements for the provers. -/

open Sys2Proof Sys2Proof.Machine

/-! ### The machine as a whole -/

/-- A step carries out the command at the front of the queue with the queue's rest. -/
def Obligations.StepRunsFrontCommand : Prop :=
  ∀ (c : Instr) (q : List Instr) (s : State), s.pending = c :: q → step s = exec c { s with pending := q }

/-- Every step keeps the static inputs, the 53 counters and the order of the error log, and takes exactly one command. -/
def Obligations.StepKeepsFits : Prop :=
  ∀ (p : Params) (c : Instr) (q : List Instr) (s t : State), Fits p (c :: q) s → step s = .next t → Fits p q t

/-- The machine after reset meets what every step keeps. -/
def Obligations.ResetFits : Prop := Fits State.reset.params [] State.reset

/-- Only the answers of memory can stop a step. -/
def Obligations.OnlyMemoryAnswersStop : Prop :=
  ∀ (c : Instr) (s : State),
    match c with
    | .memoryReadResponse .. => True
    | .memoryWriteResponse .. => True
    | _ => isNext (exec c s)

/-- An answer that arrives stops exactly when it matches no request of its kind on a port in service. -/
def Obligations.UnmatchedAnswersStop : Prop :=
  ∀ (t : Time) (port : Fin 8) (tag : Nat) (img : Image) (hw : List HwFault) (e : Bool) (par : Option Nat) (s : State),
    (exec (.memoryReadResponse t port tag img hw) s = .fault .unknownTag ↔
      s.clksLost [memClk port, .eclk] = false ∧ match s.req? port tag with
        | some r => r.kind ≠ .read
        | none => s.portThere .memory port.val = true) ∧
    (exec (.memoryWriteResponse t port tag e par) s = .fault .unknownTag ↔
      s.clksLost [memClk port, .eclk] = false ∧ match s.req? port tag with
        | some r => r.kind = .read
        | none => s.portThere .memory port.val = true)

/-! ### Resets, clocks and current -/

/-- The assertion of COLD_RST_N and the loss of the supply stop the block; what they leave is what a cold reset starts from. -/
def Obligations.ColdResetAndSupplyLoss : Prop :=
  ∀ (t : Time) (s : State),
    (Runs (.coldResetAssert t) s fun u =>
      u.phase = .coldLow ∧ u.err.log = [] ∧ u.err.mgq = [] ∧ u.err.head = 0 ∧ u.streams = [] ∧ u.rjobs = [] ∧ u.wjobs = [] ∧
        u.reqs = [] ∧ u.counters = List.replicate 53 0 ∧ u.regs = Regs.reset s.params.hardening ∧ u.params = s.params) ∧
    (Runs (.supplyLoss t) s fun u =>
      u.phase = .off ∧ u.err.log = [] ∧ u.err.mgq = [] ∧ u.streams = [] ∧ u.rjobs = [] ∧ u.wjobs = [] ∧ u.reqs = [] ∧
        u.regs = Regs.reset s.params.hardening ∧ u.params = s.params)

/-- The steps of a cold reset from the rise of COLD_RST_N to HELD. The number of arrays that a repair word may name is free (log 12). -/
def Obligations.ColdResetSteps : Prop :=
  ∀ (t : Time) (s : State),
    (∀ lcIn : BitVec 3, s.phase = .coldLow → Runs (.coldResetRelease t lcIn) s fun u =>
      u.phase = .repair ∧ u.chart.held = true ∧ u.lcIn = lcIn.toNat ∧ (lcIn.toNat < 5 → u.lc = lcIn.toNat ∧ u.lcInvalid = false) ∧
        (5 ≤ lcIn.toNat → u.lc = 4 ∧ u.lcInvalid = true)) ∧
    (∀ w : Word, s.phase = .repair → bit w.toNat 31 = true → Runs (.repairWord t w) s fun u =>
      u.chart = s.chart ∧ (s.spareFree w = true → u.test.spares = s.test.spares ++ [spareOf w] ∧ u.test.repairBad = s.test.repairBad) ∧
        (s.spareFree w = false → u.test.spares = s.test.spares ∧ u.test.repairBad = s.test.repairBad ++ [w])) ∧
    (s.phase = .repair → exec (.repairDone t) s = .next { s with time := t, phase := .coldWipe }) ∧
    (s.phase = .coldWipe → s.clksLost [.eclk] = false → s.lcInvalid = false → s.test.repairBad = [] → s.chart.held = true →
      Settles (.sramWipeDone t .cold) s fun u => u.phase = .run ∧ u.chart.held = true ∧ Sent s u 0x7C .corrected)

/-- A warm reset of a running cluster: its start, its ramps and its wipe. -/
def Obligations.WarmResetSteps : Prop :=
  ∀ (t : Time) (s : State),
    (∀ p : Port, s.clksLost [.hclk, .eclk] = false → s.phase = .run → (s.cluster.st = .on ∨ s.cluster.st = .off) →
      (Settles (.warmRstN t) s fun u =>
        (∃ n, u.phase = .warm .quiesce 0 n) ∧ u.streams = [] ∧ u.rjobs = [] ∧ u.wjobs = [] ∧ u.accs = [] ∧ u.atoll = [] ∧
          u.groups = [] ∧ u.colls = [] ∧ u.cluster = Fn.isOn ∧ u.chart.load = .none ∧ u.chart.drain = none ∧ u.regs = s.regs) ∧
      (Settles (.warmRst t p none) s fun u =>
        (∃ n, u.phase = .warm .quiesce (portCode p) n) ∧ u.streams = [] ∧ u.rjobs = [] ∧ u.wjobs = [] ∧ u.chart.load = .none ∧
          u.chart.drain = none ∧ u.regs = s.regs)) ∧
    (∀ src n, s.phase = .warm .rampWipe src n → s.clksLost [.eclk] = false → s.power.leadOver = true → Settles (.currentRampDone t .warm) s fun u =>
      u.phase = .warm .wipe src n ∧ u.power.est = s.power.target ∧ u.power.ballast = false) ∧
    (∀ src n, s.phase = .warm .wipe src n → s.clksLost [.eclk] = false → Settles (.sramWipeDone t .warm) s fun u =>
      u.phase = .warm .rampHeld src n ∧ u.streams = [] ∧ u.atoll = [] ∧ u.dirCache = []) ∧
    (∀ src n, s.phase = .warm .rampHeld src n → s.clksLost [.eclk] = false → s.power.leadOver = true → Settles (.currentRampDone t .warm) s fun u =>
      u.phase = .run ∧ u.regs = { Regs.reset s.params.hardening with scratch := s.regs.scratch } ∧ u.counters.length = s.counters.length ∧
        u.err.head = s.err.head + 2 ∧ u.chart.held = true)

/-- Requests of a warm reset while one runs, and while the cluster shuts down; what it ends of the Chart (13_clocks_power_lifecycle
R495). -/
def Obligations.WarmResetRequests : Prop :=
  ∀ (t : Time) (p : Port) (s : State),
    (∀ st src n, s.phase = .warm st src n →
      exec (.warmRstN t) s = .next { s with time := t }.settle ∧ exec (.warmRst t p none) s = .next { s with time := t }.settle) ∧
    (s.clksLost [.hclk, .eclk] = false → (s.phase = .run ∨ ∃ st n k, s.phase = .life st n k) →
      (s.cluster.st = .shutting ∨ s.cluster.st = .pendingOn) →
      exec (.warmRstN t) s = .next { s with time := t, warmWait := some (s.warmWait.getD 0) }.settle ∧
      exec (.warmRst t p none) s = .next { s with time := t, warmWait := some (s.warmWait.getD (portCode p)) }.settle) ∧
    (∀ src, s.warmWait = some src → s.cluster.stage = .wiped → s.clksLost [.eclk] = false → Settles (.shutDownCompletes t .cluster) s fun u =>
      (∃ n, u.phase = .warm .quiesce src n) ∧ u.warmWait = none) ∧
    (s.clksLost [.hclk, .eclk] = false → s.phase = .run → (s.cluster.st = .on ∨ s.cluster.st = .off) → Settles (.warmRstN t) s fun u =>
      (∃ n, u.phase = .warm .quiesce 0 n) ∧ u.chart.load = .none ∧ u.chart.staged = [] ∧ u.chart.drain = none ∧ u.chart.update = none)

/-- A management reset; what a cold reset does beside it (13_clocks_power_lifecycle R498). -/
def Obligations.ManagementReset : Prop :=
  ∀ (t : Time) (s : State),
    (s.powered = true → ∃ u, exec (.mgRstN t) s = .next u ∧
      u = { s with time := t, err := { s.err with mgq := [], mgOut := [], loss := true } } ∧
      ∀ n : Note, ∃ r, (u.report n).err.mgq = [r] ∧ r.loss = true) ∧
    (Runs (.coldResetAssert t) s fun u =>
      u.err.mgq = [] ∧ u.err.mgOut = [] ∧ u.err.loss = false ∧ u.err.log = [] ∧ u.err.head = 0)

/-- A clock that is lost: its bit in DJ_CLK_STAT, its record, the repeats, its return, and what crosses its domain meanwhile; a parity
error at a crossing. -/
def Obligations.LostClocks : Prop :=
  ∀ (t : Time) (c : Clk) (s : State), s.powered = true →
    (s.clkUsed c = true → s.regs.clkStat &&& clkBit c = 0 → Runs (.clkLost t c) s fun u =>
      u.regs = { s.regs with clkStat := s.regs.clkStat ||| clkBit c } ∧ Sent s u 0x84 .corrected ∧ u.clkRec = t) ∧
    (s.clkUsed c = false ∨ s.regs.clkStat &&& clkBit c ≠ 0 → exec (.clkLost t c) s = .next { s with time := t }) ∧
    (s.regs.clkStat ≠ 0 → s.clkRec + s.svcAfter s.clkRec ≤ t → Runs (.clkLostRepeat t) s fun u =>
      u.regs = s.regs ∧ Sent s u 0x84 .corrected ∧ u.clkRec = t) ∧
    (s.regs.clkStat = 0 ∨ t < s.clkRec + s.svcAfter s.clkRec → exec (.clkLostRepeat t) s = .next { s with time := t }) ∧
    exec (.clockReturn t c) s = .next { s with time := t, regs := { s.regs with clkStat := s.regs.clkStat &&& ~~~clkBit c } } ∧
    (∀ (par : Option Nat) (w : Word) (q : Fin 64) (ev : Dword) (level : Bool) (img : Image), s.clksLost [.hclk, .eclk] = true →
      (s.clksLost [.eclk] = true → exec (.pwrGrantChange t level par) s = .next { s with time := t }.settle ∧
        exec (.descriptorFetch t q img par) s = .next { s with time := t }.settle) ∧
      exec (.fnEnable t w par) s = .next { s with time := t }.settle ∧ exec (.qtailWrite t q w par) s = .next { s with time := t } ∧
        exec (.chDead t ev par) s = .next { s with time := t }.settle) ∧
    (∀ (port : Fin 8) (hw : List HwFault), s.clksLost [.dclk, .eclk] = true →
      exec (.deliveryBeat t port hw) s = .next { s with time := t }.settle) ∧
    (∀ (port : Fin 8) (tag : Nat) (img : Image) (hw : List HwFault), s.clksLost [memClk port, .eclk] = true →
      exec (.memoryReadResponse t port tag img hw) s = .next { s with time := t }) ∧
    (∀ (port : Fin 2) (rank : Nat) (man payload : List Byte),
      (s.clksLost [.lclk, .eclk] = true → ∀ par, exec (.chunk t port rank man payload par) s = .next { s with time := t }.settle) ∧
      (s.clksLost [.lclk, .eclk] = false → ∀ path, exec (.chunk t port rank man payload (some path)) s =
        .next (({ s with time := t } : State).busParity .linkPort port.val path).settle)) ∧
    (∀ (w : Word) (ev : Dword) (path : Nat), s.clksLost [.hclk, .eclk] = false →
      exec (.fnEnable t w (some path)) s = .next (({ s with time := t } : State).busParity .cluster 0 path).settle ∧
        exec (.chDead t ev (some path)) s = .next (({ s with time := t } : State).busParity .eventPort 0 path).settle)

/-- PWR_GRANT and the lead of a current step. That a lead which a grant has waived stays waived when PWR_GRANT falls is the model's reading
(DEDUCED, log 76). -/
def Obligations.GrantAndLead : Prop :=
  ∀ (t : Time) (s : State),
    (∀ level : Bool, s.clksLost [.eclk] = false → Settles (.pwrGrantChange t level none) s fun u =>
      u.power.grant = level ∧ (s.chartVal Chart.grantEn false = true → level = true → u.power.leadOver = true) ∧
        ((s.chartVal Chart.grantEn false = false ∨ level = false) → u.power = { s.power with grant := level }) ∧
        u.regs = s.regs ∧ u.err = s.err) ∧
    (∀ up target since, s.power.intent = some (up, target, since) → s.clksLost [.eclk] = false →
      (since + s.intentLead ≤ t → exec (.intentLeadExpiry t) s =
        .next { s with time := t, power := { s.power with leadOver := true } }.settle) ∧
      (t < since + s.intentLead → exec (.intentLeadExpiry t) s = .next { s with time := t }.settle))

/-- A function that shuts down for a command: its ramp, its wipe, and its end by Table 5-29. -/
def Obligations.ShutDownStages : Prop :=
  ∀ (t : Time) (f : FnId) (x : Fn) (s : State), s.fn? f = some x → s.inTest f = false → (∀ n, f ≠ .stream n) → f ≠ .cluster →
    (x.stage = .ramp → s.clksLost [.eclk] = false → Settles (.currentRampDone t (.fn f)) s fun u => u.fn? f = some { x with stage := .wipe }) ∧
    (x.stage = .wipe → s.clksLost [.eclk] = false → Settles (.sramWipeDone t (.fn f)) s fun u => u.fn? f = some { x with stage := .wiped }) ∧
    (x.stage = .wiped → s.clksLost [.eclk] = false → Settles (.shutDownCompletes t f) s fun u =>
      u.fn? f = some (if x.st = .pendingOn then ⟨.on, .idle⟩ else ⟨.off, .idle⟩))

/-- ENABLE, DISABLE and RESET of the core or port that DJ_FN_SEL names. -/
def Obligations.FunctionCommands : Prop :=
  ∀ (t : Time) (w : Word) (s : State), s.reached = true → s.fnRefused w = none →
    s.heldForTest (fnOfSel s.selected.1 s.selected.2) = none → ∀ x : Fn, s.fn? (fnOfSel s.selected.1 s.selected.2) = some x →
      (bits w.toNat 1 0 = 1 → Settles (.fnEnable t w none) s fun u =>
        u.fn? (fnOfSel s.selected.1 s.selected.2) = some
          (match x.st with
           | .off => ⟨.on, .idle⟩
           | .shutting => { x with st := .pendingOn }
           | _ => x) ∧
        u.regs.fnResult = (if x.st = .shutting ∨ x.st = .pendingOn then 1 else 0)) ∧
      (bits w.toNat 1 0 = 2 → Settles (.fnDisable t w none) s fun u =>
        (x.st = .on → u.fn? (fnOfSel s.selected.1 s.selected.2) =
          some ⟨.shutting, firstStage (fnOfSel s.selected.1 s.selected.2)⟩) ∧
        (x.st = .pendingOn → u.fn? (fnOfSel s.selected.1 s.selected.2) = some { x with st := .shutting }) ∧
        (x.st = .off ∨ x.st = .shutting → u.fn? (fnOfSel s.selected.1 s.selected.2) = some x) ∧ u.regs.fnResult = 0) ∧
      (bits w.toNat 1 0 = 3 → Settles (.fnReset t w none) s fun u =>
        (x.st = .on → u.fn? (fnOfSel s.selected.1 s.selected.2) =
          some ⟨.pendingOn, firstStage (fnOfSel s.selected.1 s.selected.2)⟩ ∧ u.regs.fnResult = 1) ∧
        (x.st = .off → u.fn? (fnOfSel s.selected.1 s.selected.2) = some ⟨.on, .idle⟩ ∧ u.regs.fnResult = 0) ∧
        (x.st = .shutting ∨ x.st = .pendingOn →
          u.fn? (fnOfSel s.selected.1 s.selected.2) = some { x with st := .pendingOn } ∧ u.regs.fnResult = 1))

/-- A command for a function that is absent, retired or badly named changes nothing but RESULT. -/
def Obligations.FunctionCommandsRefused : Prop :=
  ∀ (t : Time) (w : Word) (r : Nat) (s : State), s.reached = true → s.fnRefused w = some r →
    (bits w.toNat 1 0 = 1 → exec (.fnEnable t w none) s = .next { s with time := t, regs := { s.regs with fnResult := r } }.settle) ∧
    (bits w.toNat 1 0 = 2 → exec (.fnDisable t w none) s = .next { s with time := t, regs := { s.regs with fnResult := r } }.settle) ∧
    (bits w.toNat 1 0 = 3 → exec (.fnReset t w none) s = .next { s with time := t, regs := { s.regs with fnResult := r } }.settle)

/-- CLUSTER_EN, the drain that it begins, and its end. -/
def Obligations.ClusterOnAndOff : Prop :=
  ∀ (t : Time) (p : Port) (s : State), s.phase = .run → s.clksLost [.hclk, .eclk] = false →
    (s.cluster.st = .on → (∀ n k, s.chart.drain ≠ some (.life n k)) → Settles (.clusterDisable t p none) s fun u =>
      u.cluster = ⟨.shutting, .before⟩ ∧ u.chart.drain = some (.disable (portCode p)) ∧ u.regs = s.regs) ∧
    (s.cluster.st = .on → s.inLife = true → exec (.clusterDisable t p none) s =
      .next { s with time := t, cluster := ⟨.shutting, .before⟩, offWait := some (portCode p) }.settle) ∧
    (s.cluster.st = .off → Settles (.clusterEnable t p none) s fun u =>
      u.cluster = Fn.isOn ∧ u.chart.held = true ∧ u.chart.applied = none ∧ Sent s u 0x7C .corrected) ∧
    (s.cluster.st = .shutting → Settles (.clusterEnable t p none) s fun u => u.cluster = { s.cluster with st := .pendingOn }) ∧
    (∀ r, s.chart.drain = some (.updateFailed r) → s.drainOver = true → s.clksLost [.eclk] = false → Settles (.drainDone t) s fun u =>
      u.chart.held = true ∧ u.chart.reason = r ∧ u.chart.applied = none ∧ u.streams = [] ∧
        ∀ q : Fin 64, (u.queue q).enable = false)

/-! ### Queues and streams -/

/-- The queue registers while a Chart is applied. That BAD_CFG stands through a disable, and that a good ENABLE clears it, is the model's
reading (DEDUCED, log 47). -/
def Obligations.QueueRegisterWrites : Prop :=
  ∀ (t : Time) (q : Fin 64) (w : Word) (s : State), s.reached = true →
    (bit w.toNat 0 = true → s.chart.applied.isSome = true → (s.queue q).enable = false →
      ((s.queue q).badFor (bits w.toNat 6 2) = false → exec (.queueEnable t q w none) s = .next ({ s with time := t }.setQueue q
        { s.queue q with fmtD3 := bit w.toNat 1, log2 := bits w.toNat 6 2, enable := true, badCfg := false })) ∧
      ((s.queue q).badFor (bits w.toNat 6 2) = true → exec (.queueEnable t q w none) s = .next ({ s with time := t }.setQueue q
        { s.queue q with fmtD3 := bit w.toNat 1, log2 := bits w.toNat 6 2, badCfg := true }))) ∧
    (bit w.toNat 0 = false → s.chart.applied.isSome = true → exec (.queueDisable t q w none) s = .next ({ s with time := t }.setQueue q
      { s.queue q with fmtD3 := bit w.toNat 1, log2 := bits w.toNat 6 2, enable := false })) ∧
    exec (.qbaseWrite t q false w none) s = .next ({ s with time := t }.setQueue q
      { s.queue q with base := (s.queue q).base / 2 ^ 32 * 2 ^ 32 + w.toNat, qhead := 0, qtail := 0 }) ∧
    exec (.qbaseWrite t q true w none) s = .next ({ s with time := t }.setQueue q
      { s.queue q with base := (s.queue q).base % 2 ^ 32 + 2 ^ 32 * w.toNat, qhead := 0, qtail := 0 }) ∧
    exec (.cbaseWrite t q false w none) s = .next ({ s with time := t }.setQueue q
      { s.queue q with cbase := (s.queue q).cbase / 2 ^ 32 * 2 ^ 32 + w.toNat, chead := 0, ctail := 0, phase := true }) ∧
    exec (.cbaseWrite t q true w none) s = .next ({ s with time := t }.setQueue q
      { s.queue q with cbase := (s.queue q).cbase % 2 ^ 32 + 2 ^ 32 * w.toNat, chead := 0, ctail := 0, phase := true }) ∧
    exec (.qtailWrite t q w none) s = .next ({ s with time := t }.setQueue q { s.queue q with qtail := bits w.toNat 16 0 }) ∧
    exec (.cheadWrite t q w none) s = .next ({ s with time := t }.setQueue q { s.queue q with chead := bits w.toNat 16 0 })

/-- OPEN with the arguments in DJ_SCTL_ARG0 to ARG2. That a stream without a completion counts as completed at its OPEN (`lastCmpl`) is the
model's choice (DESIGN CHOICE, log 70). -/
def Obligations.OpenStream : Prop :=
  ∀ (t : Time) (w : Word) (s : State), s.reached = true → bits w.toNat 1 0 = 1 → s.noWork = false →
    badArgs s.regs.sctlArg0 s.regs.sctlArg2 w = false → ∀ n : Nat, n = bits s.regs.sctlArg0.toNat 15 0 →
      (∀ q : Fin 64, q.val = bits s.regs.sctlArg0.toNat 21 16 → s.stream? n = none → bit s.regs.sctlArg2.toNat 1 = true →
        s.allPinned q = true → exec (.openStream t w none) s = .next { s with time := t, regs := { s.regs with sctlResult := 5 } }.settle) ∧
      (∀ q : Fin 64, q.val = bits s.regs.sctlArg0.toNat 21 16 → s.stream? n = none →
        (bit s.regs.sctlArg2.toNat 1 = false ∨ s.allPinned q = false) → Settles (.openStream t w none) s fun u =>
        u.regs.sctlResult = 0 ∧ ∃ x, u.stream? n = some x ∧ x.fn = ⟨.on, .idle⟩ ∧ x.runs = [] ∧ x.expectSeq = s.regs.sctlArg1 ∧
          x.weight = bits s.regs.sctlArg0.toNat 31 24 ∧ x.queue = q ∧ x.pin = bit s.regs.sctlArg2.toNat 1 ∧
          x.deadline = bit s.regs.sctlArg2.toNat 0 ∧ x.windowUs = bits s.regs.sctlArg2.toNat 23 8 ∧ x.lateness = 0 ∧ x.lastCmpl = t) ∧
      (∀ x, s.stream? n = some x → x.fn.st = .shutting → Settles (.openStream t w none) s fun u =>
        u.regs.sctlResult = 1 ∧ ∃ y, u.stream? n = some y ∧ y.fn = { x.fn with st := .pendingOn } ∧
          y.latched = some (s.regs.sctlArg0, s.regs.sctlArg1, s.regs.sctlArg2) ∧ y.runs = x.runs) ∧
      (∀ x, s.stream? n = some x → x.fn.st = .on →
        exec (.openStream t w none) s = .next { s with time := t, regs := { s.regs with sctlResult := 2 } }.settle)

/-- OPEN that the cluster or the arguments refuse. That BAD_ARG comes before ALREADY_OPEN is the model's reading (DEDUCED, log 69). -/
def Obligations.OpenStreamRefused : Prop :=
  ∀ (t : Time) (w : Word) (s : State), s.reached = true → bits w.toNat 1 0 = 1 →
    (s.noWork = true → exec (.openStream t w none) s = .next { s with time := t, regs := { s.regs with sctlResult := 5 } }.settle) ∧
    (s.noWork = false → badArgs s.regs.sctlArg0 s.regs.sctlArg2 w = true →
      exec (.openStream t w none) s = .next { s with time := t, regs := { s.regs with sctlResult := 4 } }.settle)

/-- CLOSE, and the end of the shut-down that it begins. -/
def Obligations.CloseStream : Prop :=
  ∀ (t : Time) (w : Word) (s : State), s.reached = true → bits w.toNat 1 0 = 2 → ∀ n : Nat, n = bits s.regs.sctlArg0.toNat 15 0 →
    (s.stream? n = none → exec (.closeStream t w none) s = .next { s with time := t, regs := { s.regs with sctlResult := 3 } }.settle) ∧
    (∀ x, s.stream? n = some x → x.fn.st = .on → Settles (.closeStream t w none) s fun u =>
      u.regs.sctlResult = 0 ∧ ∃ y, u.stream? n = some y ∧ y.fn = ⟨.shutting, .before⟩ ∧ y.runs.length = x.runs.length) ∧
    (∀ x, s.stream? n = some x → x.fn.st = .pendingOn → Settles (.closeStream t w none) s fun u =>
      u.regs.sctlResult = 0 ∧ ∃ y, u.stream? n = some y ∧ y.fn = { x.fn with st := .shutting } ∧ y.latched = none ∧ y.runs = x.runs) ∧
    (∀ m x, s.stream? m = some x → x.fn = ⟨.shutting, .wiped⟩ → s.clksLost [.eclk] = false → Settles (.shutDownCompletes t (.stream m)) s fun u =>
      u.stream? m = none ∧ (∀ z ∈ u.wjobs, z.stream ≠ m) ∧ (∀ z ∈ u.rjobs, z.stream ≠ m) ∧ ∀ z ∈ u.colls, z.stream ≠ m)

/-- A ring entry on a held channel that is not read yet (R390), a fetched descriptor that fails step 1, 2 or 3 of its checks, and one that
joins its stream. That BAD_KIND leaves the expected SEQ of an open stream as it is, is the model's choice (DESIGN CHOICE, log 82). -/
def Obligations.DescriptorFetch : Prop :=
  ∀ (t : Time) (q : Fin 64) (img : Image) (d : BitVec 512) (s : State), s.working = true → s.portsUp = true → s.takeWaiting q img = none →
    (s.queue q).wait = none → s.mayFetch q = true → d = s.headDesc q img →
      (s.spanHeld (s.queue q).headAddr (s.queue q).entryBytes = true → exec (.descriptorFetch t q img none) s = .next { s with time := t }.settle) ∧
      (s.spanHeld (s.queue q).headAddr (s.queue q).entryBytes = false →
        (∀ code, (code = 0x10 ∧ s.kindBad (s.queue q).fmtD3 (dKind d) = true ∨
            s.kindBad (s.queue q).fmtD3 (dKind d) = false ∧ (code = 0x11 ∧ s.handleBad (dHandle d) = true ∨
              s.handleBad (dHandle d) = false ∧ code = 0x12 ∧ s.stream? (dStream d) = none)) →
          Settles (.descriptorFetch t q img none) s fun u =>
            (u.queue q).early = (s.queue q).early ++ [(d, code)] ∧ (u.queue q).qhead = ((s.queue q).qhead + 1) % 2 ^ ((s.queue q).log2 + 1) ∧
              u.streams = s.streams ∧ u.rjobs = s.rjobs ∧ u.wjobs = s.wjobs) ∧
        (∀ x, s.kindBad (s.queue q).fmtD3 (dKind d) = false → s.handleBad (dHandle d) = false → s.stream? (dStream d) = some x →
          x.queue = q → x.fn.st = .on → x.held < 8 → x.todo = [] → x.slot.isSome = true → (dSeq d = x.expectSeq → s.namedHeld img d = false) →
            Settles (.descriptorFetch t q img none) s fun u =>
              (u.queue q).qhead = ((s.queue q).qhead + 1) % 2 ^ ((s.queue q).log2 + 1) ∧ ∃ y r, u.stream? (dStream d) = some y ∧
                y.runs.length = x.runs.length + 1 ∧ y.runs.getLast? = some r ∧ r.desc = d ∧ r.queue = q ∧
                (dSeq d = x.expectSeq → y.expectSeq = x.expectSeq + 1) ∧
                (dSeq d ≠ x.expectSeq → y.expectSeq = x.expectSeq ∧ r.status = 0x13)))

/-- A parked context that is back, and one whose copy has not come yet. -/
def Obligations.ContextFetchDone : Prop :=
  ∀ (t : Time) (q : Fin 64) (img : Image) (d : BitVec 512) (s : State), s.working = true → s.portsUp = true →
    (s.queue q).wait = some (.parked, d) →
    (∀ z, (s.lagoon.find? fun x => x.of_ == .context (dStream d)) = some z → z.came = false →
      Settles (.contextFetchDone t q img none) s fun u => (u.queue q).wait = some (.parked, d)) ∧
    (∀ (x : Stream) (v : State) (k : Nat) (shared : Bool),
      (∀ z, (s.lagoon.find? fun x => x.of_ == .context (dStream d)) = some z → z.came = true ∧ z.poison = none) →
      s.stream? (dStream d) = some x → ({ s with time := t } : State).getSlot (dStream d) q = (v, some (k, shared)) →
        Settles (.contextFetchDone t q img none) s fun u => ∃ y, u.stream? (dStream d) = some y ∧ y.slot = some k ∧ y.sharedCtx = shared)

/-- A completion record: its bytes, the ring's tail, the stream behind it, and the interrupt once both halves are written (R158, R547). -/
def Obligations.DescriptorCompletion : Prop :=
  ∀ (t : Time) (s : State),
    (∀ (q : Fin 64) (d : BitVec 512) (code : Nat) (rest : List (BitVec 512 × Nat)), (s.queue q).early = (d, code) :: rest →
      (s.queue q).ringFull = false → s.clksLost [.eclk] = false → Settles (.descriptorCompletion t (.early q)) s fun u =>
        (u.queue q).early = rest ∧ (u.queue q).ctail = ((s.queue q).ctail + 1) % 2 ^ ((s.queue q).clog2 + 1) ∧
          u.regs = s.regs ∧ (let a := (s.queue q).cbase + 32 * ((s.queue q).ctail % 2 ^ (s.queue q).clog2)
            let b := Cmpl.bytes
              { handle := dHandle d, seq := dSeq d, status := code, kind := dKind d, quality := 0,
                late := dDeadline d != 0 && decide (dDeadline d < t), replay := false, catchup := false, inBytes := 0, outCount := 0,
                errTiles := 0, irq := dIrq d } (s.queue q).phase t
            Asked s u .write16 (a + 16) (b.drop 16)
              (.cmpl (.early q) a (b.take 16) (if dIrq d || (s.queue q).irqAll then some q else none) ⟨dSeq d, none⟩))) ∧
    (∀ (n : Nat) (x : Stream) (r : Run) (rs : List Run), s.stream? n = some x → x.runs = r :: rs → s.canComplete x r = true →
      (s.queue r.queue).ringFull = false → s.barrierTurn n r = true → s.clksLost [.eclk] = false →
      Settles (.descriptorCompletion t (.stream n)) s fun u =>
        (u.queue r.queue).ctail = ((s.queue r.queue).ctail + 1) % 2 ^ ((s.queue r.queue).clog2 + 1) ∧
          (∃ y, u.stream? n = some y ∧ (r.flags.countLimit = false → y.runs = rs) ∧ y.runs.length = rs.length ∧ y.lastCmpl = t) ∧
          u.regs = s.regs ∧ (let a := (s.queue r.queue).cbase + 32 * ((s.queue r.queue).ctail % 2 ^ (s.queue r.queue).clog2)
            let b := (r.cmpl t).bytes (s.queue r.queue).phase t
            Asked s u .write16 (a + 16) (b.drop 16)
              (.cmpl (.stream n) a (b.take 16) (if dIrq r.desc || (s.queue r.queue).irqAll then some r.queue else none)
                ⟨r.seq, if r.kind == 0x40 && dBarrier r.desc && r.status == 0 && !r.flags.fenceBroken
                  then some (dBgroup r.desc, dBepoch r.desc) else none⟩))) ∧
    (∀ (port : Fin 8) (tag a : Nat) (src : CmplOf) (rest : List Byte) (irq : Option (Fin 64)) (f : CmplDone) (r : MemReq),
      s.req? port tag = some r → r.kind ≠ .read → r.purpose = .cmpl src a rest irq f → s.clksLost [memClk port, .eclk] = false →
      Settles (.memoryWriteResponse t port tag false none) s fun u =>
        (rest ≠ [] → u.regs = s.regs ∧ Asked { s with reqs := s.reqs.filter fun x => !(x.port == r.port && x.tag == r.tag) } u .write16 a rest
          (.cmpl src a [] irq f)) ∧
        (rest = [] → (∀ q, irq = some q → u.regs = { s.regs with cqPend := s.regs.cqPend ||| BitVec.ofNat 64 (2 ^ q.val) }) ∧
          ∀ n x, src = .stream n → s.stream? n = some x → ∃ y, u.stream? n = some y ∧ y.lastSeq = some f.seq))

/-! ### Descriptors at work -/

/-- The next tile of an EXPAND, a MIGRATE, a SCRUB or an EXPORT starts its reading. -/
def Obligations.StoredTileReads : Prop :=
  ∀ (t : Time) (n k : Nat) (c : Instr) (use : Use) (r : Run) (s : State), s.working = true →
    s.frontRun n (· == k) = some r → s.run? n r.seq = some r → r.issued < (if r.started then r.total else r.units) →
    (c = .expand t n ∧ k = 1 ∧ use = .deliver ∧ s.portOpen r.desc = true ∧ r.issued < r.doneUnits + 64 ∨
      c = .migrate t n ∧ k = 0x30 ∧ use = .migrate ∧ s.portOpen r.desc = true ∧ r.issued < r.doneUnits + 64 ∨
      c = .scrub t n ∧ k = 0x31 ∧ use = .scrub ∧ s.portOpen r.desc = true ∧ r.issued < r.doneUnits + 64 ∨
      c = .exportTiles t n ∧ k = 4 ∧ use = .exportT ∧ r.flags.spaceStop = false ∧ r.issued < r.doneUnits + 64) →
    Settles c s fun u =>
      (∃ j ∈ u.rjobs, j.stream = n ∧ j.seq = r.seq ∧ j.unit = r.issued ∧ j.use = use ∧ j.recAddr = dTensor r.desc ∧ j.trec = r.rec1 ∧
        j.tile = dFirst r.desc + r.issued) ∧
      ∃ y, u.run? n r.seq = some y ∧ y.started = true ∧ y.issued = r.issued + 1 ∧ y.desc = r.desc

/-- A COMPRESS starts; the next tile of a COMPRESS or RESUME from memory is read. -/
def Obligations.SourceTileReads : Prop :=
  ∀ (t : Time) (n : Nat) (c : Instr) (k : Nat) (r : Run) (s : State), s.working = true → s.frontRun n (· == k) = some r →
    s.run? n r.seq = some r → (c = .compress t n ∧ k = 2 ∨ c = .resume t n ∧ k = 3) →
    (∀ v id, r.started = true → r.finished = false → dSource r.desc = 4 → r.issued < r.total → s.accepted n r.seq < 32 →
      ({ s with time := t } : State).roomFor n = (v, some id) → Settles c s fun u =>
        (∃ w ∈ u.wjobs, w.stream = n ∧ w.seq = r.seq ∧ w.unit = r.issued ∧ w.recAddr = dTensor r.desc ∧ w.tile = r.tileOf r.issued ∧
          w.src = .memory (dSrcAddr r.desc + 4096 * (r.tileOf r.issued - r.baseTile))) ∧
        ∃ y, u.run? n r.seq = some y ∧ y.issued = r.issued + 1 ∧ y.desc = r.desc) ∧
    (k = 2 → r.started = false → Settles c s fun u => ∃ y, u.run? n r.seq = some y ∧ y.started = true ∧ y.total = r.units)

/-- A RESUME at the head of its stream takes over the stop record that it names, or completes with a bad resume. -/
def Obligations.ResumeStarts : Prop :=
  ∀ (t : Time) (n : Nat) (r : Run) (x : Stream) (rs : List Run) (s : State), s.working = true → s.stream? n = some x → x.runs = r :: rs →
    r.kind = 3 → r.started = false → r.finished = false → r.inSeq = true → r.flags.countLimit = false → s.recordOpen n = false →
    (x.stop.any (StopRec.past r.desc r.rec1) = true → Settles (.resume t n) s fun u =>
      ∃ y, u.run? n r.seq = some y ∧ y.status = 0x14 ∧ y.finished = true) ∧
    (x.stop.any (StopRec.past r.desc r.rec1) = false → ∀ p, x.stop = some p → p.seq = BitVec.ofNat 32 (dFirst r.desc) →
      p.recAddr = dTensor r.desc → p.source = dSource r.desc →
      p.srcAddr = dSrcAddr r.desc → Settles (.resume t n) s fun u =>
        ∃ y, u.run? n r.seq = some y ∧ y.started = true ∧ y.total = p.remaining ∧ y.cont = some p) ∧
    (x.stop.any (StopRec.past r.desc r.rec1) = false → (∀ p, x.stop = some p → p.seq ≠ BitVec.ofNat 32 (dFirst r.desc) ∨
      p.recAddr ≠ dTensor r.desc ∨ p.source ≠ dSource r.desc ∨
      p.srcAddr ≠ dSrcAddr r.desc) → Settles (.resume t n) s fun u => ∃ y, u.run? n r.seq = some y ∧ y.status = 0x18 ∧ y.finished = true)

/-- A REDUCE starts its next accumulator tile or waits for a reduce unit, or reads the next addend of one. -/
def Obligations.ReduceGoesOn : Prop :=
  ∀ (t : Time) (n : Nat) (r : Run) (s : State), s.working = true → s.workRun n 0x10 (s.addendsLeft n) = some r → r.started = true →
    s.run? n r.seq = some r → s.portOpen r.desc = true →
    ((s.accs.find? fun a => a.stream == n && a.seq == r.seq && !a.failed && decide (a.held.length < a.want)) = none →
      r.issued < r.total →
      (∀ c : Fin 16, s.unitOpen resReduce n = true → s.reduceCore r = some c → Settles (.reduce t n) s fun u =>
        (∃ a ∈ u.accs, a.stream = n ∧ a.seq = r.seq ∧ a.unit = r.issued ∧ a.core = c ∧ a.want = r.addends.length ∧
          a.dests = (List.range (r.nAcc / recN r.rec1)).map fun i => dFirst r.desc + r.issued + i) ∧
        ∃ y, u.run? n r.seq = some y ∧ y.issued = r.issued + r.nAcc / recN r.rec1) ∧
      (s.unitOpen resReduce n = false ∨ s.reduceCore r = none → Settles (.reduce t n) s fun u =>
        UnitWait.mk resReduce n 0x10 ∈ u.unitWaits ∧ u.accs = s.accs)) ∧
    (∀ a x, s.acc? a.id = some a → (s.accs.find? fun a => a.stream == n && a.seq == r.seq && !a.failed && decide (a.held.length < a.want)) = some a →
      r.addends[a.held.length]? = some x → Settles (.reduce t n) s fun u =>
        ∃ b ∈ u.accs, b.id = a.id ∧ b.held.length = a.held.length + 1)

/-- A MERGE starts its next group on a core of its role; the walker of a group takes the mask of the next K block whose tiles have been
decoded. -/
def Obligations.MergeGroups : Prop :=
  (∀ (t : Time) (n : Nat) (r : Run) (x : Stream) (c : Fin 16) (s : State), s.working = true →
      s.workRun n 0x12 (s.blocksLeft n) = some r → r.started = true → s.run? n r.seq = some r → s.stream? n = some x →
      s.portOpen r.desc = true → s.blockRoom n r.seq = true → s.blockGroup n r = none → r.groupsLeft x = true → s.groupPort r = true →
      s.unitOpen resMerge n = true → s.groupCore r x = some c → Settles (.merge t n) s fun u =>
        (∃ g ∈ u.groups, g.stream = n ∧ g.seq = r.seq ∧ g.num = r.issued ∧ g.core = c ∧ (g.row, g.first, g.mg) = r.nextGroup x) ∧
          ∃ y, u.run? n r.seq = some y ∧ y.issued = r.issued + 1) ∧
  (∀ (t : Time) (id : Nat) (g : MGroup) (r : Run) (a w : Dec × List Byte) (s : State),
      (s.groups.find? fun x => x.id == id) = some g → s.run? g.stream g.seq = some r → s.coreWorks g.core = true → g.away = false →
      g.left = [] → g.walked < mergeKt r.rec1 → g.tile false g.walked = some a → g.tile true g.walked = some w → s.clksLost [.eclk] = false →
      (∀ j ∈ s.rjobs, g.reads false g.walked j = false ∧ g.reads true g.walked j = false) → Settles (.mergeWalk t id []) s fun u =>
        ∃ h, (u.groups.find? fun x => x.id == id) = some h ∧ h.walked = g.walked + 1 ∧
          h.failed = (g.failed || a.1.isErr || w.1.isErr) ∧ h.core = g.core ∧
          (a.1.isErr = false → w.1.isErr = false →
            h.matched = g.matched + min (min 32 (g.maskOf (recType r.rec1) a w).1.length) g.laneRoom))

/-- A lone SEND begins its next chunk and reads its stored tiles; a RECV works on the next logical tile of the lowest chunk. -/
def Obligations.CollectivesGoOn : Prop :=
  ∀ (t : Time) (n : Nat) (r : Run) (c : Coll) (s : State), s.working = true → s.run? n r.seq = some r → s.coll? n r.seq = some c →
    r.started = true → (s.stream? n).bind Stream.stop = none →
    (s.frontRun n (· == 0x20) = some r → c.paired = none → r.flags.parked = false → c.staged < 8 → r.issued < r.total →
      Settles (.collectiveSend t n) s fun u =>
        (∃ d, u.coll? n r.seq = some d ∧ d.send = c.send ++ [SendChunk.new (dFirst r.desc + r.issued)]) ∧
        (∀ i, i < chunkStored r.rec1 (dFirst r.desc + r.issued) → ∃ j ∈ u.rjobs, j.stream = n ∧ j.seq = r.seq ∧
          j.use = .send (dFirst r.desc + r.issued) i ∧ j.tile = 16 * perLogical r.rec1 * (dFirst r.desc + r.issued) + i) ∧
        ∃ y, u.run? n r.seq = some y ∧ y.issued = r.issued + 1) ∧
    (∀ k, s.frontRun n (· == 0x21) = some r → (c.recv.find? fun k => k.chunk == dFirst r.desc + r.sub / 16) = some k →
      k.failed = false → s.inPlace (.received n k.chunk) = true →
      (dAccum r.desc = false → k.wide = false → k.spoilt = false → Settles (.collectiveRecv t n) s fun u =>
        (∃ w ∈ u.wjobs, w.stream = n ∧ w.seq = r.seq ∧ w.unit = r.issued ∧ w.src = .copy ∧
          w.tile = 16 * (dFirst r.desc + r.sub / 16) + r.sub % 16) ∧
        ∃ y, u.run? n r.seq = some y ∧ y.sub = r.sub + 1) ∧
      (∀ core, (dAccum r.desc = true ∨ k.wide = true ∨ k.spoilt = true) → s.unitOpen resReduce n = true → s.recvCore r k = some core →
        Settles (.collectiveRecv t n) s fun u =>
          (∃ a ∈ u.accs, a.stream = n ∧ a.seq = r.seq ∧ a.unit = r.issued ∧ a.core = core ∧ a.chunk = some (k.chunk, r.sub % 16)) ∧
          ∃ y, u.run? n r.seq = some y ∧ y.sub = r.sub + 1))

/-- A FENCE in STREAMS mode at the head of its stream. -/
def Obligations.FenceStreams : Prop :=
  ∀ (t : Time) (n : Nat) (r : Run) (s : State), s.working = true → s.headRun n = some r → r.kind = 0x40 → dBarrier r.desc = false →
    r.started = true → r.finished = false → r.inSeq = true →
    ((∀ h ∈ dFenceList r.desc, (s.fenceOne h).1 = true) → Settles (.fenceStreams t n) s fun u =>
      ∃ y, u.headRun n = some y ∧ y.finished = true) ∧
    (r.sub = 0 → (∃ h ∈ dFenceList r.desc, (s.fenceOne h).2 = true) → Settles (.fenceStreams t n) s fun u =>
      ∃ y, u.headRun n = some y ∧ y.finished = true ∧ y.flags.fenceBroken = true) ∧
    (r.sub = 0 → (∀ h ∈ dFenceList r.desc, (s.fenceOne h).2 = false) → (∃ h ∈ dFenceList r.desc, (s.fenceOne h).1 = false) →
      Settles (.fenceStreams t n) s fun u => ∃ y, u.headRun n = some y ∧ y.finished = false ∧ y.flags = r.flags)

/-- A FENCE in BARRIER mode joins its instance, whose last member completes them all. -/
def Obligations.FenceBarrier : Prop :=
  ∀ (t : Time) (n : Nat) (x : Stream) (r : Run) (rs : List Run) (s : State), s.working = true → s.stream? n = some x → x.runs = r :: rs →
    x.fn.st = .on → r.kind = 0x40 → dBarrier r.desc = true → r.started = false → r.finished = false → r.inSeq = true →
    ((∀ b ∈ s.barriers, b.group ≠ dBgroup r.desc) → 1 < dBcount r.desc → Settles (.fenceBarrier t n) s fun u =>
      (∃ b ∈ u.barriers, b.group = dBgroup r.desc ∧ b.epoch = dBepoch r.desc ∧ b.count = dBcount r.desc ∧ b.members = [n] ∧
        b.isDone = false) ∧ ∃ y, u.headRun n = some y ∧ y.started = true ∧ y.finished = false) ∧
    ((∀ b ∈ s.barriers, b.group ≠ dBgroup r.desc) → dBcount r.desc ≤ 1 → Settles (.fenceBarrier t n) s fun u =>
      ∃ y, u.headRun n = some y ∧ y.finished = true) ∧
    (∀ b, (s.barriers.find? fun b => b.group == dBgroup r.desc && b.epoch == dBepoch r.desc) = some b → b.isDone = false →
      b.count = dBcount r.desc → b.count ≤ b.members.length + 1 → Settles (.fenceBarrier t n) s fun u =>
        ∀ m ∈ b.members ++ [n], ∀ y, u.headRun m = some y → y.finished = true) ∧
    (∀ b, (s.barriers.find? fun b => b.group == dBgroup r.desc && b.epoch == dBepoch r.desc) = some b →
      (b.isDone = true ∨ b.count ≠ dBcount r.desc) → Settles (.fenceBarrier t n) s fun u =>
        ∃ y, u.headRun n = some y ∧ y.finished = true ∧ y.status = 0x19)

/-- WIPE in its three scopes. That STREAM_DATA and IDLE_SRAM are finished in their own step (DEDUCED, log 59), and that CORE waits for the end of
the wipe of an OFF core, as that of a core that is ON (log 29), are the model's readings. -/
def Obligations.Wipes : Prop :=
  ∀ (t : Time) (n : Nat) (r : Run) (s : State), r.inSeq = true →
    (s.wipeRun n 0 = some r → Settles (.wipeStreamData t n) s fun u => ∃ y, u.headRun n = some y ∧ y.finished = true ∧ y.desc = r.desc) ∧
    (s.wipeRun n 2 = some r → Settles (.wipeIdleSram t n) s fun u =>
      u.dirCache = [] ∧ ∃ y, u.headRun n = some y ∧ y.finished = true ∧ y.desc = r.desc) ∧
    (s.wipeRun n 1 = some r → dCore r.desc < s.params.cores → dCore r.desc < 16 → (s.core (coreOf (dCore r.desc))).fn.st = .on →
      Settles (.wipeCore t n) s fun u => (u.core (coreOf (dCore r.desc))).fn = ⟨.pendingOn, .ramp⟩ ∧
        ∃ y, u.headRun n = some y ∧ y.started = true ∧ y.finished = false) ∧
    (s.wipeRun n 1 = some r → dCore r.desc < s.params.cores → dCore r.desc < 16 → (s.core (coreOf (dCore r.desc))).fn.st = .off →
      Settles (.wipeCore t n) s fun u => ∃ y, u.headRun n = some y ∧ y.started = true ∧ y.finished = false ∧ y.sub = 1)

/-- TEST descriptors: the test starts when no other runs or waits, else it waits (R518, R524, R525). -/
def Obligations.TestsWait : Prop :=
  ∀ (t : Time) (n : Nat) (r : Run) (s : State), s.working = true → s.headRun n = some r → r.kind = 0x42 →
    r.started = false → r.finished = false → r.inSeq = true →
    (∀ (c : Instr) (x : CoreTest),
      (c = .testLbist t n ∧ dOp r.desc = 0 ∧ x = { CoreTest.new (dCore r.desc) 2 true false false n with order := r.order } ∨
        c = .testMbist t n ∧ dOp r.desc = 1 ∧ x = { CoreTest.new (dCore r.desc) 2 false true false n with order := r.order } ∨
        c = .ferryNow t n ∧ dOp r.desc = 2 ∧ x = { CoreTest.new (dCore r.desc) 2 true true true n with order := r.order }) →
      dCore r.desc ≠ 255 →
      (∀ y, s.test.running = some y → Settles c s fun u => u.test.running = some y ∧ x ∈ u.test.waiting ∧
        ∃ z, u.headRun n = some z ∧ z.started = true ∧ z.finished = false) ∧
      (∀ k : Fin 16, s.test.running = none → s.test.waiting = [] → dCore r.desc = k.val → s.eligibleCore k = true →
        s.testReady x k = true → Settles c s fun u =>
          u.test.running = some { x with man := if s.test.pkgValid then some s.test.pkgManifest else none } ∧ u.test.waiting = [] ∧
            (u.core k).fn = ⟨if (s.core k).keepOff then .shutting else .pendingOn, .before⟩ ∧
            ∃ z, u.headRun n = some z ∧ z.started = true ∧ z.finished = false)) ∧
    (dOp r.desc = 1 → dCore r.desc = 255 →
      (∀ y, s.aloneFor n = true → s.test.running = some y → Settles (.testMbistShared t n) s fun u => u.test.running = some y ∧
        { CoreTest.new 16 2 false true false n with order := r.order } ∈ u.test.waiting ∧
          ∃ z, u.headRun n = some z ∧ z.started = true ∧ z.finished = false) ∧
      (s.aloneFor n = true → s.test.running = none → s.test.waiting = [] → Settles (.testMbistShared t n) s fun u =>
        u.test.running = some { CoreTest.new 16 2 false true false n with order := r.order, part := 1 } ∧ u.test.waiting = [] ∧
          ∃ z, u.headRun n = some z ∧ z.started = true ∧ z.finished = false) ∧
      (s.aloneFor n = false → Settles (.testMbistShared t n) s fun u => u.test = s.test ∧
        ∃ z, u.headRun n = some z ∧ z.finished = true ∧ z.status = 0x14))

/-- LOAD_PACKAGE with a manifest, whose package is then asked for at its STORE_OFFSET in units of 8 bytes, with bytes that are none, and with a
manifest on a held channel. -/
def Obligations.LoadPackage : Prop :=
  ∀ (t : Time) (n : Nat) (img : Image) (r : Run) (s : State), s.working = true → s.portsUp = true → s.headRun n = some r → r.kind = 0x42 →
    dOp r.desc = 3 → r.started = false → r.finished = false → r.inSeq = true → s.test.pkg = none →
    (s.spanHeld (dArgB r.desc) 128 = true → exec (.loadPackage t n img none) s = .next { s with time := t }.settle) ∧
    (s.spanHeld (dArgB r.desc) 128 = false → s.spanBad img (dArgB r.desc) 128 = false →
      (byteBits (imgRead img (dArgB r.desc) 128) 31 0 = 0x4D504A44 → manLength (imgRead img (dArgB r.desc) 128) ≠ 0 →
        Settles (.loadPackage t n img none) s fun u =>
          u.test.pkg = some { stream := some n, manifest := imgRead img (dArgB r.desc) 128, bytes := [], err := false
                              offset := manOffset (imgRead img (dArgB r.desc) 128)
                              len := ceilDiv (manLength (imgRead img (dArgB r.desc) 128)) 8 * 8 } ∧
          u.test.pkgValid = s.test.pkgValid ∧ ∃ z, u.headRun n = some z ∧ z.started = true) ∧
      (byteBits (imgRead img (dArgB r.desc) 128) 31 0 ≠ 0x4D504A44 ∨ manLength (imgRead img (dArgB r.desc) 128) = 0 →
        Settles (.loadPackage t n img none) s fun u =>
          (∀ p, u.test.pkg = some p → p.stream = none) ∧ u.test.pkgValid = s.test.pkgValid ∧ Sent s u 0x95 .corrected))

/-- LIFECYCLE closes every other stream; the change itself follows the ramp and the wipe. -/
def Obligations.LifeCycleChange : Prop :=
  ∀ (t : Time) (n : Nat) (r : Run) (s : State),
    (s.working = true → s.headRun n = some r → r.kind = 0x43 → r.started = false → r.finished = false → r.inSeq = true →
      Settles (.lifecycle t n) s fun u =>
      u.chart.drain = some (.life n (dTarget r.desc)) ∧ u.lc = s.lc ∧
        (∀ m y, m ≠ n → u.stream? m = some y → y.fn.st = .off ∨ y.fn.st = .shutting) ∧ ∃ z, u.headRun n = some z ∧ z.started = true) ∧
    (∀ target, s.phase = .life .wipe n target → s.clksLost [.eclk] = false → Settles (.sramWipeDone t .life) s fun u =>
      u.lc = target ∧ u.lcInvalid = s.lcInvalid ∧ u.phase = .life .wiped n target ∧ Sent s u 0x81 .corrected ∧ u.rjobs = [] ∧ u.wjobs = [])

/-! ### Memory answers and the tile pipeline -/

/-- The answer to a read of a presence word or of a payload, and the answers to the writes of a payload. -/
def Obligations.MemoryAnswers : Prop :=
  ∀ (t : Time) (port : Fin 8) (tag : Nat) (img : Image) (r : MemReq) (s : State), s.req? port tag = some r → s.clksLost [memClk port, .eclk] = false →
    (∀ id j, r.kind = .read → r.purpose = .presence id → s.rjob? id = some j → imgPoison img (presenceAddr j.trec j.tile) 8 = false →
      (imgNat img (presenceAddr j.trec j.tile) 8).testBit (j.tile % 64) = false → j.use = .deliver →
      (∀ x, s.run? j.stream j.seq = some x → Settles (.memoryReadResponse t port tag img []) s fun u =>
        (∀ z ∈ u.rjobs, z.id ≠ id) ∧ ∃ v ∈ u.dports[dportOf (dDport x.desc)].units, v.stream = j.stream ∧ v.seq = j.seq ∧
          v.unit = j.unit ∧ v.decoded = true ∧ v.poison = false)) ∧
    (∀ id base j m, r.kind = .read → r.purpose = .payload id base → s.rjob? id = some j → j.stage = .payload m →
      r.sectors < m → ({ s with time := t } : State).readLate j = false → Settles (.memoryReadResponse t port tag img []) s fun u =>
        ∃ k ∈ u.rjobs, k.id = id ∧ k.stage = .payload (m - r.sectors)) ∧
    (∀ id i w, r.kind ≠ .read → r.purpose = .partWrite id i → s.wjob? id = some w →
      (Settles (.memoryWriteResponse t port tag false none) s fun u =>
        ∃ v, u.wjob? id = some v ∧ v.parts = w.parts.modify i fun p => { p with acks := p.acks - 1 }) ∧
      (Settles (.memoryWriteResponse t port tag true none) s fun u => u.wjobs = s.wjobs ∧
        (∃ z ∈ u.reqs ++ u.holdq, z.addr = r.addr ∧ z.data = r.data ∧ z.purpose = r.purpose)))

/-- A read that has waited longer than half an epoch for its payload starts over from its entry. -/
def Obligations.ReadRestart : Prop :=
  ∀ (t : Time) (id m : Nat) (j : RJob) (s : State), s.rjob? id = some j → j.stage = .payload m → s.epochNs < 2 * (t - j.entryAt) →
    recHomeDie j.trec ≠ s.die → s.clksLost [.eclk] = false → Settles (.readRestart t id) s fun u =>
      (∃ k, u.rjob? id = some k ∧ k.stage = .entry ∧ k.buf = [] ∧ k.tile = j.tile) ∧
        ∃ z ∈ u.reqs ++ u.holdq, z.kind = .read ∧ z.purpose = .entry id

/-- A tile for delivery that an engine has decoded, and one that an engine has coded. That the residual tiles of a tile are coded in the same
step, one part for each beside the tile's own, is the model's reading (DEDUCED, log 63). -/
def Obligations.EnginesFinish : Prop :=
  ∀ (t : Time) (c : Fin 16) (e : Fin 8) (s : State), s.clksLost [.eclk] = false →
    (∀ j x, s.readOn c e = some j → j.use = .deliver → s.run? j.stream j.seq = some x → x.kind = 1 →
      (∀ v ∈ s.dports[dportOf (dDport x.desc)].units, v.job ≠ some j.id) → Settles (.tileDecodeDone t c e []) s fun u =>
        (u.core c).decN = (s.core c).decN + 1 ∧ ∃ v ∈ u.dports[dportOf (dDport x.desc)].units, v.stream = j.stream ∧
          v.seq = j.seq ∧ v.unit = j.unit ∧ v.decoded = true ∧ (v.poison = true ↔ (s.decodeOf j).isErr = true)) ∧
    (∀ w x, s.codeOn c e = some w → s.wjob? w.id = some w → s.run? w.stream w.seq = some x → (∀ k, w.src ≠ .received k) →
      Settles (.tileCodeDone t c e []) s fun u =>
        ∃ v, u.wjob? w.id = some v ∧ v.stage = .space ∧ v.coder = c ∧ v.parts.length = w.carry.length + 1 ∧ v.tile = w.tile)

/-- A beat passes on a delivery port; a wait of 1 ms has its record. -/
def Obligations.DeliveryBeats : Prop :=
  ∀ (t : Time) (port : Fin 8) (id : Nat) (beat : BitVec 128 × List Byte × List Byte) (v : DUnit) (s : State), s.clksLost [.dclk, .eclk] = false →
    s.dports[port].bus = some (id, beat) → (s.dports[port].units.find? fun x => x.id == id) = some v →
    (metaLast beat.1 = false → Settles (.deliveryBeat t port []) s fun u =>
      u.dports[port].bus = none ∧ u.dports[port].last = some beat ∧ u.dports[port].stall = none ∧
        (u.dports[port].units.find? fun x => x.id == id) = some { v with next := v.next + 1 }) ∧
    (metaLast beat.1 = true → v.again = false → ∀ x, s.run? v.stream v.seq = some x → x.kind = 1 →
      Settles (.deliveryBeat t port []) s fun u =>
        u.dports[port].bus = none ∧ u.dports[port].last = some beat ∧ (∀ y ∈ u.dports[port].units, y.id ≠ id) ∧
          ∃ y, u.run? v.stream v.seq = some y ∧ y.outCount = x.outCount + 1 ∧ y.errTiles = x.errTiles + b2n v.poison) ∧
    (s.dports[port].stall = none → s.dports[port].since + 1000000 ≤ t → Runs (.portStall t port) s fun u =>
      Sent s u 0x40 .corrected ∧ u.dports[port].stall = some t ∧ u.dports[port].bus = s.dports[port].bus)

/-- A beat joins the tile that a stream takes in; the eighth one is not waited for here. A wait of 1 ms has its record. -/
def Obligations.IntakeBeats : Prop :=
  ∀ (t : Time) (port : Fin 4) (s : State), s.clksLost [.dclk, .eclk] = false →
    (∀ (side : Word) (data : List Byte) (x : Stream) (w : WJob), s.stream? (ipStream side) = some x → s.beatReady port (ipStream side) = true →
      x.discard = false → s.partTile (ipStream side) = some w → s.wjob? w.id = some w → ipBeat side = x.beat → x.beat < 7 →
      Settles (.intakeBeat t port side data []) s fun u =>
        (∃ v, u.wjob? w.id = some v ∧ v.data = w.data ++ slice data 0 512 ∧ (ipErr side = true → v.fail = some 0x42)) ∧
        (∃ y, u.stream? (ipStream side) = some y ∧ y.beat = x.beat + 1) ∧ u.iports[port].wait = none) ∧
    (∀ side since, s.iports[port].wait = some (side, since) → s.iports[port].stall = none → since + 1000000 ≤ t →
      Runs (.intakeStall t port) s fun u => Sent s u 0x41 .corrected ∧ u.iports[port].stall = some t ∧
        u.iports[port].wait = s.iports[port].wait)

/-- A checker decoder that sees the tile as it was coded, a third evaluation that does, and two checkers that agree against the
coder. -/
def Obligations.CheckerOutcomes : Prop :=
  ∀ (t : Time) (c : Fin 16) (w : WJob) (i : Nat) (p : Part) (y : Seen) (s : State), s.wjob? w.id = some w → s.clksLost [.eclk] = false →
    (s.checkedBy c = some (w, i, p) → seenPasses p y = true → Settles (.checkerOutcome t c (some y) []) s fun u =>
      (∃ v, u.wjob? w.id = some v ∧ v.parts = w.parts.modify i fun q => { q with verify := .passed }) ∧
        (u.core c).chkN = (s.core c).chkN + 1 ∧ u.err = s.err) ∧
    (∀ b x, s.thirdBy c = some (w, i, p, b, x) → seenPasses p y = true → Settles (.thirdEvaluation t c (some y) []) s fun u =>
      (∃ v, u.wjob? w.id = some v ∧ v.parts = w.parts.modify i fun q => { q with verify := .passed }) ∧
        ∃ r ∈ u.err.log, r.reason = 0x06 ∧ r.recSeq = s.err.head) ∧
    (∀ b, s.thirdBy c = some (w, i, p, b, y) → seenPasses p y = false → Settles (.thirdEvaluation t c (some y) []) s fun u =>
      (∃ v, u.wjob? w.id = some v ∧ v.stage = w.stage.again ∧ ∀ q, v.parts[i]? = some q → q.state = 2 ∧ q.payload = q.img) ∧
        ∃ r ∈ u.err.log, r.reason = 0x07 ∧ r.recSeq = s.err.head)

/-- The allocator's three answers to the request of a tile: sectors, a wait, and a SPACE_STOP of its COMPRESS or RESUME with a stop
record. -/
def Obligations.AllocationRequest : Prop :=
  ∀ (t : Time) (id pool : Nat) (sizes : List (Nat × Nat)) (w : WJob) (p : Pool) (ps : PoolSt) (s : State), s.wjob? id = some w →
    s.requestTurn w = true → w.stream ≠ causewayStream → w.request = some (pool, sizes) → s.pool? pool = some p →
    s.poolSt? pool = some ps → s.clksLost [.eclk] = false →
    (∀ starts free skew, ({ s with time := t } : State).tryAlloc p ps w.recAddr w.tile sizes = .granted starts free skew →
      Settles (.allocationRequest t id) s fun u =>
        (∃ v, u.wjob? id = some v ∧ v.stage = .mapping (mapWrites (grantRuns starts sizes))) ∧
        ∃ q, u.poolSt? pool = some q ∧ q.free = free ∧ q.used = (grantRuns starts sizes).foldl (fun l r => insertRun r l) ps.used) ∧
    (({ s with time := t } : State).tryAlloc p ps w.recAddr w.tile sizes = .waits → Settles (.allocationRequest t id) s fun u =>
      (∃ v, u.wjob? id = some v ∧ v.stage = .spaceWait) ∧ ∃ q, u.poolSt? pool = some q ∧ id ∈ q.waiting ∧ q.free = ps.free) ∧
    (∀ (x : Stream) (r : Run), ({ s with time := t } : State).tryAlloc p ps w.recAddr w.tile sizes = .fails →
      s.stream? w.stream = some x → s.run? w.stream w.seq = some r → (r.kind = 2 ∨ r.kind = 3) → r.stopAt = none →
      ((x.runs.dropWhile fun y => !y.named w.seq).drop 1).any Run.begun = false → Settles (.allocationRequest t id) s fun u =>
        (∃ y, u.run? w.stream w.seq = some y ∧ y.stopAt = some w.unit ∧ y.total = w.unit ∧ y.flags.spaceStop = true) ∧
        (∃ z k, u.stream? w.stream = some z ∧ z.stop = some k ∧ k.seq = w.seq ∧ k.unit = w.unit ∧ k.recAddr = dTensor r.desc ∧
          k.tile = r.tileOf w.unit ∧ k.source = dSource r.desc ∧ k.srcAddr = dSrcAddr r.desc ∧
          (x.stop = none → k.remaining = r.total - w.unit)) ∧
        ∃ q, u.poolSt? pool = some q ∧ id ∉ q.waiting)

/-- A commit that has no rival, and whose entry and presence word can be read, writes its entry; one that has to wait for its channel does not
(R390). -/
def Obligations.TileCommit : Prop :=
  ∀ (t : Time) (img : Image) (c : Commit) (s : State), s.commits = [c] → c.written = false → c.expect = none → s.lockedOut c = false →
    s.portsUp = true → s.clksLost [.eclk] = false →
    (s.commitHeld c = true → exec (.tileCommit t img none) s = .next { s with time := t }.settle) ∧
    (s.commitHeld c = false → s.spanBad img (c.mapAddr / 64 * 64) 64 = false → s.spanBad img c.entryAddr 16 = false → entState c.entry ≠ 0 →
      Settles (.tileCommit t img none) s fun u =>
        Asked s u .write16 c.entryAddr (leBytes 16 c.entry.toNat) (.entryWrite c.id) ∧
          ∃ d, u.commits = [d] ∧ d = { c with written := true, old := d.old, presence := d.presence } ∧
            d.old = BitVec.ofNat 128 (imgNat img c.entryAddr 16) ∧ d.presence = imgRead img (c.mapAddr / 64 * 64) 64)

/-! ### The die ring -/

/-- Messages of other clusters: a commit, the lock of a Causeway and its end, a sector request, an invalidation, an identity question and
a release. A cluster whose DR_COUNT is 0 sends nothing (16_integration R562). -/
def Obligations.DieRingMessages : Prop :=
  ∀ (t : Time) (s : State), s.clksLost [.eclk] = false →
    (∀ c : RemoteCommit, c.op = .write → ({ s with time := t } : State).turnsAway c = false → Settles (.dieRingCommit t c []) s fun u =>
      ∃ d, u.commits = s.commits ++ [d] ∧ d.remote = some c.cluster ∧ d.job = c.job ∧ d.tile = c.tile ∧ d.entryAddr = c.entryAddr ∧
        d.entry = c.entry ∧ d.seq = c.seq ∧ d.handle = c.handle ∧ d.expect = c.expect ∧ d.skipZero = c.skipZero ∧ d.written = false) ∧
    (∀ c : RemoteCommit, c.op = .write → ({ s with time := t } : State).turnsAway c = true → Settles (.dieRingCommit t c []) s fun u =>
      u.ring = s.ringAfter (.answer c.cluster c.job .unavailable) ∧ u.commits = s.commits) ∧
    (∀ c : RemoteCommit, c.op = .lock → ({ s with time := t } : State).turnsAway c = false → s.lockTaken c = false →
      Settles (.dieRingCommit t c []) s fun u => u.ring = s.ringAfter (.answer c.cluster c.job (.committed none)) ∧
        (c.cluster, c.entryAddr) ∈ u.remoteLocks ∧ u.commits = s.commits) ∧
    (∀ c : RemoteCommit, c.op = .lock → (({ s with time := t } : State).turnsAway c = true ∨ s.lockTaken c = true) →
      Settles (.dieRingCommit t c []) s fun u => u.ring = s.ringAfter (.answer c.cluster c.job .unavailable) ∧
        u.remoteLocks = s.remoteLocks ∧ u.commits = s.commits) ∧
    (∀ c : RemoteCommit, c.op = .unlock → Settles (.dieRingCommit t c []) s fun u =>
      u.remoteLocks = s.remoteLocks.erase (c.cluster, c.entryAddr) ∧ u.ring = s.ring ∧ u.commits = s.commits) ∧
    (∀ r : RemoteRequest, (s.unavailable = true ∨
        ∃ ps, s.poolSt? r.pool = some ps ∧ ({ s with time := t } : State).poolReady ps = false) →
      Settles (.dieRingSectorRequest t r none) s fun u =>
        u.ring = s.ringAfter (.answer r.cluster r.job .unavailable) ∧ u.pools = s.pools) ∧
    (∀ (r : RemoteRequest) (p : Pool) (ps : PoolSt) (starts : List Nat) (free : List (Nat × Nat)) (skew : Nat),
      s.unavailable = false → s.pool? r.pool = some p → s.poolSt? r.pool = some ps →
      ({ s with time := t } : State).poolReady ps = true →
      ({ s with time := t } : State).tryAlloc p ps r.recAddr r.tile r.sizes = .granted starts free skew →
      Settles (.dieRingSectorRequest t r none) s fun u =>
        u.grants = s.grants ++ [(r.cluster, r.job, starts, mapWrites (grantRuns starts r.sizes))] ∧
          ∃ q, u.poolSt? r.pool = some q ∧ q.free = free) ∧
    (∀ a, Runs (.dieRingInvalidate t a none) s fun u => u.dirCache = s.dirCache.filter (fun c => c.1 != a) ∧
      ∀ j ∈ u.rjobs, j.stage = .entry → entryAddr j.trec j.tile = a → j.noFill = true) ∧
    (∀ p q, s.ownIdent = some q → exec (.dieRingIdentCheck t p none) s = .next { s with time := t, ring := s.ringAfter (.identAnswer q) }) ∧
    (∀ pool start size p ps, s.pool? pool = some p → s.poolSt? pool = some ps → s.onMappedOut p start = false →
      Settles (.dieRingSectorRelease t pool start size true none) s fun u => ∃ q, u.poolSt? pool = some q ∧
        q.free = joinFree p (insertRun (start, size) ps.free) ∧ q.used = cutRuns start (start + size) ps.used ∧ q.delayed = ps.delayed)

/-- The epochs; a release; the start of an epoch, when what was released two epochs before is free again (05_streams_and_order R190). -/
def Obligations.EpochBoundary : Prop :=
  ∀ (t : Time) (p : Pool) (ps : PoolSt) (s : State), s.poolSt? ps.id = some ps → s.pool? ps.id = some p → s.clksLost [.eclk] = false →
    ({ s with time := t } : State).epoch = t / (s.chartVal Chart.epochUs 50 * 1000) ∧
    (∀ a n, reclaimable p ps.used a n = [(a, n)] → s.onMappedOut p a = false → Settles (.dieRingSectorRelease t ps.id a n false none) s fun u =>
      ∃ q, u.poolSt? ps.id = some q ∧ q.free = ps.free ∧ q.delayed = ps.delayed ++ [(({ s with time := t } : State).epoch, a, n)]) ∧
    Settles (.epochBoundary t) s fun u => ∃ q, u.poolSt? ps.id = some q ∧ q.used = ps.used ∧
      q.delayed = (ps.delayed.filter fun d => decide (({ s with time := t } : State).epoch < d.1 + 2)) ∧
      q.free = joinFree p ((ps.delayed.filter fun d => decide (d.1 + 2 ≤ ({ s with time := t } : State).epoch) &&
        !s.onMappedOut p d.2.1).foldl (fun l d => insertRun (d.2.1, d.2.2) l) ps.free)

/-- Answers of other clusters: granted sectors, granted sectors that nothing waits for any more, a commit, UNAVAILABLE; and the repetition
of a message that waits. -/
def Obligations.RingAnswers : Prop :=
  ∀ (t : Time) (id : Nat) (s : State), s.clksLost [.eclk] = false →
    (∀ (a : OwnAsk) (starts : List Nat), (s.asks.find? fun x => x.req.job == id) = some a →
      (∀ w, a.of_ = .job w.id → s.wjob? w.id = some w → w.stage = .remoteWait a.req.job →
        (∀ r ∈ List.zipWith (fun z f => (z.1, f, z.2)) a.req.sizes starts, ∃ p, w.parts[r.1]? = some p ∧ p.needsPlace = true ∧
          p.sectors = r.2.2 ∧ recPool p.trec = a.req.pool) → Settles (.dieRingResponse t id (.grant starts) none) s fun u =>
        (∀ x ∈ u.remoteWaits, x.job ≠ id) ∧ (∀ x ∈ u.asks, x.req.job ≠ id) ∧ u.ring = s.ring ∧ ∃ v, u.wjob? w.id = some v ∧
          v.parts.map Part.place =
            (w.placed a.req.pool (List.zipWith (fun z f => (z.1, f, z.2)) a.req.sizes starts)).parts.map Part.place) ∧
      (∀ z f, a.of_ = .gone → a.req.sizes = [z] → starts = [f] → s.poolSt? a.req.pool = none →
        Settles (.dieRingResponse t id (.grant starts) none) s fun u =>
          u.ring = s.ringAfter (.release a.req.pool f z.2 true) ∧ u.wjobs = s.wjobs)) ∧
    (∀ w i old, (s.asks.find? fun x => x.req.job == id) = none → s.lockAsk id = none → s.wjob? id = some w → w.stage = .queued i →
      i < w.parts.length → Settles (.dieRingResponse t id (.committed old) none) s fun u =>
        ∃ v p, u.wjob? id = some v ∧ v.stage = .writing ∧ v.parts[i]? = some p ∧ p.committed = true) ∧
    (∀ x, ((∃ a, (s.asks.find? fun x => x.req.job == id) = some a ∧ a.of_ ≠ .gone) ∨
        (s.asks.find? fun x => x.req.job == id) = none ∧ s.lockAsk id = none) →
      s.ringing id = some x → (∀ y ∈ s.remoteWaits, y.job ≠ id) → Settles (.dieRingResponse t id .unavailable none) s fun u =>
        u.remoteWaits = s.remoteWaits ++ [RemoteWait.mk id x.commit x.cluster t t] ∧ Sent s u 0x15 .corrected) ∧
    (∀ x m, (s.remoteWaits.find? fun x => x.job == id) = some x → s.ringing id = some m →
      (x.last + s.epochNs ≤ t → Settles (.remoteWaitRetry t id) s fun u => u.ring = s.ringAfter m.msg ∧
        ∃ y ∈ u.remoteWaits, y.job = id ∧ y.last = t) ∧
      (t < x.last + s.epochNs → exec (.remoteWaitRetry t id) s = .next { s with time := t }.settle))

/-- A contribution that comes over the die ring takes the place of the read of its addend: a ZERO one is its addend at once, any other waits for
an engine, held in the Harbour or in the staging region; without room in either it is not taken (01_five_levels R19, R35). -/
def Obligations.DieRingContribution : Prop :=
  ∀ (t : Time) (acc k part : Nat) (entry : BitVec 128) (payload : List Byte) (j : RJob) (s : State),
    (s.rjobs.find? fun j => match j.use with | .addend a x _ => a == acc && x == k | _ => false) = some j → j.use = .addend acc k part →
    s.rjob? j.id = some j → s.clksLost [.eclk] = false →
    (entState entry = 0 → Settles (.dieRingContribution t acc k entry payload none) s fun u =>
      (∀ z ∈ u.rjobs, z.id ≠ j.id) ∧ ∀ a r, s.acc? acc = some a → s.run? j.stream j.seq = some r →
        u.acc? acc = some { a with
          held := updWhere (fun p => p.k == k) (Addend.got part .zero (decMaxExp (recType j.trec) .zero)) a.held }) ∧
    (entState entry ≠ 0 → (({ s with time := t } : State).makeRoomFor (.payload j.id) (64 * entLen entry) 1).2 = true →
      Settles (.dieRingContribution t acc k entry payload none) s fun u =>
        (∃ z, u.rjob? j.id = some z ∧ z.stage = .ready ∧ z.entry = entry ∧
          z.buf = (List.range (entLen entry)).map fun i => (i, slice payload (64 * i) 64)) ∧
        ∀ q ∈ u.reqs, Purpose.ofRead j.id q.purpose = false) ∧
    (entState entry ≠ 0 → (({ s with time := t } : State).makeRoomFor (.payload j.id) (64 * entLen entry) 1).2 = false →
      Settles (.dieRingContribution t acc k entry payload none) s fun u => u.rjobs = s.rjobs ∧ u.accs = s.accs)

/-! ### Accumulation -/

/-- An addend that has been read is added, and a residue that does not match is a fault; a recomputation passes, or fails for the first or
the second time, or for want of an addend, whatever the source of the addend (DEDUCED, log 25); a finished accumulator tile becomes write
jobs, or stays while its images find no room (01_five_levels R35). -/
def Obligations.AccumulatorSteps : Prop :=
  ∀ (t : Time) (id : Nat) (a : AccTile) (s : State), s.acc? id = some a → s.clksLost [.eclk] = false →
    (∀ k p, s.accWorks a = true → a.fixedAdds = [] → (a.held.find? fun x => x.k == k && x.complete && !x.bad && !x.added) = some p →
      p.lost = false → (a.acc.integer && p.wrongAnchor) = false → Settles (.accumulatorAdd t id k []) s fun u =>
        ∃ b, u.acc? id = some b ∧ b.acc = (a.acc.add p false).acc ∧ b.core = a.core ∧ b.failed = false ∧
          b.faulted = (mismatch (a.acc.add p false).acc.content (a.acc.add p false).acc.residue).map (fun e => (4, e, 0)) ∧
          ∀ x ∈ b.held, x.k = k → x.added = true) ∧
    (∀ fault c, a.faulted = some fault → (∀ x ∈ s.stagedSources id, x.came = true ∧ x.poison = none) →
      s.recomputeCore a (reduceNeed ((((s.run? a.stream a.seq).map Run.desc).bind fun x => if dKind x = 0x21 then descPort x else none))) = some c →
      ((a.held.any fun p => p.lost) = false → Settles (.recomputeDone t id true) s fun u =>
        ∃ b, u.acc? id = some b ∧ b.core = c ∧ b.faulted = none ∧ b.acc = a.acc.recomputed ∧ b.failed = a.failed) ∧
      ((a.held.any fun p => p.lost) = true → ∀ pass, Settles (.recomputeDone t id pass) s fun u =>
        ∃ b, u.acc? id = some b ∧ b.faulted = none ∧ b.failed = true) ∧
      ((a.held.any fun p => p.lost) = false → a.tries = 0 → Settles (.recomputeDone t id false) s fun u =>
        ∃ b, u.acc? id = some b ∧ b.faulted = some fault ∧ b.tries = 1 ∧ b.cores = a.cores ++ [c] ∧ b.failed = a.failed) ∧
      (a.tries ≠ 0 → Settles (.recomputeDone t id false) s fun u => ∃ b, u.acc? id = some b ∧ b.faulted = none ∧ b.failed = true)) ∧
    (s.accWorks a = true → a.allIn = true → a.chunk = none →
      (({ s with time := t } : State).imageRooms a.dests.length).2 = none → Settles (.accumulatorDrain t id []) s fun u =>
        u.accs = s.accs ∧ u.wjobs = s.wjobs) ∧
    (∀ r, s.accWorks a = true → a.allIn = true → a.chunk = none → s.run? a.stream a.seq = some r →
      (({ s with time := t } : State).imageRooms a.dests.length).2.isSome = true →
      Settles (.accumulatorDrain t id []) s fun u => (∀ b ∈ u.accs, b.id ≠ a.id) ∧
        u.wjobs.length = s.wjobs.length + min (a.acc.drain a.etype).length a.dests.length ∧
          ∀ i x d, (List.zip (a.acc.drain a.etype) a.dests)[i]? = some (x, d) →
            ∃ w ∈ u.wjobs, w.src = .drain a.id ∧ w.tile = d ∧ w.unit = a.unit + i ∧ w.trec = r.rec1)

/-- A SCATTER_ACC begins to read, and reads on while updates are left; it asks for the Atoll once its first update has come, and takes it with
what it has read (R320); one update enters the Atoll, or is dropped; the drain begins. -/
def Obligations.ScatterAndAtoll : Prop :=
  (∀ (t : Time) (n : Nat) (r : Run) (s : State), s.working = true → s.frontRun n (· == 0x11) = some r → r.started = true →
      s.run? n r.seq = some r → s.portOpen r.desc = true →
      (s.scat? n = none → Settles (.scatterAcc t n) s fun u =>
        u.readers = s.readers ++ [Scatter.new n r.seq] ∧ u.scatter = s.scatter ∧
        (r.sub / (1 + segsPerTile r.rec2 / 16) * segsPerTile r.rec2 < dCount r.desc →
          ∃ y, u.run? n r.seq = some y ∧ y.sub = r.sub + 1)) ∧
      (∀ x, s.scat? n = some x → x.seq = r.seq → x.limit = false → Settles (.scatterAcc t n) s fun u =>
        u.readers = s.readers ∧ u.scatter = s.scatter ∧
        (r.sub / (1 + segsPerTile r.rec2 / 16) * segsPerTile r.rec2 < dCount r.desc →
          ∃ y, u.run? n r.seq = some y ∧ y.sub = r.sub + 1))) ∧
  (∀ (x : Scatter) (r : Run) (s : State), s.run? x.stream x.seq = some r →
      (x ∈ s.readers → x.classify r x.next ≠ .waits → UnitWait.mk resAtoll x.stream 0x11 ∈ s.atollWants.unitWaits) ∧
      ((s.readers.find? fun y => y.stream == x.stream) = some x → (s.scatterTake x.stream r).scatter = some x ∧
        (s.scatterTake x.stream r).readers = s.readers.erase x)) ∧
  (∀ (t : Time) (x : Scatter) (r : Run) (s : State), s.scatter = some x → s.run? x.stream x.seq = some r → x.draining = false →
      s.clksLost [.eclk] = false →
      (x.limit = false → s.atollMismatch = none → x.next < dCount r.desc →
        (x.classify r x.next = .dropped → Settles (.atollUpdate t 1 []) s fun u =>
          u.atoll = s.atoll ∧ ∃ y, u.scatter = some y ∧ y.next = x.next + 1 ∧ y.dropped = true) ∧
        (x.classify r x.next = .nothing → Settles (.atollUpdate t 1 []) s fun u =>
          u.atoll = s.atoll ∧ ∃ y, u.scatter = some y ∧ y.next = x.next + 1 ∧ y.dropped = x.dropped) ∧
        (∀ key vs, x.classify r x.next = .enters key vs → s.keyFull key 1 = false →
          (∀ e, (s.atoll.find? fun e => e.bucket == atollBucket key && e.key == key) = some e → Settles (.atollUpdate t 1 []) s fun u =>
            (e.update (List.zipWith Machine.Num.plus (List.replicate 32 Machine.Num.zero) vs) 1).1 ∈ u.atoll ∧
              ∃ y, u.scatter = some y ∧ y.next = x.next + 1) ∧
          (∀ w, (s.atoll.find? fun e => e.bucket == atollBucket key && e.key == key) = none →
            ((List.range 4).find? fun w => !s.atoll.any fun e => e.bucket == atollBucket key && e.way == w) = some w →
            (s.atoll.filter fun e => e.bucket == atollBucket key).length < 4 →
            Settles (.atollUpdate t 1 []) s fun u =>
              ((AtollEntry.fresh (atollBucket key) w key (List.zipWith Machine.Num.plus (List.replicate 32 Machine.Num.zero) vs)).update
                (List.zipWith Machine.Num.plus (List.replicate 32 Machine.Num.zero) vs) 1).1 ∈ u.atoll ∧
                ∃ y, u.scatter = some y ∧ y.next = x.next + 1))) ∧
      (x.updatesOver r = true → x.running = none →
        (∀ p rest, s.heldParts x r.rec1 = p :: rest → Settles (.atollDrain t []) s fun u =>
          ∃ y, u.scatter = some y ∧ y.draining = true ∧ y.running = some p ∧ y.parts = rest) ∧
        (s.heldParts x r.rec1 = [] → Settles (.atollDrain t []) s fun u =>
          ∃ y, u.scatter = some y ∧ y.draining = true ∧ y.running = none ∧ y.parts = [])))

/-! ### Collectives -/

/-- Messages of a link port: not intact, for another rank, ACK, NACK, NOTICE, and a CHUNK without and with its RECV. That a chunk given up after
NACK MISSING has the reason LINK_CRC is the model's reading (DEDUCED, log 41). -/
def Obligations.LinkMessages : Prop :=
  ∀ (t : Time) (port : Fin 2) (rank : Nat) (man payload : List Byte) (s : State), s.linkOn port = true → s.clksLost [.lclk, .eclk] = false →
    (manOk rank man = false →
      Settles (.chunk t port rank man payload none) s (fun u => Sent s u 0x50 .corrected ∧
        u.lports[port].rx = (LinkMsg.mk rank man payload).beats) ∧
      Settles (.ack t port rank man none) s (fun u => Sent s u 0x50 .corrected) ∧
      Settles (.nack t port rank man none) s (fun u => Sent s u 0x50 .corrected) ∧
      Settles (.notice t port rank man none) s (fun u => Sent s u 0x50 .corrected)) ∧
    (manOk rank man = true → (Man.parse man).dst ≠ s.rankNo →
      Settles (.chunk t port rank man payload none) s (fun u => Sent s u 0x53 .corrected) ∧
      Settles (.ack t port rank man none) s (fun u => Sent s u 0x53 .corrected) ∧
      Settles (.nack t port rank man none) s (fun u => Sent s u 0x53 .corrected) ∧
      Settles (.notice t port rank man none) s (fun u => Sent s u 0x53 .corrected)) ∧
    (manOk rank man = true → (Man.parse man).dst = s.rankNo →
      (∀ c r k, s.sendOf port (Man.parse man) = some (c, r, k) → s.coll? c.stream c.seq = some c → s.run? c.stream c.seq = some r →
        (k.st ≠ .acked ∧ k.st ≠ .givenUp ∧ k.st ≠ .reading) →
        ((Man.parse man).kind = 2 → Settles (.ack t port rank man none) s fun u =>
          (∃ y, u.run? c.stream c.seq = some y ∧ y.outCount = r.outCount + 1) ∧
            ∃ d, u.coll? c.stream c.seq = some d ∧ ∃ j ∈ d.send, j.chunk = k.chunk ∧ j.st = .acked) ∧
        ((Man.parse man).kind = 3 → k.chunk - dFirst r.desc < r.doneUnits →
          ((Man.parse man).nack = 3 → Settles (.nack t port rank man none) s fun u =>
            ∃ d, u.coll? c.stream c.seq = some d ∧ ∃ j ∈ d.send, j.chunk = k.chunk ∧ j.st = .noSpace t ∧ j.nacks = k.nacks) ∧
          ((Man.parse man).nack = 1 ∨ (Man.parse man).nack = 2 ∨ (Man.parse man).nack = 4 →
            (k.nacks < 2 → Settles (.nack t port rank man none) s fun u =>
              ∃ d, u.coll? c.stream c.seq = some d ∧ ∃ j ∈ d.send, j.chunk = k.chunk ∧ j.st = .ready ∧ j.nacks = k.nacks + 1) ∧
            (2 ≤ k.nacks → Settles (.nack t port rank man none) s fun u =>
              Sent s u (if (Man.parse man).nack = 2 then 0x51 else 0x50) .contained ∧
                ∃ d, u.coll? c.stream c.seq = some d ∧ ∃ j ∈ d.send, j.chunk = k.chunk ∧ j.st = .givenUp)))) ∧
      (∀ c r, (Man.parse man).kind = 4 → s.noticeOf port (Man.parse man) = some (c, r) → (Man.parse man).late = false →
        ((Man.parse man).pause = true → (Man.parse man).resumed = false → s.paused (Man.parse man).src = false →
          Settles (.notice t port rank man none) s fun u => u.paused (Man.parse man).src = true ∧ Sent s u 0x57 .corrected) ∧
        ((Man.parse man).pause = false → (Man.parse man).resumed = true → Settles (.notice t port rank man none) s fun u =>
          u.paused (Man.parse man).src = false ∧ u.err = s.err)) ∧
      ((Man.parse man).kind = 1 → s.paused (Man.parse man).src = false → (Man.parse man).late = false →
        (s.recvOf port (Man.parse man) = none → 4 ≤ s.lports[port].early.length → Settles (.chunk t port rank man payload none) s fun u =>
          u.lports[port].tx = s.lports[port].tx ++ [(false, 65536, (Man.parse man).chunk, ⟨(Man.parse man).src,
            ({ Man.plain 3 s.rankNo (Man.parse man).src (Man.parse man).group (Man.parse man).step (Man.parse man).chunk with
              nack := 3 } : Man).bytes, []⟩)]) ∧
        (∀ c r, s.recvOf port (Man.parse man) = some (c, r) → s.coll? c.stream c.seq = some c →
          c.accepted.contains (Man.parse man).chunk = true → Settles (.chunk t port rank man payload none) s fun u =>
            u.coll? c.stream c.seq = some { c with spoke := true } ∧
            u.lports[port].tx = s.lports[port].tx ++ [(false, 65536, (Man.parse man).chunk, ⟨(Man.parse man).src,
              (Man.plain 2 s.rankNo (Man.parse man).src (Man.parse man).group (Man.parse man).step (Man.parse man).chunk).bytes, []⟩)]) ∧
        (∀ c r, s.recvOf port (Man.parse man) = some (c, r) → s.coll? c.stream c.seq = some c → r.takesChunk (Man.parse man).chunk = true →
          c.accepted.contains (Man.parse man).chunk = false → payload = [] → (Man.parse man).sectors = 0 → (Man.parse man).tcrc = 0 →
          (Man.parse man).failed = true → Settles (.chunk t port rank man payload none) s fun u =>
            ∃ d, u.coll? c.stream c.seq = some d ∧ (Man.parse man).chunk ∈ d.accepted ∧ d.timer = t ∧ d.expiries = 0) ∧
        (∀ c r tiles, s.recvOf port (Man.parse man) = some (c, r) → s.coll? c.stream c.seq = some c →
          (c.recv.filter fun k => !k.failed).length < 8 → r.takesChunk (Man.parse man).chunk = true →
          c.accepted.contains (Man.parse man).chunk = false → payload.length = 64 * (Man.parse man).sectors →
          (Man.parse man).tcrc = (if payload = [] then 0 else crc64 payload) → (Man.parse man).failed = false →
          wireFits r (Man.parse man) = true →
          tiles = (List.range (wireCount r.rec1 (Man.parse man))).map
            (s.wireTile (if (Man.parse man).wide then 14 else (Man.parse man).elem) (recStride r.rec1) payload) →
          (tiles.any fun x => x.2.2.isErr) = false → (Man.parse man).tiles = chunkTiles r.rec1 (Man.parse man).chunk →
          (∀ i, i < 16 → tileSignature (if (Man.parse man).wide then 14 else (Man.parse man).elem)
            (((tiles.drop (perTransport (recType r.rec1) (Man.parse man).wide * i)).take (perTransport (recType r.rec1)
              (Man.parse man).wide)).map fun x => decImage x.2.2) = nth (Man.parse man).sigs i 0) →
          s.spill? (.early port man) = none → s.harbourUse + payload.length ≤ harbourBytes s.params.hardening →
          Settles (.chunk t port rank man payload none) s fun u =>
            ∃ d, u.coll? c.stream c.seq = some d ∧ (Man.parse man).chunk ∈ d.accepted ∧ d.timer = t ∧ d.expiries = 0)))

/-- A port sends, all the beats of a message in one step (DESIGN CHOICE, log 51); a chunk that met no space is sent again; an answer or a chunk
that does not come: NACK MISSING (4), and the end of the chunk. -/
def Obligations.CollectiveTimers : Prop :=
  ∀ (t : Time) (n : Nat) (s : State), s.clksLost [.eclk] = false →
    (∀ (port : Fin 2) x, s.clksLost [.eclk, .lclk] = false → s.linkOn port = true →
      (s.lports[port].tx.find? fun x => !x.1 && !s.paused x.2.2.2.rank) = some x →
      Settles (.chunkSend t port none) s fun u => u.lports[port].out = x.2.2.2.beats ∧ u.lports[port].tx = s.lports[port].tx.erase x ∧
        u.colls = s.colls) ∧
    (∀ (chunk : Nat) x k, (s.colls.filter fun x => x.stream == n && x.isSend) = [x] → s.coll? n x.seq = some x →
      (x.send.find? fun k => k.chunk == chunk) = some k →
      (∀ since, k.st = .noSpace since → since + 10000 ≤ t → Settles (.noSpaceResend t n chunk) s fun u =>
        ∃ d, u.coll? n x.seq = some d ∧ (d.send.find? fun k => k.chunk == chunk) = some { k with st := .ready }) ∧
      (∀ since r, k.st = .sent since → s.run? n x.seq = some r → s.paused (dPeer r.desc) = false →
        since + s.collTimeout since + s.lateOf (dPeer r.desc) ≤ t →
        (k.sends < 3 → Settles (.sendTimeout t n chunk) s fun u =>
          ∃ d, u.coll? n x.seq = some d ∧ (d.send.find? fun k => k.chunk == chunk) = some { k with st := .ready }) ∧
        (3 ≤ k.sends → Settles (.sendTimeout t n chunk) s fun u => Sent s u 0x52 .contained ∧
          ∃ d, u.coll? n x.seq = some d ∧ ∃ j ∈ d.send, j.chunk = chunk ∧ j.st = .givenUp))) ∧
    (∀ c r h, (s.colls.filter fun x => x.stream == n && !x.isSend) = [c] → s.coll? n c.seq = some c → s.run? n c.seq = some r →
      r.head = some h → r.takesChunk (c.nextOf r) = true → s.paused (dPeer r.desc) = false → c.nextOf r < dFirst r.desc + dChunks r.desc →
      max h c.timer + s.collTimeout (max h c.timer) + s.lateOf (dPeer r.desc) ≤ t →
      (c.expiries < 2 → Settles (.recvTimeout t n) s fun u =>
        (∃ d, u.coll? n c.seq = some d ∧ d.expiries = c.expiries + 1 ∧ d.timer = t) ∧
          ∃ x ∈ u.lports[lportOf (dLport r.desc)].tx, x.2.2.2.rank = dPeer r.desc ∧ x.2.2.2.man =
            ({ Man.plain 3 s.rankNo (dPeer r.desc) (dGroup r.desc) (dStep r.desc) (c.nextOf r) with nack := 4 } : Man).bytes) ∧
      (2 ≤ c.expiries → Settles (.recvTimeout t n) s fun u => Sent s u 0x52 .contained ∧
        ∃ d, u.coll? n c.seq = some d ∧ c.nextOf r ∈ d.accepted ∧ d.expiries = 0))

/-- A SEND's or RECV's delay is announced to its peer by a NOTICE with LATE and LATE_NS when the projected one exceeds the slack, with a record
at the first announcement, again when it has grown by half the slack, and not otherwise; a SEND adds what the peer of its pair's RECV has
announced (R366, R368); it is not projected again within 10 µs. How the delay itself is projected rests on log 14. The rate of a group is
measured over a window of 10 µs. -/
def Obligations.ProjectionAndRate : Prop :=
  ∀ (t : Time) (s : State), s.clksLost [.eclk] = false →
    (∀ n c r own peer d, (s.colls.filter fun x => x.stream == n) = [c] → s.coll? n c.seq = some c → s.run? n c.seq = some r →
      peer = ((s.pairedRecv c).map fun y => s.lateOf (dPeer y.desc)).getD 0 →
      ((s.therms.any fun x => x.st == .warn) = true ∧ ({ s with time := t } : State).delayOf c r = some own ∨
        (s.therms.any fun x => x.st == .warn) = false ∧ peer ≠ 0 ∧ own = 0) →
      d = min (2 ^ 32 - 1) (own + peer) → c.projAt + 10000 ≤ t →
      (dSlack r.desc < d → (c.lateSent = false ∨ c.late < d ∧ dSlack r.desc ≤ 2 * (d - c.late)) → Settles (.collProjection t n) s fun u =>
        (∃ x, u.coll? n c.seq = some x ∧ x.late = d ∧ x.lateSent = true ∧ x.projAt = t) ∧
        u.lports[lportOf (dLport r.desc)].tx = s.lports[lportOf (dLport r.desc)].tx ++ [(false, n, c.nextOf r, ⟨dPeer r.desc,
          ({ Man.plain 4 s.rankNo (dPeer r.desc) (dGroup r.desc) (dStep r.desc) (c.nextOf r) with late := true, lateNs := d } : Man).bytes,
          []⟩)] ∧
        (c.lateSent = false → Sent s u 0x55 .corrected) ∧ (c.lateSent = true → u.err = s.err)) ∧
      ((d ≤ dSlack r.desc ∨ c.lateSent = true ∧ (d ≤ c.late ∨ 2 * (d - c.late) < dSlack r.desc)) → Settles (.collProjection t n) s fun u =>
        u.coll? n c.seq = some { c with projAt := t } ∧ u.lports = s.lports ∧ u.err = s.err)) ∧
    (∀ n c r, (s.colls.filter fun x => x.stream == n) = [c] → s.run? n c.seq = some r → t < c.projAt + 10000 →
      exec (.collProjection t n) s = .next { s with time := t }.settle) ∧
    (∀ group,
      (({ s with time := t } : State).groupTherm group).st = .normal ∨ t < (({ s with time := t } : State).groupTherm group).since + 10000 →
        exec (.rateMeasure t group) s = .next { s with time := t }) ∧
    (∀ group, (s.groupTherm group).st ≠ .normal → (s.groupTherm group).since + 10000 ≤ t → Runs (.rateMeasure t group) s fun u =>
      u.groupTherm group = { s.groupTherm group with
        rate := some ((s.groupTherm group).bytes * 1000000000 / (t - (s.groupTherm group).since)), bytes := 0, since := t } ∧
        u.therm group = s.therm group)

/-! ### Channels, thermal states and the Causeway -/

/-- Events of the event port: discarded ones, and what each code does; a hold that lasts. -/
def Obligations.ChannelEvents : Prop :=
  ∀ (t : Time) (ev : Dword) (s : State), s.clksLost [.hclk, .eclk] = false →
    (s.evOn = true → s.evBad ev = true → ∀ c ∈ [Instr.chHold t ev none, .chRelease t ev none,
      .chDead t ev none, .thermNormal t ev none, .thermWarn t ev none,
      .thermCrit t ev none], Settles c s fun u => Sent s u 0x69 .corrected ∧ u.chans = s.chans ∧ u.therms = s.therms) ∧
    (s.evOn = true → s.evBad ev = false →
      (evCode ev = 1 → Settles (.chHold t ev none) s fun u => u.err = s.err ∧ (u.chan (evTarget ev)).held = true ∧
        (u.chan (evTarget ev)).holdUs = evArg ev ∧ (u.chan (evTarget ev)).dead = (s.chan (evTarget ev)).dead ∧
          ((s.chan (evTarget ev)).held = false → (u.chan (evTarget ev)).holdAt = t ∧ (u.chan (evTarget ev)).holdReps = 0)) ∧
      (evCode ev = 2 → Settles (.chRelease t ev none) s fun u => u.err = s.err ∧ (u.chan (evTarget ev)).held = false ∧
        (u.chan (evTarget ev)).holdUs = 0 ∧ (u.chan (evTarget ev)).dead = false) ∧
      (evCode ev = 3 → Settles (.chDead t ev none) s fun u => Sent s u 0x63 .uncontained ∧ (u.chan (evTarget ev)).dead = true) ∧
      (evCode ev = 4 → Settles (.thermNormal t ev none) s fun u => u.therm (evTarget ev) = .normal ∧ u.err = s.err) ∧
      (evCode ev = 5 → Settles (.thermWarn t ev none) s fun u => u.therm (evTarget ev) = .warn ∧
        (s.therm (evTarget ev) ≠ .warn → Sent s u 0x68 .corrected) ∧ (s.therm (evTarget ev) = .warn → u.err = s.err)) ∧
      (evCode ev = 6 → Settles (.thermCrit t ev none) s fun u => u.therm (evTarget ev) = .crit ∧
        (s.therm (evTarget ev) ≠ .crit → Sent s u 0x68 .corrected) ∧ (s.therm (evTarget ev) = .crit → u.err = s.err))) ∧
    (∀ ch limit, s.holdLimit ch = some limit →
      ((s.chan ch).held = true → (s.chan ch).holdAt + ((s.chan ch).holdReps + 1) * limit ≤ t → Runs (.holdLong t ch) s fun u =>
        Sent s u 0x62 .corrected ∧ u.chan ch = { s.chan ch with holdReps := (s.chan ch).holdReps + 1 }) ∧
      ((s.chan ch).held = false ∨ t < (s.chan ch).holdAt + ((s.chan ch).holdReps + 1) * limit →
        exec (.holdLong t ch) s = .next { s with time := t }))

/-- MAP_OUT and MAP_IN: the results that refuse, and what a carried out one does. That a MAP_OUT whose list lies on a held channel is not
accepted before the list can be read is the model's reading (DEDUCED, log 90). -/
def Obligations.MapOutAndMapIn : Prop :=
  ∀ (t : Time) (w : Word) (img : Image) (ch : Nat) (waits : Bool) (s : State), s.phase = .run → s.reached = true →
    ch = bits s.regs.chanArg.toNat 11 0 →
    waits = (s.listBytes != 0 && s.chanList % 64 == 0 && s.spanHeld s.chanList s.listBytes) →
    (bits w.toNat 1 0 = 1 →
      (s.chart.held = true ∨ s.ownPools ch = [] → exec (.mapOut t w img none) s =
        .next { s with time := t, regs := { s.regs with chanResult := 1 } }.settle) ∧
      (s.chart.held = false → s.ownPools ch ≠ [] →
        ((s.chan ch).out = true → (s.chan ch).unfinished = false → s.causeway = none → exec (.mapOut t w img none) s =
          .next { s with time := t, regs := { s.regs with chanResult := 2 } }.settle) ∧
        ((s.chan ch).out = false → waits = true → exec (.mapOut t w img none) s = .next { s with time := t, mapWait := some img }.settle) ∧
        ((s.chan ch).out = false → waits = false → s.badList img = true → Settles (.mapOut t w img none) s fun u =>
          u.regs = { s.regs with chanResult := 4 } ∧ u.chans = s.chans ∧ u.causeway = s.causeway) ∧
        ((s.chan ch).out = false → waits = false → s.badList img = false → s.causeway.isSome = true → exec (.mapOut t w img none) s =
          .next { s with time := t, regs := { s.regs with chanResult := 5 } }.settle) ∧
        ((s.chan ch).out = false ∨ (s.chan ch).unfinished = true → waits = false → s.badList img = false → s.causeway = none →
          Settles (.mapOut t w img none) s fun u => u.regs = { s.regs with chanResult := 0 } ∧ (u.chan ch).out = true ∧
            (u.chan ch).unfinished = (s.chan ch).unfinished ∧ u.causeway = some ⟨ch, s.tensorList img, 0, false, none, none, 0, none, 0⟩ ∧
            u.cwChannel = ch))) ∧
    (bits w.toNat 1 0 = 2 →
      (s.chart.held = true ∨ s.ownPools ch = [] → exec (.mapIn t w none) s =
        .next { s with time := t, regs := { s.regs with chanResult := 1 } }.settle) ∧
      (s.chart.held = false → s.ownPools ch ≠ [] →
        ((s.chan ch).out = false → exec (.mapIn t w none) s = .next { s with time := t, regs := { s.regs with chanResult := 3 } }.settle) ∧
        ((s.chan ch).out = true → s.causeway.isSome = true → exec (.mapIn t w none) s =
          .next { s with time := t, regs := { s.regs with chanResult := 5 } }.settle) ∧
        ((s.chan ch).out = true → s.causeway = none → (s.chan ch).dead = true → exec (.mapIn t w none) s =
          .next { s with time := t, regs := { s.regs with chanResult := 6 } }.settle) ∧
        ((s.chan ch).out = true → s.causeway = none → (s.chan ch).dead = false → Settles (.mapIn t w none) s fun u =>
          u.regs = { s.regs with chanResult := 0 } ∧ (u.chan ch).out = false ∧ (u.chan ch).unfinished = false ∧ u.err = s.err)))

/-- The Causeway: the end of its list, a tile that is not there, a tile of a dead channel, and a request that had to wait. -/
def Obligations.CausewaySteps : Prop :=
  ∀ (t : Time) (img : Image) (k : Causeway) (s : State), s.causeway = some k → s.clksLost [.eclk] = false →
    (s.portsUp = true → s.phase = .run → k.job = none → s.pagesOn k.chan = [] →
      (k.list = [] → Settles (.causewayTile t img none) s fun u => u.causeway = none ∧ (u.chan k.chan).unfinished = false ∧
        (s.residueOn k.chan = 0 → u.err = s.err) ∧ (s.residueOn k.chan ≠ 0 → Sent s u 0x67 .contained)) ∧
      (∀ a rest, k.list = a :: rest → s.spanLost img a 128 = 0 → recordBad s.poolIds (imgRec img a) = false →
        (∀ x ∈ [a, presenceAddr (imgRec img a) k.tile, entryAddr (imgRec img a) k.tile], s.readWaits x = false ∧ s.deadAddr x = false) →
        (recTiles (imgRec img a) ≤ k.tile → Settles (.causewayTile t img none) s fun u =>
          u.causeway = some { k with list := rest, tile := 0 } ∧ u.wjobs = s.wjobs) ∧
        (k.tile < recTiles (imgRec img a) → imgPoison img (presenceAddr (imgRec img a) k.tile) 8 = false →
          (imgNat img (presenceAddr (imgRec img a) k.tile) 8).testBit (k.tile % 64) = false → Settles (.causewayTile t img none) s fun u =>
            u.causeway = some { k with tile := k.tile + 1, spaceSent := false, locked := none, job := none, lock := none } ∧ u.wjobs = s.wjobs) ∧
        (∀ e p ps, k.tile < recTiles (imgRec img a) → imgPoison img (presenceAddr (imgRec img a) k.tile) 8 = false →
          (imgNat img (presenceAddr (imgRec img a) k.tile) 8).testBit (k.tile % 64) = true →
          imgPoison img (entryAddr (imgRec img a) k.tile) 16 = false → e = BitVec.ofNat 128 (imgNat img (entryAddr (imgRec img a) k.tile) 16) →
          entryFail e = 0 → entState e = 1 ∨ entState e = 2 → s.pool? (recPool (imgRec img a)) = some p →
          s.poolSt? (recPool (imgRec img a)) = some ps → onChannel p k.chan (entAddr e) (entLen e) = true → (s.chan k.chan).dead = true →
          (recHomeCluster (imgRec img a) = s.clusterNo ∨ k.locked.isSome = true) →
          Settles (.causewayTile t img none) s fun u => ∃ w q, u.wjobs = s.wjobs ++ [w] ∧ w.parts = [q] ∧ w.stage = .writing ∧ w.tile = k.tile ∧
            w.recAddr = a ∧ q.template = some (entWord0 (withState e 3)) ∧ ∃ z, u.causeway = some z ∧ z.job = some w.id ∧
              z.locked = some (entryAddr (imgRec img a) k.tile)))) ∧
    (∀ id w pool sizes p ps, k.job = some id → s.wjob? id = some w → w.stage = .spaceWait → w.request = some (pool, sizes) →
      s.pool? pool = some p → s.poolSt? pool = some ps → k.askedAt < ({ s with time := t } : State).epoch →
      (∀ starts free skew, ({ s with time := t } : State).tryAlloc p ps w.recAddr w.tile sizes = .granted starts free skew →
        Settles (.causewaySpace t) s fun u => (∃ v, u.wjob? id = some v ∧ v.stage = .mapping (mapWrites (grantRuns starts sizes))) ∧
          ∃ z, u.causeway = some z ∧ z.spaceSent = false) ∧
      (({ s with time := t } : State).tryAlloc p ps w.recAddr w.tile sizes = .waits → Settles (.causewaySpace t) s fun u =>
        (∃ v, u.wjob? id = some v ∧ v.stage = .spaceWait) ∧
          u.causeway = some { k with spaceSent := true, askedAt := ({ s with time := t } : State).epoch } ∧
          (k.spaceSent = false → Sent s u 0x66 .corrected) ∧ (k.spaceSent = true → u.err = s.err)))

/-! ### The Chart -/

/-- The commands of the Chart-load page, the end of validation, and the switch to an UPDATE. That FINISH asks the other clusters of the die for
their identity is the model's choice (DESIGN CHOICE, log 15). -/
def Obligations.ChartLoad : Prop :=
  ∀ (t : Time) (w : Word) (s : State),
    (s.reached = true → bits w.toNat 1 0 = 1 →
      (s.startCode = 5 → Runs (.chartStart t w none) s fun u => u.chart = { s.chart with result := 5 } ∧ Sent s u 0x82 .corrected) ∧
      (∀ n, s.startCode = n → n ≠ 0 → n ≠ 5 → exec (.chartStart t w none) s =
        .next { s with time := t, chart := { s.chart with result := n } }) ∧
      (s.startCode = 0 → Runs (.chartStart t w none) s fun u => u.chart.load = .loading ∧ u.chart.isUpdate = s.ctlUpdate ∧
        u.chart.result = 0 ∧ u.chart.count = 0 ∧ u.chart.staged = [] ∧ u.chart.applied = s.chart.applied ∧ u.chart.held = s.chart.held ∧
          u.chart.dmaLeft = if s.ctlDma then ceilDiv s.regs.chartLen.toNat 64 else 0)) ∧
    (s.reached = true → s.chart.load = .loading → s.chart.dmaLeft = 0 →
      (s.chart.staged.length + 4 ≤ chartLimit s.chart.isUpdate → Runs (.chartData t w none) s fun u =>
        u.chart = { s.chart with
          staged := s.chart.staged ++ leBytes 4 w.toNat
          count := BitVec.ofNat 32 (s.chart.staged.length + 4) } ∧ u.regs = s.regs) ∧
      (chartLimit s.chart.isUpdate < s.chart.staged.length + 4 → exec (.chartData t w none) s = .next { s with
        time := t
        chart := { s.chart with overflow := true } }) ∧
      (bits w.toNat 1 0 = 2 → Runs (.chartFinish t w none) s fun u =>
        u.chart = { s.chart with load := .validating, result := 0 } ∧ u.ring = s.ringAfter .identCheck)) ∧
    (s.reached = true → s.chart.load ≠ .loading → exec (.chartData t w none) s = .next { s with time := t } ∧
      exec (.chartFinish t w none) s = .next { s with time := t } ∧ exec (.chartAbort t w none) s = .next { s with time := t }) ∧
    (s.reached = true → s.chart.load = .loading → bits w.toNat 1 0 = 3 → Runs (.chartAbort t w none) s fun u =>
      u.chart = { s.chart.emptied with result := 0 } ∧ (∀ q ∈ u.reqs, q.purpose.isChart = false) ∧ ∀ q ∈ u.holdq, q.purpose.isChart = false) ∧
    (∀ (peers : List Peer) (img : Image), s.chart.load = .validating → s.chartPieces.all s.inPlace = true → s.clksLost [.eclk] = false →
      (∀ f, validateChart ⟨s.params, s.retiredCores, s.chart.applied, peers⟩ s.chart.isUpdate s.chart.overflow s.chart.staged = .error f →
        s.cluster.st = .on → s.chart.isUpdate = false ∨ s.chart.held = true → Settles (.chartValidationDone t peers img none) s fun u =>
          u.chart.held = true ∧ u.chart.load = .none ∧ u.chart.result = 5 ∧ u.chart.reason = f.reason ∧ u.streams = [] ∧
            Sent s u f.reason .contained) ∧
      (∀ c tags, validateChart ⟨s.params, s.retiredCores, s.chart.applied, peers⟩ s.chart.isUpdate s.chart.overflow s.chart.staged = .ok (c, tags) →
        s.cluster.st = .on →
        (s.chart.isUpdate = false → s.mapsHeld c = true → exec (.chartValidationDone t peers img none) s = .next { s with time := t }.settle) ∧
        (s.chart.isUpdate = false → s.mapsHeld c = false → Settles (.chartValidationDone t peers img none) s fun u =>
          u.chart.applied = some c ∧ u.chart.held = false ∧ u.chart.load = .none ∧ u.chart.chartId = c.chartId ∧ u.lfsr = c.lfsrSeed ∧
            u.pools.map PoolSt.id = (c.pools.filter fun p => decide (p.allocCluster = c.cluster)).map Pool.id ∧ Sent s u 0x7D .corrected) ∧
        (s.chart.isUpdate = true → Settles (.chartValidationDone t peers img none) s fun u =>
          u.chart.load = .switching ∧ u.chart.update = some (c, tags.contains 7 || tags.contains 8, tags) ∧
            u.chart.applied = s.chart.applied ∧ u.err = s.err))) ∧
    (∀ x upd data, ∃ f, validateChart x upd true data = .error f ∧ (f.reason = 0x70 ∨ f.reason = 0x71)) ∧
    (∀ c held tags, s.chart.update = some (c, held, tags) → (held = true → s.enginesEmpty = true) → s.clksLost [.eclk] = false →
      Settles (.updateSwitch t) s fun u =>
      u.chart.applied = some c ∧ u.chart.update = none ∧ u.chart.load = .none ∧ u.pools = s.pools ∧ Sent s u 0x7D .corrected)

/-! ### Errors, service and stalls -/

/-- Acknowledgements, the repeats of records, the window of correctable errors, and the management port. That the count begins again when its
window ends is the model's reading (DEDUCED, log 65). -/
def Obligations.ErrorCommands : Prop :=
  ∀ (t : Time) (p : Port) (w : Word) (s : State),
    (s.regsOpen = true → s.clksLost [.hclk] = false →
      ((laterSeq w s.err.ack && !laterSeq w s.err.head) = true → exec (.errAckWrite t p w none) s =
        .next { s with time := t, err := { s.err with ack := w } }) ∧
      ((laterSeq w s.err.ack && !laterSeq w s.err.head) = false → Runs (.errAckWrite t p w none) s fun u =>
        Sent s u 0x14 .corrected ∧ u.err.ack = s.err.ack) ∧
      (s.err.svcOpen = true → s.err.svcRecs.contains w = true → exec (.svcAckWrite t p w none) s =
        .next { s with time := t, err := { s.err with svcAck := w, svcOpen := false, svcRecs := [] } }) ∧
      (s.err.svcOpen = false ∨ s.err.svcRecs.contains w = false → exec (.svcAckWrite t p w none) s = .next { s with time := t })) ∧
    (s.powered = true →
      (s.err.svcOpen = true → s.err.svcNext ≤ t → Runs (.svcRepeat t) s fun u => Sent s u 0x11 .service ∧ u.err.svcOpen = true ∧
        u.err.svcRecs = s.err.svcRecs ++ [s.err.head] ∧ u.err.svcNext = t + s.svcInterval) ∧
      (s.err.svcOpen = false ∨ t < s.err.svcNext → exec (.svcRepeat t) s = .next { s with time := t }) ∧
      (s.err.ceStart + s.ceWindow ≤ t → exec (.ceWindowExpiry t) s =
        .next { s with time := t, err := { s.err with ceCount := 0, ceStart := t, ceHit := false } }) ∧
      (t < s.err.ceStart + s.ceWindow → exec (.ceWindowExpiry t) s = .next { s with time := t }) ∧
      (∀ r rest, s.err.mgq = r :: rest → exec (.mgRecordOut t none) s = .next { s with
        time := t
        err := { s.err with mgq := rest, mgOut := r.beats } })) ∧
    (s.err.mgq = [] → exec (.mgRecordOut t none) s = .next { s with time := t }) ∧
    (∀ n x, s.stream? n = some x → s.clksLost [.eclk] = false →
      (∀ pool last, x.stallSpill = some (pool, last) →
        (last + s.svcAfter last ≤ t → Runs (.spillFull t n) s fun u => Sent s u 0x13 .corrected ∧
          u.stream? n = some { x with stallSpill := some (pool, t) }) ∧
        (t < last + s.svcAfter last → exec (.spillFull t n) s = .next { s with time := t })) ∧
      (∀ role port last r, x.stallRole = some (role, port, last) → s.lacksCore x = some r →
        (last + s.svcAfter last ≤ t → Runs (.roleWait t n) s fun u => Sent s u 0x16 .corrected ∧
          u.stream? n = some { x with stallRole := some (role, port, t) }) ∧
        (t < last + s.svcAfter last → exec (.roleWait t n) s = .next { s with time := t })))

/-! ### Field test -/

/-- The Ferry's timer, the start and the parts of a core test, pattern-store bytes, and test access. What the registers
of a wrapper that an opening shows hold is free (log 20). -/
def Obligations.FieldTestCommands : Prop :=
  ∀ (t : Time) (s : State), s.clksLost [.hclk, .eclk] = false →
    (s.phase = .run → s.chartVal Chart.ferryInterval 0 ≠ 0 → (s.test.waiting.any fun x => x.cause == 0) = false →
      ∀ x, s.test.running = some x → s.test.ferryAt + s.chartVal Chart.ferryInterval 0 * 1000000000 ≤ t →
        Settles (.ferryTimer t) s fun u => u.test.running = some x ∧
          u.test.waiting = queueTest (CoreTest.new 17 0 true true true 0) s.test.waiting) ∧
    (s.chartVal Chart.ferryInterval 0 = 0 ∨ t < s.test.ferryAt + s.chartVal Chart.ferryInterval 0 * 1000000000 →
      exec (.ferryTimer t) s = .next { s with time := t }.settle) ∧
    (∀ x rest (c : Fin 16), s.phase = .run → s.test.running = none → s.test.waiting = x :: rest → x.core = c.val →
      (x.cause = 1 ∨ s.eligibleCore c = true) → s.testReady x c = true → Settles (.coreTestStart t) s fun u =>
        u.test.running = some { x with man := if s.test.pkgValid then some s.test.pkgManifest else none } ∧ u.test.waiting = rest ∧
          (u.core c).fn = ⟨if (s.core c).keepOff then .shutting else .pendingOn, .before⟩) ∧
    (∀ x (misr : Dword), s.test.running = some x → x.part = 0 → Runs (.lbistDone t misr) s fun u => u.test.misr = misr ∧
      (misr = Config.lbistRef s.params.hardening → u.err = s.err ∧
        u.test.running = some { x.after true with part := s.partFrom (x.after true) 1 }) ∧
      (misr ≠ Config.lbistRef s.params.hardening → Sent s u 0x91 .contained ∧
        u.test.running = some { x.after false with part := s.partFrom (x.after false) 1 })) ∧
    (∀ x, s.test.running = some x → x.part = 1 → x.core < 16 →
      (∀ results : List MbistResult, (∀ r ∈ results, r.cells = []) → Runs (.mbistDone t results) s fun u => u.err = s.err ∧
        u.test.mbistFail = s.test.mbistFail ∧ u.test.running = some { x.after true with part := s.partFrom (x.after true) 2 }) ∧
      (∀ r : MbistResult, r.cells ≠ [] → s.spareCovers r.arr r.cells = [] → Runs (.mbistDone t [r]) s fun u => Sent s u 0x92 .contained ∧
        u.test.mbistFail.toNat.testBit x.core = true ∧ u.test.spares = s.test.spares ∧
          u.test.running = some { x.after false with part := s.partFrom (x.after false) 2 }) ∧
      (∀ r : MbistResult, r.cells ≠ [] → s.spareCovers r.arr r.cells ≠ [] → Runs (.mbistDone t [r]) s fun u =>
        ∃ ws ∈ s.spareCovers r.arr r.cells, (∀ w ∈ ws, spareOf w ∈ u.test.spares) ∧
          (r.again = false → u.err.head = s.err.head + BitVec.ofNat 32 ws.length ∧ u.test.mbistFail = s.test.mbistFail ∧
            u.test.running = some { x.after true with part := s.partFrom (x.after true) 2 }) ∧
          (r.again = true → u.err.head = s.err.head + BitVec.ofNat 32 (ws.length + 1) ∧ u.test.mbistFail.toNat.testBit x.core = true ∧
            u.test.running = some { x.after false with part := s.partFrom (x.after false) 2 }))) ∧
    (∀ x p fails (seen : List ScanSeen), s.test.running = some x → s.test.pkg = some p → x.part = 2 → p.stream = none →
      fails = packageScan (p.bytes.take (manLength p.manifest)) seen →
      (p.err = false → p.len ≤ p.bytes.length → sha384 (p.bytes.take (manLength p.manifest)) = manDigest p.manifest →
        (fails = [] → Settles (.scanDone t seen) s fun u => u.err = s.err ∧ u.test.pkg = none ∧
          u.test.running = some { x.after true with part := 3 }) ∧
        (fails ≠ [] → Settles (.scanDone t seen) s fun u => Sent s u 0x93 .contained ∧ u.test.failLog = (fails.take 16).map failEntry ∧
          u.test.running = some { x.after false with part := 3 })) ∧
      (p.err = true ∨ p.len ≤ p.bytes.length ∧ sha384 (p.bytes.take (manLength p.manifest)) ≠ manDigest p.manifest →
        Settles (.scanDone t seen) s fun u => Sent s u 0x94 .corrected ∧ u.test.pkg = none ∧ u.test.running = some { x with part := 3 })) ∧
    (∀ p data err all, s.test.pkg = some p → all = (p.bytes ++ data).take p.len →
      (all.length < p.len → Settles (.ppResponse t data err none) s fun u =>
        u.test.pkg = some { p with bytes := all, err := p.err || err } ∧ u.err = s.err) ∧
      (∀ n, p.stream = some n → p.len ≤ all.length →
        (packageFails s.params.hardening p.manifest (all.take (manLength p.manifest)) (p.err || err) = none →
          Settles (.ppResponse t data err none) s fun u => (∀ z, u.test.pkg = some z → z.stream = none) ∧ u.test.pkgValid = true ∧
            u.test.pkgId = manId p.manifest ∧ u.test.pkgVersion = manVersion p.manifest ∧ u.err.irqTest = true ∧ Sent s u 0x97 .corrected) ∧
        (∀ c, packageFails s.params.hardening p.manifest (all.take (manLength p.manifest)) (p.err || err) = some c →
          Settles (.ppResponse t data err none) s fun u => (∀ z, u.test.pkg = some z → z.stream = none) ∧
            u.test.pkgValid = s.test.pkgValid ∧ u.err.irqTest = true ∧ Sent s u 0x95 .corrected))) ∧
    (∀ (b : Nat) (k : TestAccess),
      (s.powered = true → s.accessOpen k = true → Runs (.testAccess t b k none) s fun u => (b, k) ∈ u.test.segments ∧
        (∀ c, k = .directScan c → ∃ w ∈ u.test.wrappers, w.core = c) ∧ u.err = s.err ∧ u.counters = s.counters) ∧
      (s.powered = true → s.accessOpen k = false → (∀ x, s.test.lastRefusal = some x → x + 1000000 ≤ t) → Runs (.testAccess t b k none) s fun u =>
        Sent s u 0x9A .corrected ∧ u.test.lastRefusal = some t) ∧
      (∀ x, s.powered = true → s.accessOpen k = false → s.test.lastRefusal = some x → t < x + 1000000 → exec (.testAccess t b k none) s =
        .next ({ s with time := t }.bump .testRefused)))

/-! ### Registers -/

/-- Reads and writes of the register window while its ports answer. Which registers are LO and HI pairs (DEDUCED, log 28), and that a
management write to a reserved offset sets MG_DENIED beside BAD_OFFSET (DEDUCED, log 33), are the model's readings. -/
def Obligations.RegisterAccesses : Prop :=
  ∀ (t : Time) (p : Port) (off : BitVec 20) (be : BitVec 4) (w now : Word) (s : State), s.reached = true →
    (bit w.toNat 0 = true → exec (.cntClear t w none) s = .next { s with time := t, counters := List.replicate 53 0 }) ∧
    exec (.ctxdbgBankWrite t w none) s = .next { s with
      time := t
      regs := { s.regs with
        ctxdbgBank := w &&& 3
        dbgLatch := if w &&& 3 = s.regs.ctxdbgBank then s.regs.dbgLatch else none } } ∧
    (off.toNat % 64 = 0 → 0x40000 ≤ off.toNat → off.toNat < 0x80000 → Runs (.ctxdbgSnapshot t off none) s fun u =>
      u.regs.dbgLatch = some ((off.toNat - 0x40000) / 64, s.slotView ((off.toNat - 0x40000) / 64)) ∧
        u.regs.hostRsp = BitVec.extractLsb' 0 32 (s.slotView ((off.toNat - 0x40000) / 64)) ∧ u.streams = s.streams) ∧
    (∀ lo hi, goodSize off be = true → reaches p off.toNat = true → isLo off.toNat = true →
      ({ s with time := t } : State).readReg off.toNat = some lo → ({ s with time := t } : State).readReg (off.toNat + 4) = some hi →
      Runs (.loRegisterRead t p off be none) s fun u => u.regs.latch p = some (off.toNat, hi) ∧
        (match p with | .host => u.regs.hostRsp | .mgmt => u.regs.mgRsp) = lo) ∧
    exec (.irqStatClear t w now none) s = .next { s with
      time := t
      err := { s.err with
        irqError := (s.err.irqError && !bit w.toNat 1) || bit now.toNat 1
        irqService := (s.err.irqService && !bit w.toNat 2) || bit now.toNat 2
        irqTest := (s.err.irqTest && !bit w.toNat 3) || bit now.toNat 3 } } ∧
    exec (.cqPendClear t false w now none) s = .next { s with
      time := t
      regs := { s.regs with cqPend := (s.regs.cqPend &&& ~~~(BitVec.ofNat 64 w.toNat)) ||| BitVec.ofNat 64 now.toNat } } ∧
    exec (.cqPendClear t true w now none) s = .next { s with
      time := t
      regs := { s.regs with
        cqPend := (s.regs.cqPend &&& ~~~(BitVec.ofNat 64 (w.toNat * 2 ^ 32))) ||| BitVec.ofNat 64 (now.toNat * 2 ^ 32) } } ∧
    (goodSize off be = false → Runs (.loRegisterRead t p off be none) s fun u =>
      (match p with | .host => u.regs.hostRsp | .mgmt => u.regs.mgRsp) = 0 ∧ u.regs.badSize = true ∧ u = { s with time := t, regs := u.regs }) ∧
    (goodSize off be = false → exec (.registerWrite t p off be w none) s =
      .next { s with time := t, regs := s.regs.flag p true false false }.settle) ∧
    (goodSize off be = true → mgWrites off.toNat = false → exec (.registerWrite t .mgmt off be w none) s =
      .next { s with time := t, regs := s.regs.flag .mgmt false true true }.settle) ∧
    (goodSize off be = true → ({ s with time := t } : State).readReg off.toNat = none → exec (.registerWrite t .host off be w none) s =
      .next { s with time := t, regs := s.regs.flag .host false true false }.settle) ∧
    (∀ r, goodSize off be = true → s.regs.store off.toNat w = some r → exec (.registerWrite t .host off be w none) s =
      .next { s with time := t, regs := r }.settle)

/-! ### What the other commands keep -/

/-- Every other command keeps the registers, the life-cycle state, PWR_GRANT as it was sampled, the thermal states and the static inputs, in a
state without a MAP_OUT that waits for its list (log 90). -/
def Obligations.PlainCommandsKeepRegisters : Prop :=
  ∀ (c : Instr) (s t : State), PlainCommand c → s.mapWait = none → exec c s = .next t → t.regs = s.regs ∧ t.lc = s.lc ∧
    t.lcInvalid = s.lcInvalid ∧ t.power.grant = s.power.grant ∧ t.therm = s.therm ∧ t.clkRec = s.clkRec ∧ t.cwChannel = s.cwChannel ∧
      t.params = s.params ∧ t.pending = s.pending
end

