-- ==== Sys2Proof/Laws/State.lean ====
section
/-! SUPPORT. What each update of the state leaves and writes, one law for each update and each field; items of a list after one of
them has changed; and what sending a record does. -/

namespace Sys2Proof.Machine

/-! ### Updates -/

@[simp] theorem State.timed_fields (s : State) (t : Time) :
    (s.timed t).pending = s.pending ∧ (s.timed t).params = s.params ∧ (s.timed t).time = t ∧ (s.timed t).phase = s.phase ∧
    (s.timed t).lc = s.lc ∧ (s.timed t).lcInvalid = s.lcInvalid ∧ (s.timed t).lcIn = s.lcIn ∧ (s.timed t).lcReq = s.lcReq ∧
    (s.timed t).cluster = s.cluster ∧ (s.timed t).warmWait = s.warmWait ∧ (s.timed t).offWait = s.offWait ∧
    (s.timed t).wiping = s.wiping ∧ (s.timed t).err = s.err ∧ (s.timed t).regs = s.regs ∧ (s.timed t).counters = s.counters ∧
    (s.timed t).queues = s.queues ∧ (s.timed t).streams = s.streams ∧ (s.timed t).rjobs = s.rjobs ∧
    (s.timed t).wjobs = s.wjobs ∧ (s.timed t).accs = s.accs ∧ (s.timed t).atoll = s.atoll ∧ (s.timed t).scatter = s.scatter ∧
    (s.timed t).readers = s.readers ∧ (s.timed t).groups = s.groups ∧ (s.timed t).dports = s.dports ∧
    (s.timed t).iports = s.iports ∧ (s.timed t).lports = s.lports ∧ (s.timed t).mports = s.mports ∧ (s.timed t).reqs = s.reqs ∧
    (s.timed t).holdq = s.holdq ∧ (s.timed t).colls = s.colls ∧ (s.timed t).peerLate = s.peerLate ∧
    (s.timed t).peerPaused = s.peerPaused ∧ (s.timed t).commits = s.commits ∧ (s.timed t).barriers = s.barriers ∧
    (s.timed t).dirCache = s.dirCache ∧ (s.timed t).arbs = s.arbs ∧ (s.timed t).pools = s.pools ∧ (s.timed t).chans = s.chans ∧
    (s.timed t).therms = s.therms ∧ (s.timed t).lost = s.lost ∧ (s.timed t).causeway = s.causeway ∧
    (s.timed t).cwChannel = s.cwChannel ∧ (s.timed t).mapWait = s.mapWait ∧ (s.timed t).ring = s.ring ∧
    (s.timed t).remoteWaits = s.remoteWaits ∧ (s.timed t).grants = s.grants ∧ (s.timed t).remoteAsks = s.remoteAsks ∧
    (s.timed t).remoteLocks = s.remoteLocks ∧ (s.timed t).contrib = s.contrib ∧ (s.timed t).lagoon = s.lagoon ∧
    (s.timed t).asks = s.asks ∧ (s.timed t).unitWaits = s.unitWaits ∧ (s.timed t).chart = s.chart ∧ (s.timed t).lfsr = s.lfsr ∧
    (s.timed t).cores = s.cores ∧ (s.timed t).power = s.power ∧ (s.timed t).test = s.test ∧ (s.timed t).clkRec = s.clkRec ∧
    (s.timed t).freeCtr = s.freeCtr ∧ (s.timed t).nextId = s.nextId := by
  and_intros <;> rfl

@[simp] theorem State.setQueue_fields (s : State) (q : Fin 64) (x : Queue) :
    (s.setQueue q x).pending = s.pending ∧ (s.setQueue q x).params = s.params ∧ (s.setQueue q x).time = s.time ∧
    (s.setQueue q x).phase = s.phase ∧ (s.setQueue q x).lc = s.lc ∧ (s.setQueue q x).lcInvalid = s.lcInvalid ∧
    (s.setQueue q x).lcIn = s.lcIn ∧ (s.setQueue q x).lcReq = s.lcReq ∧ (s.setQueue q x).cluster = s.cluster ∧
    (s.setQueue q x).warmWait = s.warmWait ∧ (s.setQueue q x).offWait = s.offWait ∧ (s.setQueue q x).wiping = s.wiping ∧
    (s.setQueue q x).err = s.err ∧ (s.setQueue q x).regs = s.regs ∧ (s.setQueue q x).counters = s.counters ∧
    (s.setQueue q x).queues = s.queues.set q x ∧ (s.setQueue q x).streams = s.streams ∧ (s.setQueue q x).rjobs = s.rjobs ∧
    (s.setQueue q x).wjobs = s.wjobs ∧ (s.setQueue q x).accs = s.accs ∧ (s.setQueue q x).atoll = s.atoll ∧
    (s.setQueue q x).scatter = s.scatter ∧ (s.setQueue q x).readers = s.readers ∧ (s.setQueue q x).groups = s.groups ∧
    (s.setQueue q x).dports = s.dports ∧ (s.setQueue q x).iports = s.iports ∧ (s.setQueue q x).lports = s.lports ∧
    (s.setQueue q x).mports = s.mports ∧ (s.setQueue q x).reqs = s.reqs ∧ (s.setQueue q x).holdq = s.holdq ∧
    (s.setQueue q x).colls = s.colls ∧ (s.setQueue q x).peerLate = s.peerLate ∧ (s.setQueue q x).peerPaused = s.peerPaused ∧
    (s.setQueue q x).commits = s.commits ∧ (s.setQueue q x).barriers = s.barriers ∧ (s.setQueue q x).dirCache = s.dirCache ∧
    (s.setQueue q x).arbs = s.arbs ∧ (s.setQueue q x).pools = s.pools ∧ (s.setQueue q x).chans = s.chans ∧
    (s.setQueue q x).therms = s.therms ∧ (s.setQueue q x).lost = s.lost ∧ (s.setQueue q x).causeway = s.causeway ∧
    (s.setQueue q x).cwChannel = s.cwChannel ∧ (s.setQueue q x).mapWait = s.mapWait ∧ (s.setQueue q x).ring = s.ring ∧
    (s.setQueue q x).remoteWaits = s.remoteWaits ∧ (s.setQueue q x).grants = s.grants ∧
    (s.setQueue q x).remoteAsks = s.remoteAsks ∧ (s.setQueue q x).remoteLocks = s.remoteLocks ∧
    (s.setQueue q x).contrib = s.contrib ∧ (s.setQueue q x).lagoon = s.lagoon ∧ (s.setQueue q x).asks = s.asks ∧
    (s.setQueue q x).unitWaits = s.unitWaits ∧ (s.setQueue q x).chart = s.chart ∧ (s.setQueue q x).lfsr = s.lfsr ∧
    (s.setQueue q x).cores = s.cores ∧ (s.setQueue q x).power = s.power ∧ (s.setQueue q x).test = s.test ∧
    (s.setQueue q x).clkRec = s.clkRec ∧ (s.setQueue q x).freeCtr = s.freeCtr ∧ (s.setQueue q x).nextId = s.nextId := by
  and_intros <;> rfl

@[simp] theorem State.chosen_fields (s : State) :
    (s.chosen).pending = s.pending ∧ (s.chosen).params = s.params ∧ (s.chosen).time = s.time ∧ (s.chosen).phase = s.phase ∧
    (s.chosen).lc = s.lc ∧ (s.chosen).lcInvalid = s.lcInvalid ∧ (s.chosen).lcIn = s.lcIn ∧ (s.chosen).lcReq = s.lcReq ∧
    (s.chosen).cluster = s.cluster ∧ (s.chosen).warmWait = s.warmWait ∧ (s.chosen).offWait = s.offWait ∧
    (s.chosen).wiping = s.wiping ∧ (s.chosen).err = s.err ∧ (s.chosen).regs = s.regs ∧ (s.chosen).counters = s.counters ∧
    (s.chosen).queues = s.queues ∧ (s.chosen).streams = s.streams ∧ (s.chosen).rjobs = s.rjobs ∧ (s.chosen).wjobs = s.wjobs ∧
    (s.chosen).accs = s.accs ∧ (s.chosen).atoll = s.atoll ∧ (s.chosen).scatter = s.scatter ∧ (s.chosen).readers = s.readers ∧
    (s.chosen).groups = s.groups ∧ (s.chosen).dports = s.dports ∧ (s.chosen).iports = s.iports ∧ (s.chosen).lports = s.lports ∧
    (s.chosen).mports = s.mports ∧ (s.chosen).reqs = s.reqs ∧ (s.chosen).holdq = s.holdq ∧ (s.chosen).colls = s.colls ∧
    (s.chosen).peerLate = s.peerLate ∧ (s.chosen).peerPaused = s.peerPaused ∧ (s.chosen).commits = s.commits ∧
    (s.chosen).barriers = s.barriers ∧ (s.chosen).dirCache = s.dirCache ∧ (s.chosen).arbs = s.arbs ∧
    (s.chosen).pools = s.pools ∧ (s.chosen).chans = s.chans ∧ (s.chosen).therms = s.therms ∧ (s.chosen).lost = s.lost ∧
    (s.chosen).causeway = s.causeway ∧ (s.chosen).cwChannel = s.cwChannel ∧ (s.chosen).mapWait = s.mapWait ∧
    (s.chosen).ring = s.ring ∧ (s.chosen).remoteWaits = s.remoteWaits ∧ (s.chosen).grants = s.grants ∧
    (s.chosen).remoteAsks = s.remoteAsks ∧ (s.chosen).remoteLocks = s.remoteLocks ∧ (s.chosen).contrib = s.contrib ∧
    (s.chosen).lagoon = s.lagoon ∧ (s.chosen).asks = s.asks ∧ (s.chosen).unitWaits = s.unitWaits ∧ (s.chosen).chart = s.chart ∧
    (s.chosen).lfsr = s.lfsr ∧ (s.chosen).cores = s.cores ∧ (s.chosen).power = s.power ∧ (s.chosen).test = s.test ∧
    (s.chosen).clkRec = s.clkRec ∧ (s.chosen).freeCtr = s.freeCtr + 1 ∧ (s.chosen).nextId = s.nextId := by
  and_intros <;> rfl

@[simp] theorem State.choseN_fields (s : State) (n : Nat) :
    (s.choseN n).pending = s.pending ∧ (s.choseN n).params = s.params ∧ (s.choseN n).time = s.time ∧
    (s.choseN n).phase = s.phase ∧ (s.choseN n).lc = s.lc ∧ (s.choseN n).lcInvalid = s.lcInvalid ∧ (s.choseN n).lcIn = s.lcIn ∧
    (s.choseN n).lcReq = s.lcReq ∧ (s.choseN n).cluster = s.cluster ∧ (s.choseN n).warmWait = s.warmWait ∧
    (s.choseN n).offWait = s.offWait ∧ (s.choseN n).wiping = s.wiping ∧ (s.choseN n).err = s.err ∧ (s.choseN n).regs = s.regs ∧
    (s.choseN n).counters = s.counters ∧ (s.choseN n).queues = s.queues ∧ (s.choseN n).streams = s.streams ∧
    (s.choseN n).rjobs = s.rjobs ∧ (s.choseN n).wjobs = s.wjobs ∧ (s.choseN n).accs = s.accs ∧ (s.choseN n).atoll = s.atoll ∧
    (s.choseN n).scatter = s.scatter ∧ (s.choseN n).readers = s.readers ∧ (s.choseN n).groups = s.groups ∧
    (s.choseN n).dports = s.dports ∧ (s.choseN n).iports = s.iports ∧ (s.choseN n).lports = s.lports ∧
    (s.choseN n).mports = s.mports ∧ (s.choseN n).reqs = s.reqs ∧ (s.choseN n).holdq = s.holdq ∧ (s.choseN n).colls = s.colls ∧
    (s.choseN n).peerLate = s.peerLate ∧ (s.choseN n).peerPaused = s.peerPaused ∧ (s.choseN n).commits = s.commits ∧
    (s.choseN n).barriers = s.barriers ∧ (s.choseN n).dirCache = s.dirCache ∧ (s.choseN n).arbs = s.arbs ∧
    (s.choseN n).pools = s.pools ∧ (s.choseN n).chans = s.chans ∧ (s.choseN n).therms = s.therms ∧ (s.choseN n).lost = s.lost ∧
    (s.choseN n).causeway = s.causeway ∧ (s.choseN n).cwChannel = s.cwChannel ∧ (s.choseN n).mapWait = s.mapWait ∧
    (s.choseN n).ring = s.ring ∧ (s.choseN n).remoteWaits = s.remoteWaits ∧ (s.choseN n).grants = s.grants ∧
    (s.choseN n).remoteAsks = s.remoteAsks ∧ (s.choseN n).remoteLocks = s.remoteLocks ∧ (s.choseN n).contrib = s.contrib ∧
    (s.choseN n).lagoon = s.lagoon ∧ (s.choseN n).asks = s.asks ∧ (s.choseN n).unitWaits = s.unitWaits ∧
    (s.choseN n).chart = s.chart ∧ (s.choseN n).lfsr = s.lfsr ∧ (s.choseN n).cores = s.cores ∧ (s.choseN n).power = s.power ∧
    (s.choseN n).test = s.test ∧ (s.choseN n).clkRec = s.clkRec ∧ (s.choseN n).freeCtr = s.freeCtr + n ∧
    (s.choseN n).nextId = s.nextId := by
  and_intros <;> rfl

@[simp] theorem State.sendRing_fields (s : State) (m : RingMsg) :
    (s.sendRing m).pending = s.pending ∧ (s.sendRing m).params = s.params ∧ (s.sendRing m).time = s.time ∧
    (s.sendRing m).phase = s.phase ∧ (s.sendRing m).lc = s.lc ∧ (s.sendRing m).lcInvalid = s.lcInvalid ∧
    (s.sendRing m).lcIn = s.lcIn ∧ (s.sendRing m).lcReq = s.lcReq ∧ (s.sendRing m).cluster = s.cluster ∧
    (s.sendRing m).warmWait = s.warmWait ∧ (s.sendRing m).offWait = s.offWait ∧ (s.sendRing m).wiping = s.wiping ∧
    (s.sendRing m).err = s.err ∧ (s.sendRing m).regs = s.regs ∧ (s.sendRing m).counters = s.counters ∧
    (s.sendRing m).queues = s.queues ∧ (s.sendRing m).streams = s.streams ∧ (s.sendRing m).rjobs = s.rjobs ∧
    (s.sendRing m).wjobs = s.wjobs ∧ (s.sendRing m).accs = s.accs ∧ (s.sendRing m).atoll = s.atoll ∧
    (s.sendRing m).scatter = s.scatter ∧ (s.sendRing m).readers = s.readers ∧ (s.sendRing m).groups = s.groups ∧
    (s.sendRing m).dports = s.dports ∧ (s.sendRing m).iports = s.iports ∧ (s.sendRing m).lports = s.lports ∧
    (s.sendRing m).mports = s.mports ∧ (s.sendRing m).reqs = s.reqs ∧ (s.sendRing m).holdq = s.holdq ∧
    (s.sendRing m).colls = s.colls ∧ (s.sendRing m).peerLate = s.peerLate ∧ (s.sendRing m).peerPaused = s.peerPaused ∧
    (s.sendRing m).commits = s.commits ∧ (s.sendRing m).barriers = s.barriers ∧ (s.sendRing m).dirCache = s.dirCache ∧
    (s.sendRing m).arbs = s.arbs ∧ (s.sendRing m).pools = s.pools ∧ (s.sendRing m).chans = s.chans ∧
    (s.sendRing m).therms = s.therms ∧ (s.sendRing m).lost = s.lost ∧ (s.sendRing m).causeway = s.causeway ∧
    (s.sendRing m).cwChannel = s.cwChannel ∧ (s.sendRing m).mapWait = s.mapWait ∧
    (s.sendRing m).ring = (if s.params.drCount = 0 then s.ring else s.ring ++ [m]) ∧ (s.sendRing m).remoteWaits = s.remoteWaits ∧
    (s.sendRing m).grants = s.grants ∧ (s.sendRing m).remoteAsks = s.remoteAsks ∧ (s.sendRing m).remoteLocks = s.remoteLocks ∧
    (s.sendRing m).contrib = s.contrib ∧ (s.sendRing m).lagoon = s.lagoon ∧ (s.sendRing m).asks = s.asks ∧
    (s.sendRing m).unitWaits = s.unitWaits ∧ (s.sendRing m).chart = s.chart ∧ (s.sendRing m).lfsr = s.lfsr ∧
    (s.sendRing m).cores = s.cores ∧ (s.sendRing m).power = s.power ∧ (s.sendRing m).test = s.test ∧
    (s.sendRing m).clkRec = s.clkRec ∧ (s.sendRing m).freeCtr = s.freeCtr ∧ (s.sendRing m).nextId = s.nextId := by
  unfold State.sendRing
  split <;> and_intros <;> rfl

@[simp] theorem State.numbered_fields (s : State) :
    (s.numbered).pending = s.pending ∧ (s.numbered).params = s.params ∧ (s.numbered).time = s.time ∧
    (s.numbered).phase = s.phase ∧ (s.numbered).lc = s.lc ∧ (s.numbered).lcInvalid = s.lcInvalid ∧ (s.numbered).lcIn = s.lcIn ∧
    (s.numbered).lcReq = s.lcReq ∧ (s.numbered).cluster = s.cluster ∧ (s.numbered).warmWait = s.warmWait ∧
    (s.numbered).offWait = s.offWait ∧ (s.numbered).wiping = s.wiping ∧ (s.numbered).err = s.err ∧ (s.numbered).regs = s.regs ∧
    (s.numbered).counters = s.counters ∧ (s.numbered).queues = s.queues ∧ (s.numbered).streams = s.streams ∧
    (s.numbered).rjobs = s.rjobs ∧ (s.numbered).wjobs = s.wjobs ∧ (s.numbered).accs = s.accs ∧ (s.numbered).atoll = s.atoll ∧
    (s.numbered).scatter = s.scatter ∧ (s.numbered).readers = s.readers ∧ (s.numbered).groups = s.groups ∧
    (s.numbered).dports = s.dports ∧ (s.numbered).iports = s.iports ∧ (s.numbered).lports = s.lports ∧
    (s.numbered).mports = s.mports ∧ (s.numbered).reqs = s.reqs ∧ (s.numbered).holdq = s.holdq ∧ (s.numbered).colls = s.colls ∧
    (s.numbered).peerLate = s.peerLate ∧ (s.numbered).peerPaused = s.peerPaused ∧ (s.numbered).commits = s.commits ∧
    (s.numbered).barriers = s.barriers ∧ (s.numbered).dirCache = s.dirCache ∧ (s.numbered).arbs = s.arbs ∧
    (s.numbered).pools = s.pools ∧ (s.numbered).chans = s.chans ∧ (s.numbered).therms = s.therms ∧ (s.numbered).lost = s.lost ∧
    (s.numbered).causeway = s.causeway ∧ (s.numbered).cwChannel = s.cwChannel ∧ (s.numbered).mapWait = s.mapWait ∧
    (s.numbered).ring = s.ring ∧ (s.numbered).remoteWaits = s.remoteWaits ∧ (s.numbered).grants = s.grants ∧
    (s.numbered).remoteAsks = s.remoteAsks ∧ (s.numbered).remoteLocks = s.remoteLocks ∧ (s.numbered).contrib = s.contrib ∧
    (s.numbered).lagoon = s.lagoon ∧ (s.numbered).asks = s.asks ∧ (s.numbered).unitWaits = s.unitWaits ∧
    (s.numbered).chart = s.chart ∧ (s.numbered).lfsr = s.lfsr ∧ (s.numbered).cores = s.cores ∧ (s.numbered).power = s.power ∧
    (s.numbered).test = s.test ∧ (s.numbered).clkRec = s.clkRec ∧ (s.numbered).freeCtr = s.freeCtr ∧
    (s.numbered).nextId = s.nextId + 1 := by
  and_intros <;> rfl

@[simp] theorem State.bumpN_fields (s : State) (c : Ctr) (n : Nat) :
    (s.bumpN c n).pending = s.pending ∧ (s.bumpN c n).params = s.params ∧ (s.bumpN c n).time = s.time ∧
    (s.bumpN c n).phase = s.phase ∧ (s.bumpN c n).lc = s.lc ∧ (s.bumpN c n).lcInvalid = s.lcInvalid ∧
    (s.bumpN c n).lcIn = s.lcIn ∧ (s.bumpN c n).lcReq = s.lcReq ∧ (s.bumpN c n).cluster = s.cluster ∧
    (s.bumpN c n).warmWait = s.warmWait ∧ (s.bumpN c n).offWait = s.offWait ∧ (s.bumpN c n).wiping = s.wiping ∧
    (s.bumpN c n).err = s.err ∧ (s.bumpN c n).regs = s.regs ∧
    (s.bumpN c n).counters = s.counters.modify c.index (· + BitVec.ofNat 64 n) ∧ (s.bumpN c n).queues = s.queues ∧
    (s.bumpN c n).streams = s.streams ∧ (s.bumpN c n).rjobs = s.rjobs ∧ (s.bumpN c n).wjobs = s.wjobs ∧
    (s.bumpN c n).accs = s.accs ∧ (s.bumpN c n).atoll = s.atoll ∧ (s.bumpN c n).scatter = s.scatter ∧
    (s.bumpN c n).readers = s.readers ∧ (s.bumpN c n).groups = s.groups ∧ (s.bumpN c n).dports = s.dports ∧
    (s.bumpN c n).iports = s.iports ∧ (s.bumpN c n).lports = s.lports ∧ (s.bumpN c n).mports = s.mports ∧
    (s.bumpN c n).reqs = s.reqs ∧ (s.bumpN c n).holdq = s.holdq ∧ (s.bumpN c n).colls = s.colls ∧
    (s.bumpN c n).peerLate = s.peerLate ∧ (s.bumpN c n).peerPaused = s.peerPaused ∧ (s.bumpN c n).commits = s.commits ∧
    (s.bumpN c n).barriers = s.barriers ∧ (s.bumpN c n).dirCache = s.dirCache ∧ (s.bumpN c n).arbs = s.arbs ∧
    (s.bumpN c n).pools = s.pools ∧ (s.bumpN c n).chans = s.chans ∧ (s.bumpN c n).therms = s.therms ∧
    (s.bumpN c n).lost = s.lost ∧ (s.bumpN c n).causeway = s.causeway ∧ (s.bumpN c n).cwChannel = s.cwChannel ∧
    (s.bumpN c n).mapWait = s.mapWait ∧ (s.bumpN c n).ring = s.ring ∧ (s.bumpN c n).remoteWaits = s.remoteWaits ∧
    (s.bumpN c n).grants = s.grants ∧ (s.bumpN c n).remoteAsks = s.remoteAsks ∧ (s.bumpN c n).remoteLocks = s.remoteLocks ∧
    (s.bumpN c n).contrib = s.contrib ∧ (s.bumpN c n).lagoon = s.lagoon ∧ (s.bumpN c n).asks = s.asks ∧
    (s.bumpN c n).unitWaits = s.unitWaits ∧ (s.bumpN c n).chart = s.chart ∧ (s.bumpN c n).lfsr = s.lfsr ∧
    (s.bumpN c n).cores = s.cores ∧ (s.bumpN c n).power = s.power ∧ (s.bumpN c n).test = s.test ∧
    (s.bumpN c n).clkRec = s.clkRec ∧ (s.bumpN c n).freeCtr = s.freeCtr ∧ (s.bumpN c n).nextId = s.nextId := by
  and_intros <;> rfl

@[simp] theorem State.bump_fields (s : State) (c : Ctr) :
    (s.bump c).pending = s.pending ∧ (s.bump c).params = s.params ∧ (s.bump c).time = s.time ∧ (s.bump c).phase = s.phase ∧
    (s.bump c).lc = s.lc ∧ (s.bump c).lcInvalid = s.lcInvalid ∧ (s.bump c).lcIn = s.lcIn ∧ (s.bump c).lcReq = s.lcReq ∧
    (s.bump c).cluster = s.cluster ∧ (s.bump c).warmWait = s.warmWait ∧ (s.bump c).offWait = s.offWait ∧
    (s.bump c).wiping = s.wiping ∧ (s.bump c).err = s.err ∧ (s.bump c).regs = s.regs ∧
    (s.bump c).counters = s.counters.modify c.index (· + BitVec.ofNat 64 1) ∧ (s.bump c).queues = s.queues ∧
    (s.bump c).streams = s.streams ∧ (s.bump c).rjobs = s.rjobs ∧ (s.bump c).wjobs = s.wjobs ∧ (s.bump c).accs = s.accs ∧
    (s.bump c).atoll = s.atoll ∧ (s.bump c).scatter = s.scatter ∧ (s.bump c).readers = s.readers ∧
    (s.bump c).groups = s.groups ∧ (s.bump c).dports = s.dports ∧ (s.bump c).iports = s.iports ∧ (s.bump c).lports = s.lports ∧
    (s.bump c).mports = s.mports ∧ (s.bump c).reqs = s.reqs ∧ (s.bump c).holdq = s.holdq ∧ (s.bump c).colls = s.colls ∧
    (s.bump c).peerLate = s.peerLate ∧ (s.bump c).peerPaused = s.peerPaused ∧ (s.bump c).commits = s.commits ∧
    (s.bump c).barriers = s.barriers ∧ (s.bump c).dirCache = s.dirCache ∧ (s.bump c).arbs = s.arbs ∧
    (s.bump c).pools = s.pools ∧ (s.bump c).chans = s.chans ∧ (s.bump c).therms = s.therms ∧ (s.bump c).lost = s.lost ∧
    (s.bump c).causeway = s.causeway ∧ (s.bump c).cwChannel = s.cwChannel ∧ (s.bump c).mapWait = s.mapWait ∧
    (s.bump c).ring = s.ring ∧ (s.bump c).remoteWaits = s.remoteWaits ∧ (s.bump c).grants = s.grants ∧
    (s.bump c).remoteAsks = s.remoteAsks ∧ (s.bump c).remoteLocks = s.remoteLocks ∧ (s.bump c).contrib = s.contrib ∧
    (s.bump c).lagoon = s.lagoon ∧ (s.bump c).asks = s.asks ∧ (s.bump c).unitWaits = s.unitWaits ∧ (s.bump c).chart = s.chart ∧
    (s.bump c).lfsr = s.lfsr ∧ (s.bump c).cores = s.cores ∧ (s.bump c).power = s.power ∧ (s.bump c).test = s.test ∧
    (s.bump c).clkRec = s.clkRec ∧ (s.bump c).freeCtr = s.freeCtr ∧ (s.bump c).nextId = s.nextId := by
  and_intros <;> rfl

@[simp] theorem State.updStream_fields (s : State) (n : Nat) (f : Stream → Stream) :
    (s.updStream n f).pending = s.pending ∧ (s.updStream n f).params = s.params ∧ (s.updStream n f).time = s.time ∧
    (s.updStream n f).phase = s.phase ∧ (s.updStream n f).lc = s.lc ∧ (s.updStream n f).lcInvalid = s.lcInvalid ∧
    (s.updStream n f).lcIn = s.lcIn ∧ (s.updStream n f).lcReq = s.lcReq ∧ (s.updStream n f).cluster = s.cluster ∧
    (s.updStream n f).warmWait = s.warmWait ∧ (s.updStream n f).offWait = s.offWait ∧ (s.updStream n f).wiping = s.wiping ∧
    (s.updStream n f).err = s.err ∧ (s.updStream n f).regs = s.regs ∧ (s.updStream n f).counters = s.counters ∧
    (s.updStream n f).queues = s.queues ∧ (s.updStream n f).streams = updFirst (fun x => x.num == n) f s.streams ∧
    (s.updStream n f).rjobs = s.rjobs ∧ (s.updStream n f).wjobs = s.wjobs ∧ (s.updStream n f).accs = s.accs ∧
    (s.updStream n f).atoll = s.atoll ∧ (s.updStream n f).scatter = s.scatter ∧ (s.updStream n f).readers = s.readers ∧
    (s.updStream n f).groups = s.groups ∧ (s.updStream n f).dports = s.dports ∧ (s.updStream n f).iports = s.iports ∧
    (s.updStream n f).lports = s.lports ∧ (s.updStream n f).mports = s.mports ∧ (s.updStream n f).reqs = s.reqs ∧
    (s.updStream n f).holdq = s.holdq ∧ (s.updStream n f).colls = s.colls ∧ (s.updStream n f).peerLate = s.peerLate ∧
    (s.updStream n f).peerPaused = s.peerPaused ∧ (s.updStream n f).commits = s.commits ∧
    (s.updStream n f).barriers = s.barriers ∧ (s.updStream n f).dirCache = s.dirCache ∧ (s.updStream n f).arbs = s.arbs ∧
    (s.updStream n f).pools = s.pools ∧ (s.updStream n f).chans = s.chans ∧ (s.updStream n f).therms = s.therms ∧
    (s.updStream n f).lost = s.lost ∧ (s.updStream n f).causeway = s.causeway ∧ (s.updStream n f).cwChannel = s.cwChannel ∧
    (s.updStream n f).mapWait = s.mapWait ∧ (s.updStream n f).ring = s.ring ∧ (s.updStream n f).remoteWaits = s.remoteWaits ∧
    (s.updStream n f).grants = s.grants ∧ (s.updStream n f).remoteAsks = s.remoteAsks ∧
    (s.updStream n f).remoteLocks = s.remoteLocks ∧ (s.updStream n f).contrib = s.contrib ∧
    (s.updStream n f).lagoon = s.lagoon ∧ (s.updStream n f).asks = s.asks ∧ (s.updStream n f).unitWaits = s.unitWaits ∧
    (s.updStream n f).chart = s.chart ∧ (s.updStream n f).lfsr = s.lfsr ∧ (s.updStream n f).cores = s.cores ∧
    (s.updStream n f).power = s.power ∧ (s.updStream n f).test = s.test ∧ (s.updStream n f).clkRec = s.clkRec ∧
    (s.updStream n f).freeCtr = s.freeCtr ∧ (s.updStream n f).nextId = s.nextId := by
  and_intros <;> rfl

@[simp] theorem State.updRun_fields (s : State) (n : Nat) (q : Word) (f : Run → Run) :
    (s.updRun n q f).pending = s.pending ∧ (s.updRun n q f).params = s.params ∧ (s.updRun n q f).time = s.time ∧
    (s.updRun n q f).phase = s.phase ∧ (s.updRun n q f).lc = s.lc ∧ (s.updRun n q f).lcInvalid = s.lcInvalid ∧
    (s.updRun n q f).lcIn = s.lcIn ∧ (s.updRun n q f).lcReq = s.lcReq ∧ (s.updRun n q f).cluster = s.cluster ∧
    (s.updRun n q f).warmWait = s.warmWait ∧ (s.updRun n q f).offWait = s.offWait ∧ (s.updRun n q f).wiping = s.wiping ∧
    (s.updRun n q f).err = s.err ∧ (s.updRun n q f).regs = s.regs ∧ (s.updRun n q f).counters = s.counters ∧
    (s.updRun n q f).queues = s.queues ∧ (s.updRun n q f).rjobs = s.rjobs ∧ (s.updRun n q f).wjobs = s.wjobs ∧
    (s.updRun n q f).accs = s.accs ∧ (s.updRun n q f).atoll = s.atoll ∧ (s.updRun n q f).scatter = s.scatter ∧
    (s.updRun n q f).readers = s.readers ∧ (s.updRun n q f).groups = s.groups ∧ (s.updRun n q f).dports = s.dports ∧
    (s.updRun n q f).iports = s.iports ∧ (s.updRun n q f).lports = s.lports ∧ (s.updRun n q f).mports = s.mports ∧
    (s.updRun n q f).reqs = s.reqs ∧ (s.updRun n q f).holdq = s.holdq ∧ (s.updRun n q f).colls = s.colls ∧
    (s.updRun n q f).peerLate = s.peerLate ∧ (s.updRun n q f).peerPaused = s.peerPaused ∧
    (s.updRun n q f).commits = s.commits ∧ (s.updRun n q f).barriers = s.barriers ∧ (s.updRun n q f).dirCache = s.dirCache ∧
    (s.updRun n q f).arbs = s.arbs ∧ (s.updRun n q f).pools = s.pools ∧ (s.updRun n q f).chans = s.chans ∧
    (s.updRun n q f).therms = s.therms ∧ (s.updRun n q f).lost = s.lost ∧ (s.updRun n q f).causeway = s.causeway ∧
    (s.updRun n q f).cwChannel = s.cwChannel ∧ (s.updRun n q f).mapWait = s.mapWait ∧ (s.updRun n q f).ring = s.ring ∧
    (s.updRun n q f).remoteWaits = s.remoteWaits ∧ (s.updRun n q f).grants = s.grants ∧
    (s.updRun n q f).remoteAsks = s.remoteAsks ∧ (s.updRun n q f).remoteLocks = s.remoteLocks ∧
    (s.updRun n q f).contrib = s.contrib ∧ (s.updRun n q f).lagoon = s.lagoon ∧ (s.updRun n q f).asks = s.asks ∧
    (s.updRun n q f).unitWaits = s.unitWaits ∧ (s.updRun n q f).chart = s.chart ∧ (s.updRun n q f).lfsr = s.lfsr ∧
    (s.updRun n q f).cores = s.cores ∧ (s.updRun n q f).power = s.power ∧ (s.updRun n q f).test = s.test ∧
    (s.updRun n q f).clkRec = s.clkRec ∧ (s.updRun n q f).freeCtr = s.freeCtr ∧ (s.updRun n q f).nextId = s.nextId := by
  and_intros <;> rfl

@[simp] theorem State.flagRun_fields (s : State) (n : Nat) (q : Word) (f : RunFlags → RunFlags) :
    (s.flagRun n q f).pending = s.pending ∧ (s.flagRun n q f).params = s.params ∧ (s.flagRun n q f).time = s.time ∧
    (s.flagRun n q f).phase = s.phase ∧ (s.flagRun n q f).lc = s.lc ∧ (s.flagRun n q f).lcInvalid = s.lcInvalid ∧
    (s.flagRun n q f).lcIn = s.lcIn ∧ (s.flagRun n q f).lcReq = s.lcReq ∧ (s.flagRun n q f).cluster = s.cluster ∧
    (s.flagRun n q f).warmWait = s.warmWait ∧ (s.flagRun n q f).offWait = s.offWait ∧ (s.flagRun n q f).wiping = s.wiping ∧
    (s.flagRun n q f).err = s.err ∧ (s.flagRun n q f).regs = s.regs ∧ (s.flagRun n q f).counters = s.counters ∧
    (s.flagRun n q f).queues = s.queues ∧ (s.flagRun n q f).rjobs = s.rjobs ∧ (s.flagRun n q f).wjobs = s.wjobs ∧
    (s.flagRun n q f).accs = s.accs ∧ (s.flagRun n q f).atoll = s.atoll ∧ (s.flagRun n q f).scatter = s.scatter ∧
    (s.flagRun n q f).readers = s.readers ∧ (s.flagRun n q f).groups = s.groups ∧ (s.flagRun n q f).dports = s.dports ∧
    (s.flagRun n q f).iports = s.iports ∧ (s.flagRun n q f).lports = s.lports ∧ (s.flagRun n q f).mports = s.mports ∧
    (s.flagRun n q f).reqs = s.reqs ∧ (s.flagRun n q f).holdq = s.holdq ∧ (s.flagRun n q f).colls = s.colls ∧
    (s.flagRun n q f).peerLate = s.peerLate ∧ (s.flagRun n q f).peerPaused = s.peerPaused ∧
    (s.flagRun n q f).commits = s.commits ∧ (s.flagRun n q f).barriers = s.barriers ∧ (s.flagRun n q f).dirCache = s.dirCache ∧
    (s.flagRun n q f).arbs = s.arbs ∧ (s.flagRun n q f).pools = s.pools ∧ (s.flagRun n q f).chans = s.chans ∧
    (s.flagRun n q f).therms = s.therms ∧ (s.flagRun n q f).lost = s.lost ∧ (s.flagRun n q f).causeway = s.causeway ∧
    (s.flagRun n q f).cwChannel = s.cwChannel ∧ (s.flagRun n q f).mapWait = s.mapWait ∧ (s.flagRun n q f).ring = s.ring ∧
    (s.flagRun n q f).remoteWaits = s.remoteWaits ∧ (s.flagRun n q f).grants = s.grants ∧
    (s.flagRun n q f).remoteAsks = s.remoteAsks ∧ (s.flagRun n q f).remoteLocks = s.remoteLocks ∧
    (s.flagRun n q f).contrib = s.contrib ∧ (s.flagRun n q f).lagoon = s.lagoon ∧ (s.flagRun n q f).asks = s.asks ∧
    (s.flagRun n q f).unitWaits = s.unitWaits ∧ (s.flagRun n q f).chart = s.chart ∧ (s.flagRun n q f).lfsr = s.lfsr ∧
    (s.flagRun n q f).cores = s.cores ∧ (s.flagRun n q f).power = s.power ∧ (s.flagRun n q f).test = s.test ∧
    (s.flagRun n q f).clkRec = s.clkRec ∧ (s.flagRun n q f).freeCtr = s.freeCtr ∧ (s.flagRun n q f).nextId = s.nextId := by
  and_intros <;> rfl

@[simp] theorem State.updR_fields (s : State) (id : Nat) (f : RJob → RJob) :
    (s.updR id f).pending = s.pending ∧ (s.updR id f).params = s.params ∧ (s.updR id f).time = s.time ∧
    (s.updR id f).phase = s.phase ∧ (s.updR id f).lc = s.lc ∧ (s.updR id f).lcInvalid = s.lcInvalid ∧
    (s.updR id f).lcIn = s.lcIn ∧ (s.updR id f).lcReq = s.lcReq ∧ (s.updR id f).cluster = s.cluster ∧
    (s.updR id f).warmWait = s.warmWait ∧ (s.updR id f).offWait = s.offWait ∧ (s.updR id f).wiping = s.wiping ∧
    (s.updR id f).err = s.err ∧ (s.updR id f).regs = s.regs ∧ (s.updR id f).counters = s.counters ∧
    (s.updR id f).queues = s.queues ∧ (s.updR id f).streams = s.streams ∧
    (s.updR id f).rjobs = updFirst (fun j => j.id == id) f s.rjobs ∧ (s.updR id f).wjobs = s.wjobs ∧
    (s.updR id f).accs = s.accs ∧ (s.updR id f).atoll = s.atoll ∧ (s.updR id f).scatter = s.scatter ∧
    (s.updR id f).readers = s.readers ∧ (s.updR id f).groups = s.groups ∧ (s.updR id f).dports = s.dports ∧
    (s.updR id f).iports = s.iports ∧ (s.updR id f).lports = s.lports ∧ (s.updR id f).mports = s.mports ∧
    (s.updR id f).reqs = s.reqs ∧ (s.updR id f).holdq = s.holdq ∧ (s.updR id f).colls = s.colls ∧
    (s.updR id f).peerLate = s.peerLate ∧ (s.updR id f).peerPaused = s.peerPaused ∧ (s.updR id f).commits = s.commits ∧
    (s.updR id f).barriers = s.barriers ∧ (s.updR id f).dirCache = s.dirCache ∧ (s.updR id f).arbs = s.arbs ∧
    (s.updR id f).pools = s.pools ∧ (s.updR id f).chans = s.chans ∧ (s.updR id f).therms = s.therms ∧
    (s.updR id f).lost = s.lost ∧ (s.updR id f).causeway = s.causeway ∧ (s.updR id f).cwChannel = s.cwChannel ∧
    (s.updR id f).mapWait = s.mapWait ∧ (s.updR id f).ring = s.ring ∧ (s.updR id f).remoteWaits = s.remoteWaits ∧
    (s.updR id f).grants = s.grants ∧ (s.updR id f).remoteAsks = s.remoteAsks ∧ (s.updR id f).remoteLocks = s.remoteLocks ∧
    (s.updR id f).contrib = s.contrib ∧ (s.updR id f).lagoon = s.lagoon ∧ (s.updR id f).asks = s.asks ∧
    (s.updR id f).unitWaits = s.unitWaits ∧ (s.updR id f).chart = s.chart ∧ (s.updR id f).lfsr = s.lfsr ∧
    (s.updR id f).cores = s.cores ∧ (s.updR id f).power = s.power ∧ (s.updR id f).test = s.test ∧
    (s.updR id f).clkRec = s.clkRec ∧ (s.updR id f).freeCtr = s.freeCtr ∧ (s.updR id f).nextId = s.nextId := by
  and_intros <;> rfl

@[simp] theorem State.dropR_fields (s : State) (id : Nat) :
    (s.dropR id).pending = s.pending ∧ (s.dropR id).params = s.params ∧ (s.dropR id).time = s.time ∧
    (s.dropR id).phase = s.phase ∧ (s.dropR id).lc = s.lc ∧ (s.dropR id).lcInvalid = s.lcInvalid ∧ (s.dropR id).lcIn = s.lcIn ∧
    (s.dropR id).lcReq = s.lcReq ∧ (s.dropR id).cluster = s.cluster ∧ (s.dropR id).warmWait = s.warmWait ∧
    (s.dropR id).offWait = s.offWait ∧ (s.dropR id).wiping = s.wiping ∧ (s.dropR id).err = s.err ∧ (s.dropR id).regs = s.regs ∧
    (s.dropR id).counters = s.counters ∧ (s.dropR id).queues = s.queues ∧ (s.dropR id).streams = s.streams ∧
    (s.dropR id).rjobs = (s.rjobs.filter fun j => j.id != id) ∧ (s.dropR id).wjobs = s.wjobs ∧ (s.dropR id).accs = s.accs ∧
    (s.dropR id).atoll = s.atoll ∧ (s.dropR id).scatter = s.scatter ∧ (s.dropR id).readers = s.readers ∧
    (s.dropR id).groups = s.groups ∧ (s.dropR id).dports = s.dports ∧ (s.dropR id).iports = s.iports ∧
    (s.dropR id).lports = s.lports ∧ (s.dropR id).mports = s.mports ∧ (s.dropR id).reqs = s.reqs ∧
    (s.dropR id).holdq = s.holdq ∧ (s.dropR id).colls = s.colls ∧ (s.dropR id).peerLate = s.peerLate ∧
    (s.dropR id).peerPaused = s.peerPaused ∧ (s.dropR id).commits = s.commits ∧ (s.dropR id).barriers = s.barriers ∧
    (s.dropR id).dirCache = s.dirCache ∧ (s.dropR id).arbs = s.arbs ∧ (s.dropR id).pools = s.pools ∧
    (s.dropR id).chans = s.chans ∧ (s.dropR id).therms = s.therms ∧ (s.dropR id).lost = s.lost ∧
    (s.dropR id).causeway = s.causeway ∧ (s.dropR id).cwChannel = s.cwChannel ∧ (s.dropR id).mapWait = s.mapWait ∧
    (s.dropR id).ring = s.ring ∧ (s.dropR id).remoteWaits = s.remoteWaits ∧ (s.dropR id).grants = s.grants ∧
    (s.dropR id).remoteAsks = s.remoteAsks ∧ (s.dropR id).remoteLocks = s.remoteLocks ∧ (s.dropR id).contrib = s.contrib ∧
    (s.dropR id).lagoon = s.lagoon ∧ (s.dropR id).asks = s.asks ∧ (s.dropR id).unitWaits = s.unitWaits ∧
    (s.dropR id).chart = s.chart ∧ (s.dropR id).lfsr = s.lfsr ∧ (s.dropR id).cores = s.cores ∧ (s.dropR id).power = s.power ∧
    (s.dropR id).test = s.test ∧ (s.dropR id).clkRec = s.clkRec ∧ (s.dropR id).freeCtr = s.freeCtr ∧
    (s.dropR id).nextId = s.nextId := by
  and_intros <;> rfl

@[simp] theorem State.updW_fields (s : State) (id : Nat) (f : WJob → WJob) :
    (s.updW id f).pending = s.pending ∧ (s.updW id f).params = s.params ∧ (s.updW id f).time = s.time ∧
    (s.updW id f).phase = s.phase ∧ (s.updW id f).lc = s.lc ∧ (s.updW id f).lcInvalid = s.lcInvalid ∧
    (s.updW id f).lcIn = s.lcIn ∧ (s.updW id f).lcReq = s.lcReq ∧ (s.updW id f).cluster = s.cluster ∧
    (s.updW id f).warmWait = s.warmWait ∧ (s.updW id f).offWait = s.offWait ∧ (s.updW id f).wiping = s.wiping ∧
    (s.updW id f).err = s.err ∧ (s.updW id f).regs = s.regs ∧ (s.updW id f).counters = s.counters ∧
    (s.updW id f).queues = s.queues ∧ (s.updW id f).streams = s.streams ∧ (s.updW id f).rjobs = s.rjobs ∧
    (s.updW id f).wjobs = updFirst (fun j => j.id == id) f s.wjobs ∧ (s.updW id f).accs = s.accs ∧
    (s.updW id f).atoll = s.atoll ∧ (s.updW id f).scatter = s.scatter ∧ (s.updW id f).readers = s.readers ∧
    (s.updW id f).groups = s.groups ∧ (s.updW id f).dports = s.dports ∧ (s.updW id f).iports = s.iports ∧
    (s.updW id f).lports = s.lports ∧ (s.updW id f).mports = s.mports ∧ (s.updW id f).reqs = s.reqs ∧
    (s.updW id f).holdq = s.holdq ∧ (s.updW id f).colls = s.colls ∧ (s.updW id f).peerLate = s.peerLate ∧
    (s.updW id f).peerPaused = s.peerPaused ∧ (s.updW id f).commits = s.commits ∧ (s.updW id f).barriers = s.barriers ∧
    (s.updW id f).dirCache = s.dirCache ∧ (s.updW id f).arbs = s.arbs ∧ (s.updW id f).pools = s.pools ∧
    (s.updW id f).chans = s.chans ∧ (s.updW id f).therms = s.therms ∧ (s.updW id f).lost = s.lost ∧
    (s.updW id f).causeway = s.causeway ∧ (s.updW id f).cwChannel = s.cwChannel ∧ (s.updW id f).mapWait = s.mapWait ∧
    (s.updW id f).ring = s.ring ∧ (s.updW id f).remoteWaits = s.remoteWaits ∧ (s.updW id f).grants = s.grants ∧
    (s.updW id f).remoteAsks = s.remoteAsks ∧ (s.updW id f).remoteLocks = s.remoteLocks ∧ (s.updW id f).contrib = s.contrib ∧
    (s.updW id f).lagoon = s.lagoon ∧ (s.updW id f).asks = s.asks ∧ (s.updW id f).unitWaits = s.unitWaits ∧
    (s.updW id f).chart = s.chart ∧ (s.updW id f).lfsr = s.lfsr ∧ (s.updW id f).cores = s.cores ∧
    (s.updW id f).power = s.power ∧ (s.updW id f).test = s.test ∧ (s.updW id f).clkRec = s.clkRec ∧
    (s.updW id f).freeCtr = s.freeCtr ∧ (s.updW id f).nextId = s.nextId := by
  and_intros <;> rfl

@[simp] theorem State.dropW_fields (s : State) (id : Nat) :
    (s.dropW id).pending = s.pending ∧ (s.dropW id).params = s.params ∧ (s.dropW id).time = s.time ∧
    (s.dropW id).phase = s.phase ∧ (s.dropW id).lc = s.lc ∧ (s.dropW id).lcInvalid = s.lcInvalid ∧ (s.dropW id).lcIn = s.lcIn ∧
    (s.dropW id).lcReq = s.lcReq ∧ (s.dropW id).cluster = s.cluster ∧ (s.dropW id).warmWait = s.warmWait ∧
    (s.dropW id).offWait = s.offWait ∧ (s.dropW id).wiping = s.wiping ∧ (s.dropW id).err = s.err ∧ (s.dropW id).regs = s.regs ∧
    (s.dropW id).counters = s.counters ∧ (s.dropW id).queues = s.queues ∧ (s.dropW id).streams = s.streams ∧
    (s.dropW id).rjobs = s.rjobs ∧ (s.dropW id).wjobs = (s.wjobs.filter fun j => j.id != id) ∧ (s.dropW id).accs = s.accs ∧
    (s.dropW id).atoll = s.atoll ∧ (s.dropW id).scatter = s.scatter ∧ (s.dropW id).readers = s.readers ∧
    (s.dropW id).groups = s.groups ∧ (s.dropW id).dports = s.dports ∧ (s.dropW id).iports = s.iports ∧
    (s.dropW id).lports = s.lports ∧ (s.dropW id).mports = s.mports ∧ (s.dropW id).reqs = s.reqs ∧
    (s.dropW id).holdq = s.holdq ∧ (s.dropW id).colls = s.colls ∧ (s.dropW id).peerLate = s.peerLate ∧
    (s.dropW id).peerPaused = s.peerPaused ∧ (s.dropW id).commits = s.commits ∧ (s.dropW id).barriers = s.barriers ∧
    (s.dropW id).dirCache = s.dirCache ∧ (s.dropW id).arbs = s.arbs ∧ (s.dropW id).pools = s.pools ∧
    (s.dropW id).chans = s.chans ∧ (s.dropW id).therms = s.therms ∧ (s.dropW id).lost = s.lost ∧
    (s.dropW id).causeway = s.causeway ∧ (s.dropW id).cwChannel = s.cwChannel ∧ (s.dropW id).mapWait = s.mapWait ∧
    (s.dropW id).ring = s.ring ∧ (s.dropW id).remoteWaits = s.remoteWaits ∧ (s.dropW id).grants = s.grants ∧
    (s.dropW id).remoteAsks = s.remoteAsks ∧ (s.dropW id).remoteLocks = s.remoteLocks ∧ (s.dropW id).contrib = s.contrib ∧
    (s.dropW id).lagoon = s.lagoon ∧ (s.dropW id).asks = s.asks ∧ (s.dropW id).unitWaits = s.unitWaits ∧
    (s.dropW id).chart = s.chart ∧ (s.dropW id).lfsr = s.lfsr ∧ (s.dropW id).cores = s.cores ∧ (s.dropW id).power = s.power ∧
    (s.dropW id).test = s.test ∧ (s.dropW id).clkRec = s.clkRec ∧ (s.dropW id).freeCtr = s.freeCtr ∧
    (s.dropW id).nextId = s.nextId := by
  and_intros <;> rfl

@[simp] theorem State.addW_fields (s : State) (j : WJob) :
    (s.addW j).pending = s.pending ∧ (s.addW j).params = s.params ∧ (s.addW j).time = s.time ∧ (s.addW j).phase = s.phase ∧
    (s.addW j).lc = s.lc ∧ (s.addW j).lcInvalid = s.lcInvalid ∧ (s.addW j).lcIn = s.lcIn ∧ (s.addW j).lcReq = s.lcReq ∧
    (s.addW j).cluster = s.cluster ∧ (s.addW j).warmWait = s.warmWait ∧ (s.addW j).offWait = s.offWait ∧
    (s.addW j).wiping = s.wiping ∧ (s.addW j).err = s.err ∧ (s.addW j).regs = s.regs ∧ (s.addW j).counters = s.counters ∧
    (s.addW j).queues = s.queues ∧ (s.addW j).streams = s.streams ∧ (s.addW j).rjobs = s.rjobs ∧
    (s.addW j).wjobs = s.wjobs ++ [j] ∧ (s.addW j).accs = s.accs ∧ (s.addW j).atoll = s.atoll ∧
    (s.addW j).scatter = s.scatter ∧ (s.addW j).readers = s.readers ∧ (s.addW j).groups = s.groups ∧
    (s.addW j).dports = s.dports ∧ (s.addW j).iports = s.iports ∧ (s.addW j).lports = s.lports ∧ (s.addW j).mports = s.mports ∧
    (s.addW j).reqs = s.reqs ∧ (s.addW j).holdq = s.holdq ∧ (s.addW j).colls = s.colls ∧ (s.addW j).peerLate = s.peerLate ∧
    (s.addW j).peerPaused = s.peerPaused ∧ (s.addW j).commits = s.commits ∧ (s.addW j).barriers = s.barriers ∧
    (s.addW j).dirCache = s.dirCache ∧ (s.addW j).arbs = s.arbs ∧ (s.addW j).pools = s.pools ∧ (s.addW j).chans = s.chans ∧
    (s.addW j).therms = s.therms ∧ (s.addW j).lost = s.lost ∧ (s.addW j).causeway = s.causeway ∧
    (s.addW j).cwChannel = s.cwChannel ∧ (s.addW j).mapWait = s.mapWait ∧ (s.addW j).ring = s.ring ∧
    (s.addW j).remoteWaits = s.remoteWaits ∧ (s.addW j).grants = s.grants ∧ (s.addW j).remoteAsks = s.remoteAsks ∧
    (s.addW j).remoteLocks = s.remoteLocks ∧ (s.addW j).contrib = s.contrib ∧ (s.addW j).lagoon = s.lagoon ∧
    (s.addW j).asks = s.asks ∧ (s.addW j).unitWaits = s.unitWaits ∧ (s.addW j).chart = s.chart ∧ (s.addW j).lfsr = s.lfsr ∧
    (s.addW j).cores = s.cores ∧ (s.addW j).power = s.power ∧ (s.addW j).test = s.test ∧ (s.addW j).clkRec = s.clkRec ∧
    (s.addW j).freeCtr = s.freeCtr ∧ (s.addW j).nextId = s.nextId + 1 := by
  and_intros <;> rfl

@[simp] theorem State.updA_fields (s : State) (id : Nat) (f : AccTile → AccTile) :
    (s.updA id f).pending = s.pending ∧ (s.updA id f).params = s.params ∧ (s.updA id f).time = s.time ∧
    (s.updA id f).phase = s.phase ∧ (s.updA id f).lc = s.lc ∧ (s.updA id f).lcInvalid = s.lcInvalid ∧
    (s.updA id f).lcIn = s.lcIn ∧ (s.updA id f).lcReq = s.lcReq ∧ (s.updA id f).cluster = s.cluster ∧
    (s.updA id f).warmWait = s.warmWait ∧ (s.updA id f).offWait = s.offWait ∧ (s.updA id f).wiping = s.wiping ∧
    (s.updA id f).err = s.err ∧ (s.updA id f).regs = s.regs ∧ (s.updA id f).counters = s.counters ∧
    (s.updA id f).queues = s.queues ∧ (s.updA id f).streams = s.streams ∧ (s.updA id f).rjobs = s.rjobs ∧
    (s.updA id f).wjobs = s.wjobs ∧ (s.updA id f).accs = updFirst (fun a => a.id == id) f s.accs ∧
    (s.updA id f).atoll = s.atoll ∧ (s.updA id f).scatter = s.scatter ∧ (s.updA id f).readers = s.readers ∧
    (s.updA id f).groups = s.groups ∧ (s.updA id f).dports = s.dports ∧ (s.updA id f).iports = s.iports ∧
    (s.updA id f).lports = s.lports ∧ (s.updA id f).mports = s.mports ∧ (s.updA id f).reqs = s.reqs ∧
    (s.updA id f).holdq = s.holdq ∧ (s.updA id f).colls = s.colls ∧ (s.updA id f).peerLate = s.peerLate ∧
    (s.updA id f).peerPaused = s.peerPaused ∧ (s.updA id f).commits = s.commits ∧ (s.updA id f).barriers = s.barriers ∧
    (s.updA id f).dirCache = s.dirCache ∧ (s.updA id f).arbs = s.arbs ∧ (s.updA id f).pools = s.pools ∧
    (s.updA id f).chans = s.chans ∧ (s.updA id f).therms = s.therms ∧ (s.updA id f).lost = s.lost ∧
    (s.updA id f).causeway = s.causeway ∧ (s.updA id f).cwChannel = s.cwChannel ∧ (s.updA id f).mapWait = s.mapWait ∧
    (s.updA id f).ring = s.ring ∧ (s.updA id f).remoteWaits = s.remoteWaits ∧ (s.updA id f).grants = s.grants ∧
    (s.updA id f).remoteAsks = s.remoteAsks ∧ (s.updA id f).remoteLocks = s.remoteLocks ∧ (s.updA id f).contrib = s.contrib ∧
    (s.updA id f).lagoon = s.lagoon ∧ (s.updA id f).asks = s.asks ∧ (s.updA id f).unitWaits = s.unitWaits ∧
    (s.updA id f).chart = s.chart ∧ (s.updA id f).lfsr = s.lfsr ∧ (s.updA id f).cores = s.cores ∧
    (s.updA id f).power = s.power ∧ (s.updA id f).test = s.test ∧ (s.updA id f).clkRec = s.clkRec ∧
    (s.updA id f).freeCtr = s.freeCtr ∧ (s.updA id f).nextId = s.nextId := by
  and_intros <;> rfl

@[simp] theorem State.addAcc_fields (s : State) (a : AccTile) :
    (s.addAcc a).pending = s.pending ∧ (s.addAcc a).params = s.params ∧ (s.addAcc a).time = s.time ∧
    (s.addAcc a).phase = s.phase ∧ (s.addAcc a).lc = s.lc ∧ (s.addAcc a).lcInvalid = s.lcInvalid ∧ (s.addAcc a).lcIn = s.lcIn ∧
    (s.addAcc a).lcReq = s.lcReq ∧ (s.addAcc a).cluster = s.cluster ∧ (s.addAcc a).warmWait = s.warmWait ∧
    (s.addAcc a).offWait = s.offWait ∧ (s.addAcc a).wiping = s.wiping ∧ (s.addAcc a).err = s.err ∧ (s.addAcc a).regs = s.regs ∧
    (s.addAcc a).counters = s.counters ∧ (s.addAcc a).queues = s.queues ∧ (s.addAcc a).streams = s.streams ∧
    (s.addAcc a).rjobs = s.rjobs ∧ (s.addAcc a).wjobs = s.wjobs ∧ (s.addAcc a).accs = s.accs ++ [a] ∧
    (s.addAcc a).atoll = s.atoll ∧ (s.addAcc a).scatter = s.scatter ∧ (s.addAcc a).readers = s.readers ∧
    (s.addAcc a).groups = s.groups ∧ (s.addAcc a).dports = s.dports ∧ (s.addAcc a).iports = s.iports ∧
    (s.addAcc a).lports = s.lports ∧ (s.addAcc a).mports = s.mports ∧ (s.addAcc a).reqs = s.reqs ∧
    (s.addAcc a).holdq = s.holdq ∧ (s.addAcc a).colls = s.colls ∧ (s.addAcc a).peerLate = s.peerLate ∧
    (s.addAcc a).peerPaused = s.peerPaused ∧ (s.addAcc a).commits = s.commits ∧ (s.addAcc a).barriers = s.barriers ∧
    (s.addAcc a).dirCache = s.dirCache ∧ (s.addAcc a).arbs = s.arbs ∧ (s.addAcc a).pools = s.pools ∧
    (s.addAcc a).chans = s.chans ∧ (s.addAcc a).therms = s.therms ∧ (s.addAcc a).lost = s.lost ∧
    (s.addAcc a).causeway = s.causeway ∧ (s.addAcc a).cwChannel = s.cwChannel ∧ (s.addAcc a).mapWait = s.mapWait ∧
    (s.addAcc a).ring = s.ring ∧ (s.addAcc a).remoteWaits = s.remoteWaits ∧ (s.addAcc a).grants = s.grants ∧
    (s.addAcc a).remoteAsks = s.remoteAsks ∧ (s.addAcc a).remoteLocks = s.remoteLocks ∧ (s.addAcc a).contrib = s.contrib ∧
    (s.addAcc a).lagoon = s.lagoon ∧ (s.addAcc a).asks = s.asks ∧ (s.addAcc a).unitWaits = s.unitWaits ∧
    (s.addAcc a).chart = s.chart ∧ (s.addAcc a).lfsr = s.lfsr ∧ (s.addAcc a).cores = s.cores ∧ (s.addAcc a).power = s.power ∧
    (s.addAcc a).test = s.test ∧ (s.addAcc a).clkRec = s.clkRec ∧ (s.addAcc a).freeCtr = s.freeCtr ∧
    (s.addAcc a).nextId = s.nextId + 1 := by
  and_intros <;> rfl

@[simp] theorem State.dropA_fields (s : State) (id : Nat) :
    (s.dropA id).pending = s.pending ∧ (s.dropA id).params = s.params ∧ (s.dropA id).time = s.time ∧
    (s.dropA id).phase = s.phase ∧ (s.dropA id).lc = s.lc ∧ (s.dropA id).lcInvalid = s.lcInvalid ∧ (s.dropA id).lcIn = s.lcIn ∧
    (s.dropA id).lcReq = s.lcReq ∧ (s.dropA id).cluster = s.cluster ∧ (s.dropA id).warmWait = s.warmWait ∧
    (s.dropA id).offWait = s.offWait ∧ (s.dropA id).wiping = s.wiping ∧ (s.dropA id).err = s.err ∧ (s.dropA id).regs = s.regs ∧
    (s.dropA id).counters = s.counters ∧ (s.dropA id).queues = s.queues ∧ (s.dropA id).streams = s.streams ∧
    (s.dropA id).rjobs = s.rjobs ∧ (s.dropA id).wjobs = s.wjobs ∧ (s.dropA id).accs = (s.accs.filter fun a => a.id != id) ∧
    (s.dropA id).atoll = s.atoll ∧ (s.dropA id).scatter = s.scatter ∧ (s.dropA id).readers = s.readers ∧
    (s.dropA id).groups = s.groups ∧ (s.dropA id).dports = s.dports ∧ (s.dropA id).iports = s.iports ∧
    (s.dropA id).lports = s.lports ∧ (s.dropA id).mports = s.mports ∧ (s.dropA id).reqs = s.reqs ∧
    (s.dropA id).holdq = s.holdq ∧ (s.dropA id).colls = s.colls ∧ (s.dropA id).peerLate = s.peerLate ∧
    (s.dropA id).peerPaused = s.peerPaused ∧ (s.dropA id).commits = s.commits ∧ (s.dropA id).barriers = s.barriers ∧
    (s.dropA id).dirCache = s.dirCache ∧ (s.dropA id).arbs = s.arbs ∧ (s.dropA id).pools = s.pools ∧
    (s.dropA id).chans = s.chans ∧ (s.dropA id).therms = s.therms ∧ (s.dropA id).lost = s.lost ∧
    (s.dropA id).causeway = s.causeway ∧ (s.dropA id).cwChannel = s.cwChannel ∧ (s.dropA id).mapWait = s.mapWait ∧
    (s.dropA id).ring = s.ring ∧ (s.dropA id).remoteWaits = s.remoteWaits ∧ (s.dropA id).grants = s.grants ∧
    (s.dropA id).remoteAsks = s.remoteAsks ∧ (s.dropA id).remoteLocks = s.remoteLocks ∧ (s.dropA id).contrib = s.contrib ∧
    (s.dropA id).lagoon = s.lagoon ∧ (s.dropA id).asks = s.asks ∧ (s.dropA id).unitWaits = s.unitWaits ∧
    (s.dropA id).chart = s.chart ∧ (s.dropA id).lfsr = s.lfsr ∧ (s.dropA id).cores = s.cores ∧ (s.dropA id).power = s.power ∧
    (s.dropA id).test = s.test ∧ (s.dropA id).clkRec = s.clkRec ∧ (s.dropA id).freeCtr = s.freeCtr ∧
    (s.dropA id).nextId = s.nextId := by
  and_intros <;> rfl

@[simp] theorem State.updGroup_fields (s : State) (id : Nat) (f : MGroup → MGroup) :
    (s.updGroup id f).pending = s.pending ∧ (s.updGroup id f).params = s.params ∧ (s.updGroup id f).time = s.time ∧
    (s.updGroup id f).phase = s.phase ∧ (s.updGroup id f).lc = s.lc ∧ (s.updGroup id f).lcInvalid = s.lcInvalid ∧
    (s.updGroup id f).lcIn = s.lcIn ∧ (s.updGroup id f).lcReq = s.lcReq ∧ (s.updGroup id f).cluster = s.cluster ∧
    (s.updGroup id f).warmWait = s.warmWait ∧ (s.updGroup id f).offWait = s.offWait ∧ (s.updGroup id f).wiping = s.wiping ∧
    (s.updGroup id f).err = s.err ∧ (s.updGroup id f).regs = s.regs ∧ (s.updGroup id f).counters = s.counters ∧
    (s.updGroup id f).queues = s.queues ∧ (s.updGroup id f).streams = s.streams ∧ (s.updGroup id f).rjobs = s.rjobs ∧
    (s.updGroup id f).wjobs = s.wjobs ∧ (s.updGroup id f).accs = s.accs ∧ (s.updGroup id f).atoll = s.atoll ∧
    (s.updGroup id f).scatter = s.scatter ∧ (s.updGroup id f).readers = s.readers ∧
    (s.updGroup id f).groups = updFirst (fun x => x.id == id) f s.groups ∧ (s.updGroup id f).dports = s.dports ∧
    (s.updGroup id f).iports = s.iports ∧ (s.updGroup id f).lports = s.lports ∧ (s.updGroup id f).mports = s.mports ∧
    (s.updGroup id f).reqs = s.reqs ∧ (s.updGroup id f).holdq = s.holdq ∧ (s.updGroup id f).colls = s.colls ∧
    (s.updGroup id f).peerLate = s.peerLate ∧ (s.updGroup id f).peerPaused = s.peerPaused ∧
    (s.updGroup id f).commits = s.commits ∧ (s.updGroup id f).barriers = s.barriers ∧ (s.updGroup id f).dirCache = s.dirCache ∧
    (s.updGroup id f).arbs = s.arbs ∧ (s.updGroup id f).pools = s.pools ∧ (s.updGroup id f).chans = s.chans ∧
    (s.updGroup id f).therms = s.therms ∧ (s.updGroup id f).lost = s.lost ∧ (s.updGroup id f).causeway = s.causeway ∧
    (s.updGroup id f).cwChannel = s.cwChannel ∧ (s.updGroup id f).mapWait = s.mapWait ∧ (s.updGroup id f).ring = s.ring ∧
    (s.updGroup id f).remoteWaits = s.remoteWaits ∧ (s.updGroup id f).grants = s.grants ∧
    (s.updGroup id f).remoteAsks = s.remoteAsks ∧ (s.updGroup id f).remoteLocks = s.remoteLocks ∧
    (s.updGroup id f).contrib = s.contrib ∧ (s.updGroup id f).lagoon = s.lagoon ∧ (s.updGroup id f).asks = s.asks ∧
    (s.updGroup id f).unitWaits = s.unitWaits ∧ (s.updGroup id f).chart = s.chart ∧ (s.updGroup id f).lfsr = s.lfsr ∧
    (s.updGroup id f).cores = s.cores ∧ (s.updGroup id f).power = s.power ∧ (s.updGroup id f).test = s.test ∧
    (s.updGroup id f).clkRec = s.clkRec ∧ (s.updGroup id f).freeCtr = s.freeCtr ∧ (s.updGroup id f).nextId = s.nextId := by
  and_intros <;> rfl

@[simp] theorem State.updColl_fields (s : State) (n : Nat) (q : Word) (f : Coll → Coll) :
    (s.updColl n q f).pending = s.pending ∧ (s.updColl n q f).params = s.params ∧ (s.updColl n q f).time = s.time ∧
    (s.updColl n q f).phase = s.phase ∧ (s.updColl n q f).lc = s.lc ∧ (s.updColl n q f).lcInvalid = s.lcInvalid ∧
    (s.updColl n q f).lcIn = s.lcIn ∧ (s.updColl n q f).lcReq = s.lcReq ∧ (s.updColl n q f).cluster = s.cluster ∧
    (s.updColl n q f).warmWait = s.warmWait ∧ (s.updColl n q f).offWait = s.offWait ∧ (s.updColl n q f).wiping = s.wiping ∧
    (s.updColl n q f).err = s.err ∧ (s.updColl n q f).regs = s.regs ∧ (s.updColl n q f).counters = s.counters ∧
    (s.updColl n q f).queues = s.queues ∧ (s.updColl n q f).streams = s.streams ∧ (s.updColl n q f).rjobs = s.rjobs ∧
    (s.updColl n q f).wjobs = s.wjobs ∧ (s.updColl n q f).accs = s.accs ∧ (s.updColl n q f).atoll = s.atoll ∧
    (s.updColl n q f).scatter = s.scatter ∧ (s.updColl n q f).readers = s.readers ∧ (s.updColl n q f).groups = s.groups ∧
    (s.updColl n q f).dports = s.dports ∧ (s.updColl n q f).iports = s.iports ∧ (s.updColl n q f).lports = s.lports ∧
    (s.updColl n q f).mports = s.mports ∧ (s.updColl n q f).reqs = s.reqs ∧ (s.updColl n q f).holdq = s.holdq ∧
    (s.updColl n q f).colls = updFirst (fun x => x.stream == n && x.seq == q) f s.colls ∧
    (s.updColl n q f).peerLate = s.peerLate ∧ (s.updColl n q f).peerPaused = s.peerPaused ∧
    (s.updColl n q f).commits = s.commits ∧ (s.updColl n q f).barriers = s.barriers ∧ (s.updColl n q f).dirCache = s.dirCache ∧
    (s.updColl n q f).arbs = s.arbs ∧ (s.updColl n q f).pools = s.pools ∧ (s.updColl n q f).chans = s.chans ∧
    (s.updColl n q f).therms = s.therms ∧ (s.updColl n q f).lost = s.lost ∧ (s.updColl n q f).causeway = s.causeway ∧
    (s.updColl n q f).cwChannel = s.cwChannel ∧ (s.updColl n q f).mapWait = s.mapWait ∧ (s.updColl n q f).ring = s.ring ∧
    (s.updColl n q f).remoteWaits = s.remoteWaits ∧ (s.updColl n q f).grants = s.grants ∧
    (s.updColl n q f).remoteAsks = s.remoteAsks ∧ (s.updColl n q f).remoteLocks = s.remoteLocks ∧
    (s.updColl n q f).contrib = s.contrib ∧ (s.updColl n q f).lagoon = s.lagoon ∧ (s.updColl n q f).asks = s.asks ∧
    (s.updColl n q f).unitWaits = s.unitWaits ∧ (s.updColl n q f).chart = s.chart ∧ (s.updColl n q f).lfsr = s.lfsr ∧
    (s.updColl n q f).cores = s.cores ∧ (s.updColl n q f).power = s.power ∧ (s.updColl n q f).test = s.test ∧
    (s.updColl n q f).clkRec = s.clkRec ∧ (s.updColl n q f).freeCtr = s.freeCtr ∧ (s.updColl n q f).nextId = s.nextId := by
  and_intros <;> rfl

@[simp] theorem State.updChunk_fields (s : State) (n : Nat) (q : Word) (c : Nat) (f : SendChunk → SendChunk) :
    (s.updChunk n q c f).pending = s.pending ∧ (s.updChunk n q c f).params = s.params ∧ (s.updChunk n q c f).time = s.time ∧
    (s.updChunk n q c f).phase = s.phase ∧ (s.updChunk n q c f).lc = s.lc ∧ (s.updChunk n q c f).lcInvalid = s.lcInvalid ∧
    (s.updChunk n q c f).lcIn = s.lcIn ∧ (s.updChunk n q c f).lcReq = s.lcReq ∧ (s.updChunk n q c f).cluster = s.cluster ∧
    (s.updChunk n q c f).warmWait = s.warmWait ∧ (s.updChunk n q c f).offWait = s.offWait ∧
    (s.updChunk n q c f).wiping = s.wiping ∧ (s.updChunk n q c f).err = s.err ∧ (s.updChunk n q c f).regs = s.regs ∧
    (s.updChunk n q c f).counters = s.counters ∧ (s.updChunk n q c f).queues = s.queues ∧
    (s.updChunk n q c f).streams = s.streams ∧ (s.updChunk n q c f).rjobs = s.rjobs ∧ (s.updChunk n q c f).wjobs = s.wjobs ∧
    (s.updChunk n q c f).accs = s.accs ∧ (s.updChunk n q c f).atoll = s.atoll ∧ (s.updChunk n q c f).scatter = s.scatter ∧
    (s.updChunk n q c f).readers = s.readers ∧ (s.updChunk n q c f).groups = s.groups ∧
    (s.updChunk n q c f).dports = s.dports ∧ (s.updChunk n q c f).iports = s.iports ∧ (s.updChunk n q c f).lports = s.lports ∧
    (s.updChunk n q c f).mports = s.mports ∧ (s.updChunk n q c f).reqs = s.reqs ∧ (s.updChunk n q c f).holdq = s.holdq ∧
    (s.updChunk n q c f).peerLate = s.peerLate ∧ (s.updChunk n q c f).peerPaused = s.peerPaused ∧
    (s.updChunk n q c f).commits = s.commits ∧ (s.updChunk n q c f).barriers = s.barriers ∧
    (s.updChunk n q c f).dirCache = s.dirCache ∧ (s.updChunk n q c f).arbs = s.arbs ∧ (s.updChunk n q c f).pools = s.pools ∧
    (s.updChunk n q c f).chans = s.chans ∧ (s.updChunk n q c f).therms = s.therms ∧ (s.updChunk n q c f).lost = s.lost ∧
    (s.updChunk n q c f).causeway = s.causeway ∧ (s.updChunk n q c f).cwChannel = s.cwChannel ∧
    (s.updChunk n q c f).mapWait = s.mapWait ∧ (s.updChunk n q c f).ring = s.ring ∧
    (s.updChunk n q c f).remoteWaits = s.remoteWaits ∧ (s.updChunk n q c f).grants = s.grants ∧
    (s.updChunk n q c f).remoteAsks = s.remoteAsks ∧ (s.updChunk n q c f).remoteLocks = s.remoteLocks ∧
    (s.updChunk n q c f).contrib = s.contrib ∧ (s.updChunk n q c f).lagoon = s.lagoon ∧ (s.updChunk n q c f).asks = s.asks ∧
    (s.updChunk n q c f).unitWaits = s.unitWaits ∧ (s.updChunk n q c f).chart = s.chart ∧ (s.updChunk n q c f).lfsr = s.lfsr ∧
    (s.updChunk n q c f).cores = s.cores ∧ (s.updChunk n q c f).power = s.power ∧ (s.updChunk n q c f).test = s.test ∧
    (s.updChunk n q c f).clkRec = s.clkRec ∧ (s.updChunk n q c f).freeCtr = s.freeCtr ∧ (s.updChunk n q c f).nextId = s.nextId := by
  and_intros <;> rfl

@[simp] theorem State.updPool_fields (s : State) (id : Nat) (f : PoolSt → PoolSt) :
    (s.updPool id f).pending = s.pending ∧ (s.updPool id f).params = s.params ∧ (s.updPool id f).time = s.time ∧
    (s.updPool id f).phase = s.phase ∧ (s.updPool id f).lc = s.lc ∧ (s.updPool id f).lcInvalid = s.lcInvalid ∧
    (s.updPool id f).lcIn = s.lcIn ∧ (s.updPool id f).lcReq = s.lcReq ∧ (s.updPool id f).cluster = s.cluster ∧
    (s.updPool id f).warmWait = s.warmWait ∧ (s.updPool id f).offWait = s.offWait ∧ (s.updPool id f).wiping = s.wiping ∧
    (s.updPool id f).err = s.err ∧ (s.updPool id f).regs = s.regs ∧ (s.updPool id f).counters = s.counters ∧
    (s.updPool id f).queues = s.queues ∧ (s.updPool id f).streams = s.streams ∧ (s.updPool id f).rjobs = s.rjobs ∧
    (s.updPool id f).wjobs = s.wjobs ∧ (s.updPool id f).accs = s.accs ∧ (s.updPool id f).atoll = s.atoll ∧
    (s.updPool id f).scatter = s.scatter ∧ (s.updPool id f).readers = s.readers ∧ (s.updPool id f).groups = s.groups ∧
    (s.updPool id f).dports = s.dports ∧ (s.updPool id f).iports = s.iports ∧ (s.updPool id f).lports = s.lports ∧
    (s.updPool id f).mports = s.mports ∧ (s.updPool id f).reqs = s.reqs ∧ (s.updPool id f).holdq = s.holdq ∧
    (s.updPool id f).colls = s.colls ∧ (s.updPool id f).peerLate = s.peerLate ∧ (s.updPool id f).peerPaused = s.peerPaused ∧
    (s.updPool id f).commits = s.commits ∧ (s.updPool id f).barriers = s.barriers ∧ (s.updPool id f).dirCache = s.dirCache ∧
    (s.updPool id f).arbs = s.arbs ∧ (s.updPool id f).pools = updFirst (fun p => p.id == id) f s.pools ∧
    (s.updPool id f).chans = s.chans ∧ (s.updPool id f).therms = s.therms ∧ (s.updPool id f).lost = s.lost ∧
    (s.updPool id f).causeway = s.causeway ∧ (s.updPool id f).cwChannel = s.cwChannel ∧ (s.updPool id f).mapWait = s.mapWait ∧
    (s.updPool id f).ring = s.ring ∧ (s.updPool id f).remoteWaits = s.remoteWaits ∧ (s.updPool id f).grants = s.grants ∧
    (s.updPool id f).remoteAsks = s.remoteAsks ∧ (s.updPool id f).remoteLocks = s.remoteLocks ∧
    (s.updPool id f).contrib = s.contrib ∧ (s.updPool id f).lagoon = s.lagoon ∧ (s.updPool id f).asks = s.asks ∧
    (s.updPool id f).unitWaits = s.unitWaits ∧ (s.updPool id f).chart = s.chart ∧ (s.updPool id f).lfsr = s.lfsr ∧
    (s.updPool id f).cores = s.cores ∧ (s.updPool id f).power = s.power ∧ (s.updPool id f).test = s.test ∧
    (s.updPool id f).clkRec = s.clkRec ∧ (s.updPool id f).freeCtr = s.freeCtr ∧ (s.updPool id f).nextId = s.nextId := by
  and_intros <;> rfl

@[simp] theorem State.updChan_fields (s : State) (id : Nat) (f : Chan → Chan) :
    (s.updChan id f).pending = s.pending ∧ (s.updChan id f).params = s.params ∧ (s.updChan id f).time = s.time ∧
    (s.updChan id f).phase = s.phase ∧ (s.updChan id f).lc = s.lc ∧ (s.updChan id f).lcInvalid = s.lcInvalid ∧
    (s.updChan id f).lcIn = s.lcIn ∧ (s.updChan id f).lcReq = s.lcReq ∧ (s.updChan id f).cluster = s.cluster ∧
    (s.updChan id f).warmWait = s.warmWait ∧ (s.updChan id f).offWait = s.offWait ∧ (s.updChan id f).wiping = s.wiping ∧
    (s.updChan id f).err = s.err ∧ (s.updChan id f).regs = s.regs ∧ (s.updChan id f).counters = s.counters ∧
    (s.updChan id f).queues = s.queues ∧ (s.updChan id f).streams = s.streams ∧ (s.updChan id f).rjobs = s.rjobs ∧
    (s.updChan id f).wjobs = s.wjobs ∧ (s.updChan id f).accs = s.accs ∧ (s.updChan id f).atoll = s.atoll ∧
    (s.updChan id f).scatter = s.scatter ∧ (s.updChan id f).readers = s.readers ∧ (s.updChan id f).groups = s.groups ∧
    (s.updChan id f).dports = s.dports ∧ (s.updChan id f).iports = s.iports ∧ (s.updChan id f).lports = s.lports ∧
    (s.updChan id f).mports = s.mports ∧ (s.updChan id f).reqs = s.reqs ∧ (s.updChan id f).holdq = s.holdq ∧
    (s.updChan id f).colls = s.colls ∧ (s.updChan id f).peerLate = s.peerLate ∧ (s.updChan id f).peerPaused = s.peerPaused ∧
    (s.updChan id f).commits = s.commits ∧ (s.updChan id f).barriers = s.barriers ∧ (s.updChan id f).dirCache = s.dirCache ∧
    (s.updChan id f).arbs = s.arbs ∧ (s.updChan id f).pools = s.pools ∧
    (s.updChan id f).chans = upsert (fun c => c.id == id) (f (s.chan id)) s.chans ∧ (s.updChan id f).therms = s.therms ∧
    (s.updChan id f).lost = s.lost ∧ (s.updChan id f).causeway = s.causeway ∧ (s.updChan id f).cwChannel = s.cwChannel ∧
    (s.updChan id f).mapWait = s.mapWait ∧ (s.updChan id f).ring = s.ring ∧ (s.updChan id f).remoteWaits = s.remoteWaits ∧
    (s.updChan id f).grants = s.grants ∧ (s.updChan id f).remoteAsks = s.remoteAsks ∧
    (s.updChan id f).remoteLocks = s.remoteLocks ∧ (s.updChan id f).contrib = s.contrib ∧ (s.updChan id f).lagoon = s.lagoon ∧
    (s.updChan id f).asks = s.asks ∧ (s.updChan id f).unitWaits = s.unitWaits ∧ (s.updChan id f).chart = s.chart ∧
    (s.updChan id f).lfsr = s.lfsr ∧ (s.updChan id f).cores = s.cores ∧ (s.updChan id f).power = s.power ∧
    (s.updChan id f).test = s.test ∧ (s.updChan id f).clkRec = s.clkRec ∧ (s.updChan id f).freeCtr = s.freeCtr ∧
    (s.updChan id f).nextId = s.nextId := by
  and_intros <;> rfl

@[simp] theorem State.updCore_fields (s : State) (c : Fin 16) (f : Core → Core) :
    (s.updCore c f).pending = s.pending ∧ (s.updCore c f).params = s.params ∧ (s.updCore c f).time = s.time ∧
    (s.updCore c f).phase = s.phase ∧ (s.updCore c f).lc = s.lc ∧ (s.updCore c f).lcInvalid = s.lcInvalid ∧
    (s.updCore c f).lcIn = s.lcIn ∧ (s.updCore c f).lcReq = s.lcReq ∧ (s.updCore c f).cluster = s.cluster ∧
    (s.updCore c f).warmWait = s.warmWait ∧ (s.updCore c f).offWait = s.offWait ∧ (s.updCore c f).wiping = s.wiping ∧
    (s.updCore c f).err = s.err ∧ (s.updCore c f).regs = s.regs ∧ (s.updCore c f).counters = s.counters ∧
    (s.updCore c f).queues = s.queues ∧ (s.updCore c f).streams = s.streams ∧ (s.updCore c f).rjobs = s.rjobs ∧
    (s.updCore c f).wjobs = s.wjobs ∧ (s.updCore c f).accs = s.accs ∧ (s.updCore c f).atoll = s.atoll ∧
    (s.updCore c f).scatter = s.scatter ∧ (s.updCore c f).readers = s.readers ∧ (s.updCore c f).groups = s.groups ∧
    (s.updCore c f).dports = s.dports ∧ (s.updCore c f).iports = s.iports ∧ (s.updCore c f).lports = s.lports ∧
    (s.updCore c f).mports = s.mports ∧ (s.updCore c f).reqs = s.reqs ∧ (s.updCore c f).holdq = s.holdq ∧
    (s.updCore c f).colls = s.colls ∧ (s.updCore c f).peerLate = s.peerLate ∧ (s.updCore c f).peerPaused = s.peerPaused ∧
    (s.updCore c f).commits = s.commits ∧ (s.updCore c f).barriers = s.barriers ∧ (s.updCore c f).dirCache = s.dirCache ∧
    (s.updCore c f).arbs = s.arbs ∧ (s.updCore c f).pools = s.pools ∧ (s.updCore c f).chans = s.chans ∧
    (s.updCore c f).therms = s.therms ∧ (s.updCore c f).lost = s.lost ∧ (s.updCore c f).causeway = s.causeway ∧
    (s.updCore c f).cwChannel = s.cwChannel ∧ (s.updCore c f).mapWait = s.mapWait ∧ (s.updCore c f).ring = s.ring ∧
    (s.updCore c f).remoteWaits = s.remoteWaits ∧ (s.updCore c f).grants = s.grants ∧
    (s.updCore c f).remoteAsks = s.remoteAsks ∧ (s.updCore c f).remoteLocks = s.remoteLocks ∧
    (s.updCore c f).contrib = s.contrib ∧ (s.updCore c f).lagoon = s.lagoon ∧ (s.updCore c f).asks = s.asks ∧
    (s.updCore c f).unitWaits = s.unitWaits ∧ (s.updCore c f).chart = s.chart ∧ (s.updCore c f).lfsr = s.lfsr ∧
    (s.updCore c f).cores = s.cores.set c (f s.cores[c]) ∧ (s.updCore c f).power = s.power ∧ (s.updCore c f).test = s.test ∧
    (s.updCore c f).clkRec = s.clkRec ∧ (s.updCore c f).freeCtr = s.freeCtr ∧ (s.updCore c f).nextId = s.nextId := by
  and_intros <;> rfl

@[simp] theorem State.updDport_fields (s : State) (p : Fin 8) (f : DPort → DPort) :
    (s.updDport p f).pending = s.pending ∧ (s.updDport p f).params = s.params ∧ (s.updDport p f).time = s.time ∧
    (s.updDport p f).phase = s.phase ∧ (s.updDport p f).lc = s.lc ∧ (s.updDport p f).lcInvalid = s.lcInvalid ∧
    (s.updDport p f).lcIn = s.lcIn ∧ (s.updDport p f).lcReq = s.lcReq ∧ (s.updDport p f).cluster = s.cluster ∧
    (s.updDport p f).warmWait = s.warmWait ∧ (s.updDport p f).offWait = s.offWait ∧ (s.updDport p f).wiping = s.wiping ∧
    (s.updDport p f).err = s.err ∧ (s.updDport p f).regs = s.regs ∧ (s.updDport p f).counters = s.counters ∧
    (s.updDport p f).queues = s.queues ∧ (s.updDport p f).streams = s.streams ∧ (s.updDport p f).rjobs = s.rjobs ∧
    (s.updDport p f).wjobs = s.wjobs ∧ (s.updDport p f).accs = s.accs ∧ (s.updDport p f).atoll = s.atoll ∧
    (s.updDport p f).scatter = s.scatter ∧ (s.updDport p f).readers = s.readers ∧ (s.updDport p f).groups = s.groups ∧
    (s.updDport p f).dports = s.dports.set p (f s.dports[p]) ∧ (s.updDport p f).iports = s.iports ∧
    (s.updDport p f).lports = s.lports ∧ (s.updDport p f).mports = s.mports ∧ (s.updDport p f).reqs = s.reqs ∧
    (s.updDport p f).holdq = s.holdq ∧ (s.updDport p f).colls = s.colls ∧ (s.updDport p f).peerLate = s.peerLate ∧
    (s.updDport p f).peerPaused = s.peerPaused ∧ (s.updDport p f).commits = s.commits ∧
    (s.updDport p f).barriers = s.barriers ∧ (s.updDport p f).dirCache = s.dirCache ∧ (s.updDport p f).arbs = s.arbs ∧
    (s.updDport p f).pools = s.pools ∧ (s.updDport p f).chans = s.chans ∧ (s.updDport p f).therms = s.therms ∧
    (s.updDport p f).lost = s.lost ∧ (s.updDport p f).causeway = s.causeway ∧ (s.updDport p f).cwChannel = s.cwChannel ∧
    (s.updDport p f).mapWait = s.mapWait ∧ (s.updDport p f).ring = s.ring ∧ (s.updDport p f).remoteWaits = s.remoteWaits ∧
    (s.updDport p f).grants = s.grants ∧ (s.updDport p f).remoteAsks = s.remoteAsks ∧
    (s.updDport p f).remoteLocks = s.remoteLocks ∧ (s.updDport p f).contrib = s.contrib ∧ (s.updDport p f).lagoon = s.lagoon ∧
    (s.updDport p f).asks = s.asks ∧ (s.updDport p f).unitWaits = s.unitWaits ∧ (s.updDport p f).chart = s.chart ∧
    (s.updDport p f).lfsr = s.lfsr ∧ (s.updDport p f).cores = s.cores ∧ (s.updDport p f).power = s.power ∧
    (s.updDport p f).test = s.test ∧ (s.updDport p f).clkRec = s.clkRec ∧ (s.updDport p f).freeCtr = s.freeCtr ∧
    (s.updDport p f).nextId = s.nextId := by
  and_intros <;> rfl

@[simp] theorem State.addUnit_fields (s : State) (p : Fin 8) (u : DUnit) :
    (s.addUnit p u).pending = s.pending ∧ (s.addUnit p u).params = s.params ∧ (s.addUnit p u).time = s.time ∧
    (s.addUnit p u).phase = s.phase ∧ (s.addUnit p u).lc = s.lc ∧ (s.addUnit p u).lcInvalid = s.lcInvalid ∧
    (s.addUnit p u).lcIn = s.lcIn ∧ (s.addUnit p u).lcReq = s.lcReq ∧ (s.addUnit p u).cluster = s.cluster ∧
    (s.addUnit p u).warmWait = s.warmWait ∧ (s.addUnit p u).offWait = s.offWait ∧ (s.addUnit p u).wiping = s.wiping ∧
    (s.addUnit p u).err = s.err ∧ (s.addUnit p u).regs = s.regs ∧ (s.addUnit p u).counters = s.counters ∧
    (s.addUnit p u).queues = s.queues ∧ (s.addUnit p u).streams = s.streams ∧ (s.addUnit p u).rjobs = s.rjobs ∧
    (s.addUnit p u).wjobs = s.wjobs ∧ (s.addUnit p u).accs = s.accs ∧ (s.addUnit p u).atoll = s.atoll ∧
    (s.addUnit p u).scatter = s.scatter ∧ (s.addUnit p u).readers = s.readers ∧ (s.addUnit p u).groups = s.groups ∧
    (s.addUnit p u).iports = s.iports ∧ (s.addUnit p u).lports = s.lports ∧ (s.addUnit p u).mports = s.mports ∧
    (s.addUnit p u).reqs = s.reqs ∧ (s.addUnit p u).holdq = s.holdq ∧ (s.addUnit p u).colls = s.colls ∧
    (s.addUnit p u).peerLate = s.peerLate ∧ (s.addUnit p u).peerPaused = s.peerPaused ∧ (s.addUnit p u).commits = s.commits ∧
    (s.addUnit p u).barriers = s.barriers ∧ (s.addUnit p u).dirCache = s.dirCache ∧ (s.addUnit p u).arbs = s.arbs ∧
    (s.addUnit p u).pools = s.pools ∧ (s.addUnit p u).chans = s.chans ∧ (s.addUnit p u).therms = s.therms ∧
    (s.addUnit p u).lost = s.lost ∧ (s.addUnit p u).causeway = s.causeway ∧ (s.addUnit p u).cwChannel = s.cwChannel ∧
    (s.addUnit p u).mapWait = s.mapWait ∧ (s.addUnit p u).ring = s.ring ∧ (s.addUnit p u).remoteWaits = s.remoteWaits ∧
    (s.addUnit p u).grants = s.grants ∧ (s.addUnit p u).remoteAsks = s.remoteAsks ∧
    (s.addUnit p u).remoteLocks = s.remoteLocks ∧ (s.addUnit p u).contrib = s.contrib ∧ (s.addUnit p u).lagoon = s.lagoon ∧
    (s.addUnit p u).asks = s.asks ∧ (s.addUnit p u).unitWaits = s.unitWaits ∧ (s.addUnit p u).chart = s.chart ∧
    (s.addUnit p u).lfsr = s.lfsr ∧ (s.addUnit p u).cores = s.cores ∧ (s.addUnit p u).power = s.power ∧
    (s.addUnit p u).test = s.test ∧ (s.addUnit p u).clkRec = s.clkRec ∧ (s.addUnit p u).freeCtr = s.freeCtr ∧
    (s.addUnit p u).nextId = s.nextId + 1 := by
  and_intros <;> rfl

@[simp] theorem State.updIport_fields (s : State) (p : Fin 4) (f : IPort → IPort) :
    (s.updIport p f).pending = s.pending ∧ (s.updIport p f).params = s.params ∧ (s.updIport p f).time = s.time ∧
    (s.updIport p f).phase = s.phase ∧ (s.updIport p f).lc = s.lc ∧ (s.updIport p f).lcInvalid = s.lcInvalid ∧
    (s.updIport p f).lcIn = s.lcIn ∧ (s.updIport p f).lcReq = s.lcReq ∧ (s.updIport p f).cluster = s.cluster ∧
    (s.updIport p f).warmWait = s.warmWait ∧ (s.updIport p f).offWait = s.offWait ∧ (s.updIport p f).wiping = s.wiping ∧
    (s.updIport p f).err = s.err ∧ (s.updIport p f).regs = s.regs ∧ (s.updIport p f).counters = s.counters ∧
    (s.updIport p f).queues = s.queues ∧ (s.updIport p f).streams = s.streams ∧ (s.updIport p f).rjobs = s.rjobs ∧
    (s.updIport p f).wjobs = s.wjobs ∧ (s.updIport p f).accs = s.accs ∧ (s.updIport p f).atoll = s.atoll ∧
    (s.updIport p f).scatter = s.scatter ∧ (s.updIport p f).readers = s.readers ∧ (s.updIport p f).groups = s.groups ∧
    (s.updIport p f).dports = s.dports ∧ (s.updIport p f).iports = s.iports.set p (f s.iports[p]) ∧
    (s.updIport p f).lports = s.lports ∧ (s.updIport p f).mports = s.mports ∧ (s.updIport p f).reqs = s.reqs ∧
    (s.updIport p f).holdq = s.holdq ∧ (s.updIport p f).colls = s.colls ∧ (s.updIport p f).peerLate = s.peerLate ∧
    (s.updIport p f).peerPaused = s.peerPaused ∧ (s.updIport p f).commits = s.commits ∧
    (s.updIport p f).barriers = s.barriers ∧ (s.updIport p f).dirCache = s.dirCache ∧ (s.updIport p f).arbs = s.arbs ∧
    (s.updIport p f).pools = s.pools ∧ (s.updIport p f).chans = s.chans ∧ (s.updIport p f).therms = s.therms ∧
    (s.updIport p f).lost = s.lost ∧ (s.updIport p f).causeway = s.causeway ∧ (s.updIport p f).cwChannel = s.cwChannel ∧
    (s.updIport p f).mapWait = s.mapWait ∧ (s.updIport p f).ring = s.ring ∧ (s.updIport p f).remoteWaits = s.remoteWaits ∧
    (s.updIport p f).grants = s.grants ∧ (s.updIport p f).remoteAsks = s.remoteAsks ∧
    (s.updIport p f).remoteLocks = s.remoteLocks ∧ (s.updIport p f).contrib = s.contrib ∧ (s.updIport p f).lagoon = s.lagoon ∧
    (s.updIport p f).asks = s.asks ∧ (s.updIport p f).unitWaits = s.unitWaits ∧ (s.updIport p f).chart = s.chart ∧
    (s.updIport p f).lfsr = s.lfsr ∧ (s.updIport p f).cores = s.cores ∧ (s.updIport p f).power = s.power ∧
    (s.updIport p f).test = s.test ∧ (s.updIport p f).clkRec = s.clkRec ∧ (s.updIport p f).freeCtr = s.freeCtr ∧
    (s.updIport p f).nextId = s.nextId := by
  and_intros <;> rfl

@[simp] theorem State.updSpill_fields (s : State) (id : Nat) (f : Spill → Spill) :
    (s.updSpill id f).pending = s.pending ∧ (s.updSpill id f).params = s.params ∧ (s.updSpill id f).time = s.time ∧
    (s.updSpill id f).phase = s.phase ∧ (s.updSpill id f).lc = s.lc ∧ (s.updSpill id f).lcInvalid = s.lcInvalid ∧
    (s.updSpill id f).lcIn = s.lcIn ∧ (s.updSpill id f).lcReq = s.lcReq ∧ (s.updSpill id f).cluster = s.cluster ∧
    (s.updSpill id f).warmWait = s.warmWait ∧ (s.updSpill id f).offWait = s.offWait ∧ (s.updSpill id f).wiping = s.wiping ∧
    (s.updSpill id f).err = s.err ∧ (s.updSpill id f).regs = s.regs ∧ (s.updSpill id f).counters = s.counters ∧
    (s.updSpill id f).queues = s.queues ∧ (s.updSpill id f).streams = s.streams ∧ (s.updSpill id f).rjobs = s.rjobs ∧
    (s.updSpill id f).wjobs = s.wjobs ∧ (s.updSpill id f).accs = s.accs ∧ (s.updSpill id f).atoll = s.atoll ∧
    (s.updSpill id f).scatter = s.scatter ∧ (s.updSpill id f).readers = s.readers ∧ (s.updSpill id f).groups = s.groups ∧
    (s.updSpill id f).dports = s.dports ∧ (s.updSpill id f).iports = s.iports ∧ (s.updSpill id f).lports = s.lports ∧
    (s.updSpill id f).mports = s.mports ∧ (s.updSpill id f).reqs = s.reqs ∧ (s.updSpill id f).holdq = s.holdq ∧
    (s.updSpill id f).colls = s.colls ∧ (s.updSpill id f).peerLate = s.peerLate ∧ (s.updSpill id f).peerPaused = s.peerPaused ∧
    (s.updSpill id f).commits = s.commits ∧ (s.updSpill id f).barriers = s.barriers ∧ (s.updSpill id f).dirCache = s.dirCache ∧
    (s.updSpill id f).arbs = s.arbs ∧ (s.updSpill id f).pools = s.pools ∧ (s.updSpill id f).chans = s.chans ∧
    (s.updSpill id f).therms = s.therms ∧ (s.updSpill id f).lost = s.lost ∧ (s.updSpill id f).causeway = s.causeway ∧
    (s.updSpill id f).cwChannel = s.cwChannel ∧ (s.updSpill id f).mapWait = s.mapWait ∧ (s.updSpill id f).ring = s.ring ∧
    (s.updSpill id f).remoteWaits = s.remoteWaits ∧ (s.updSpill id f).grants = s.grants ∧
    (s.updSpill id f).remoteAsks = s.remoteAsks ∧ (s.updSpill id f).remoteLocks = s.remoteLocks ∧
    (s.updSpill id f).contrib = s.contrib ∧ (s.updSpill id f).lagoon = updFirst (fun x => x.id == id) f s.lagoon ∧
    (s.updSpill id f).asks = s.asks ∧ (s.updSpill id f).unitWaits = s.unitWaits ∧ (s.updSpill id f).chart = s.chart ∧
    (s.updSpill id f).lfsr = s.lfsr ∧ (s.updSpill id f).cores = s.cores ∧ (s.updSpill id f).power = s.power ∧
    (s.updSpill id f).test = s.test ∧ (s.updSpill id f).clkRec = s.clkRec ∧ (s.updSpill id f).freeCtr = s.freeCtr ∧
    (s.updSpill id f).nextId = s.nextId := by
  and_intros <;> rfl

@[simp] theorem State.updLport_fields (s : State) (p : Fin 2) (f : LPort → LPort) :
    (s.updLport p f).pending = s.pending ∧ (s.updLport p f).params = s.params ∧ (s.updLport p f).time = s.time ∧
    (s.updLport p f).phase = s.phase ∧ (s.updLport p f).lc = s.lc ∧ (s.updLport p f).lcInvalid = s.lcInvalid ∧
    (s.updLport p f).lcIn = s.lcIn ∧ (s.updLport p f).lcReq = s.lcReq ∧ (s.updLport p f).cluster = s.cluster ∧
    (s.updLport p f).warmWait = s.warmWait ∧ (s.updLport p f).offWait = s.offWait ∧ (s.updLport p f).wiping = s.wiping ∧
    (s.updLport p f).err = s.err ∧ (s.updLport p f).regs = s.regs ∧ (s.updLport p f).counters = s.counters ∧
    (s.updLport p f).queues = s.queues ∧ (s.updLport p f).streams = s.streams ∧ (s.updLport p f).rjobs = s.rjobs ∧
    (s.updLport p f).wjobs = s.wjobs ∧ (s.updLport p f).accs = s.accs ∧ (s.updLport p f).atoll = s.atoll ∧
    (s.updLport p f).scatter = s.scatter ∧ (s.updLport p f).readers = s.readers ∧ (s.updLport p f).groups = s.groups ∧
    (s.updLport p f).dports = s.dports ∧ (s.updLport p f).iports = s.iports ∧
    (s.updLport p f).lports = s.lports.set p (f s.lports[p]) ∧ (s.updLport p f).mports = s.mports ∧
    (s.updLport p f).reqs = s.reqs ∧ (s.updLport p f).holdq = s.holdq ∧ (s.updLport p f).colls = s.colls ∧
    (s.updLport p f).peerLate = s.peerLate ∧ (s.updLport p f).peerPaused = s.peerPaused ∧
    (s.updLport p f).commits = s.commits ∧ (s.updLport p f).barriers = s.barriers ∧ (s.updLport p f).dirCache = s.dirCache ∧
    (s.updLport p f).arbs = s.arbs ∧ (s.updLport p f).pools = s.pools ∧ (s.updLport p f).chans = s.chans ∧
    (s.updLport p f).therms = s.therms ∧ (s.updLport p f).lost = s.lost ∧ (s.updLport p f).causeway = s.causeway ∧
    (s.updLport p f).cwChannel = s.cwChannel ∧ (s.updLport p f).mapWait = s.mapWait ∧ (s.updLport p f).ring = s.ring ∧
    (s.updLport p f).remoteWaits = s.remoteWaits ∧ (s.updLport p f).grants = s.grants ∧
    (s.updLport p f).remoteAsks = s.remoteAsks ∧ (s.updLport p f).remoteLocks = s.remoteLocks ∧
    (s.updLport p f).contrib = s.contrib ∧ (s.updLport p f).lagoon = s.lagoon ∧ (s.updLport p f).asks = s.asks ∧
    (s.updLport p f).unitWaits = s.unitWaits ∧ (s.updLport p f).chart = s.chart ∧ (s.updLport p f).lfsr = s.lfsr ∧
    (s.updLport p f).cores = s.cores ∧ (s.updLport p f).power = s.power ∧ (s.updLport p f).test = s.test ∧
    (s.updLport p f).clkRec = s.clkRec ∧ (s.updLport p f).freeCtr = s.freeCtr ∧ (s.updLport p f).nextId = s.nextId := by
  and_intros <;> rfl

@[simp] theorem State.dropReqs_fields (s : State) (p : Purpose → Bool) :
    (s.dropReqs p).pending = s.pending ∧ (s.dropReqs p).params = s.params ∧ (s.dropReqs p).time = s.time ∧
    (s.dropReqs p).phase = s.phase ∧ (s.dropReqs p).lc = s.lc ∧ (s.dropReqs p).lcInvalid = s.lcInvalid ∧
    (s.dropReqs p).lcIn = s.lcIn ∧ (s.dropReqs p).lcReq = s.lcReq ∧ (s.dropReqs p).cluster = s.cluster ∧
    (s.dropReqs p).warmWait = s.warmWait ∧ (s.dropReqs p).offWait = s.offWait ∧ (s.dropReqs p).wiping = s.wiping ∧
    (s.dropReqs p).err = s.err ∧ (s.dropReqs p).regs = s.regs ∧ (s.dropReqs p).counters = s.counters ∧
    (s.dropReqs p).queues = s.queues ∧ (s.dropReqs p).streams = s.streams ∧ (s.dropReqs p).rjobs = s.rjobs ∧
    (s.dropReqs p).wjobs = s.wjobs ∧ (s.dropReqs p).accs = s.accs ∧ (s.dropReqs p).atoll = s.atoll ∧
    (s.dropReqs p).scatter = s.scatter ∧ (s.dropReqs p).readers = s.readers ∧ (s.dropReqs p).groups = s.groups ∧
    (s.dropReqs p).dports = s.dports ∧ (s.dropReqs p).iports = s.iports ∧ (s.dropReqs p).lports = s.lports ∧
    (s.dropReqs p).mports = s.mports ∧ (s.dropReqs p).holdq = (s.holdq.filter fun r => !p r.purpose) ∧
    (s.dropReqs p).colls = s.colls ∧ (s.dropReqs p).peerLate = s.peerLate ∧ (s.dropReqs p).peerPaused = s.peerPaused ∧
    (s.dropReqs p).commits = s.commits ∧ (s.dropReqs p).barriers = s.barriers ∧ (s.dropReqs p).dirCache = s.dirCache ∧
    (s.dropReqs p).arbs = s.arbs ∧ (s.dropReqs p).pools = s.pools ∧ (s.dropReqs p).chans = s.chans ∧
    (s.dropReqs p).therms = s.therms ∧ (s.dropReqs p).lost = s.lost ∧ (s.dropReqs p).causeway = s.causeway ∧
    (s.dropReqs p).cwChannel = s.cwChannel ∧ (s.dropReqs p).mapWait = s.mapWait ∧ (s.dropReqs p).ring = s.ring ∧
    (s.dropReqs p).remoteWaits = s.remoteWaits ∧ (s.dropReqs p).grants = s.grants ∧ (s.dropReqs p).remoteAsks = s.remoteAsks ∧
    (s.dropReqs p).remoteLocks = s.remoteLocks ∧ (s.dropReqs p).contrib = s.contrib ∧ (s.dropReqs p).lagoon = s.lagoon ∧
    (s.dropReqs p).asks = s.asks ∧ (s.dropReqs p).unitWaits = s.unitWaits ∧ (s.dropReqs p).chart = s.chart ∧
    (s.dropReqs p).lfsr = s.lfsr ∧ (s.dropReqs p).cores = s.cores ∧ (s.dropReqs p).power = s.power ∧
    (s.dropReqs p).test = s.test ∧ (s.dropReqs p).clkRec = s.clkRec ∧ (s.dropReqs p).freeCtr = s.freeCtr ∧
    (s.dropReqs p).nextId = s.nextId := by
  and_intros <;> rfl

@[simp] theorem State.setEntry_fields (s : State) (e : AtollEntry) :
    (s.setEntry e).pending = s.pending ∧ (s.setEntry e).params = s.params ∧ (s.setEntry e).time = s.time ∧
    (s.setEntry e).phase = s.phase ∧ (s.setEntry e).lc = s.lc ∧ (s.setEntry e).lcInvalid = s.lcInvalid ∧
    (s.setEntry e).lcIn = s.lcIn ∧ (s.setEntry e).lcReq = s.lcReq ∧ (s.setEntry e).cluster = s.cluster ∧
    (s.setEntry e).warmWait = s.warmWait ∧ (s.setEntry e).offWait = s.offWait ∧ (s.setEntry e).wiping = s.wiping ∧
    (s.setEntry e).err = s.err ∧ (s.setEntry e).regs = s.regs ∧ (s.setEntry e).counters = s.counters ∧
    (s.setEntry e).queues = s.queues ∧ (s.setEntry e).streams = s.streams ∧ (s.setEntry e).rjobs = s.rjobs ∧
    (s.setEntry e).wjobs = s.wjobs ∧ (s.setEntry e).accs = s.accs ∧ (s.setEntry e).scatter = s.scatter ∧
    (s.setEntry e).readers = s.readers ∧ (s.setEntry e).groups = s.groups ∧ (s.setEntry e).dports = s.dports ∧
    (s.setEntry e).iports = s.iports ∧ (s.setEntry e).lports = s.lports ∧ (s.setEntry e).mports = s.mports ∧
    (s.setEntry e).reqs = s.reqs ∧ (s.setEntry e).holdq = s.holdq ∧ (s.setEntry e).colls = s.colls ∧
    (s.setEntry e).peerLate = s.peerLate ∧ (s.setEntry e).peerPaused = s.peerPaused ∧ (s.setEntry e).commits = s.commits ∧
    (s.setEntry e).barriers = s.barriers ∧ (s.setEntry e).dirCache = s.dirCache ∧ (s.setEntry e).arbs = s.arbs ∧
    (s.setEntry e).pools = s.pools ∧ (s.setEntry e).chans = s.chans ∧ (s.setEntry e).therms = s.therms ∧
    (s.setEntry e).lost = s.lost ∧ (s.setEntry e).causeway = s.causeway ∧ (s.setEntry e).cwChannel = s.cwChannel ∧
    (s.setEntry e).mapWait = s.mapWait ∧ (s.setEntry e).ring = s.ring ∧ (s.setEntry e).remoteWaits = s.remoteWaits ∧
    (s.setEntry e).grants = s.grants ∧ (s.setEntry e).remoteAsks = s.remoteAsks ∧ (s.setEntry e).remoteLocks = s.remoteLocks ∧
    (s.setEntry e).contrib = s.contrib ∧ (s.setEntry e).lagoon = s.lagoon ∧ (s.setEntry e).asks = s.asks ∧
    (s.setEntry e).unitWaits = s.unitWaits ∧ (s.setEntry e).chart = s.chart ∧ (s.setEntry e).lfsr = s.lfsr ∧
    (s.setEntry e).cores = s.cores ∧ (s.setEntry e).power = s.power ∧ (s.setEntry e).test = s.test ∧
    (s.setEntry e).clkRec = s.clkRec ∧ (s.setEntry e).freeCtr = s.freeCtr ∧ (s.setEntry e).nextId = s.nextId := by
  and_intros <;> rfl

@[simp] theorem State.setTherm_fields (s : State) (g : Nat) (x : Therm) :
    (s.setTherm g x).pending = s.pending ∧ (s.setTherm g x).params = s.params ∧ (s.setTherm g x).time = s.time ∧
    (s.setTherm g x).phase = s.phase ∧ (s.setTherm g x).lc = s.lc ∧ (s.setTherm g x).lcInvalid = s.lcInvalid ∧
    (s.setTherm g x).lcIn = s.lcIn ∧ (s.setTherm g x).lcReq = s.lcReq ∧ (s.setTherm g x).cluster = s.cluster ∧
    (s.setTherm g x).warmWait = s.warmWait ∧ (s.setTherm g x).offWait = s.offWait ∧ (s.setTherm g x).wiping = s.wiping ∧
    (s.setTherm g x).err = s.err ∧ (s.setTherm g x).regs = s.regs ∧ (s.setTherm g x).counters = s.counters ∧
    (s.setTherm g x).queues = s.queues ∧ (s.setTherm g x).streams = s.streams ∧ (s.setTherm g x).rjobs = s.rjobs ∧
    (s.setTherm g x).wjobs = s.wjobs ∧ (s.setTherm g x).accs = s.accs ∧ (s.setTherm g x).atoll = s.atoll ∧
    (s.setTherm g x).scatter = s.scatter ∧ (s.setTherm g x).readers = s.readers ∧ (s.setTherm g x).groups = s.groups ∧
    (s.setTherm g x).dports = s.dports ∧ (s.setTherm g x).iports = s.iports ∧ (s.setTherm g x).lports = s.lports ∧
    (s.setTherm g x).mports = s.mports ∧ (s.setTherm g x).reqs = s.reqs ∧ (s.setTherm g x).holdq = s.holdq ∧
    (s.setTherm g x).colls = s.colls ∧ (s.setTherm g x).peerLate = s.peerLate ∧ (s.setTherm g x).peerPaused = s.peerPaused ∧
    (s.setTherm g x).commits = s.commits ∧ (s.setTherm g x).barriers = s.barriers ∧ (s.setTherm g x).dirCache = s.dirCache ∧
    (s.setTherm g x).arbs = s.arbs ∧ (s.setTherm g x).pools = s.pools ∧ (s.setTherm g x).chans = s.chans ∧
    (s.setTherm g x).lost = s.lost ∧ (s.setTherm g x).causeway = s.causeway ∧ (s.setTherm g x).cwChannel = s.cwChannel ∧
    (s.setTherm g x).mapWait = s.mapWait ∧ (s.setTherm g x).ring = s.ring ∧ (s.setTherm g x).remoteWaits = s.remoteWaits ∧
    (s.setTherm g x).grants = s.grants ∧ (s.setTherm g x).remoteAsks = s.remoteAsks ∧
    (s.setTherm g x).remoteLocks = s.remoteLocks ∧ (s.setTherm g x).contrib = s.contrib ∧ (s.setTherm g x).lagoon = s.lagoon ∧
    (s.setTherm g x).asks = s.asks ∧ (s.setTherm g x).unitWaits = s.unitWaits ∧ (s.setTherm g x).chart = s.chart ∧
    (s.setTherm g x).lfsr = s.lfsr ∧ (s.setTherm g x).cores = s.cores ∧ (s.setTherm g x).power = s.power ∧
    (s.setTherm g x).test = s.test ∧ (s.setTherm g x).clkRec = s.clkRec ∧ (s.setTherm g x).freeCtr = s.freeCtr ∧
    (s.setTherm g x).nextId = s.nextId := by
  and_intros <;> rfl

@[simp] theorem State.chartResult_fields (s : State) (r : Nat) :
    (s.chartResult r).pending = s.pending ∧ (s.chartResult r).params = s.params ∧ (s.chartResult r).time = s.time ∧
    (s.chartResult r).phase = s.phase ∧ (s.chartResult r).lc = s.lc ∧ (s.chartResult r).lcInvalid = s.lcInvalid ∧
    (s.chartResult r).lcIn = s.lcIn ∧ (s.chartResult r).lcReq = s.lcReq ∧ (s.chartResult r).cluster = s.cluster ∧
    (s.chartResult r).warmWait = s.warmWait ∧ (s.chartResult r).offWait = s.offWait ∧ (s.chartResult r).wiping = s.wiping ∧
    (s.chartResult r).err = s.err ∧ (s.chartResult r).regs = s.regs ∧ (s.chartResult r).counters = s.counters ∧
    (s.chartResult r).queues = s.queues ∧ (s.chartResult r).streams = s.streams ∧ (s.chartResult r).rjobs = s.rjobs ∧
    (s.chartResult r).wjobs = s.wjobs ∧ (s.chartResult r).accs = s.accs ∧ (s.chartResult r).atoll = s.atoll ∧
    (s.chartResult r).scatter = s.scatter ∧ (s.chartResult r).readers = s.readers ∧ (s.chartResult r).groups = s.groups ∧
    (s.chartResult r).dports = s.dports ∧ (s.chartResult r).iports = s.iports ∧ (s.chartResult r).lports = s.lports ∧
    (s.chartResult r).mports = s.mports ∧ (s.chartResult r).reqs = s.reqs ∧ (s.chartResult r).holdq = s.holdq ∧
    (s.chartResult r).colls = s.colls ∧ (s.chartResult r).peerLate = s.peerLate ∧ (s.chartResult r).peerPaused = s.peerPaused ∧
    (s.chartResult r).commits = s.commits ∧ (s.chartResult r).barriers = s.barriers ∧ (s.chartResult r).dirCache = s.dirCache ∧
    (s.chartResult r).arbs = s.arbs ∧ (s.chartResult r).pools = s.pools ∧ (s.chartResult r).chans = s.chans ∧
    (s.chartResult r).therms = s.therms ∧ (s.chartResult r).lost = s.lost ∧ (s.chartResult r).causeway = s.causeway ∧
    (s.chartResult r).cwChannel = s.cwChannel ∧ (s.chartResult r).mapWait = s.mapWait ∧ (s.chartResult r).ring = s.ring ∧
    (s.chartResult r).remoteWaits = s.remoteWaits ∧ (s.chartResult r).grants = s.grants ∧
    (s.chartResult r).remoteAsks = s.remoteAsks ∧ (s.chartResult r).remoteLocks = s.remoteLocks ∧
    (s.chartResult r).contrib = s.contrib ∧ (s.chartResult r).lagoon = s.lagoon ∧ (s.chartResult r).asks = s.asks ∧
    (s.chartResult r).unitWaits = s.unitWaits ∧ (s.chartResult r).chart = { s.chart with result := r } ∧
    (s.chartResult r).lfsr = s.lfsr ∧ (s.chartResult r).cores = s.cores ∧ (s.chartResult r).power = s.power ∧
    (s.chartResult r).test = s.test ∧ (s.chartResult r).clkRec = s.clkRec ∧ (s.chartResult r).freeCtr = s.freeCtr ∧
    (s.chartResult r).nextId = s.nextId := by
  and_intros <;> rfl

@[simp] theorem State.fnResult_fields (s : State) (r : Nat) :
    (s.fnResult r).pending = s.pending ∧ (s.fnResult r).params = s.params ∧ (s.fnResult r).time = s.time ∧
    (s.fnResult r).phase = s.phase ∧ (s.fnResult r).lc = s.lc ∧ (s.fnResult r).lcInvalid = s.lcInvalid ∧
    (s.fnResult r).lcIn = s.lcIn ∧ (s.fnResult r).lcReq = s.lcReq ∧ (s.fnResult r).cluster = s.cluster ∧
    (s.fnResult r).warmWait = s.warmWait ∧ (s.fnResult r).offWait = s.offWait ∧ (s.fnResult r).wiping = s.wiping ∧
    (s.fnResult r).err = s.err ∧ (s.fnResult r).regs = { s.regs with fnResult := r } ∧ (s.fnResult r).counters = s.counters ∧
    (s.fnResult r).queues = s.queues ∧ (s.fnResult r).streams = s.streams ∧ (s.fnResult r).rjobs = s.rjobs ∧
    (s.fnResult r).wjobs = s.wjobs ∧ (s.fnResult r).accs = s.accs ∧ (s.fnResult r).atoll = s.atoll ∧
    (s.fnResult r).scatter = s.scatter ∧ (s.fnResult r).readers = s.readers ∧ (s.fnResult r).groups = s.groups ∧
    (s.fnResult r).dports = s.dports ∧ (s.fnResult r).iports = s.iports ∧ (s.fnResult r).lports = s.lports ∧
    (s.fnResult r).mports = s.mports ∧ (s.fnResult r).reqs = s.reqs ∧ (s.fnResult r).holdq = s.holdq ∧
    (s.fnResult r).colls = s.colls ∧ (s.fnResult r).peerLate = s.peerLate ∧ (s.fnResult r).peerPaused = s.peerPaused ∧
    (s.fnResult r).commits = s.commits ∧ (s.fnResult r).barriers = s.barriers ∧ (s.fnResult r).dirCache = s.dirCache ∧
    (s.fnResult r).arbs = s.arbs ∧ (s.fnResult r).pools = s.pools ∧ (s.fnResult r).chans = s.chans ∧
    (s.fnResult r).therms = s.therms ∧ (s.fnResult r).lost = s.lost ∧ (s.fnResult r).causeway = s.causeway ∧
    (s.fnResult r).cwChannel = s.cwChannel ∧ (s.fnResult r).mapWait = s.mapWait ∧ (s.fnResult r).ring = s.ring ∧
    (s.fnResult r).remoteWaits = s.remoteWaits ∧ (s.fnResult r).grants = s.grants ∧ (s.fnResult r).remoteAsks = s.remoteAsks ∧
    (s.fnResult r).remoteLocks = s.remoteLocks ∧ (s.fnResult r).contrib = s.contrib ∧ (s.fnResult r).lagoon = s.lagoon ∧
    (s.fnResult r).asks = s.asks ∧ (s.fnResult r).unitWaits = s.unitWaits ∧ (s.fnResult r).chart = s.chart ∧
    (s.fnResult r).lfsr = s.lfsr ∧ (s.fnResult r).cores = s.cores ∧ (s.fnResult r).power = s.power ∧
    (s.fnResult r).test = s.test ∧ (s.fnResult r).clkRec = s.clkRec ∧ (s.fnResult r).freeCtr = s.freeCtr ∧
    (s.fnResult r).nextId = s.nextId := by
  and_intros <;> rfl

@[simp] theorem State.sctl_fields (s : State) (r : Nat) :
    (s.sctl r).pending = s.pending ∧ (s.sctl r).params = s.params ∧ (s.sctl r).time = s.time ∧ (s.sctl r).phase = s.phase ∧
    (s.sctl r).lc = s.lc ∧ (s.sctl r).lcInvalid = s.lcInvalid ∧ (s.sctl r).lcIn = s.lcIn ∧ (s.sctl r).lcReq = s.lcReq ∧
    (s.sctl r).cluster = s.cluster ∧ (s.sctl r).warmWait = s.warmWait ∧ (s.sctl r).offWait = s.offWait ∧
    (s.sctl r).wiping = s.wiping ∧ (s.sctl r).err = s.err ∧ (s.sctl r).regs = { s.regs with sctlResult := r } ∧
    (s.sctl r).counters = s.counters ∧ (s.sctl r).queues = s.queues ∧ (s.sctl r).streams = s.streams ∧
    (s.sctl r).rjobs = s.rjobs ∧ (s.sctl r).wjobs = s.wjobs ∧ (s.sctl r).accs = s.accs ∧ (s.sctl r).atoll = s.atoll ∧
    (s.sctl r).scatter = s.scatter ∧ (s.sctl r).readers = s.readers ∧ (s.sctl r).groups = s.groups ∧
    (s.sctl r).dports = s.dports ∧ (s.sctl r).iports = s.iports ∧ (s.sctl r).lports = s.lports ∧ (s.sctl r).mports = s.mports ∧
    (s.sctl r).reqs = s.reqs ∧ (s.sctl r).holdq = s.holdq ∧ (s.sctl r).colls = s.colls ∧ (s.sctl r).peerLate = s.peerLate ∧
    (s.sctl r).peerPaused = s.peerPaused ∧ (s.sctl r).commits = s.commits ∧ (s.sctl r).barriers = s.barriers ∧
    (s.sctl r).dirCache = s.dirCache ∧ (s.sctl r).arbs = s.arbs ∧ (s.sctl r).pools = s.pools ∧ (s.sctl r).chans = s.chans ∧
    (s.sctl r).therms = s.therms ∧ (s.sctl r).lost = s.lost ∧ (s.sctl r).causeway = s.causeway ∧
    (s.sctl r).cwChannel = s.cwChannel ∧ (s.sctl r).mapWait = s.mapWait ∧ (s.sctl r).ring = s.ring ∧
    (s.sctl r).remoteWaits = s.remoteWaits ∧ (s.sctl r).grants = s.grants ∧ (s.sctl r).remoteAsks = s.remoteAsks ∧
    (s.sctl r).remoteLocks = s.remoteLocks ∧ (s.sctl r).contrib = s.contrib ∧ (s.sctl r).lagoon = s.lagoon ∧
    (s.sctl r).asks = s.asks ∧ (s.sctl r).unitWaits = s.unitWaits ∧ (s.sctl r).chart = s.chart ∧ (s.sctl r).lfsr = s.lfsr ∧
    (s.sctl r).cores = s.cores ∧ (s.sctl r).power = s.power ∧ (s.sctl r).test = s.test ∧ (s.sctl r).clkRec = s.clkRec ∧
    (s.sctl r).freeCtr = s.freeCtr ∧ (s.sctl r).nextId = s.nextId := by
  and_intros <;> rfl

@[simp] theorem State.chanResult_fields (s : State) (r : Nat) :
    (s.chanResult r).pending = s.pending ∧ (s.chanResult r).params = s.params ∧ (s.chanResult r).time = s.time ∧
    (s.chanResult r).phase = s.phase ∧ (s.chanResult r).lc = s.lc ∧ (s.chanResult r).lcInvalid = s.lcInvalid ∧
    (s.chanResult r).lcIn = s.lcIn ∧ (s.chanResult r).lcReq = s.lcReq ∧ (s.chanResult r).cluster = s.cluster ∧
    (s.chanResult r).warmWait = s.warmWait ∧ (s.chanResult r).offWait = s.offWait ∧ (s.chanResult r).wiping = s.wiping ∧
    (s.chanResult r).err = s.err ∧ (s.chanResult r).regs = { s.regs with chanResult := r } ∧
    (s.chanResult r).counters = s.counters ∧ (s.chanResult r).queues = s.queues ∧ (s.chanResult r).streams = s.streams ∧
    (s.chanResult r).rjobs = s.rjobs ∧ (s.chanResult r).wjobs = s.wjobs ∧ (s.chanResult r).accs = s.accs ∧
    (s.chanResult r).atoll = s.atoll ∧ (s.chanResult r).scatter = s.scatter ∧ (s.chanResult r).readers = s.readers ∧
    (s.chanResult r).groups = s.groups ∧ (s.chanResult r).dports = s.dports ∧ (s.chanResult r).iports = s.iports ∧
    (s.chanResult r).lports = s.lports ∧ (s.chanResult r).mports = s.mports ∧ (s.chanResult r).reqs = s.reqs ∧
    (s.chanResult r).holdq = s.holdq ∧ (s.chanResult r).colls = s.colls ∧ (s.chanResult r).peerLate = s.peerLate ∧
    (s.chanResult r).peerPaused = s.peerPaused ∧ (s.chanResult r).commits = s.commits ∧
    (s.chanResult r).barriers = s.barriers ∧ (s.chanResult r).dirCache = s.dirCache ∧ (s.chanResult r).arbs = s.arbs ∧
    (s.chanResult r).pools = s.pools ∧ (s.chanResult r).chans = s.chans ∧ (s.chanResult r).therms = s.therms ∧
    (s.chanResult r).lost = s.lost ∧ (s.chanResult r).causeway = s.causeway ∧ (s.chanResult r).cwChannel = s.cwChannel ∧
    (s.chanResult r).mapWait = s.mapWait ∧ (s.chanResult r).ring = s.ring ∧ (s.chanResult r).remoteWaits = s.remoteWaits ∧
    (s.chanResult r).grants = s.grants ∧ (s.chanResult r).remoteAsks = s.remoteAsks ∧
    (s.chanResult r).remoteLocks = s.remoteLocks ∧ (s.chanResult r).contrib = s.contrib ∧ (s.chanResult r).lagoon = s.lagoon ∧
    (s.chanResult r).asks = s.asks ∧ (s.chanResult r).unitWaits = s.unitWaits ∧ (s.chanResult r).chart = s.chart ∧
    (s.chanResult r).lfsr = s.lfsr ∧ (s.chanResult r).cores = s.cores ∧ (s.chanResult r).power = s.power ∧
    (s.chanResult r).test = s.test ∧ (s.chanResult r).clkRec = s.clkRec ∧ (s.chanResult r).freeCtr = s.freeCtr ∧
    (s.chanResult r).nextId = s.nextId := by
  and_intros <;> rfl

/-- A record changes the error state and a counter, and nothing else. -/
@[simp] theorem State.report_fields (s : State) (n : Note) :
    (s.report n).pending = s.pending ∧ (s.report n).params = s.params ∧ (s.report n).time = s.time ∧
    (s.report n).phase = s.phase ∧ (s.report n).lc = s.lc ∧ (s.report n).lcInvalid = s.lcInvalid ∧ (s.report n).lcIn = s.lcIn ∧
    (s.report n).lcReq = s.lcReq ∧ (s.report n).cluster = s.cluster ∧ (s.report n).warmWait = s.warmWait ∧
    (s.report n).offWait = s.offWait ∧ (s.report n).wiping = s.wiping ∧ (s.report n).regs = s.regs ∧
    (s.report n).queues = s.queues ∧ (s.report n).streams = s.streams ∧ (s.report n).rjobs = s.rjobs ∧
    (s.report n).wjobs = s.wjobs ∧ (s.report n).accs = s.accs ∧ (s.report n).atoll = s.atoll ∧
    (s.report n).scatter = s.scatter ∧ (s.report n).readers = s.readers ∧ (s.report n).groups = s.groups ∧
    (s.report n).dports = s.dports ∧ (s.report n).iports = s.iports ∧ (s.report n).lports = s.lports ∧
    (s.report n).mports = s.mports ∧ (s.report n).reqs = s.reqs ∧ (s.report n).holdq = s.holdq ∧ (s.report n).colls = s.colls ∧
    (s.report n).peerLate = s.peerLate ∧ (s.report n).peerPaused = s.peerPaused ∧ (s.report n).commits = s.commits ∧
    (s.report n).barriers = s.barriers ∧ (s.report n).dirCache = s.dirCache ∧ (s.report n).arbs = s.arbs ∧
    (s.report n).pools = s.pools ∧ (s.report n).chans = s.chans ∧ (s.report n).therms = s.therms ∧ (s.report n).lost = s.lost ∧
    (s.report n).causeway = s.causeway ∧ (s.report n).cwChannel = s.cwChannel ∧ (s.report n).mapWait = s.mapWait ∧
    (s.report n).ring = s.ring ∧ (s.report n).remoteWaits = s.remoteWaits ∧ (s.report n).grants = s.grants ∧
    (s.report n).remoteAsks = s.remoteAsks ∧ (s.report n).remoteLocks = s.remoteLocks ∧ (s.report n).contrib = s.contrib ∧
    (s.report n).lagoon = s.lagoon ∧ (s.report n).asks = s.asks ∧ (s.report n).unitWaits = s.unitWaits ∧
    (s.report n).chart = s.chart ∧ (s.report n).lfsr = s.lfsr ∧ (s.report n).cores = s.cores ∧ (s.report n).power = s.power ∧
    (s.report n).test = s.test ∧ (s.report n).clkRec = s.clkRec ∧ (s.report n).freeCtr = s.freeCtr ∧
    (s.report n).nextId = s.nextId := by
  unfold State.report
  dsimp only
  split <;> and_intros <;> rfl

/-- The error state after a record. -/
@[simp] theorem State.report_err (s : State) (n : Note) : (s.report n).err = (s.err.place (s.formRec n)).1 := by
  unfold State.report
  dsimp only
  split <;> rfl

/-! ### Records -/

theorem ErrState.logged_last (l : List Rec) (r : Rec) : (ErrState.logged l r).getLast? = some r := by
  unfold ErrState.logged
  split <;> simp

/-- A record takes the next REC_SEQ, stands last in the log, and leaves what is acknowledged and the service request. -/
theorem ErrState.place_head (e : ErrState) (r : Rec) : (e.place r).1.head = e.head + 1 := by
  unfold ErrState.place
  dsimp only
  split
  · rfl
  · split
    · rfl
    · split <;> rfl

theorem ErrState.place_last (e : ErrState) (r : Rec) :
    ∃ x, (e.place r).1.log.getLast? = some x ∧ x.reason = r.reason ∧ x.sev = r.sev ∧ x.recSeq = r.recSeq := by
  unfold ErrState.place
  dsimp only
  split
  · exact ⟨_, logged_last _ _, rfl, rfl, rfl⟩
  · split
    · exact ⟨_, logged_last _ _, rfl, rfl, rfl⟩
    · split <;> exact ⟨_, logged_last _ _, rfl, rfl, rfl⟩

theorem ErrState.place_keeps (e : ErrState) (r : Rec) :
    (e.place r).1.ack = e.ack ∧ (e.place r).1.svcAck = e.svcAck ∧ (e.place r).1.svcOpen = e.svcOpen ∧
      (e.place r).1.svcRecs = e.svcRecs ∧ (e.place r).1.svcNext = e.svcNext ∧ (e.place r).1.irqTest = e.irqTest ∧
      (e.place r).1.ceCount = e.ceCount ∧ (e.place r).1.ceStart = e.ceStart ∧ (e.place r).1.byCore = e.byCore ∧
      (e.place r).1.byChannel = e.byChannel ∧ (e.place r).1.byCe = e.byCe ∧ (e.place r).1.bySram = e.bySram := by
  unfold ErrState.place
  dsimp only
  split
  · and_intros <;> rfl
  · split
    · and_intros <;> rfl
    · split <;> and_intros <;> rfl

/-- `Sent` looks at the two error states only. -/
theorem sent_congr {s s' t t' : State} {reason : Nat} {sev : Sev} (hs : s.err = s'.err) (ht : t.err = t'.err)
    (h : Sent s t reason sev) : Sent s' t' reason sev := by
  unfold Sent at h ⊢
  rw [← hs, ← ht]
  exact h

theorem sent_report (s : State) (n : Note) : Sent s (s.report n) n.reason n.sev := by
  refine ⟨?_, ?_⟩
  · rw [State.report_err]; exact ErrState.place_head _ _
  · rw [State.report_err]; exact ErrState.place_last _ _

/-! ### Lists -/

theorem find?_updFirst {α : Type} {p : α → Bool} {f : α → α} {l : List α} {x : α} (h : l.find? p = some x) (hf : p (f x) = true) :
    (updFirst p f l).find? p = some (f x) := by
  induction l with
  | nil => cases h
  | cons a l ih =>
    unfold updFirst
    by_cases ha : p a = true
    · rw [List.find?_cons_of_pos ha] at h; cases h
      rw [if_pos ha, List.find?_cons_of_pos hf]
    · rw [List.find?_cons_of_neg ha] at h
      rw [if_neg ha, List.find?_cons_of_neg ha]
      exact ih h

theorem find?_updFirst_none {α : Type} {p : α → Bool} {f : α → α} {l : List α} (h : l.find? p = none) : updFirst p f l = l := by
  induction l with
  | nil => rfl
  | cons a l ih =>
    unfold updFirst
    have ha : ¬ p a = true := by
      intro ha; rw [List.find?_cons_of_pos ha] at h; cases h
    rw [if_neg ha, ih (by rw [List.find?_cons_of_neg ha] at h; exact h)]

theorem mem_upsert {α : Type} {p : α → Bool} {x : α} {l : List α} : x ∈ upsert p x l := by
  unfold upsert
  split
  · next h =>
    rw [List.any_eq_true] at h
    obtain ⟨y, hy, hp⟩ := h
    induction l with
    | nil => cases hy
    | cons a l ih =>
      unfold updFirst
      split
      · simp
      · rcases List.mem_cons.mp hy with rfl | h
        · contradiction
        · exact List.mem_cons_of_mem _ (ih h)
  · simp

theorem find?_upsert {α : Type} {p : α → Bool} {x : α} {l : List α} (hx : p x = true) : (upsert p x l).find? p = some x := by
  unfold upsert
  split
  · next h =>
    rw [List.any_eq_true] at h
    obtain ⟨y, hy, hp⟩ := h
    obtain ⟨z, hz⟩ : ∃ z, l.find? p = some z := by
      cases hf : l.find? p with
      | none => exact absurd hp (by simpa using List.find?_eq_none.mp hf y hy)
      | some z => exact ⟨z, rfl⟩
    exact find?_updFirst hz hx
  · next h =>
    rw [List.find?_append]
    have : l.find? p = none := by
      rw [List.find?_eq_none]
      intro y hy hp
      exact h (List.any_eq_true.mpr ⟨y, hy, hp⟩)
    simp [this, hx]

theorem find?_upsert_other {α : Type} {p q : α → Bool} {x : α} {l : List α} (hx : q x = false) (hpq : ∀ y, p y = true → q y = false) :
    (upsert p x l).find? q = l.find? q := by
  unfold upsert
  split
  · clear * - hx hpq
    induction l with
    | nil => rfl
    | cons a l ih =>
      unfold updFirst
      split
      · next ha => rw [List.find?_cons_of_neg (by simp [hx]), List.find?_cons_of_neg (by simp [hpq a ha])]
      · by_cases hq : q a = true
        · rw [List.find?_cons_of_pos hq, List.find?_cons_of_pos hq]
        · rw [List.find?_cons_of_neg hq, List.find?_cons_of_neg hq, ih]
  · rw [List.find?_append]
    simp [hx]

theorem forAll_nil {α : Type} (f : α → State → State) (s : State) : forAll [] f s = s := rfl

theorem forAll_cons {α : Type} (a : α) (l : List α) (f : α → State → State) (s : State) :
    forAll (a :: l) f s = forAll l f (f a s) := rfl

/-! ### Items found by key -/

theorem acc?_updA {s : State} {id : Nat} {a : AccTile} {f : AccTile → AccTile} (h : s.acc? id = some a) (hf : (f a).id = a.id) :
    (s.updA id f).acc? id = some (f a) :=
  find?_updFirst h (by rw [hf]; exact List.find?_some (p := fun a : AccTile => a.id == id) h)

theorem wjob?_updW {s : State} {id : Nat} {w : WJob} {f : WJob → WJob} (h : s.wjob? id = some w) (hf : (f w).id = w.id) :
    (s.updW id f).wjob? id = some (f w) :=
  find?_updFirst h (by rw [hf]; exact List.find?_some (p := fun a : WJob => a.id == id) h)

theorem rjob?_updR {s : State} {id : Nat} {j : RJob} {f : RJob → RJob} (h : s.rjob? id = some j) (hf : (f j).id = j.id) :
    (s.updR id f).rjob? id = some (f j) :=
  find?_updFirst h (by rw [hf]; exact List.find?_some (p := fun a : RJob => a.id == id) h)

theorem stream?_updStream {s : State} {n : Nat} {x : Stream} {f : Stream → Stream} (h : s.stream? n = some x) (hf : (f x).num = x.num) :
    (s.updStream n f).stream? n = some (f x) :=
  find?_updFirst h (by rw [hf]; exact List.find?_some (p := fun a : Stream => a.num == n) h)

theorem coll?_updColl {s : State} {n : Nat} {q : Word} {c : Coll} {f : Coll → Coll} (h : s.coll? n q = some c)
    (h1 : (f c).stream = c.stream) (h2 : (f c).seq = c.seq) : (s.updColl n q f).coll? n q = some (f c) :=
  find?_updFirst h (by rw [h1, h2]; exact List.find?_some (p := fun x : Coll => x.stream == n && x.seq == q) h)

theorem poolSt?_updPool {s : State} {id : Nat} {p : PoolSt} {f : PoolSt → PoolSt} (h : s.poolSt? id = some p) (hf : (f p).id = p.id) :
    (s.updPool id f).poolSt? id = some (f p) :=
  find?_updFirst h (by rw [hf]; exact List.find?_some (p := fun a : PoolSt => a.id == id) h)

/-- A channel has its own number. -/
theorem chan_id (s : State) (id : Nat) : (s.chan id).id = id := by
  unfold State.chan
  cases h : s.chans.find? fun c => c.id == id with
  | none => rfl
  | some c => simpa using List.find?_some h

theorem chan_updChan (s : State) (id : Nat) (f : Chan → Chan) (hf : (f (s.chan id)).id = id) : (s.updChan id f).chan id = f (s.chan id) := by
  have : (s.updChan id f).chans.find? (fun c => c.id == id) = some (f (s.chan id)) := find?_upsert (by simp [hf])
  conv => lhs; unfold State.chan
  rw [this]; rfl

/-- A group has its own number. -/
theorem groupTherm_group (s : State) (g : Nat) : (s.groupTherm g).group = g := by
  unfold State.groupTherm
  cases h : s.therms.find? fun t => t.group == g with
  | none => rfl
  | some c => simpa using List.find?_some h

theorem therm_setTherm (s : State) (g : Nat) (x : Therm) : (s.setTherm g x).therm g = x := by
  obtain ⟨y, hy, hs⟩ : ∃ y : GroupTherm, (s.setTherm g x).therms.find? (fun t => t.group == g) = some y ∧ y.st = x := by
    unfold State.setTherm State.updTherm
    refine ⟨_, find?_upsert ?_, ?_⟩
    all_goals simp only
    all_goals split <;> first | rfl | simp [groupTherm_group]
  unfold State.therm
  rw [hy]
  exact hs

/-- An update that leaves the state of a group leaves every group's. -/
theorem therm_updTherm {s : State} {g : Nat} {f : GroupTherm → GroupTherm} (h1 : (f (s.groupTherm g)).group = g)
    (h2 : (f (s.groupTherm g)).st = (s.groupTherm g).st) : (s.updTherm g f).therm = s.therm := by
  funext k
  by_cases hk : k = g
  · subst hk
    have h3 : (s.updTherm k f).therms.find? (fun t => t.group == k) = some (f (s.groupTherm k)) := find?_upsert (by simp [h1])
    unfold State.therm
    rw [h3]
    show (f (s.groupTherm k)).st = _
    rw [h2]
    unfold State.groupTherm
    cases h : s.therms.find? fun t => t.group == k <;> rfl
  · have h3 : (s.updTherm g f).therms.find? (fun t => t.group == k) = s.therms.find? (fun t => t.group == k) :=
      find?_upsert_other (by simp [h1]; omega) (fun x hx => by simp at hx ⊢; omega)
    unfold State.therm
    rw [h3]

theorem run?_updRun {s : State} {n : Nat} {q : Word} {r : Run} {f : Run → Run} (h : s.run? n q = some r) (hf : (f r).desc = r.desc)
    (hi : (f r).inSeq = r.inSeq) : (s.updRun n q f).run? n q = some (f r) := by
  unfold State.run? at h ⊢
  cases hx : s.stream? n with
  | none => rw [hx] at h; cases h
  | some x =>
    rw [hx] at h
    have h1 : (s.updRun n q f).stream? n = some { x with runs := updFirst (Run.named q) f x.runs } :=
      stream?_updStream (f := fun x => { x with runs := updFirst (Run.named q) f x.runs }) hx rfl
    rw [h1]
    have h2 : x.runs.find? (Run.named q) = some r := h
    refine find?_updFirst (p := Run.named q) h2 ?_
    have h3 : Run.named q r = true := List.find?_some h2
    unfold Run.named at h3 ⊢
    rw [hf, hi]
    exact h3

end Sys2Proof.Machine
end

