-- ==== Sys2Proof/Laws/Keeps.lean ====
section
/-! SUPPORT. What passes through record updates, conditions, lists of operations, and the operations on the error log and the counters
(11_integrity R441, R444; 15_register_map R549). -/

namespace Sys2Proof.Machine

/-- A property that looks at no more than the static inputs, the queue, the counters, the error log and the registers, and that every
count, every record and a MAP_OUT that waits keep. -/
structure Stable (M : State → Prop) : Prop where
  upd : ∀ t u : State, (u.params, u.pending, u.counters, u.err, u.regs, u.lc, u.lcInvalid, u.power.grant, u.therm, u.clkRec, u.cwChannel, u.mapWait) =
    (t.params, t.pending, t.counters, t.err, t.regs, t.lc, t.lcInvalid, t.power.grant, t.therm, t.clkRec, t.cwChannel, t.mapWait) → M t → M u
  err : ∀ (t : State) (e : ErrState), e.log = t.err.log → e.mgq = t.err.mgq → e.head = t.err.head → M t → M { t with err := e }
  bump : ∀ (t : State) (c : Ctr) (n : Nat), M t → M (t.bumpN c n)
  report : ∀ (t : State) (n : Note), M t → M (t.report n)
  noMap : ∀ t : State, M t → M { t with mapWait := none }
  mapped : ∀ t : State, M t → M t.mapAgain

/-- A stable property holds of a state. -/
structure Keeps (M : State → Prop) (s : State) : Prop where
  stable : Stable M
  here : M s

/-- A property that does not look at the governor. -/
def PowerFree (M : State → Prop) : Prop := ∀ (t : State) (p : Power), M t → M { t with power := p }

theorem keeps_of {M : State → Prop} {t u : State}
    (h1 : (u.params, u.pending, u.counters, u.err, u.regs, u.lc, u.lcInvalid, u.power.grant, u.therm, u.clkRec, u.cwChannel, u.mapWait) =
      (t.params, t.pending, t.counters, t.err, t.regs, t.lc, t.lcInvalid, t.power.grant, t.therm, t.clkRec, t.cwChannel, t.mapWait)) (h : Keeps M t) : Keeps M u :=
  ⟨h.stable, h.stable.upd t u h1 h.here⟩

/-- A record update that leaves the fields that a stable property looks at. -/
    theorem keeps_mk {M : State → Prop} {t : State} {pending : List Instr} {params : Params} {time : Time} {phase : Phase} {lc :
    Nat} {lcInvalid : Bool} {lcIn : Nat} {lcReq : Option Nat} {cluster : Fn} {warmWait : Option Nat} {offWait : Option Nat}
    {wiping : Bool} {err : ErrState} {regs : Regs} {counters : List Dword} {queues : Vector Queue 64} {streams : List Stream}
    {rjobs : List RJob} {wjobs : List WJob} {accs : List AccTile} {atoll : List AtollEntry} {scatter : Option Scatter} {readers : List Scatter} {groups :
    List MGroup} {dports : Vector DPort 8} {iports : Vector IPort 4} {lports : Vector LPort 2} {mports : Vector Fn 8} {reqs :
    List MemReq} {holdq : List MemReq} {colls : List Coll} {peerLate : List (Nat × Nat)} {peerPaused : List Nat} {commits : List
    Commit} {barriers : List Barrier} {dirCache : List (Nat × BitVec 128)} {arbs : List Arb} {pools : List PoolSt} {chans : List
    Chan} {therms : List GroupTherm} {lost : List (Nat × Nat × Nat)} {causeway : Option Causeway} {cwChannel : Nat} {mapWait : Option Image} {ring : List
    RingMsg} {remoteWaits : List RemoteWait} {grants : List (Nat × Nat × List Nat × Nat)} {remoteAsks : List RemoteRequest}
    {remoteLocks : List (Nat × Nat)} {contrib : List (Nat × Nat × BitVec 128 × List Byte)} {lagoon : List Spill} {asks : List
    OwnAsk} {unitWaits : List UnitWait} {chart : ChartSt} {lfsr : Word} {cores : Vector Core 16} {power : Power} {test : TestSt}
    {clkRec : Time} {freeCtr : Nat} {nextId : Nat}
    (h1 : (pending, params, counters, err, regs, lc, lcInvalid, power.grant,
      (fun g => ((therms.find? fun t => t.group == g).map GroupTherm.st).getD .normal), clkRec, cwChannel, mapWait) =
      (t.pending, t.params, t.counters, t.err, t.regs, t.lc, t.lcInvalid, t.power.grant, t.therm, t.clkRec, t.cwChannel, t.mapWait)) (h : Keeps M t) :
    Keeps M (State.mk pending params time phase lc lcInvalid lcIn lcReq cluster warmWait offWait wiping err regs counters queues
    streams rjobs wjobs accs atoll scatter readers groups dports iports lports mports reqs holdq colls peerLate peerPaused commits
    barriers dirCache arbs pools chans therms lost causeway cwChannel mapWait ring remoteWaits grants remoteAsks remoteLocks contrib
    lagoon asks unitWaits chart lfsr cores power test clkRec freeCtr nextId) := by
  simp only [Prod.mk.injEq] at h1
  exact keeps_of (by simp only [Prod.mk.injEq]; exact ⟨h1.2.1, h1.1, h1.2.2⟩) h

/-- An update of the error state that leaves the log, the queue and REC_SEQ. -/
theorem keeps_err {M : State → Prop} {t u : State}
    (h1 : (u.params, u.pending, u.counters, u.regs, u.lc, u.lcInvalid, u.power.grant, u.therm, u.clkRec, u.cwChannel, u.mapWait) =
      (t.params, t.pending, t.counters, t.regs, t.lc, t.lcInvalid, t.power.grant, t.therm, t.clkRec, t.cwChannel, t.mapWait))
    (h2 : (u.err.log, u.err.mgq, u.err.head) = (t.err.log, t.err.mgq, t.err.head)) (h : Keeps M t) : Keeps M u := by
  refine keeps_of (t := { t with err := u.err }) ?_ ⟨h.stable, h.stable.err t u.err ?_ ?_ ?_ h.here⟩
  · simp only [Prod.mk.injEq] at h1 ⊢; simp only [h1, and_self, true_and]; exact ⟨rfl, trivial⟩
  all_goals simp only [Prod.mk.injEq] at h2; simp [h2]

theorem keeps_bumpN {M : State → Prop} {s : State} (c : Ctr) (n : Nat) (h : Keeps M s) : Keeps M (s.bumpN c n) :=
  ⟨h.stable, h.stable.bump s c n h.here⟩

theorem keeps_bump {M : State → Prop} {s : State} (c : Ctr) (h : Keeps M s) : Keeps M (s.bump c) := keeps_bumpN c 1 h

theorem keeps_report {M : State → Prop} {s : State} (n : Note) (h : Keeps M s) : Keeps M (s.report n) :=
  ⟨h.stable, h.stable.report s n h.here⟩

theorem keeps_forAll {M : State → Prop} {α : Type} {f : α → State → State} {l : List α} {s : State}
    (hf : ∀ a t, Keeps M t → Keeps M (f a t)) (h : Keeps M s) : Keeps M (forAll l f s) := by
  induction l generalizing s with
  | nil => exact h
  | cons a l ih => exact ih (hf a s h)

/-- The state of a pair. -/
theorem keeps_fst {M : State → Prop} {β : Type} {q : State × β} {t : State} {b : β} (h : q = (t, b)) (hq : Keeps M q.1) : Keeps M t := by
  rw [h] at hq
  exact hq

/-- What a loop that takes one element of a list at a time keeps. -/
theorem keeps_foldl {α β : Type} {R : β → Prop} {f : β → α → β} {l : List α} {b : β} (hf : ∀ x a, R x → R (f x a)) (h : R b) :
    R (l.foldl f b) := by
  induction l generalizing b with
  | nil => exact h
  | cons a l ih => exact ih (hf b a h)

theorem keeps_whenB {M : State → Prop} {f : State → State} {b : Bool} {s : State}
    (hf : ∀ t, Keeps M t → Keeps M (f t)) (h : Keeps M s) : Keeps M (whenB b f s) := by
  cases b
  · exact h
  · exact hf s h

/-! ### The order of the error log -/

theorem logged_length (l : List Rec) (r : Rec) (h : l.length ≤ 64) : (ErrState.logged l r).length ≤ 64 := by
  unfold ErrState.logged; split <;> simp <;> omega

theorem logged_numbered (l : List Rec) (r : Rec) (head : Word) (hr : r.recSeq = head)
    (h : ∀ i x, l[i]? = some x → x.recSeq + BitVec.ofNat 32 (l.length - i) = head) (i : Nat) (x : Rec)
    (hx : (ErrState.logged l r)[i]? = some x) :
    x.recSeq + BitVec.ofNat 32 ((ErrState.logged l r).length - i) = head + 1 := by
  unfold ErrState.logged at hx ⊢
  split at hx
  · rename_i hl
    rw [if_pos hl]
    rw [List.getElem?_append] at hx
    split at hx
    · rename_i hi
      have := h i x hx
      have e : (l ++ [r]).length - i = (l.length - i) + 1 := by simp; omega
      rw [e, ← this]; simp [BitVec.ofNat_add, BitVec.add_assoc]
    · rename_i hi
      have hi' : i - l.length = 0 := by
        rcases Nat.eq_zero_or_pos (i - l.length) with h0 | h0
        · exact h0
        · rw [List.getElem?_eq_none (by simp; omega)] at hx; cases hx
      rw [hi'] at hx
      simp only [List.getElem?_cons_zero, Option.some.injEq] at hx
      have e : (l ++ [r]).length - i = 1 := by simp; omega
      rw [e, ← hx, hr]; rfl
  · rename_i hl
    rw [if_neg hl]
    have hd : (l.drop 1).length = l.length - 1 := by simp
    rw [List.getElem?_append] at hx
    split at hx
    · rename_i hi
      rw [List.getElem?_drop] at hx
      have := h (1 + i) x hx
      have e : (l.drop 1 ++ [r]).length - i = (l.length - (1 + i)) + 1 := by simp; omega
      rw [e, ← this]; simp [BitVec.ofNat_add, BitVec.add_assoc]
    · rename_i hi
      have hi' : i - (l.drop 1).length = 0 := by
        rcases Nat.eq_zero_or_pos (i - (l.drop 1).length) with h0 | h0
        · exact h0
        · rw [List.getElem?_eq_none (by simp; omega)] at hx; cases hx
      rw [hi'] at hx
      simp only [List.getElem?_cons_zero, Option.some.injEq] at hx
      have e : (l.drop 1 ++ [r]).length - i = 1 := by simp at hi hi' ⊢; omega
      rw [e, ← hx, hr]; rfl

theorem dropNewest_length (l m : List Rec) (h : dropNewestCorrected l = some m) : m.length ≤ l.length - 1 := by
  unfold dropNewestCorrected at h
  split at h
  · rename_i i hi
    cases h
    have := (List.findIdx?_eq_some_iff_getElem.mp hi).1
    simp [List.length_eraseIdx] at this ⊢
    split <;> omega
  · cases h

theorem place_ok (e : ErrState) (r : Rec) (h : e.Ok) (hr : r.recSeq = e.head) : (e.place r).1.Ok := by
  unfold ErrState.place
  dsimp only
  split
  · exact ⟨logged_length _ _ h.log, by simp; omega, logged_numbered _ _ _ hr h.numbered⟩
  · split
    · exact ⟨logged_length _ _ h.log, h.mgq, logged_numbered _ _ _ hr h.numbered⟩
    · split
      · rename_i m hm
        have := dropNewest_length _ _ hm
        have := h.mgq
        exact ⟨logged_length _ _ h.log, by simp; omega, logged_numbered _ _ _ hr h.numbered⟩
      · exact ⟨logged_length _ _ h.log, h.mgq, logged_numbered _ _ _ hr h.numbered⟩

theorem Fits.bumped {p : Params} {q : List Instr} {t : State} (f : Fits p q t) (c : Ctr) (n : Nat) : Fits p q (t.bumpN c n) :=
  ⟨f.params, f.pending, by simpa [State.bumpN] using f.counters, f.err⟩

theorem Fits.reported {p : Params} {q : List Instr} {t : State} (f : Fits p q t) (n : Note) : Fits p q (t.report n) := by
  have h1 : Fits p q { t with err := (t.err.place (t.formRec n)).1 } := ⟨f.params, f.pending, f.counters, place_ok _ _ f.err rfl⟩
  unfold State.report
  dsimp only
  split
  · exact ⟨f.params, f.pending, by simpa [State.bump, State.bumpN] using f.counters, h1.err⟩
  · exact h1

/-- An error state with the same log, queue and REC_SEQ. -/
theorem Fits.errSame {p : Params} {q : List Instr} {t : State} (f : Fits p q t) (e : ErrState) (h1 : e.log = t.err.log)
    (h2 : e.mgq = t.err.mgq) (h3 : e.head = t.err.head) : Fits p q { t with err := e } :=
  ⟨f.params, f.pending, f.counters, ⟨h1 ▸ f.err.log, h2 ▸ f.err.mgq, by simp only [h1, h3]; exact f.err.numbered⟩⟩

theorem Fits.degraded {p : Params} {q : List Instr} {t : State} (f : Fits p q t) (c : Cause) : Fits p q (t.degrade c) := by
  have h1 : Fits p q { t with err := t.err.withCause c } := by
    cases c <;> exact f.errSame _ rfl rfl rfl
  unfold State.degrade State.sendDegraded
  dsimp only
  split
  · exact h1
  · exact ((h1.errSame { (t.err.withCause c) with svcRecs := [] } rfl rfl rfl).reported _).errSame _ rfl rfl rfl

theorem Fits.shrunk {p : Params} {q : List Instr} {t : State} (f : Fits p q t) (ch : Nat) : Fits p q (t.shrink ch) := by
  unfold State.shrink
  generalize t.ownPools ch = l
  induction l generalizing t with
  | nil => exact f
  | cons a l ih => exact ih ⟨f.params, f.pending, f.counters, f.err⟩

/-- A MAP_OUT that goes on. -/
theorem Fits.mapOut {p : Params} {q : List Instr} {t : State} (f : Fits p q t) (img : Image) : Fits p q (t.mapOut img) := by
  have r (u : State) (h : Fits p q u) (k : Nat) : Fits p q (u.chanResult k) := ⟨h.params, h.pending, h.counters, h.err⟩
  unfold State.mapOut
  dsimp only
  have g (u : State) (h : Fits p q u) (k : Causeway) (n : Nat) : Fits p q { u with causeway := some k, cwChannel := n } :=
    ⟨h.params, h.pending, h.counters, h.err⟩
  have c (u : State) (h : Fits p q u) (n : Nat) (y : Chan → Chan) : Fits p q (u.updChan n y) := ⟨h.params, h.pending, h.counters, h.err⟩
  split_ifs
  · exact r _ f _
  · exact r _ f _
  · exact ⟨f.params, f.pending, f.counters, f.err⟩
  · exact r _ (f.bumped _ _) _
  · exact r _ f _
  · exact r _ (g _ f _ _) _
  · exact r _ (g _ ((Fits.shrunk (c _ f _ _) _).degraded _) _ _) _

theorem fits_stable (p : Params) (q : List Instr) : Stable (Fits p q) where
  upd := by
    intro t u h f
    simp only [Prod.mk.injEq] at h
    exact ⟨h.1 ▸ f.params, h.2.1 ▸ f.pending, h.2.2.1 ▸ f.counters, h.2.2.2.1 ▸ f.err⟩
  err := by
    intro t e h1 h2 h3 f
    exact ⟨f.params, f.pending, f.counters, ⟨h1 ▸ f.err.log, h2 ▸ f.err.mgq, by simp only [h1, h3]; exact f.err.numbered⟩⟩
  bump := fun _ c n f => f.bumped c n
  report := fun _ n f => f.reported n
  noMap := fun _ f => ⟨f.params, f.pending, f.counters, f.err⟩
  mapped := by
    intro t f
    unfold State.mapAgain
    split
    · split
      · exact f
      · exact Fits.mapOut (t := { t with mapWait := none }) ⟨f.params, f.pending, f.counters, f.err⟩ _
    · exact f

/-! ### What a command that changes a register keeps -/

theorem fits_powerFree (p : Params) (q : List Instr) : PowerFree (Fits p q) :=
  fun _ _ h => ⟨h.params, h.pending, h.counters, h.err⟩

theorem keeps_power {M : State → Prop} {s : State} (p : Power) (hp : PowerFree M) (hs : Keeps M s) : Keeps M { s with power := p } :=
  ⟨hs.stable, hp s p hs.here⟩

theorem keeps_fits {p : Params} {q : List Instr} {s : State} (h : Fits p q s) : Keeps (Fits p q) s := ⟨fits_stable p q, h⟩

theorem fits_of {p : Params} {q : List Instr} {t u : State} (h1 : u.params = t.params) (h2 : u.pending = t.pending)
    (h3 : u.counters = t.counters) (h4 : u.err = t.err) (h : Keeps (Fits p q) t) : Keeps (Fits p q) u :=
  keeps_fits ⟨h1 ▸ h.here.params, h2 ▸ h.here.pending, h3 ▸ h.here.counters, h4 ▸ h.here.err⟩

/-- A record update that leaves the fields that `Fits` is about. -/
    theorem fits_mk {p : Params} {q : List Instr} {t : State} {pending : List Instr} {params : Params} {time : Time} {phase :
    Phase} {lc : Nat} {lcInvalid : Bool} {lcIn : Nat} {lcReq : Option Nat} {cluster : Fn} {warmWait : Option Nat} {offWait :
    Option Nat} {wiping : Bool} {err : ErrState} {regs : Regs} {counters : List Dword} {queues : Vector Queue 64} {streams :
    List Stream} {rjobs : List RJob} {wjobs : List WJob} {accs : List AccTile} {atoll : List AtollEntry} {scatter : Option
    Scatter} {readers : List Scatter} {groups : List MGroup} {dports : Vector DPort 8} {iports : Vector IPort 4} {lports : Vector LPort 2} {mports :
    Vector Fn 8} {reqs : List MemReq} {holdq : List MemReq} {colls : List Coll} {peerLate : List (Nat × Nat)} {peerPaused : List
    Nat} {commits : List Commit} {barriers : List Barrier} {dirCache : List (Nat × BitVec 128)} {arbs : List Arb} {pools : List
    PoolSt} {chans : List Chan} {therms : List GroupTherm} {lost : List (Nat × Nat × Nat)} {causeway : Option Causeway}
    {cwChannel : Nat} {mapWait : Option Image} {ring : List RingMsg} {remoteWaits : List RemoteWait} {grants : List (Nat × Nat × List Nat × Nat)}
    {remoteAsks : List RemoteRequest} {remoteLocks : List (Nat × Nat)} {contrib : List (Nat × Nat × BitVec 128 × List Byte)}
    {lagoon : List Spill} {asks : List OwnAsk} {unitWaits : List UnitWait} {chart : ChartSt} {lfsr : Word} {cores : Vector Core
    16} {power : Power} {test : TestSt} {clkRec : Time} {freeCtr : Nat} {nextId : Nat}
    (h1 : params = t.params) (h2 : pending = t.pending) (h3 : counters = t.counters) (h4 : err = t.err) (h : Keeps (Fits p q) t) :
    Keeps (Fits p q) (State.mk pending params time phase lc lcInvalid lcIn lcReq cluster warmWait offWait wiping err regs
    counters queues streams rjobs wjobs accs atoll scatter readers groups dports iports lports mports reqs holdq colls peerLate
    peerPaused commits barriers dirCache arbs pools chans therms lost causeway cwChannel mapWait ring remoteWaits grants remoteAsks
    remoteLocks contrib lagoon asks unitWaits chart lfsr cores power test clkRec freeCtr nextId) :=
  fits_of h1 h2 h3 h4 h

/-- An update of the error state that leaves the log, the queue and REC_SEQ. -/
theorem fits_err {p : Params} {q : List Instr} {t u : State} (h1 : u.params = t.params) (h2 : u.pending = t.pending)
    (h3 : u.counters = t.counters) (h4 : u.err.log = t.err.log) (h5 : u.err.mgq = t.err.mgq) (h6 : u.err.head = t.err.head)
    (h : Keeps (Fits p q) t) : Keeps (Fits p q) u :=
  keeps_fits ⟨h1 ▸ h.here.params, h2 ▸ h.here.pending, h3 ▸ h.here.counters,
    ⟨h4 ▸ h.here.err.log, h5 ▸ h.here.err.mgq, by rw [h4, h6]; exact h.here.err.numbered⟩⟩

end Sys2Proof.Machine
end

