-- ==== Sys2Proof/Laws/KeepsOps.lean ====
section
/-! SUPPORT. `Keeps` passes through the shared operations, the memory ports, spills, arbitration and faults. -/

namespace Sys2Proof.Machine

theorem keeps_sendDegraded {M : State → Prop} {s : State} (a1) (a2) (hs : Keeps M s) :
    Keeps M (State.sendDegraded a1 a2 s) :=
  keeps_err (t := s.report _) rfl rfl (keeps_report _ hs)

theorem keeps_degrade {M : State → Prop} {s : State} (a1) (hs : Keeps M s) :
    Keeps M (State.degrade a1 s) := by
  unfold State.degrade
  have h1 : Keeps M { s with err := s.err.withCause a1 } := by
    refine keeps_err (t := s) rfl ?_ hs; cases a1 <;> rfl
  dsimp only
  split
  · exact h1
  · exact keeps_sendDegraded _ _ (keeps_err (t := { s with err := s.err.withCause a1 }) rfl rfl h1)

theorem keeps_countCe {M : State → Prop} {s : State} (hs : Keeps M s) :
    Keeps M (State.countCe s) := by
  unfold State.countCe
  have h1 (b : Bool) : Keeps M { s with err := { s.err with ceCount := s.err.ceCount + 1, ceHit := b } } :=
    keeps_err (t := s) rfl rfl hs
  dsimp only
  split
  · exact keeps_degrade _ (h1 _)
  · exact h1 _

theorem keeps_busParity {M : State → Prop} {s : State} (a1) (a2) (a3) (hs : Keeps M s) :
    Keeps M (State.busParity a1 a2 a3 s) := by
  unfold State.busParity
  have h1 : Keeps M { s.bump .busParity with err := { s.err with busSent := (limited s.err.busSent a3 s.time).1 } } :=
    keeps_err (t := s.bump .busParity) rfl rfl (keeps_bump _ hs)
  dsimp only
  split
  · exact keeps_countCe (keeps_report _ h1)
  · exact keeps_countCe h1

theorem keeps_updCore {M : State → Prop} {s : State} (c) (f) (hs : Keeps M s) :
    Keeps M (State.updCore c f s) :=
  keeps_mk rfl hs

theorem keeps_checkedOn {M : State → Prop} {s : State} (c) (n) (hs : Keeps M s) :
    Keeps M (State.checkedOn c n s) :=
  keeps_mk rfl hs

theorem keeps_chosen {M : State → Prop} {s : State} (hs : Keeps M s) :
    Keeps M (State.chosen s) :=
  keeps_mk rfl hs

theorem keeps_codedOn {M : State → Prop} {s : State} (c) (n) (hs : Keeps M s) :
    Keeps M (State.codedOn c n s) :=
  keeps_mk rfl hs

theorem keeps_correctedIn {M : State → Prop} {s : State} (c) (hs : Keeps M s) :
    Keeps M (State.correctedIn c s) :=
  keeps_mk rfl hs

theorem keeps_decodedOn {M : State → Prop} {s : State} (c) (n) (hs : Keeps M s) :
    Keeps M (State.decodedOn c n s) :=
  keeps_mk rfl hs

theorem keeps_dropR {M : State → Prop} {s : State} (id) (hs : Keeps M s) :
    Keeps M (State.dropR id s) :=
  keeps_mk rfl hs

theorem keeps_dropStream {M : State → Prop} {s : State} (n) (hs : Keeps M s) :
    Keeps M (State.dropStream n s) :=
  keeps_mk rfl hs

theorem keeps_dropW {M : State → Prop} {s : State} (id) (hs : Keeps M s) :
    Keeps M (State.dropW id s) :=
  keeps_mk rfl hs

theorem keeps_numbered {M : State → Prop} {s : State} (hs : Keeps M s) :
    Keeps M (State.numbered s) :=
  keeps_mk rfl hs

theorem keeps_choseN {M : State → Prop} {s : State} (n) (hs : Keeps M s) : Keeps M (State.choseN n s) := by
  unfold State.choseN
  repeat' (first
    | with_reducible assumption | intro _ | split | dsimp only | fail_if_no_progress (with_reducible refine keeps_mk rfl ?_))

theorem keeps_sendRing {M : State → Prop} {s : State} (m) (hs : Keeps M s) : Keeps M (State.sendRing m s) := by
  unfold State.sendRing
  repeat' (first
    | with_reducible assumption | intro _ | split | dsimp only | fail_if_no_progress (with_reducible refine keeps_mk rfl ?_))

theorem keeps_replayedFrom {M : State → Prop} {s : State} (c) (n) (hs : Keeps M s) :
    Keeps M (State.replayedFrom c n s) :=
  keeps_mk rfl hs

theorem keeps_setQueue {M : State → Prop} {s : State} (a2) (x) (hs : Keeps M s) :
    Keeps M (State.setQueue s a2 x) :=
  keeps_mk rfl hs

theorem keeps_sramCe {M : State → Prop} {s : State} (a1) (a2) (a3) (hs : Keeps M s) :
    Keeps M (State.sramCe a1 a2 a3 s) := by
  unfold State.sramCe
  have h1 : Keeps M { s.bump .sramCe with err := { s.err with ceSent := (limited s.err.ceSent a3 s.time).1 } } :=
    keeps_err (t := s.bump .sramCe) rfl rfl (keeps_bump _ hs)
  dsimp only
  split
  · exact keeps_countCe (keeps_report _ h1)
  · exact keeps_countCe h1

theorem keeps_timed {M : State → Prop} {s : State} (a2) (hs : Keeps M s) :
    Keeps M (State.timed s a2) :=
  keeps_mk rfl hs

theorem keeps_updA {M : State → Prop} {s : State} (id) (f) (hs : Keeps M s) :
    Keeps M (State.updA id f s) :=
  keeps_mk rfl hs

theorem keeps_updR {M : State → Prop} {s : State} (id) (f) (hs : Keeps M s) :
    Keeps M (State.updR id f s) :=
  keeps_mk rfl hs

theorem keeps_updStream {M : State → Prop} {s : State} (n) (f) (hs : Keeps M s) :
    Keeps M (State.updStream n f s) :=
  keeps_mk rfl hs

theorem keeps_updRun {M : State → Prop} {s : State} (n) (seq) (f) (hs : Keeps M s) : Keeps M (State.updRun n seq f s) := by
  unfold State.updRun
  repeat' (first | with_reducible assumption | with_reducible apply keeps_updStream)

theorem keeps_updW {M : State → Prop} {s : State} (id) (f) (hs : Keeps M s) :
    Keeps M (State.updW id f s) :=
  keeps_mk rfl hs

theorem keeps_ask {M : State → Prop} {s : State} (o) (r) (hs : Keeps M s) : Keeps M (State.ask o r s) := by
  unfold State.ask
  repeat' (first
    | with_reducible assumption | with_reducible apply keeps_numbered | with_reducible apply keeps_sendRing | intro _ | split
    | dsimp only | fail_if_no_progress (with_reducible refine keeps_mk rfl ?_))

theorem keeps_updPool {M : State → Prop} {s : State} (id) (f) (hs : Keeps M s) :
    Keeps M (State.updPool id f s) :=
  keeps_mk rfl hs

theorem keeps_issue {M : State → Prop} {s : State} (r) (hs : Keeps M s) : Keeps M (State.issue r s) := by
  unfold State.issue
  repeat' (first
    | with_reducible assumption | with_reducible apply keeps_bump | with_reducible apply keeps_chosen | intro _ | split
    | dsimp only | fail_if_no_progress (with_reducible refine keeps_mk rfl ?_))

theorem keeps_writeSpan {M : State → Prop} {s : State} (addr) (data) (why) (hs : Keeps M s) :
    Keeps M (State.writeSpan addr data why s) := by
  unfold State.writeSpan
  repeat' (first
    | with_reducible assumption | with_reducible apply keeps_issue | with_reducible apply keeps_choseN
    | with_reducible apply keeps_forAll | intro _)

theorem keeps_writeMap {M : State → Prop} {s : State} (pool) (a) (n) (why) (hs : Keeps M s) :
    Keeps M (State.writeMap pool a n why s) := by
  unfold State.writeMap
  repeat' (first
    | with_reducible assumption | with_reducible apply keeps_forAll | with_reducible apply keeps_writeSpan | intro _ | split)

theorem keeps_updSpill {M : State → Prop} {s : State} (id) (f) (hs : Keeps M s) : Keeps M (State.updSpill id f s) := by
  unfold State.updSpill
  repeat' (first
    | with_reducible assumption | intro _ | split | dsimp only | fail_if_no_progress (with_reducible refine keeps_mk rfl ?_))

theorem keeps_spillSpaceFor {M : State → Prop} {s : State} (moving) (o) (n) (hs : Keeps M s) : Keeps M (State.spillSpaceFor
    moving o n s).1 := by
  unfold State.spillSpaceFor
  repeat' (first
    | with_reducible assumption | with_reducible apply keeps_numbered | with_reducible apply keeps_updPool
    | with_reducible apply keeps_writeMap | with_reducible apply keeps_updSpill | with_reducible apply keeps_ask
    | with_reducible refine keeps_fst (by assumption) ?_ | intro _ | split | dsimp only
    | fail_if_no_progress (with_reducible refine keeps_mk rfl ?_))

theorem keeps_cacheDrop {M : State → Prop} {s : State} (addr) (hs : Keeps M s) :
    Keeps M (State.cacheDrop addr s) :=
  keeps_mk rfl hs

theorem keeps_cacheTouch {M : State → Prop} {s : State} (addr) (e) (hs : Keeps M s) :
    Keeps M (State.cacheTouch addr e s) :=
  keeps_mk rfl hs

theorem keeps_found {M : State → Prop} {s : State} (pool) (a) (n) (hs : Keeps M s) : Keeps M (State.found pool a n s) := by
  unfold State.found
  repeat' (first
    | with_reducible assumption | intro _ | split | dsimp only | fail_if_no_progress (with_reducible refine keeps_mk rfl ?_))

theorem keeps_discardSectors {M : State → Prop} {s : State} (pool) (a) (n) (hs : Keeps M s) : Keeps M (State.discardSectors
    pool a n s) := by
  unfold State.discardSectors
  repeat' (first
    | with_reducible assumption | with_reducible apply keeps_updPool | with_reducible apply keeps_writeMap
    | with_reducible apply keeps_found | intro _ | split)

theorem keeps_dropReqs {M : State → Prop} {s : State} (a1) (hs : Keeps M s) :
    Keeps M (State.dropReqs a1 s) :=
  keeps_mk rfl hs

theorem keeps_entryChanged {M : State → Prop} {s : State} (addr) (hs : Keeps M s) :
    Keeps M (State.entryChanged addr s) :=
  keeps_mk rfl hs

theorem keeps_invalidate {M : State → Prop} {s : State} (addr) (hs : Keeps M s) :
    Keeps M (State.invalidate addr s) :=
  keeps_entryChanged _ (keeps_cacheDrop _ hs)

theorem keeps_loseSectors {M : State → Prop} {s : State} (pool) (a) (n) (hs : Keeps M s) : Keeps M (State.loseSectors pool a n
    s) := by
  unfold State.loseSectors
  repeat' (first
    | with_reducible assumption | intro _ | split | dsimp only | fail_if_no_progress (with_reducible refine keeps_mk rfl ?_))

theorem keeps_readSpan {M : State → Prop} {s : State} (addr) (n) (why) (hs : Keeps M s) :
    Keeps M (State.readSpan addr n why s) := by
  unfold State.readSpan
  repeat' (first
    | with_reducible assumption | with_reducible apply keeps_issue | with_reducible apply keeps_choseN
    | with_reducible apply keeps_forAll | intro _)

theorem keeps_reclaim {M : State → Prop} {s : State} (hs : Keeps M s) :
    Keeps M (State.reclaim s) :=
  keeps_mk rfl hs

theorem keeps_releaseSectors {M : State → Prop} {s : State} (pool) (a) (n) (hs : Keeps M s) : Keeps M (State.releaseSectors
    pool a n s) := by
  unfold State.releaseSectors
  repeat' (first
    | with_reducible assumption | with_reducible apply keeps_updPool | with_reducible apply keeps_writeMap
    | with_reducible apply keeps_found | with_reducible apply keeps_forAll | intro _ | split)

theorem keeps_sendRelease {M : State → Prop} {s : State} (pool) (a) (n) (discard) (hs : Keeps M s) :
    Keeps M (State.sendRelease pool a n discard s) := by
  unfold State.sendRelease
  repeat' (first
    | with_reducible assumption | with_reducible apply keeps_discardSectors | with_reducible apply keeps_releaseSectors
    | with_reducible apply keeps_sendRing | with_reducible refine keeps_fst (by assumption) ?_ | intro _ | split)

theorem keeps_spillDrop {M : State → Prop} {s : State} (x) (hs : Keeps M s) : Keeps M (State.spillDrop x s) := by
  unfold State.spillDrop
  repeat' (first
    | with_reducible assumption | with_reducible apply keeps_dropReqs | with_reducible apply keeps_sendRelease | intro _
    | split | dsimp only | fail_if_no_progress (with_reducible refine keeps_mk rfl ?_))

theorem keeps_spillGo {M : State → Prop} {s : State} (id) (hs : Keeps M s) : Keeps M (State.spillGo id s) := by
  unfold State.spillGo
  repeat' (first
    | with_reducible assumption | with_reducible apply keeps_writeSpan | with_reducible apply keeps_updSpill
    | with_reducible apply keeps_readSpan | with_reducible apply keeps_forAll | intro _ | split)

theorem keeps_spillLoad {M : State → Prop} {s : State} (o) (hs : Keeps M s) : Keeps M (State.spillLoad o s) := by
  unfold State.spillLoad
  repeat' (first
    | with_reducible assumption | with_reducible apply keeps_spillGo | with_reducible apply keeps_updSpill | intro _ | split)

theorem keeps_spillMapped {M : State → Prop} {s : State} (id) (hs : Keeps M s) : Keeps M (State.spillMapped id s) := by
  unfold State.spillMapped
  repeat' (first | with_reducible assumption | with_reducible apply keeps_spillGo | with_reducible apply keeps_updSpill)

theorem keeps_spillSpace {M : State → Prop} {s : State} (o) (n) (hs : Keeps M s) : Keeps M (State.spillSpace o n s).1 := by
  unfold State.spillSpace
  repeat' (first | with_reducible assumption | with_reducible apply keeps_spillSpaceFor)

theorem keeps_spillStore {M : State → Prop} {s : State} (o) (off) (n) (hs : Keeps M s) : Keeps M (State.spillStore o off n s)
    := by
  unfold State.spillStore
  repeat' (first
    | with_reducible assumption | with_reducible apply keeps_spillGo | with_reducible apply keeps_updSpill | intro _ | split)

theorem keeps_spillWipe {M : State → Prop} {s : State} (x) (hs : Keeps M s) : Keeps M (State.spillWipe x s) := by
  unfold State.spillWipe
  repeat' (first | with_reducible assumption | with_reducible apply keeps_updSpill | with_reducible apply keeps_spillGo)

theorem keeps_spillWritten {M : State → Prop} {s : State} (id) (hs : Keeps M s) : Keeps M (State.spillWritten id s) := by
  unfold State.spillWritten
  repeat' (first | with_reducible assumption | with_reducible apply keeps_spillGo | with_reducible apply keeps_updSpill)

theorem keeps_updChan {M : State → Prop} {s : State} (id) (f) (hs : Keeps M s) :
    Keeps M (State.updChan id f s) :=
  keeps_mk rfl hs

theorem keeps_write16 {M : State → Prop} {s : State} (addr) (data) (why) (hs : Keeps M s) :
    Keeps M (State.write16 addr data why s) := by
  unfold State.write16
  repeat' (first | with_reducible assumption | with_reducible apply keeps_issue | with_reducible apply keeps_chosen)

theorem keeps_granted {M : State → Prop} {s : State} (a) (forced) (hs : Keeps M s) :
    Keeps M (State.granted a forced s) := by
  unfold State.granted
  repeat' (first
    | with_reducible assumption | with_reducible apply keeps_whenB | with_reducible apply keeps_bump | intro _
    | fail_if_no_progress (with_reducible refine keeps_mk rfl ?_))

theorem keeps_roleFound {M : State → Prop} {s : State} (n) (hs : Keeps M s) :
    Keeps M (State.roleFound n s) :=
  keeps_mk rfl hs

theorem keeps_roleRecord {M : State → Prop} {s : State} (r) (role) (port) (again) (hs : Keeps M s) :
    Keeps M (State.roleRecord r role port again s) := by
  unfold State.roleRecord
  repeat' (first | with_reducible assumption | with_reducible apply keeps_report)

theorem keeps_roleStall {M : State → Prop} {s : State} (n) (seq) (need) (hs : Keeps M s) :
    Keeps M (State.roleStall n seq need s) := by
  unfold State.roleStall
  repeat' (first
    | with_reducible assumption | with_reducible apply keeps_roleRecord | with_reducible apply keeps_updStream | split)

theorem keeps_unitTaken {M : State → Prop} {s : State} (res) (n) (seq) (again) (hs : Keeps M s) : Keeps M (State.unitTaken res
    n seq again s) := by
  unfold State.unitTaken
  repeat' (first | with_reducible assumption | with_reducible apply keeps_granted | intro _ | split)

theorem keeps_unitWait {M : State → Prop} {s : State} (res) (n) (kind) (hs : Keeps M s) : Keeps M (State.unitWait res n kind s)
    := by
  unfold State.unitWait
  repeat' (first
    | with_reducible assumption | intro _ | split | dsimp only | fail_if_no_progress (with_reducible refine keeps_mk rfl ?_))

theorem keeps_coreFault {M : State → Prop} {s : State} (c) (hs : Keeps M s) :
    Keeps M (State.coreFault c s) := by
  unfold State.coreFault
  repeat' (first
    | with_reducible assumption | with_reducible apply keeps_updCore | with_reducible apply keeps_report | split | dsimp only
    | fail_if_no_progress (with_reducible refine keeps_mk rfl ?_))

theorem keeps_dropPlaces {M : State → Prop} {s : State} (parts) (hs : Keeps M s) :
    Keeps M (State.dropPlaces parts s) := by
  unfold State.dropPlaces
  repeat' (first
    | with_reducible assumption | with_reducible apply keeps_forAll | with_reducible apply keeps_sendRelease | intro _ | split)

theorem keeps_errTile {M : State → Prop} {s : State} (n) (seq) (hs : Keeps M s) :
    Keeps M (State.errTile n seq s) :=
  keeps_mk rfl hs

theorem keeps_flagRun {M : State → Prop} {s : State} (n) (seq) (f) (hs : Keeps M s) :
    Keeps M (State.flagRun n seq f s) :=
  keeps_mk rfl hs

theorem keeps_forgetAsk {M : State → Prop} {s : State} (id) (hs : Keeps M s) : Keeps M (State.forgetAsk id s) := by
  unfold State.forgetAsk
  repeat' (first
    | with_reducible assumption | intro _ | split | dsimp only | fail_if_no_progress (with_reducible refine keeps_mk rfl ?_))

theorem keeps_issuedNow {M : State → Prop} {s : State} (n) (seq) (hs : Keeps M s) :
    Keeps M (State.issuedNow n seq s) := by
  unfold State.issuedNow
  repeat' (first
    | with_reducible assumption | with_reducible apply keeps_whenB | with_reducible apply keeps_flagRun | intro _ | split)

theorem keeps_recallCommit {M : State → Prop} {s : State} (id) (hs : Keeps M s) : Keeps M (State.recallCommit id s) := by
  unfold State.recallCommit
  repeat' (first
    | with_reducible assumption | intro _ | split | dsimp only | fail_if_no_progress (with_reducible refine keeps_mk rfl ?_))

theorem keeps_replayRead {M : State → Prop} {s : State} (j) (avoid) (hs : Keeps M s) :
    Keeps M (State.replayRead j avoid s) := by
  unfold State.replayRead
  repeat' (first
    | with_reducible assumption | with_reducible apply keeps_updR | with_reducible apply keeps_replayedFrom
    | with_reducible apply keeps_flagRun | split | fail_if_no_progress (with_reducible refine keeps_mk rfl ?_))

theorem keeps_replayWrite {M : State → Prop} {s : State} (j) (avoid) (hs : Keeps M s) : Keeps M (State.replayWrite j avoid s)
    := by
  unfold State.replayWrite
  repeat' (first
    | with_reducible assumption | with_reducible apply keeps_recallCommit | with_reducible apply keeps_forgetAsk
    | with_reducible apply keeps_dropPlaces | with_reducible apply keeps_dropReqs | with_reducible apply keeps_replayedFrom
    | with_reducible apply keeps_flagRun | with_reducible apply keeps_updW | intro _ | split | dsimp only
    | fail_if_no_progress (with_reducible refine keeps_mk rfl ?_))

theorem keeps_unitEnds {M : State → Prop} {s : State} (n) (seq) (bytes) (hs : Keeps M s) :
    Keeps M (State.unitEnds n seq bytes s) :=
  keeps_mk rfl hs

theorem keeps_updDport {M : State → Prop} {s : State} (a1) (f) (hs : Keeps M s) :
    Keeps M (State.updDport a1 f s) :=
  keeps_mk rfl hs

theorem keeps_workReport {M : State → Prop} {s : State} (n) (seq) (x) (hs : Keeps M s) :
    Keeps M (State.workReport n seq x s) := by
  unfold State.workReport
  repeat' (first | with_reducible assumption | with_reducible apply keeps_report | split)

end Sys2Proof.Machine
end

