-- ==== Sys2Proof/Laws/KeepsRead.lean ====
section
/-! SUPPORT. `Keeps` passes through reads and coding. -/

namespace Sys2Proof.Machine

theorem keeps_addW {M : State → Prop} {s : State} (j) (hs : Keeps M s) :
    Keeps M (State.addW j s) := by
  unfold State.addW
  repeat' (first
    | with_reducible assumption | with_reducible apply keeps_numbered
    | fail_if_no_progress (with_reducible refine keeps_mk rfl ?_))

theorem keeps_addDone {M : State → Prop} {s : State} (n) (seq) (unit) (hs : Keeps M s) :
    Keeps M (State.addDone n seq unit s) := by
  unfold State.addDone
  repeat' (first | with_reducible assumption | with_reducible apply keeps_addW)

theorem keeps_addUnit {M : State → Prop} {s : State} (a1) (u) (hs : Keeps M s) :
    Keeps M (State.addUnit a1 u s) := by
  unfold State.addUnit
  repeat' (first | with_reducible assumption | with_reducible apply keeps_updDport | with_reducible apply keeps_numbered)

theorem keeps_cancelRead {M : State → Prop} {s : State} (j) (hs : Keeps M s) :
    Keeps M (State.cancelRead j s) := by
  unfold State.cancelRead
  repeat' (first | with_reducible assumption | with_reducible apply keeps_dropR | with_reducible apply keeps_dropReqs)

theorem keeps_carryLost {M : State → Prop} {s : State} (j) (reason) (hs : Keeps M s) :
    Keeps M (State.carryLost j reason s) := by
  unfold State.carryLost
  repeat' (first | with_reducible assumption | with_reducible apply keeps_workReport | split)

theorem keeps_carryRead {M : State → Prop} {s : State} (j) (w) (k) (d) (hs : Keeps M s) : Keeps M (State.carryRead j w k d s)
    := by
  unfold State.carryRead
  repeat' (first
    | with_reducible assumption | with_reducible apply keeps_carryLost | with_reducible apply keeps_updW | intro _ | split)

theorem keeps_updColl {M : State → Prop} {s : State} (n) (seq) (f) (hs : Keeps M s) :
    Keeps M (State.updColl n seq f s) :=
  keeps_mk rfl hs

theorem keeps_collReads {M : State → Prop} {s : State} (j) (hs : Keeps M s) : Keeps M (State.collReads j s) := by
  unfold State.collReads
  repeat' (first | with_reducible assumption | with_reducible apply keeps_updColl)

theorem keeps_copyTile {M : State → Prop} {s : State} (j) (img) (recAddr) (trec) (hs : Keeps M s) :
    Keeps M (State.copyTile j img recAddr trec s) := by
  unfold State.copyTile
  repeat' (first
    | with_reducible assumption | with_reducible apply keeps_addW | intro _ | split | dsimp only
    | fail_if_no_progress (with_reducible refine keeps_mk rfl ?_))

theorem keeps_readFails {M : State → Prop} {s : State} (j) (reason) (a) (b) (corrupt) (hs : Keeps M s) :
    Keeps M (State.readFails j reason a b corrupt s) := by
  unfold State.readFails
  repeat' (first
    | with_reducible assumption | with_reducible apply keeps_carryLost | with_reducible apply keeps_flagRun
    | with_reducible apply keeps_workReport | split)

theorem keeps_recordDensity {M : State → Prop} {s : State} (n) (r) (tile) (code) (hs : Keeps M s) : Keeps M
    (State.recordDensity n r tile code s) := by
  unfold State.recordDensity
  repeat' (first
    | with_reducible assumption | with_reducible apply keeps_spillStore | with_reducible apply keeps_updStream
    | with_reducible apply keeps_spillSpace | with_reducible refine keeps_fst (by assumption) ?_ | intro _ | split | dsimp only)

theorem keeps_zeroDensity {M : State → Prop} {s : State} (j) (d) (hs : Keeps M s) :
    Keeps M (State.zeroDensity j d s) := by
  unfold State.zeroDensity
  repeat' (first | with_reducible assumption | with_reducible apply keeps_recordDensity | split)

theorem keeps_deliverRead {M : State → Prop} {s : State} (a1) (a2) (a3) (hs : Keeps M s) :
    Keeps M (State.deliverRead a1 a2 a3 s) := by
  unfold State.deliverRead
  dsimp only
  split
  · exact keeps_dropR _ (keeps_addUnit _ _ hs)
  · split
    · exact keeps_updDport _ _ hs
    · exact keeps_addUnit _ _ hs
  · split
    · exact keeps_updDport _ _ hs
    · exact keeps_whenB (fun _ h => keeps_dropR _ h) (keeps_addUnit _ _ hs)

theorem keeps_updGroup {M : State → Prop} {s : State} (id) (f) (hs : Keeps M s) :
    Keeps M (State.updGroup id f s) :=
  keeps_mk rfl hs

theorem keeps_updScat {M : State → Prop} {s : State} (n) (f) (hs : Keeps M s) : Keeps M (State.updScat n f s) := by
  unfold State.updScat
  repeat' (first
    | with_reducible assumption | intro _ | split | dsimp only | fail_if_no_progress (with_reducible refine keeps_mk rfl ?_))

theorem keeps_holdSource {M : State → Prop} {s : State} (a) (k) (j) (hs : Keeps M s) : Keeps M (State.holdSource a k j s) := by
  unfold State.holdSource
  repeat' (first
    | with_reducible assumption | intro _ | split | dsimp only | fail_if_no_progress (with_reducible refine keeps_mk rfl ?_))

theorem keeps_updChunk {M : State → Prop} {s : State} (n) (seq) (c) (f) (hs : Keeps M s) :
    Keeps M (State.updChunk n seq c f s) :=
  keeps_mk rfl hs

theorem keeps_updateRead {M : State → Prop} {s : State} (n) (seq) (u) (d) (hs : Keeps M s) : Keeps M (State.updateRead n seq u
    d s) := by
  unfold State.updateRead
  repeat' (first
    | with_reducible assumption | with_reducible apply keeps_errTile | with_reducible apply keeps_updScat
    | with_reducible apply keeps_whenB | with_reducible refine keeps_fst (by assumption) ?_ | intro _)

theorem keeps_scrubRead {M : State → Prop} {s : State} (j) (r) (d) (hs : Keeps M s) :
    Keeps M (State.scrubRead j r d s) := by
  unfold State.scrubRead
  repeat' (first
    | with_reducible assumption | with_reducible apply keeps_updRun | with_reducible apply keeps_copyTile
    | with_reducible apply keeps_addDone | with_reducible apply keeps_errTile | with_reducible apply keeps_bump | split)

theorem keeps_migrateRead {M : State → Prop} {s : State} (j) (r) (d) (hs : Keeps M s) : Keeps M (State.migrateRead j r d s) :=
    by
  unfold State.migrateRead
  repeat' (first
    | with_reducible assumption | with_reducible apply keeps_copyTile | with_reducible apply keeps_addW
    | with_reducible apply keeps_addDone | with_reducible apply keeps_errTile | intro _ | split)

theorem keeps_exportRead {M : State → Prop} {s : State} (j) (d) (hs : Keeps M s) : Keeps M (State.exportRead j d s) := by
  unfold State.exportRead
  repeat' (first
    | with_reducible assumption | with_reducible apply keeps_addW | with_reducible apply keeps_codedOn
    | with_reducible apply keeps_chosen | with_reducible refine keeps_fst (by assumption) ?_ | intro _ | split)

theorem keeps_readEnds {M : State → Prop} {s : State} (j) (d) (hs : Keeps M s) : Keeps M (State.readEnds j d s) := by
  unfold State.readEnds
  repeat' (first
    | with_reducible assumption | with_reducible apply keeps_zeroDensity | with_reducible apply keeps_dropR
    | with_reducible apply keeps_deliverRead | with_reducible apply keeps_updGroup | with_reducible apply keeps_updA
    | with_reducible apply keeps_collReads | with_reducible apply keeps_holdSource | with_reducible apply keeps_updChunk
    | with_reducible apply keeps_updateRead | with_reducible apply keeps_scrubRead | with_reducible apply keeps_migrateRead
    | with_reducible apply keeps_exportRead | with_reducible apply keeps_carryRead | intro _ | split | dsimp only)

theorem keeps_decodeEnds {M : State → Prop} {s : State} (j) (hs : Keeps M s) :
    Keeps M (State.decodeEnds j s) := by
  unfold State.decodeEnds
  repeat' (first
    | with_reducible assumption | with_reducible apply keeps_whenB | with_reducible apply keeps_readFails
    | with_reducible apply keeps_recordDensity | with_reducible apply keeps_bump | with_reducible apply keeps_readEnds
    | intro _ | split)

theorem keeps_fillCache {M : State → Prop} {s : State} (id) (e) (b) (hs : Keeps M s) :
    Keeps M (State.fillCache id e b s) := by
  unfold State.fillCache
  repeat' (first | with_reducible assumption | with_reducible apply keeps_cacheTouch | split)

theorem keeps_gotEntry {M : State → Prop} {s : State} (id) (e) (poison) (hs : Keeps M s) :
    Keeps M (State.gotEntry id e poison s) := by
  unfold State.gotEntry
  repeat' (first
    | with_reducible assumption | with_reducible apply keeps_updR | with_reducible apply keeps_readEnds
    | with_reducible apply keeps_readFails | split | dsimp only)

theorem keeps_wantEntry {M : State → Prop} {s : State} (id) (hs : Keeps M s) :
    Keeps M (State.wantEntry id s) := by
  unfold State.wantEntry
  repeat' (first
    | with_reducible assumption | with_reducible apply keeps_whenB | with_reducible apply keeps_updR
    | with_reducible apply keeps_gotEntry | with_reducible apply keeps_cacheTouch | with_reducible apply keeps_readSpan
    | with_reducible apply keeps_bump | intro _ | split | dsimp only)

theorem keeps_restartRead {M : State → Prop} {s : State} (id) (hs : Keeps M s) : Keeps M (State.restartRead id s) := by
  unfold State.restartRead
  repeat' (first
    | with_reducible assumption | with_reducible apply keeps_wantEntry | with_reducible apply keeps_bump
    | with_reducible apply keeps_dropReqs | intro _ | split)

theorem keeps_gotPayload {M : State → Prop} {s : State} (id) (base) (addr) (n) (port) (img) (dead) (hs : Keeps M s) : Keeps M
    (State.gotPayload id base addr n port img dead s) := by
  unfold State.gotPayload
  repeat' (first
    | with_reducible assumption | with_reducible apply keeps_restartRead | with_reducible apply keeps_updR
    | with_reducible apply keeps_readEnds | with_reducible apply keeps_readFails | with_reducible apply keeps_spillStore
    | intro _ | split | dsimp only)

theorem keeps_presenceIs {M : State → Prop} {s : State} (j) (word) (hs : Keeps M s) : Keeps M (State.presenceIs j word s) := by
  unfold State.presenceIs
  repeat' (first
    | with_reducible assumption | with_reducible apply keeps_wantEntry | with_reducible apply keeps_readEnds | intro _ | split)

theorem keeps_gotPresence {M : State → Prop} {s : State} (id) (word) (poison) (hs : Keeps M s) : Keeps M (State.gotPresence id
    word poison s) := by
  unfold State.gotPresence
  repeat' (first
    | with_reducible assumption | with_reducible apply keeps_presenceIs | with_reducible apply keeps_updRun
    | with_reducible apply keeps_whenB | intro _ | split)

theorem keeps_readPresence {M : State → Prop} {s : State} (id) (trec) (tile) (hs : Keeps M s) : Keeps M (State.readPresence id
    trec tile s) := by
  unfold State.readPresence
  repeat' (first
    | with_reducible assumption | with_reducible apply keeps_updR | with_reducible apply keeps_readSpan | intro _ | split
    | dsimp only)

theorem keeps_heldReads {M : State → Prop} {s : State} (hs : Keeps M s) :
    Keeps M (State.heldReads s) := by
  unfold State.heldReads
  repeat' (first
    | with_reducible assumption | with_reducible apply keeps_forAll | with_reducible apply keeps_readPresence | intro _ | split)

theorem keeps_openUnit {M : State → Prop} {s : State} (j) (hs : Keeps M s) : Keeps M (State.openUnit j s) := by
  unfold State.openUnit
  repeat' (first
    | with_reducible assumption | with_reducible apply keeps_addUnit | with_reducible apply keeps_chosen | intro _ | split)

theorem keeps_presenceKnown {M : State → Prop} {s : State} (hs : Keeps M s) : Keeps M (State.presenceKnown s) := by
  unfold State.presenceKnown
  repeat' (first
    | with_reducible assumption | with_reducible apply keeps_presenceIs | with_reducible apply keeps_readSpan
    | with_reducible apply keeps_forAll | intro _ | split)

theorem keeps_readPayload {M : State → Prop} {s : State} (j) (hs : Keeps M s) :
    Keeps M (State.readPayload j s) := by
  unfold State.readPayload
  repeat' (first | with_reducible assumption | with_reducible apply keeps_readSpan | with_reducible apply keeps_updR | split)

theorem keeps_startRead {M : State → Prop} {s : State} (n) (seq) (unit) (use) (recAddr) (trec) (tile) (hs : Keeps M
    s) :
    Keeps M (State.startRead n seq unit use recAddr trec tile s) := by
  unfold State.startRead
  repeat' (first
    | with_reducible assumption | with_reducible apply keeps_numbered | with_reducible apply keeps_readPresence | split
    | fail_if_no_progress (with_reducible refine keeps_mk rfl ?_))

theorem keeps_abandonTile {M : State → Prop} {s : State} (w) (hs : Keeps M s) : Keeps M (State.abandonTile w s) := by
  unfold State.abandonTile
  repeat' (first
    | with_reducible assumption | with_reducible apply keeps_updW | with_reducible apply keeps_dropReqs
    | with_reducible apply keeps_forgetAsk | with_reducible apply keeps_dropPlaces)

theorem keeps_makeRoomFor {M : State → Prop} {s : State} (o) (n) (tiles) (hs : Keeps M s) : Keeps M (State.makeRoomFor o n
    tiles s).1 := by
  unfold State.makeRoomFor
  repeat' (first
    | with_reducible assumption | with_reducible apply keeps_spillSpace | with_reducible apply keeps_bumpN
    | with_reducible refine keeps_fst (by assumption) ?_ | intro _ | split)

theorem keeps_admitHeld {M : State → Prop} {s : State} (o) (n) (tiles) (hs : Keeps M s) : Keeps M (State.admitHeld o n tiles
    s).1 := by
  unfold State.admitHeld
  repeat' (first
    | with_reducible assumption | with_reducible apply keeps_spillSpace | with_reducible apply keeps_bumpN
    | with_reducible refine keeps_fst (by assumption) ?_ | intro _ | split)

theorem keeps_makeRooms {M : State → Prop} {s : State} (a1) (a2) (a3) (hs : Keeps M s) : Keeps M (State.makeRooms a1 a2 a3 s).1
    := by
  induction a3 generalizing s a1 a2 with
  | nil => exact keeps_bumpN _ _ hs
  | cons x l ih =>
    unfold State.makeRooms
    split
    · exact ih _ _ hs
    · split
      · exact ih _ _ hs
      · split
        · next h => exact ih _ _ (keeps_fst h (keeps_spillSpace _ _ hs))
        · next h => exact keeps_fst h (keeps_spillSpace _ _ hs)

theorem keeps_imageRooms {M : State → Prop} {s : State} (n) (hs : Keeps M s) : Keeps M (State.imageRooms n s).1 := by
  unfold State.imageRooms
  repeat' (first
    | with_reducible assumption | with_reducible apply keeps_makeRooms | with_reducible refine keeps_fst (by assumption) ?_
    | intro _ | split | dsimp only | fail_if_no_progress (with_reducible refine keeps_mk rfl ?_))

theorem keeps_storeImage {M : State → Prop} {s : State} (id) (hs : Keeps M s) : Keeps M (State.storeImage id s) := by
  unfold State.storeImage
  repeat' (first | with_reducible assumption | with_reducible apply keeps_spillStore)

theorem keeps_failSource {M : State → Prop} {s : State} (u) (id) (reason) (detailA) (detailB) (hs : Keeps M s) :
    Keeps M (State.failSource u id reason detailA detailB s) := by
  unfold State.failSource
  repeat' (first
    | with_reducible assumption | with_reducible apply keeps_workReport | with_reducible apply keeps_flagRun
    | with_reducible apply keeps_errTile | with_reducible apply keeps_bump | with_reducible apply keeps_updW | split)

theorem keeps_quantFaults {M : State → Prop} {s : State} (a1) (a2) (hs : Keeps M s) :
    Keeps M (State.quantFaults a1 a2 s).1 := by
  unfold State.quantFaults
  refine keeps_foldl (R := fun (x : State × _) => Keeps M x.1) (fun x f h => ?_) hs
  dsimp only
  have h1 : Keeps M (x.1.bump .quantCheck) := keeps_bump _ h
  split
  · exact h1
  · split
    · exact h1
    · split
      · exact keeps_failSource _ _ _ _ _ h1
      · exact keeps_workReport _ _ _ h1

theorem keeps_quantCounts {M : State → Prop} {s : State} (a1) (hs : Keeps M s) :
    Keeps M (State.quantCounts a1 s) := by
  unfold State.quantCounts
  repeat' (first | with_reducible assumption | with_reducible apply keeps_bumpN)

theorem keeps_quantiseTile {M : State → Prop} {s : State} (id) (faults) (hs : Keeps M s) : Keeps M (State.quantiseTile id
    faults s) := by
  unfold State.quantiseTile
  repeat' (first
    | with_reducible assumption | with_reducible apply keeps_storeImage | with_reducible apply keeps_updW
    | with_reducible apply keeps_quantFaults | with_reducible apply keeps_quantCounts
    | with_reducible refine keeps_fst (by assumption) ?_ | intro _ | split | dsimp only)

theorem keeps_carryStep {M : State → Prop} {s : State} (w) (faults) (hs : Keeps M s) :
    Keeps M (State.carryStep w faults s) := by
  unfold State.carryStep
  repeat' (first
    | with_reducible assumption | with_reducible apply keeps_forAll | with_reducible apply keeps_quantiseTile
    | with_reducible apply keeps_startRead | with_reducible apply keeps_updW | intro _ | split | dsimp only)

theorem keeps_carrySteps {M : State → Prop} {s : State} (faults) (hs : Keeps M s) :
    Keeps M (State.carrySteps faults s) := by
  unfold State.carrySteps
  repeat' (first | with_reducible assumption | with_reducible apply keeps_forAll | with_reducible apply keeps_carryStep | intro _)

theorem keeps_updPart {M : State → Prop} {s : State} (id) (i) (f) (hs : Keeps M s) :
    Keeps M (State.updPart id i f s) :=
  keeps_mk rfl hs

theorem keeps_settleRec {M : State → Prop} {s : State} (w) (a2) (reason) (sev) (core) (a) (b) (hs : Keeps M s) :
    Keeps M (State.settleRec w a2 reason sev core a b s) := by
  unfold State.settleRec
  repeat' (first | with_reducible assumption | with_reducible apply keeps_workReport | with_reducible apply keeps_bump)

theorem keeps_noMajority {M : State → Prop} {s : State} (w) (i) (a3) (a) (b) (c) (x) (hs : Keeps M s) :
    Keeps M (State.noMajority w i a3 a b c x s) := by
  unfold State.noMajority
  repeat' (first
    | with_reducible assumption | with_reducible apply keeps_settleRec | with_reducible apply keeps_flagRun
    | with_reducible apply keeps_errTile | with_reducible apply keeps_abandonTile | with_reducible apply keeps_updPart
    | with_reducible apply keeps_dropPlaces | with_reducible apply keeps_coreFault | split)

theorem keeps_checkerEnds {M : State → Prop} {s : State} (w) (i) (a3) (b) (seen) (hs : Keeps M s) :
    Keeps M (State.checkerEnds w i a3 b seen s) := by
  unfold State.checkerEnds
  repeat' (first
    | with_reducible assumption | with_reducible apply keeps_checkedOn | with_reducible apply keeps_bump
    | with_reducible apply keeps_updPart | with_reducible apply keeps_noMajority | split | dsimp only)

theorem keeps_unloadedRec {M : State → Prop} {s : State} (w) (kind) (id) (hs : Keeps M s) :
    Keeps M (State.unloadedRec w kind id s) := by
  unfold State.unloadedRec
  repeat' (first | with_reducible assumption | with_reducible apply keeps_updRun | with_reducible apply keeps_workReport | split)

theorem keeps_unloadedRecs {M : State → Prop} {s : State} (w) (r) (hs : Keeps M s) :
    Keeps M (State.unloadedRecs w r s) := by
  unfold State.unloadedRecs
  repeat' (first
    | with_reducible assumption | with_reducible apply keeps_whenB | with_reducible apply keeps_unloadedRec | intro _)

theorem keeps_codePart {M : State → Prop} {s : State} (w) (recAddr) (r) (tile) (img) (quality) (hs : Keeps M s) :
    Keeps M (State.codePart w recAddr r tile img quality s).1 := by
  unfold State.codePart
  repeat' (first
    | with_reducible assumption | with_reducible apply keeps_unloadedRecs | with_reducible apply keeps_chosen | intro _ | split
    | dsimp only)

theorem keeps_codeParts {M : State → Prop} {s : State} (a1) (a2) (hs : Keeps M s) :
    Keeps M (State.codeParts a1 a2 s).1 := by
  unfold State.codeParts
  dsimp only
  refine keeps_foldl (R := fun (x : State × _) => Keeps M x.1) (fun x f h => ?_) ?_
  · dsimp only
    apply keeps_codePart
    exact h
  · dsimp only
    apply keeps_codePart
    exact hs

theorem keeps_noChecker {M : State → Prop} {s : State} (w) (hs : Keeps M s) :
    Keeps M (State.noChecker w s) := by
  unfold State.noChecker
  repeat' (first
    | with_reducible assumption | with_reducible apply keeps_bump | with_reducible apply keeps_updRun
    | with_reducible apply keeps_workReport | split | dsimp only)

theorem keeps_selectPart {M : State → Prop} {s : State} (w) (a2) (hs : Keeps M s) :
    Keeps M (State.selectPart w a2 s).1 := by
  unfold State.selectPart
  repeat' (first
    | with_reducible assumption | with_reducible apply keeps_updStream | with_reducible apply keeps_bump
    | with_reducible apply keeps_noChecker | split | dsimp only)

theorem keeps_selectParts {M : State → Prop} {s : State} (a1) (a2) (hs : Keeps M s) :
    Keeps M (State.selectParts a1 a2 s).1 := by
  unfold State.selectParts
  refine keeps_foldl (R := fun (x : State × _) => Keeps M x.1) (fun x f h => ?_) hs
  exact keeps_selectPart _ _ h

theorem keeps_codeEnds {M : State → Prop} {s : State} (w0) (coder) (faulty) (hs : Keeps M s) :
    Keeps M (State.codeEnds w0 coder faulty s) := by
  unfold State.codeEnds
  repeat' (first
    | with_reducible assumption | with_reducible apply keeps_codeParts | with_reducible apply keeps_selectParts
    | with_reducible apply keeps_updW | with_reducible apply keeps_codedOn | split)

theorem keeps_codeZero {M : State → Prop} {s : State} (w) (hs : Keeps M s) :
    Keeps M (State.codeZero w s) := by
  unfold State.codeZero
  repeat' (first | with_reducible assumption | with_reducible apply keeps_codeParts | with_reducible apply keeps_updW | split)

theorem keeps_gotSource {M : State → Prop} {s : State} (id) (base) (addr) (n) (port) (img) (dead) (faults) (hs : Keeps M s) :
    Keeps M (State.gotSource id base addr n port img dead faults s) := by
  unfold State.gotSource
  repeat' (first
    | with_reducible assumption | with_reducible apply keeps_updW | with_reducible apply keeps_failSource
    | with_reducible apply keeps_quantiseTile | split | dsimp only)

theorem keeps_readSource {M : State → Prop} {s : State} (id) (at_) (hs : Keeps M s) :
    Keeps M (State.readSource id at_ s) := by
  unfold State.readSource
  repeat' (first | with_reducible assumption | with_reducible apply keeps_readSpan)

theorem keeps_storeRaw {M : State → Prop} {s : State} (w) (i) (p) (hs : Keeps M s) : Keeps M (State.storeRaw w i p s) := by
  unfold State.storeRaw
  repeat' (first
    | with_reducible assumption | with_reducible apply keeps_forgetAsk | with_reducible apply keeps_dropPlaces
    | with_reducible apply keeps_dropReqs | with_reducible apply keeps_updW | with_reducible apply keeps_updPart)

theorem keeps_thirdEnds {M : State → Prop} {s : State} (w) (i) (a3) (b) (c) (x) (seen) (hs : Keeps M s) :
    Keeps M (State.thirdEnds w i a3 b c x seen s) := by
  unfold State.thirdEnds
  repeat' (first
    | with_reducible assumption | with_reducible apply keeps_checkedOn | with_reducible apply keeps_coreFault
    | with_reducible apply keeps_updPart | with_reducible apply keeps_settleRec | with_reducible apply keeps_storeRaw
    | with_reducible apply keeps_noMajority | split | dsimp only)

end Sys2Proof.Machine
end

