-- ==== Sys2Proof/Laws/KeepsCommit.lean ====
section
/-! SUPPORT. `Keeps` passes through commits, accumulators, the Atoll and MERGE. -/

namespace Sys2Proof.Machine

theorem keeps_allocWait {M : State → Prop} {s : State} (pool) (id) (hs : Keeps M s) :
    Keeps M (State.allocWait pool id s) := by
  unfold State.allocWait
  repeat' (first
    | with_reducible assumption | with_reducible apply keeps_bump | with_reducible apply keeps_updW
    | with_reducible apply keeps_updPool | with_reducible apply keeps_whenB | with_reducible refine keeps_fst (by assumption) ?_
    | intro _ | split)

theorem keeps_answer {M : State → Prop} {s : State} (cluster) (job) (a) (hs : Keeps M s) :
    Keeps M (State.answer cluster job a s) := by
  unfold State.answer
  repeat' (first | with_reducible assumption | with_reducible apply keeps_sendRing)

theorem keeps_answered {M : State → Prop} {s : State} (id) (hs : Keeps M s) : Keeps M (State.answered id s) := by
  unfold State.answered
  repeat' (first
    | with_reducible assumption | intro _ | split | dsimp only | fail_if_no_progress (with_reducible refine keeps_mk rfl ?_))

theorem keeps_askSpill {M : State → Prop} {s : State} (x) (hs : Keeps M s) : Keeps M (State.askSpill x s) := by
  unfold State.askSpill
  repeat' (first | with_reducible assumption | with_reducible apply keeps_ask | with_reducible apply keeps_updSpill)

theorem keeps_askSpills {M : State → Prop} {s : State} (hs : Keeps M s) : Keeps M (State.askSpills s) := by
  unfold State.askSpills
  repeat' (first
    | with_reducible assumption | with_reducible apply keeps_askSpill | with_reducible apply keeps_forAll | intro _)

theorem keeps_carryCounts {M : State → Prop} {s : State} (w) (i) (hs : Keeps M s) : Keeps M (State.carryCounts w i s) := by
  unfold State.carryCounts
  repeat' (first
    | with_reducible assumption | with_reducible apply keeps_flagRun | with_reducible apply keeps_errTile | intro _ | split)

theorem keeps_markLost {M : State → Prop} {s : State} (c) (hs : Keeps M s) : Keeps M (State.markLost c s) := by
  unfold State.markLost
  repeat' (first
    | with_reducible assumption | with_reducible apply keeps_report | with_reducible apply keeps_loseSectors
    | with_reducible apply keeps_bump)

theorem keeps_partDone {M : State → Prop} {s : State} (id) (i) (old) (hs : Keeps M s) : Keeps M (State.partDone id i old s) := by
  unfold State.partDone
  repeat' (first
    | with_reducible assumption | with_reducible apply keeps_carryCounts | with_reducible apply keeps_updRun
    | with_reducible apply keeps_loseSectors | with_reducible apply keeps_bump | with_reducible apply keeps_updPart
    | with_reducible apply keeps_updW | with_reducible apply keeps_whenB | with_reducible refine keeps_fst (by assumption) ?_
    | intro _ | split | dsimp only)

theorem keeps_commitEnds {M : State → Prop} {s : State} (c) (hs : Keeps M s) : Keeps M (State.commitEnds c s) := by
  unfold State.commitEnds
  repeat' (first
    | with_reducible assumption | with_reducible apply keeps_markLost | with_reducible apply keeps_answer
    | with_reducible apply keeps_partDone | with_reducible apply keeps_whenB | intro _ | split | dsimp only
    | fail_if_no_progress (with_reducible refine keeps_mk rfl ?_))

theorem keeps_partFails {M : State → Prop} {s : State} (id) (i) (keep) (hs : Keeps M s) :
    Keeps M (State.partFails id i keep s) := by
  unfold State.partFails
  repeat' (first | with_reducible assumption | with_reducible apply keeps_dropPlaces | with_reducible apply keeps_updW | split)

theorem keeps_superseded {M : State → Prop} {s : State} (c) (hs : Keeps M s) :
    Keeps M (State.superseded c s) := by
  unfold State.superseded
  repeat' (first
    | with_reducible assumption | with_reducible apply keeps_answer | with_reducible apply keeps_sendRelease
    | with_reducible apply keeps_partFails | with_reducible apply keeps_flagRun | split)

theorem keeps_commitIdle {M : State → Prop} {s : State} (c) (moot) (hs : Keeps M s) : Keeps M (State.commitIdle c moot s) := by
  unfold State.commitIdle
  repeat' (first
    | with_reducible assumption | with_reducible apply keeps_superseded | with_reducible apply keeps_answer
    | with_reducible apply keeps_partFails | with_reducible apply keeps_partDone | intro _ | split | dsimp only
    | fail_if_no_progress (with_reducible refine keeps_mk rfl ?_))

theorem keeps_discardStop {M : State → Prop} {s : State} (n) (hs : Keeps M s) : Keeps M (State.discardStop n s) := by
  unfold State.discardStop
  repeat' (first
    | with_reducible assumption | with_reducible apply keeps_updStream | intro _ | split | dsimp only
    | fail_if_no_progress (with_reducible refine keeps_mk rfl ?_))

theorem keeps_updCommit {M : State → Prop} {s : State} (id) (f) (hs : Keeps M s) :
    Keeps M (State.updCommit id f s) :=
  keeps_mk rfl hs

theorem keeps_entryAcked {M : State → Prop} {s : State} (id) (hs : Keeps M s) :
    Keeps M (State.entryAcked id s) := by
  unfold State.entryAcked
  repeat' (first
    | with_reducible assumption | with_reducible apply keeps_cacheTouch | with_reducible apply keeps_entryChanged
    | with_reducible apply keeps_sendRing | with_reducible apply keeps_invalidate | with_reducible apply keeps_updCommit
    | with_reducible apply keeps_commitEnds | with_reducible apply keeps_writeSpan
    | with_reducible refine keeps_fst (by assumption) ?_ | intro _ | split | dsimp only)

theorem keeps_entryErr {M : State → Prop} {s : State} (id) (hs : Keeps M s) :
    Keeps M (State.entryErr id s) := by
  unfold State.entryErr
  repeat' (first
    | with_reducible assumption | with_reducible apply keeps_write16 | with_reducible apply keeps_updCommit
    | with_reducible apply keeps_answer | with_reducible apply keeps_report | with_reducible apply keeps_partFails
    | with_reducible apply keeps_flagRun | with_reducible apply keeps_errTile | with_reducible apply keeps_workReport | split
    | dsimp only | fail_if_no_progress (with_reducible refine keeps_mk rfl ?_))

theorem keeps_giveBack {M : State → Prop} {s : State} (pool) (runs) (hs : Keeps M s) : Keeps M (State.giveBack pool runs s) :=
    by
  unfold State.giveBack
  repeat' (first
    | with_reducible assumption | with_reducible apply keeps_sendRelease | with_reducible apply keeps_forAll | intro _)

theorem keeps_waitRec {M : State → Prop} {s : State} (x) (again) (hs : Keeps M s) : Keeps M (State.waitRec x again s) := by
  unfold State.waitRec
  repeat' (first
    | with_reducible assumption | with_reducible apply keeps_workReport | with_reducible apply keeps_report | intro _ | split)

theorem keeps_waitRemote {M : State → Prop} {s : State} (id) (hs : Keeps M s) : Keeps M (State.waitRemote id s) := by
  unfold State.waitRemote
  repeat' (first
    | with_reducible assumption | with_reducible apply keeps_waitRec | intro _ | split | dsimp only
    | fail_if_no_progress (with_reducible refine keeps_mk rfl ?_))

theorem keeps_writeParts {M : State → Prop} {s : State} (id) (hs : Keeps M s) :
    Keeps M (State.writeParts id s) := by
  unfold State.writeParts
  repeat' (first
    | with_reducible assumption | with_reducible apply keeps_forAll | with_reducible apply keeps_writeSpan
    | with_reducible apply keeps_updPart | with_reducible apply keeps_updW | intro _ | split)

theorem keeps_grantReady {M : State → Prop} {s : State} (id) (hs : Keeps M s) :
    Keeps M (State.grantReady id s) := by
  unfold State.grantReady
  repeat' (first | with_reducible assumption | with_reducible apply keeps_updW | with_reducible apply keeps_writeParts | split)

theorem keeps_gotGrant {M : State → Prop} {s : State} (a) (starts) (hs : Keeps M s) : Keeps M (State.gotGrant a starts s) := by
  unfold State.gotGrant
  repeat' (first
    | with_reducible assumption | with_reducible apply keeps_giveBack | with_reducible apply keeps_grantReady
    | with_reducible apply keeps_updW | with_reducible apply keeps_updSpill | intro _ | split | dsimp only)

theorem keeps_stopTile {M : State → Prop} {s : State} (intake) (w) (hs : Keeps M s) : Keeps M (State.stopTile intake w s) := by
  unfold State.stopTile
  repeat' (first
    | with_reducible assumption | with_reducible apply keeps_cancelRead | with_reducible apply keeps_dropReqs
    | with_reducible apply keeps_forgetAsk | with_reducible apply keeps_dropPlaces | with_reducible apply keeps_updW
    | with_reducible apply keeps_dropW | with_reducible apply keeps_forAll | intro _ | split | dsimp only
    | fail_if_no_progress (with_reducible refine keeps_mk rfl ?_))

theorem keeps_stopRun {M : State → Prop} {s : State} (n) (seq) (u0) (hs : Keeps M s) : Keeps M (State.stopRun n seq u0 s) := by
  unfold State.stopRun
  repeat' (first
    | with_reducible assumption | with_reducible apply keeps_stopTile | with_reducible apply keeps_cancelRead
    | with_reducible apply keeps_updRun | with_reducible apply keeps_bump | with_reducible apply keeps_updStream
    | with_reducible apply keeps_forAll | with_reducible apply keeps_whenB | intro _ | split | dsimp only
    | fail_if_no_progress (with_reducible refine keeps_mk rfl ?_))

theorem keeps_gotSectors {M : State → Prop} {s : State} (a) (ans) (hs : Keeps M s) : Keeps M (State.gotSectors a ans s) := by
  unfold State.gotSectors
  repeat' (first
    | with_reducible assumption | with_reducible apply keeps_answered | with_reducible apply keeps_waitRemote
    | with_reducible apply keeps_gotGrant | with_reducible apply keeps_stopRun | with_reducible apply keeps_updSpill | intro _
    | split | dsimp only)

theorem keeps_gotLock {M : State → Prop} {s : State} (x) (a) (hs : Keeps M s) : Keeps M (State.gotLock x a s) := by
  unfold State.gotLock
  repeat' (first
    | with_reducible assumption | with_reducible apply keeps_waitRemote | with_reducible apply keeps_answered | intro _
    | split | dsimp only | fail_if_no_progress (with_reducible refine keeps_mk rfl ?_))

theorem keeps_gotAnswer {M : State → Prop} {s : State} (id) (a) (hs : Keeps M s) : Keeps M (State.gotAnswer id a s) := by
  unfold State.gotAnswer
  repeat' (first
    | with_reducible assumption | with_reducible apply keeps_gotSectors | with_reducible apply keeps_gotLock
    | with_reducible apply keeps_answered | with_reducible apply keeps_waitRemote | with_reducible apply keeps_partDone
    | with_reducible apply keeps_partFails | with_reducible apply keeps_flagRun | with_reducible apply keeps_errTile | intro _
    | split)

theorem keeps_plausible {M : State → Prop} {s : State} (n) (seq) (recAddr) (r) (tile) (img) (counted) (hs : Keeps M
    s) :
    Keeps M (State.plausible n seq recAddr r tile img counted s) := by
  unfold State.plausible
  repeat' (first
    | with_reducible assumption | with_reducible apply keeps_whenB | with_reducible apply keeps_workReport
    | with_reducible apply keeps_bump | with_reducible apply keeps_updStream | intro _ | split | dsimp only)

theorem keeps_presenceAcked {M : State → Prop} {s : State} (id) (hs : Keeps M s) :
    Keeps M (State.presenceAcked id s) := by
  unfold State.presenceAcked
  repeat' (first | with_reducible assumption | with_reducible apply keeps_commitEnds | split)

theorem keeps_releaseOlds {M : State → Prop} {s : State} (w) (hs : Keeps M s) : Keeps M (State.releaseOlds w s) := by
  unfold State.releaseOlds
  repeat' (first
    | with_reducible assumption | with_reducible apply keeps_sendRelease | with_reducible apply keeps_forAll | intro _)

theorem keeps_remoteMapped {M : State → Prop} {s : State} (cluster) (job) (hs : Keeps M s) :
    Keeps M (State.remoteMapped cluster job s) := by
  unfold State.remoteMapped
  repeat' (first
    | with_reducible assumption | with_reducible apply keeps_answer | split
    | fail_if_no_progress (with_reducible refine keeps_mk rfl ?_))

theorem keeps_retire {M : State → Prop} {s : State} (w) (hs : Keeps M s) : Keeps M (State.retire w s) := by
  unfold State.retire
  repeat' (first
    | with_reducible assumption | with_reducible apply keeps_updRun | with_reducible apply keeps_dropW
    | with_reducible apply keeps_unitEnds | with_reducible apply keeps_releaseOlds | with_reducible apply keeps_whenB | intro _)

theorem keeps_retryRemote {M : State → Prop} {s : State} (id) (hs : Keeps M s) : Keeps M (State.retryRemote id s) := by
  unfold State.retryRemote
  repeat' (first
    | with_reducible assumption | with_reducible apply keeps_sendRing | with_reducible apply keeps_waitRec
    | with_reducible refine keeps_fst (by assumption) ?_ | intro _ | split | dsimp only
    | fail_if_no_progress (with_reducible refine keeps_mk rfl ?_))

theorem keeps_sendCommit {M : State → Prop} {s : State} (w) (i) (p) (hs : Keeps M s) : Keeps M (State.sendCommit w i p s) := by
  unfold State.sendCommit
  repeat' (first
    | with_reducible assumption | with_reducible apply keeps_plausible | with_reducible apply keeps_updW
    | with_reducible apply keeps_numbered | with_reducible apply keeps_sendRing | intro _ | split | dsimp only
    | fail_if_no_progress (with_reducible refine keeps_mk rfl ?_))

theorem keeps_takeGrant {M : State → Prop} {s : State} (pool) (runs) (free) (skew) (why) (hs : Keeps M s) :
    Keeps M (State.takeGrant pool runs free skew why s) := by
  unfold State.takeGrant
  repeat' (first
    | with_reducible assumption | with_reducible apply keeps_forAll | with_reducible apply keeps_updPool
    | with_reducible apply keeps_writeMap | with_reducible apply keeps_bumpN | intro _)

theorem keeps_serveRemote {M : State → Prop} {s : State} (r) (fresh) (hs : Keeps M s) :
    Keeps M (State.serveRemote r fresh s) := by
  unfold State.serveRemote
  repeat' (first
    | with_reducible assumption | with_reducible apply keeps_takeGrant | with_reducible apply keeps_bump
    | with_reducible apply keeps_answer | split | fail_if_no_progress (with_reducible refine keeps_mk rfl ?_))

theorem keeps_serveRequest {M : State → Prop} {s : State} (id) (hs : Keeps M s) : Keeps M (State.serveRequest id s) := by
  unfold State.serveRequest
  repeat' (first
    | with_reducible assumption | with_reducible apply keeps_grantReady | with_reducible apply keeps_updPool
    | with_reducible apply keeps_updW | with_reducible apply keeps_takeGrant | with_reducible apply keeps_allocWait
    | with_reducible apply keeps_stopRun | with_reducible apply keeps_ask | intro _ | split)

theorem keeps_takeCommit {M : State → Prop} {s : State} (img) (hs : Keeps M s) : Keeps M (State.takeCommit img s) := by
  unfold State.takeCommit
  repeat' (first
    | with_reducible assumption | with_reducible apply keeps_superseded | with_reducible apply keeps_updCommit
    | with_reducible apply keeps_bumpN | with_reducible apply keeps_commitIdle | with_reducible apply keeps_write16
    | with_reducible apply keeps_forAll | intro _ | split | dsimp only
    | fail_if_no_progress (with_reducible refine keeps_mk rfl ?_))

theorem keeps_addCounts {M : State → Prop} {s : State} (r) (hs : Keeps M s) :
    Keeps M (State.addCounts r s) := by
  unfold State.addCounts
  repeat' (first | with_reducible assumption | with_reducible apply keeps_bumpN)

theorem keeps_addFixed {M : State → Prop} {s : State} (a) (f) (rest) (hw0) (hs : Keeps M s) : Keeps M (State.addFixed a f rest
    hw0 s) := by
  unfold State.addFixed
  repeat' (first
    | with_reducible assumption | with_reducible apply keeps_updA | with_reducible apply keeps_addCounts | intro _ | split)

theorem keeps_addHeld {M : State → Prop} {s : State} (a) (p) (hw0) (hs : Keeps M s) : Keeps M (State.addHeld a p hw0 s) := by
  unfold State.addHeld
  repeat' (first
    | with_reducible assumption | with_reducible apply keeps_updA | with_reducible apply keeps_addCounts | intro _ | split)

theorem keeps_accAdd {M : State → Prop} {s : State} (id) (k) (hw) (hs : Keeps M s) :
    Keeps M (State.accAdd id k hw s) := by
  unfold State.accAdd
  repeat' (first | with_reducible assumption | with_reducible apply keeps_addFixed | with_reducible apply keeps_addHeld | split)

theorem keeps_dropAccReads {M : State → Prop} {s : State} (id) (hs : Keeps M s) :
    Keeps M (State.dropAccReads id s) := by
  unfold State.dropAccReads
  repeat' (first
    | with_reducible assumption | with_reducible apply keeps_forAll | with_reducible apply keeps_cancelRead | intro _)

theorem keeps_dropA {M : State → Prop} {s : State} (id) (hs : Keeps M s) : Keeps M (State.dropA id s) := by
  unfold State.dropA
  repeat' (first
    | with_reducible assumption | intro _ | split | dsimp only | fail_if_no_progress (with_reducible refine keeps_mk rfl ?_))

theorem keeps_accFails {M : State → Prop} {s : State} (a) (hs : Keeps M s) :
    Keeps M (State.accFails a s) := by
  unfold State.accFails
  repeat' (first
    | with_reducible assumption | with_reducible apply keeps_forAll | with_reducible apply keeps_flagRun
    | with_reducible apply keeps_dropAccReads | with_reducible apply keeps_addDone | with_reducible apply keeps_errTile
    | with_reducible apply keeps_dropA | intro _)

theorem keeps_addAcc {M : State → Prop} {s : State} (a) (hs : Keeps M s) :
    Keeps M (State.addAcc a s) := by
  unfold State.addAcc
  repeat' (first
    | with_reducible assumption | with_reducible apply keeps_numbered
    | fail_if_no_progress (with_reducible refine keeps_mk rfl ?_))

theorem keeps_boundRec {M : State → Prop} {s : State} (n) (seq) (recAddr) (tile) (b) (hs : Keeps M s) :
    Keeps M (State.boundRec n seq recAddr tile b s) := by
  unfold State.boundRec
  repeat' (first | with_reducible assumption | with_reducible apply keeps_workReport | with_reducible apply keeps_bump | split)

theorem keeps_spillRec {M : State → Prop} {s : State} (n) (pool) (again) (hs : Keeps M s) :
    Keeps M (State.spillRec n pool again s) := by
  unfold State.spillRec
  repeat' (first | with_reducible assumption | with_reducible apply keeps_report)

theorem keeps_spillStall {M : State → Prop} {s : State} (n) (staging) (hs : Keeps M s) : Keeps M (State.spillStall n staging s)
    := by
  unfold State.spillStall
  repeat' (first
    | with_reducible assumption | with_reducible apply keeps_spillRec | with_reducible apply keeps_updStream | intro _ | split)

theorem keeps_spillFound {M : State → Prop} {s : State} (n) (hs : Keeps M s) :
    Keeps M (State.spillFound n s) :=
  keeps_mk rfl hs

theorem keeps_contribution {M : State → Prop} {s : State} (acc) (k) (entry) (payload) (hs : Keeps M s) :
    Keeps M (State.contribution acc k entry payload s) := by
  unfold State.contribution
  repeat' (first
    | with_reducible assumption | with_reducible apply keeps_dropReqs | with_reducible apply keeps_updR
    | with_reducible apply keeps_readEnds | with_reducible apply keeps_makeRoomFor | with_reducible apply keeps_spillStall
    | with_reducible apply keeps_spillFound | with_reducible apply keeps_spillStore
    | with_reducible refine keeps_fst (by assumption) ?_ | intro _ | split)

theorem keeps_drainAcc {M : State → Prop} {s : State} (a) (base) (hw) (hs : Keeps M s) : Keeps M (State.drainAcc a base hw s) := by
  unfold State.drainAcc
  repeat' (first
    | with_reducible assumption | with_reducible apply keeps_dropA | with_reducible apply keeps_bumpN
    | with_reducible apply keeps_boundRec | with_reducible apply keeps_addW | with_reducible apply keeps_quantiseTile
    | with_reducible apply keeps_forAll | with_reducible refine keeps_fst (by assumption) ?_ | intro _ | split)

theorem keeps_drainRoom {M : State → Prop} {s : State} (a) (hw) (hs : Keeps M s) : Keeps M (State.drainRoom a hw s).1 := by
  unfold State.drainRoom
  repeat' (first
    | with_reducible assumption | with_reducible apply keeps_imageRooms | with_reducible apply keeps_spillFound
    | with_reducible apply keeps_drainAcc | with_reducible apply keeps_spillStall
    | with_reducible refine keeps_fst (by assumption) ?_ | intro _ | split)

theorem keeps_loadPreload {M : State → Prop} {s : State} (a) (hs : Keeps M s) :
    Keeps M (State.loadPreload a s) := by
  unfold State.loadPreload
  repeat' (first | with_reducible assumption | with_reducible apply keeps_updA | with_reducible apply keeps_addCounts | split)

theorem keeps_moveAcc {M : State → Prop} {s : State} (a) (hs : Keeps M s) : Keeps M (State.moveAcc a s) := by
  unfold State.moveAcc
  repeat' (first
    | with_reducible assumption | with_reducible apply keeps_updA | with_reducible apply keeps_replayedFrom
    | with_reducible apply keeps_flagRun | with_reducible apply keeps_chosen | intro _ | split | dsimp only)

theorem keeps_readParts {M : State → Prop} {s : State} (a) (nd) (use) (recAddr) (trec) (first) (hs : Keeps M s) :
    Keeps M (State.readParts a nd use recAddr trec first s) := by
  unfold State.readParts
  repeat' (first | with_reducible assumption | with_reducible apply keeps_forAll | with_reducible apply keeps_startRead | intro _)

theorem keeps_readPreload {M : State → Prop} {s : State} (a) (nd) (recAddr) (trec) (first) (hs : Keeps M s) :
    Keeps M (State.readPreload a nd recAddr trec first s) := by
  unfold State.readPreload
  repeat' (first | with_reducible assumption | with_reducible apply keeps_readParts | with_reducible apply keeps_updA)

theorem keeps_recomputeRec {M : State → Prop} {s : State} (a) (sev) (recAddr) (hs : Keeps M s) :
    Keeps M (State.recomputeRec a sev recAddr s) := by
  unfold State.recomputeRec
  repeat' (first | with_reducible assumption | with_reducible apply keeps_workReport | split)

theorem keeps_recomputed {M : State → Prop} {s : State} (id) (pass) (hs : Keeps M s) : Keeps M (State.recomputed id pass s) :=
    by
  unfold State.recomputed
  repeat' (first
    | with_reducible assumption | with_reducible apply keeps_spillLoad | with_reducible apply keeps_coreFault
    | with_reducible apply keeps_updA | with_reducible apply keeps_recomputeRec | with_reducible apply keeps_forAll | intro _
    | split | dsimp only)

theorem keeps_reduceNext {M : State → Prop} {s : State} (a) (r) (hs : Keeps M s) :
    Keeps M (State.reduceNext a r s) := by
  unfold State.reduceNext
  repeat' (first
    | with_reducible assumption | with_reducible apply keeps_readParts | with_reducible apply keeps_updA | split | dsimp only)

theorem keeps_reduceOn {M : State → Prop} {s : State} (n) (r) (hs : Keeps M s) : Keeps M (State.reduceOn n r s) := by
  unfold State.reduceOn
  repeat' (first
    | with_reducible assumption | with_reducible apply keeps_issuedNow | with_reducible apply keeps_updRun
    | with_reducible apply keeps_addAcc | with_reducible apply keeps_chosen | with_reducible apply keeps_readPreload | intro _
    | split)

theorem keeps_reduceStart {M : State → Prop} {s : State} (n) (r) (hs : Keeps M s) : Keeps M (State.reduceStart n r s) := by
  unfold State.reduceStart
  repeat' (first
    | with_reducible assumption | with_reducible apply keeps_reduceOn | with_reducible apply keeps_unitTaken
    | with_reducible apply keeps_unitWait | intro _ | split)

theorem keeps_reduceGo {M : State → Prop} {s : State} (n) (r) (hs : Keeps M s) :
    Keeps M (State.reduceGo n r s) := by
  unfold State.reduceGo
  repeat' (first
    | with_reducible assumption | with_reducible apply keeps_reduceNext | with_reducible apply keeps_reduceStart | split)

theorem keeps_releaseSources {M : State → Prop} {s : State} (hs : Keeps M s) : Keeps M (State.releaseSources s) := by
  unfold State.releaseSources
  repeat' (first
    | with_reducible assumption | intro _ | split | dsimp only | fail_if_no_progress (with_reducible refine keeps_mk rfl ?_))

theorem keeps_atollAgain {M : State → Prop} {s : State} (x) (hs : Keeps M s) : Keeps M (State.atollAgain x s) := by
  unfold State.atollAgain
  repeat' (first
    | with_reducible assumption | with_reducible apply keeps_cancelRead | with_reducible apply keeps_dropReqs
    | with_reducible apply keeps_flagRun | with_reducible apply keeps_updRun | with_reducible apply keeps_forAll | intro _
    | split | dsimp only | fail_if_no_progress (with_reducible refine keeps_mk rfl ?_))

theorem keeps_spillHave {M : State → Prop} {s : State} (o) (n) (hs : Keeps M s) : Keeps M (State.spillHave o n s).1 := by
  unfold State.spillHave
  repeat' (first
    | with_reducible assumption | with_reducible apply keeps_spillSpace | with_reducible refine keeps_fst (by assumption) ?_
    | intro _ | split)

theorem keeps_spillRoom {M : State → Prop} {s : State} (r) (p) (k) (hs : Keeps M s) : Keeps M (State.spillRoom r p k s).1 := by
  unfold State.spillRoom
  repeat' (first
    | with_reducible assumption | with_reducible apply keeps_spillHave | with_reducible refine keeps_fst (by assumption) ?_
    | intro _ | split)

theorem keeps_spillRooms {M : State → Prop} {s : State} (x) (r) (parts) (hs : Keeps M s) :
    Keeps M (State.spillRooms x r parts s).1 := by
  unfold State.spillRooms
  refine keeps_foldl (R := fun a : State × Bool => Keeps M a.1) (fun a p h => ?_) hs
  split
  · exact keeps_spillRoom _ _ _ h
  · exact h

theorem keeps_setEntry {M : State → Prop} {s : State} (e) (hs : Keeps M s) :
    Keeps M (State.setEntry e s) :=
  keeps_mk rfl hs

theorem keeps_writeRecord {M : State → Prop} {s : State} (p) (k) (hs : Keeps M s) : Keeps M (State.writeRecord p k s) := by
  unfold State.writeRecord
  repeat' (first | with_reducible assumption | with_reducible apply keeps_spillStore)

theorem keeps_enterKey {M : State → Prop} {s : State} (r) (key) (ups) (hs : Keeps M s) : Keeps M (State.enterKey r key ups s)
    := by
  unfold State.enterKey
  repeat' (first
    | with_reducible assumption | with_reducible apply keeps_bumpN | with_reducible apply keeps_bump
    | with_reducible apply keeps_setEntry | with_reducible apply keeps_writeRecord | with_reducible apply keeps_forAll
    | intro _ | split | dsimp only | fail_if_no_progress (with_reducible refine keeps_mk rfl ?_))

theorem keeps_countStop {M : State → Prop} {s : State} (n) (seq) (hs : Keeps M s) :
    Keeps M (State.countStop n seq s) := by
  unfold State.countStop
  repeat' (first | with_reducible assumption | with_reducible apply keeps_flagRun | with_reducible apply keeps_workReport)

theorem keeps_atollCycle {M : State → Prop} {s : State} (x) (r) (lanes) (hs : Keeps M s) : Keeps M (State.atollCycle x r lanes
    s) := by
  unfold State.atollCycle
  repeat' (first
    | with_reducible assumption | with_reducible apply keeps_spillRooms | with_reducible apply keeps_spillStall
    | with_reducible apply keeps_enterKey | with_reducible apply keeps_spillFound | with_reducible apply keeps_bumpN
    | with_reducible apply keeps_updRun | with_reducible apply keeps_countStop | with_reducible apply keeps_forAll
    | with_reducible refine keeps_fst (by assumption) ?_ | intro _ | split | dsimp only
    | fail_if_no_progress (with_reducible refine keeps_mk rfl ?_))

theorem keeps_recordsBack {M : State → Prop} {s : State} (x) (r) (p) (hs : Keeps M s) : Keeps M (State.recordsBack x r p s).1
    := by
  unfold State.recordsBack
  repeat' (first
    | with_reducible assumption | with_reducible apply keeps_spillLoad | with_reducible apply keeps_forAll | intro _)

theorem keeps_drainTile {M : State → Prop} {s : State} (x) (r) (tile) (c) (hs : Keeps M s) :
    Keeps M (State.drainTile x r tile c s) := by
  unfold State.drainTile
  repeat' (first
    | with_reducible assumption | with_reducible apply keeps_startRead | with_reducible apply keeps_updRun
    | with_reducible apply keeps_addAcc)

theorem keeps_drainTiles {M : State → Prop} {s : State} (fuel) (hs : Keeps M s) :
    Keeps M (State.drainTiles fuel s) := by
  induction fuel generalizing s with
  | zero => exact hs
  | succ n ih =>
    unfold State.drainTiles
    split
    · exact hs
    · split
      · refine ih (keeps_mk rfl ?_)
        exact keeps_drainTile _ _ _ _ (keeps_chosen (keeps_unitTaken _ _ _ _ hs))
      · exact keeps_unitWait _ _ _ hs
      · exact hs

theorem keeps_atollDrain {M : State → Prop} {s : State} (hs : Keeps M s) : Keeps M (State.atollDrain s) := by
  unfold State.atollDrain
  repeat' (first
    | with_reducible assumption | with_reducible apply keeps_recordsBack | with_reducible apply keeps_drainTiles
    | with_reducible refine keeps_fst (by assumption) ?_ | intro _ | split | dsimp only
    | fail_if_no_progress (with_reducible refine keeps_mk rfl ?_))

theorem keeps_atollWants {M : State → Prop} {s : State} (hs : Keeps M s) : Keeps M (State.atollWants s) := by
  unfold State.atollWants
  repeat' (first
    | with_reducible assumption | with_reducible apply keeps_unitWait | with_reducible apply keeps_forAll
    | with_reducible refine keeps_fst (by assumption) ?_ | intro _ | split | dsimp only
    | fail_if_no_progress (with_reducible refine keeps_mk rfl ?_))

theorem keeps_atollEnds {M : State → Prop} {s : State} (hs : Keeps M s) : Keeps M (State.atollEnds s) := by
  unfold State.atollEnds
  repeat' (first
    | with_reducible assumption | with_reducible apply keeps_updRun | intro _ | split | dsimp only
    | fail_if_no_progress (with_reducible refine keeps_mk rfl ?_))

theorem keeps_atollFault {M : State → Prop} {s : State} (i) (hs : Keeps M s) : Keeps M (State.atollFault i s) := by
  unfold State.atollFault
  repeat' (first
    | with_reducible assumption | with_reducible apply keeps_chosen | intro _ | split | dsimp only
    | fail_if_no_progress (with_reducible refine keeps_mk rfl ?_))

theorem keeps_atollLost {M : State → Prop} {s : State} (word) (hs : Keeps M s) : Keeps M (State.atollLost word s) := by
  unfold State.atollLost
  repeat' (first
    | with_reducible assumption | with_reducible apply keeps_flagRun | with_reducible apply keeps_atollAgain | intro _ | split
    | dsimp only | fail_if_no_progress (with_reducible refine keeps_mk rfl ?_))

theorem keeps_atollResidue {M : State → Prop} {s : State} (elem) (hs : Keeps M s) : Keeps M (State.atollResidue elem s) := by
  unfold State.atollResidue
  repeat' (first
    | with_reducible assumption | with_reducible apply keeps_atollAgain | with_reducible apply keeps_workReport | intro _
    | split)

theorem keeps_atollUpdate {M : State → Prop} {s : State} (lanes) (hw0) (hs : Keeps M s) : Keeps M (State.atollUpdate lanes hw0
    s) := by
  unfold State.atollUpdate
  repeat' (first
    | with_reducible assumption | with_reducible apply keeps_atollFault | with_reducible apply keeps_atollResidue
    | with_reducible apply keeps_atollCycle | intro _ | split | dsimp only)

theorem keeps_gotIndex {M : State → Prop} {s : State} (n) (sector) (addr) (img) (poison) (hs : Keeps M s) :
    Keeps M (State.gotIndex n sector addr img poison s) := by
  unfold State.gotIndex
  repeat' (first
    | with_reducible assumption | with_reducible apply keeps_workReport | with_reducible apply keeps_flagRun
    | with_reducible apply keeps_updScat | with_reducible refine keeps_fst (by assumption) ?_ | intro _ | split)

theorem keeps_scatterRead {M : State → Prop} {s : State} (n) (r) (hs : Keeps M s) : Keeps M (State.scatterRead n r s) := by
  unfold State.scatterRead
  repeat' (first
    | with_reducible assumption | with_reducible apply keeps_updRun | with_reducible apply keeps_updR
    | with_reducible apply keeps_startRead | with_reducible apply keeps_readSpan | intro _ | split | dsimp only)

theorem keeps_scatterBegin {M : State → Prop} {s : State} (n) (r) (hs : Keeps M s) : Keeps M (State.scatterBegin n r s) := by
  unfold State.scatterBegin
  repeat' (first
    | with_reducible assumption | with_reducible apply keeps_scatterRead | intro _ | split | dsimp only
    | fail_if_no_progress (with_reducible refine keeps_mk rfl ?_))

theorem keeps_scatterTake {M : State → Prop} {s : State} (n) (r) (hs : Keeps M s) : Keeps M (State.scatterTake n r s) := by
  unfold State.scatterTake
  repeat' (first
    | with_reducible assumption | with_reducible apply keeps_scatterRead | with_reducible apply keeps_unitTaken | intro _
    | split | dsimp only | fail_if_no_progress (with_reducible refine keeps_mk rfl ?_))

theorem keeps_choosePath {M : State → Prop} {s : State} (g) (r) (x) (kb) (hs : Keeps M s) : Keeps M (State.choosePath g r x kb
    s) := by
  unfold State.choosePath
  repeat' (first
    | with_reducible assumption | with_reducible apply keeps_updGroup | with_reducible apply keeps_bumpN | intro _ | split)

theorem keeps_readBlock {M : State → Prop} {s : State} (g) (r) (kb) (hs : Keeps M s) :
    Keeps M (State.readBlock g r kb s) := by
  unfold State.readBlock
  repeat' (first | with_reducible assumption | with_reducible apply keeps_startRead)

theorem keeps_startBlock {M : State → Prop} {s : State} (g) (r) (x) (kb) (hs : Keeps M s) : Keeps M (State.startBlock g r x kb
    s) := by
  unfold State.startBlock
  repeat' (first
    | with_reducible assumption | with_reducible apply keeps_readBlock | with_reducible apply keeps_updGroup
    | with_reducible apply keeps_choosePath)

theorem keeps_startGroup {M : State → Prop} {s : State} (n) (r) (x) (hs : Keeps M s) : Keeps M (State.startGroup n r x s) := by
  unfold State.startGroup
  repeat' (first
    | with_reducible assumption | with_reducible apply keeps_numbered | with_reducible apply keeps_chosen
    | with_reducible apply keeps_addUnit | with_reducible apply keeps_updRun | with_reducible apply keeps_startBlock
    | with_reducible apply keeps_issuedNow | intro _ | split | dsimp only
    | fail_if_no_progress (with_reducible refine keeps_mk rfl ?_))

theorem keeps_groupStart {M : State → Prop} {s : State} (n) (r) (x) (hs : Keeps M s) : Keeps M (State.groupStart n r x s) := by
  unfold State.groupStart
  repeat' (first
    | with_reducible assumption | with_reducible apply keeps_startGroup | with_reducible apply keeps_unitTaken
    | with_reducible apply keeps_unitWait | intro _ | split)

theorem keeps_groupTails {M : State → Prop} {s : State} (hs : Keeps M s) : Keeps M (State.groupTails s) := by
  unfold State.groupTails
  repeat' (first
    | with_reducible assumption | with_reducible apply keeps_updDport | with_reducible apply keeps_forAll | intro _ | split)

theorem keeps_mergeGo {M : State → Prop} {s : State} (n) (r) (hs : Keeps M s) : Keeps M (State.mergeGo n r s) := by
  unfold State.mergeGo
  repeat' (first
    | with_reducible assumption | with_reducible apply keeps_startBlock | with_reducible apply keeps_groupStart | intro _
    | split)

theorem keeps_streamBlock {M : State → Prop} {s : State} (g) (hs : Keeps M s) : Keeps M (State.streamBlock g s) := by
  unfold State.streamBlock
  repeat' (first
    | with_reducible assumption | with_reducible apply keeps_updGroup | with_reducible apply keeps_chosen
    | with_reducible apply keeps_forAll | intro _ | split | dsimp only)

theorem keeps_formSlabs {M : State → Prop} {s : State} (r) (port) (fuel) (id) (hs : Keeps M s) :
    Keeps M (formSlabs r port fuel id s) := by
  induction fuel generalizing s with
  | zero => exact hs
  | succ n ih =>
    unfold formSlabs
    split
    · exact hs
    · dsimp only
      split
      · exact hs
      · exact ih (keeps_updDport _ _ (keeps_updGroup _ _ hs))

theorem keeps_mergeWalk {M : State → Prop} {s : State} (id) (hs : Keeps M s) : Keeps M (State.mergeWalk id s) := by
  unfold State.mergeWalk
  repeat' (first
    | with_reducible assumption | with_reducible apply keeps_streamBlock | with_reducible apply keeps_formSlabs
    | with_reducible apply keeps_bumpN | with_reducible apply keeps_updGroup | with_reducible apply keeps_bump
    | with_reducible apply keeps_chosen | with_reducible apply keeps_whenB | intro _ | split | dsimp only)

theorem keeps_groupLeaves {M : State → Prop} {s : State} (g) (port) (hs : Keeps M s) : Keeps M (State.groupLeaves g port s) := by
  unfold State.groupLeaves
  repeat' (first
    | with_reducible assumption | with_reducible apply keeps_cancelRead | with_reducible apply keeps_updDport
    | with_reducible apply keeps_flagRun | with_reducible apply keeps_replayedFrom | with_reducible apply keeps_forAll | intro _
    | split)

theorem keeps_replayGroup {M : State → Prop} {s : State} (g) (avoid) (hs : Keeps M s) : Keeps M (State.replayGroup g avoid s)
    := by
  unfold State.replayGroup
  repeat' (first
    | with_reducible assumption | with_reducible apply keeps_groupLeaves | with_reducible apply keeps_updGroup
    | with_reducible apply keeps_chosen | with_reducible apply keeps_addUnit
    | with_reducible refine keeps_fst (by assumption) ?_ | intro _ | split | dsimp only)

theorem keeps_replayTile {M : State → Prop} {s : State} (j) (avoid) (hs : Keeps M s) : Keeps M (State.replayTile j avoid s) :=
    by
  unfold State.replayTile
  repeat' (first
    | with_reducible assumption | with_reducible apply keeps_replayRead | with_reducible apply keeps_replayGroup | intro _
    | split | dsimp only)

end Sys2Proof.Machine
end

