-- ==== Sys2Proof/Laws/KeepsStreams.lean ====
section
/-! SUPPORT. `Keeps` passes through streams, EXPORT and collectives. -/

namespace Sys2Proof.Machine

theorem keeps_pairUp {M : State → Prop} {s : State} (n) (recv) (seq) (ok) (hs : Keeps M s) :
    Keeps M (State.pairUp n recv seq ok s) := by
  unfold State.pairUp
  repeat' (first | with_reducible assumption | with_reducible apply keeps_updColl | with_reducible apply keeps_workReport | split)

theorem keeps_accept {M : State → Prop} {s : State} (n) (q) (d) (img) (hs : Keeps M s) : Keeps M (State.accept n q d img s) :=
    by
  unfold State.accept
  repeat' (first
    | with_reducible assumption | with_reducible apply keeps_updStream | with_reducible apply keeps_bumpN
    | with_reducible apply keeps_numbered | with_reducible apply keeps_pairUp | intro _ | split | dsimp only
    | fail_if_no_progress (with_reducible refine keeps_mk rfl ?_))

theorem keeps_lfsrNext {M : State → Prop} {s : State} (hs : Keeps M s) :
    Keeps M (State.lfsrNext s) :=
  keeps_mk rfl hs

theorem keeps_parkContext {M : State → Prop} {s : State} (n) (m) (hs : Keeps M s) : Keeps M (State.parkContext n m s).1 := by
  unfold State.parkContext
  repeat' (first
    | with_reducible assumption | with_reducible apply keeps_spillSpace | with_reducible apply keeps_spillStall
    | with_reducible apply keeps_spillStore | with_reducible apply keeps_updStream
    | with_reducible refine keeps_fst (by assumption) ?_ | intro _ | split)

theorem keeps_parkFor {M : State → Prop} {s : State} (n) (q) (hs : Keeps M s) : Keeps M (State.parkFor n q s).1 := by
  unfold State.parkFor
  repeat' (first
    | with_reducible assumption | with_reducible apply keeps_parkContext | with_reducible refine keeps_fst (by assumption) ?_
    | intro _ | split)

theorem keeps_getSlot {M : State → Prop} {s : State} (n) (q) (hs : Keeps M s) : Keeps M (State.getSlot n q s).1 := by
  unfold State.getSlot
  repeat' (first
    | with_reducible assumption | with_reducible apply keeps_chosen | with_reducible apply keeps_parkFor
    | with_reducible refine keeps_fst (by assumption) ?_ | intro _ | split)

theorem keeps_slotFound {M : State → Prop} {s : State} (n) (k) (hs : Keeps M s) : Keeps M (State.slotFound n k s) := by
  unfold State.slotFound
  repeat' (first
    | with_reducible assumption | with_reducible apply keeps_spillFound | with_reducible apply keeps_updStream
    | with_reducible apply keeps_spillDrop | intro _ | split | dsimp only)

theorem keeps_bindStream {M : State → Prop} {s : State} (a0) (a1) (a2) (hs : Keeps M s) : Keeps M (State.bindStream a0 a1 a2 s)
    := by
  unfold State.bindStream
  repeat' (first
    | with_reducible assumption | with_reducible apply keeps_lfsrNext | with_reducible apply keeps_getSlot
    | with_reducible apply keeps_slotFound | with_reducible apply keeps_parkContext
    | with_reducible refine keeps_fst (by assumption) ?_ | intro _ | split | dsimp only
    | fail_if_no_progress (with_reducible refine keeps_mk rfl ?_))

theorem keeps_breakMember {M : State → Prop} {s : State} (n) (hs : Keeps M s) :
    Keeps M (State.breakMember n s) := by
  unfold State.breakMember
  repeat' (first
    | with_reducible assumption | with_reducible apply keeps_updRun | split
    | fail_if_no_progress (with_reducible refine keeps_mk rfl ?_))

theorem keeps_sctl {p : Params} {q : List Instr} {s : State} (r) (hs : Keeps (Fits p q) s) :
    Keeps (Fits p q) (State.sctl r s) :=
  fits_mk rfl rfl rfl rfl hs

theorem keeps_closeNow {M : State → Prop} {s : State} (n) (hs : Keeps M s) :
    Keeps M (State.closeNow n s) := by
  unfold State.closeNow
  repeat' (first | with_reducible assumption | with_reducible apply keeps_breakMember | with_reducible apply keeps_updStream)

theorem keeps_closeCmd {p : Params} {q : List Instr} {s : State} (hs : Keeps (Fits p q) s) :
    Keeps (Fits p q) (State.closeCmd s) := by
  unfold State.closeCmd
  repeat' (first
    | with_reducible assumption | with_reducible apply keeps_sctl | with_reducible apply keeps_closeNow
    | with_reducible apply keeps_updStream | split | dsimp only)

theorem keeps_recordEnds {M : State → Prop} {s : State} (src) (f) (hs : Keeps M s) : Keeps M (State.recordEnds src f s) := by
  unfold State.recordEnds
  repeat' (first
    | with_reducible assumption | with_reducible apply keeps_updStream | intro _ | split | dsimp only
    | fail_if_no_progress (with_reducible refine keeps_mk rfl ?_))

theorem keeps_raiseCq {p : Params} {q : List Instr} {s : State} (irq) (hs : Keeps (Fits p q) s) :
    Keeps (Fits p q) (State.raiseCq irq s) := by
  unfold State.raiseCq
  split
  · exact hs
  · exact fits_mk rfl rfl rfl rfl hs

theorem keeps_cmplHalf {par : Params} {l : List Instr} {s : State} (src) (addr) (rest) (irq) (f) (hs : Keeps (Fits par l) s) :
    Keeps (Fits par l) (State.cmplHalf src addr rest irq f s) := by
  unfold State.cmplHalf
  repeat' (first
    | with_reducible assumption | with_reducible apply keeps_recordEnds | with_reducible apply keeps_raiseCq
    | with_reducible apply keeps_write16 | intro _ | split)

theorem keeps_writeCmpl {M : State → Prop} {s : State} (q) (src) (c) (bar) (hs : Keeps M s) : Keeps M (State.writeCmpl q src c
    bar s) := by
  unfold State.writeCmpl
  repeat' (first | with_reducible assumption | with_reducible apply keeps_write16 | with_reducible apply keeps_setQueue)

theorem keeps_earlyCmpl {M : State → Prop} {s : State} (q) (hs : Keeps M s) : Keeps M (State.earlyCmpl q s) := by
  unfold State.earlyCmpl
  repeat' (first
    | with_reducible assumption | with_reducible apply keeps_writeCmpl | with_reducible apply keeps_setQueue | intro _ | split)

theorem keeps_limitCloses {M : State → Prop} {s : State} (n) (hs : Keeps M s) : Keeps M (State.limitCloses n s) := by
  unfold State.limitCloses
  repeat' (first
    | with_reducible assumption | with_reducible apply keeps_closeNow | with_reducible apply keeps_updStream | intro _ | split
    | dsimp only | fail_if_no_progress (with_reducible refine keeps_mk rfl ?_))

theorem keeps_streamCmpl {M : State → Prop} {s : State} (n) (hs : Keeps M s) : Keeps M (State.streamCmpl n s) := by
  unfold State.streamCmpl
  repeat' (first
    | with_reducible assumption | with_reducible apply keeps_writeCmpl | with_reducible apply keeps_updStream
    | with_reducible apply keeps_limitCloses | intro _ | split | dsimp only
    | fail_if_no_progress (with_reducible refine keeps_mk rfl ?_))

theorem keeps_complete {M : State → Prop} {s : State} (src) (hs : Keeps M s) :
    Keeps M (State.complete src s) := by
  unfold State.complete
  repeat' (first
    | with_reducible assumption | with_reducible apply keeps_earlyCmpl | with_reducible apply keeps_streamCmpl | split)

theorem keeps_queueWaits {M : State → Prop} {s : State} (a1) (why) (d) (hs : Keeps M s) :
    Keeps M (State.queueWaits a1 why d s) := by
  unfold State.queueWaits
  repeat' (first
    | with_reducible assumption | with_reducible apply keeps_whenB | with_reducible apply keeps_setQueue
    | with_reducible apply keeps_bump | intro _)

theorem keeps_followFails {M : State → Prop} {s : State} (a1) (d) (hs : Keeps M s) :
    Keeps M (State.followFails a1 d s) := by
  unfold State.followFails
  repeat' (first | with_reducible assumption | with_reducible apply keeps_pairUp | split)

theorem keeps_queueFlows {M : State → Prop} {s : State} (a1) (hs : Keeps M s) :
    Keeps M (State.queueFlows a1 s) :=
  keeps_mk rfl hs

theorem keeps_failEarly {M : State → Prop} {s : State} (a1) (d) (status) (hs : Keeps M s) :
    Keeps M (State.failEarly a1 d status s) := by
  unfold State.failEarly
  repeat' (first | with_reducible assumption | with_reducible apply keeps_queueFlows | with_reducible apply keeps_setQueue)

theorem keeps_examine {M : State → Prop} {s : State} (q) (d) (img) (hs : Keeps M s) : Keeps M (State.examine q d img s) := by
  unfold State.examine
  repeat' (first
    | with_reducible assumption | with_reducible apply keeps_followFails | with_reducible apply keeps_failEarly
    | with_reducible apply keeps_queueWaits | with_reducible apply keeps_updStream | with_reducible apply keeps_queueFlows
    | with_reducible apply keeps_parkFor | with_reducible apply keeps_spillLoad | with_reducible apply keeps_bump
    | with_reducible apply keeps_accept | with_reducible refine keeps_fst (by assumption) ?_ | intro _ | split)

theorem keeps_contextLost {M : State → Prop} {s : State} (n) (hs : Keeps M s) : Keeps M (State.contextLost n s) := by
  unfold State.contextLost
  repeat' (first
    | with_reducible assumption | with_reducible apply keeps_closeNow | with_reducible apply keeps_discardStop
    | with_reducible apply keeps_updStream)

theorem keeps_contextBack {M : State → Prop} {s : State} (q) (img) (hs : Keeps M s) : Keeps M (State.contextBack q img s) := by
  unfold State.contextBack
  repeat' (first
    | with_reducible assumption | with_reducible apply keeps_spillLoad | with_reducible apply keeps_getSlot
    | with_reducible apply keeps_queueWaits | with_reducible apply keeps_slotFound | with_reducible apply keeps_examine
    | with_reducible apply keeps_contextLost | with_reducible apply keeps_report
    | with_reducible refine keeps_fst (by assumption) ?_ | intro _ | split | dsimp only)

theorem keeps_startRun {M : State → Prop} {s : State} (n) (r) (hs : Keeps M s) :
    Keeps M (State.startRun n r s) := by
  unfold State.startRun
  repeat' (first | with_reducible assumption | with_reducible apply keeps_updRun | with_reducible apply keeps_discardStop | split)

theorem keeps_joinBarrier {M : State → Prop} {s : State} (n) (r) (hs : Keeps M s) :
    Keeps M (State.joinBarrier n r s) := by
  unfold State.joinBarrier
  repeat' (first
    | with_reducible assumption | with_reducible apply keeps_startRun | split | dsimp only
    | fail_if_no_progress (with_reducible refine keeps_mk rfl ?_))

theorem keeps_unfilled {M : State → Prop} {s : State} (hs : Keeps M s) : Keeps M (State.unfilled s) := by
  unfold State.unfilled
  repeat' (first
    | with_reducible assumption | with_reducible apply keeps_breakMember | with_reducible apply keeps_forAll | intro _ | split)

theorem keeps_fenceBarrier {M : State → Prop} {s : State} (n) (hs : Keeps M s) :
    Keeps M (State.fenceBarrier n s) := by
  unfold State.fenceBarrier
  repeat' (first
    | with_reducible assumption | with_reducible apply keeps_updRun | with_reducible apply keeps_startRun
    | with_reducible apply keeps_joinBarrier | split)

theorem keeps_fenceCheck {M : State → Prop} {s : State} (n) (r) (hs : Keeps M s) :
    Keeps M (State.fenceCheck n r s) :=
  keeps_mk rfl hs

theorem keeps_fenceStreams {M : State → Prop} {s : State} (n) (hs : Keeps M s) :
    Keeps M (State.fenceStreams n s) := by
  unfold State.fenceStreams
  repeat' (first
    | with_reducible assumption | with_reducible apply keeps_fenceCheck | with_reducible apply keeps_startRun | split)

theorem keeps_takeWaiting {M : State → Prop} {s : State} (q) (img) (hs : Keeps M s) {t : State}
    (ht : State.takeWaiting q img s = some t) : Keeps M t := by
  unfold State.takeWaiting at ht
  split at ht
  · cases ht
  · split at ht
    · cases ht
    · cases ht
      exact keeps_accept _ _ _ _ (keeps_updStream _ _ hs)

theorem keeps_fetch {M : State → Prop} {s : State} (q) (img) (hs : Keeps M s) : Keeps M (State.fetch q img s) := by
  unfold State.fetch
  repeat' (first
    | with_reducible assumption | with_reducible refine keeps_takeWaiting _ _ ?_ (by assumption)
    | with_reducible apply keeps_examine | with_reducible apply keeps_chosen | with_reducible apply keeps_bumpN
    | with_reducible refine keeps_fst (by assumption) ?_ | intro _ | split | dsimp only)

theorem keeps_openCmd {par : Params} {l : List Instr} {s : State} (cmd) (hs : Keeps (Fits par l) s) : Keeps (Fits par l)
    (State.openCmd cmd s) := by
  unfold State.openCmd
  repeat' (first
    | with_reducible assumption | with_reducible apply keeps_sctl | with_reducible apply keeps_bindStream
    | with_reducible apply keeps_updStream | intro _ | split | dsimp only)

theorem keeps_parkSelves {M : State → Prop} {s : State} (hs : Keeps M s) : Keeps M (State.parkSelves s) := by
  unfold State.parkSelves
  repeat' (first
    | with_reducible assumption | with_reducible apply keeps_parkContext | with_reducible apply keeps_spillFound
    | with_reducible apply keeps_forAll | with_reducible apply keeps_whenB
    | with_reducible refine keeps_fst (by assumption) ?_ | intro _ | split)

theorem keeps_refuse {M : State → Prop} {s : State} (l) (hs : Keeps M s) : Keeps M (State.refuse l s) := by
  unfold State.refuse
  repeat' (first | with_reducible assumption | with_reducible apply keeps_forAll | with_reducible apply keeps_setQueue | intro _)

theorem keeps_releaseStream {M : State → Prop} {s : State} (x) (hs : Keeps M s) : Keeps M (State.releaseStream x s) := by
  unfold State.releaseStream
  repeat' (first
    | with_reducible assumption | with_reducible apply keeps_spillWipe | with_reducible apply keeps_spillDrop
    | with_reducible apply keeps_discardStop | with_reducible apply keeps_dropStream | with_reducible apply keeps_forAll
    | intro _ | split | dsimp only | fail_if_no_progress (with_reducible refine keeps_mk rfl ?_))

theorem keeps_sctlCmd {par : Params} {l : List Instr} {s : State} (w) (hs : Keeps (Fits par l) s) : Keeps (Fits par l)
    (State.sctlCmd w s) := by
  unfold State.sctlCmd
  repeat' (first
    | with_reducible assumption | with_reducible apply keeps_openCmd | with_reducible apply keeps_closeCmd | intro _ | split)

theorem keeps_startResume {M : State → Prop} {s : State} (n) (r) (hs : Keeps M s) : Keeps M (State.startResume n r s) := by
  unfold State.startResume
  repeat' (first
    | with_reducible assumption | with_reducible apply keeps_updRun | with_reducible apply keeps_updStream | intro _ | split
    | dsimp only | fail_if_no_progress (with_reducible refine keeps_mk rfl ?_))

theorem keeps_streamOff {M : State → Prop} {s : State} (n) (hs : Keeps M s) : Keeps M (State.streamOff n s) := by
  unfold State.streamOff
  repeat' (first
    | with_reducible assumption | with_reducible apply keeps_refuse | with_reducible apply keeps_releaseStream
    | with_reducible apply keeps_updStream | with_reducible apply keeps_bindStream | intro _ | split)

theorem keeps_writeBytes {M : State → Prop} {s : State} (addr) (data) (why) (hs : Keeps M s) :
    Keeps M (State.writeBytes addr data why s) := by
  unfold State.writeBytes
  repeat' (first
    | with_reducible assumption | with_reducible apply keeps_forAll | with_reducible apply keeps_write16
    | with_reducible apply keeps_writeSpan | intro _ | split)

theorem keeps_exportAdvance {M : State → Prop} {s : State} (n) (r) (hs : Keeps M s) :
    Keeps M (State.exportAdvance n r s) := by
  unfold State.exportAdvance
  repeat' (first
    | with_reducible assumption | with_reducible apply keeps_updRun | with_reducible apply keeps_writeBytes
    | with_reducible apply keeps_writeSpan | split)

theorem keeps_exportAcked {M : State → Prop} {s : State} (n) (hs : Keeps M s) :
    Keeps M (State.exportAcked n s) := by
  unfold State.exportAcked
  repeat' (first | with_reducible assumption | with_reducible apply keeps_exportAdvance | split)

theorem keeps_exportGo {M : State → Prop} {s : State} (n) (hs : Keeps M s) : Keeps M (State.exportGo n s) := by
  unfold State.exportGo
  repeat' (first
    | with_reducible assumption | with_reducible apply keeps_exportAcked | with_reducible apply keeps_startRun
    | with_reducible apply keeps_startRead | with_reducible apply keeps_issuedNow | with_reducible apply keeps_updRun
    | with_reducible apply keeps_exportAdvance | intro _ | split | dsimp only)

theorem keeps_updLport {M : State → Prop} {s : State} (a1) (f) (hs : Keeps M s) :
    Keeps M (State.updLport a1 f s) :=
  keeps_mk rfl hs

theorem keeps_queueMsg {M : State → Prop} {s : State} (a1) (isChunk) (n) (c) (m) (hs : Keeps M s) :
    Keeps M (State.queueMsg a1 isChunk n c m s) :=
  keeps_mk rfl hs

theorem keeps_speaks {M : State → Prop} {s : State} (n) (seq) (hs : Keeps M s) : Keeps M (State.speaks n seq s) := by
  unfold State.speaks
  repeat' (first | with_reducible assumption | with_reducible apply keeps_updColl)

theorem keeps_notice {M : State → Prop} {s : State} (c) (r) (f) (hs : Keeps M s) :
    Keeps M (State.notice c r f s) := by
  unfold State.notice
  repeat' (first | with_reducible assumption | with_reducible apply keeps_speaks | with_reducible apply keeps_queueMsg)

theorem keeps_collRec {M : State → Prop} {s : State} (n) (seq) (reason) (sev) (chunk) (hs : Keeps M s) :
    Keeps M (State.collRec n seq reason sev chunk s) := by
  unfold State.collRec
  repeat' (first | with_reducible assumption | with_reducible apply keeps_workReport)

theorem keeps_announce {M : State → Prop} {s : State} (c) (r) (d) (hs : Keeps M s) : Keeps M (State.announce c r d s) := by
  unfold State.announce
  repeat' (first
    | with_reducible assumption | with_reducible apply keeps_notice | with_reducible apply keeps_updColl
    | with_reducible apply keeps_collRec | with_reducible apply keeps_whenB | intro _ | split)

theorem keeps_beginChunk {M : State → Prop} {s : State} (n) (seq) (c) (hs : Keeps M s) :
    Keeps M (State.beginChunk n seq c s) := by
  unfold State.beginChunk
  repeat' (first | with_reducible assumption | with_reducible apply keeps_updRun | with_reducible apply keeps_updColl)

theorem keeps_chunkAcked {M : State → Prop} {s : State} (n) (r) (k) (hs : Keeps M s) :
    Keeps M (State.chunkAcked n r k s) := by
  unfold State.chunkAcked
  repeat' (first | with_reducible assumption | with_reducible apply keeps_updRun | with_reducible apply keeps_updChunk | split)

theorem keeps_chunkFails {M : State → Prop} {s : State} (n) (seq) (c) (hs : Keeps M s) :
    Keeps M (State.chunkFails n seq c s) := by
  unfold State.chunkFails
  repeat' (first
    | with_reducible assumption | with_reducible apply keeps_updChunk | with_reducible apply keeps_flagRun
    | with_reducible apply keeps_updRun | split)

theorem keeps_giveUp {M : State → Prop} {s : State} (n) (r) (c) (k) (reason) (hs : Keeps M s) :
    Keeps M (State.giveUp n r c k reason s) := by
  unfold State.giveUp
  repeat' (first
    | with_reducible assumption | with_reducible apply keeps_whenB | with_reducible apply keeps_chunkFails
    | with_reducible apply keeps_collRec | with_reducible apply keeps_queueMsg | with_reducible apply keeps_updChunk | intro _)

theorem keeps_chunkNacked {M : State → Prop} {s : State} (n) (r) (c) (k) (reason) (hs : Keeps M s) :
    Keeps M (State.chunkNacked n r c k reason s) := by
  unfold State.chunkNacked
  repeat' (first
    | with_reducible assumption | with_reducible apply keeps_updChunk | with_reducible apply keeps_giveUp | split | dsimp only)

theorem keeps_chunkPlausible {M : State → Prop} {s : State} (n) (r) (k) (hs : Keeps M s) :
    Keeps M (State.chunkPlausible n r k s) := by
  unfold State.chunkPlausible
  repeat' (first
    | with_reducible assumption | with_reducible apply keeps_forAll | with_reducible apply keeps_plausible | intro _ | split)

theorem keeps_sendMsg {M : State → Prop} {s : State} (p) (m) (hs : Keeps M s) : Keeps M (State.sendMsg p m s) := by
  unfold State.sendMsg
  repeat' (first | with_reducible assumption | with_reducible apply keeps_updLport)

theorem keeps_sendChunk {M : State → Prop} {s : State} (a1) (c) (r) (k) (hs : Keeps M s) :
    Keeps M (State.sendChunk a1 c r k s) := by
  unfold State.sendChunk
  repeat' (first
    | with_reducible assumption | with_reducible apply keeps_updColl | with_reducible apply keeps_sendMsg
    | with_reducible apply keeps_bump | with_reducible apply keeps_updChunk | with_reducible apply keeps_chunkPlausible
    | with_reducible apply keeps_updRun | with_reducible apply keeps_unitEnds | with_reducible apply keeps_whenB | intro _
    | split)

theorem keeps_chunkSend {M : State → Prop} {s : State} (p) (hs : Keeps M s) : Keeps M (State.chunkSend p s) := by
  unfold State.chunkSend
  repeat' (first
    | with_reducible assumption | with_reducible apply keeps_sendMsg | with_reducible apply keeps_updLport
    | with_reducible apply keeps_granted | with_reducible apply keeps_bump | with_reducible apply keeps_sendChunk | intro _
    | split | dsimp only)

theorem keeps_parkSend {M : State → Prop} {s : State} (c) (r) (chunks) (hs : Keeps M s) : Keeps M (State.parkSend c r chunks s)
    := by
  unfold State.parkSend
  repeat' (first
    | with_reducible assumption | with_reducible apply keeps_cancelRead | with_reducible apply keeps_flagRun
    | with_reducible apply keeps_updRun | with_reducible apply keeps_updColl | with_reducible apply keeps_forAll | intro _)

theorem keeps_parkPairs {M : State → Prop} {s : State} (hs : Keeps M s) : Keeps M (State.parkPairs s) := by
  unfold State.parkPairs
  repeat' (first
    | with_reducible assumption | with_reducible apply keeps_parkSend | with_reducible apply keeps_forAll | intro _ | split)

theorem keeps_relayPauses {M : State → Prop} {s : State} (hs : Keeps M s) : Keeps M (State.relayPauses s) := by
  unfold State.relayPauses
  repeat' (first
    | with_reducible assumption | with_reducible apply keeps_updColl | with_reducible apply keeps_notice
    | with_reducible apply keeps_forAll | with_reducible refine keeps_fst (by assumption) ?_ | intro _ | split)

theorem keeps_collNotices {M : State → Prop} {s : State} (hs : Keeps M s) : Keeps M (State.collNotices s) := by
  unfold State.collNotices
  repeat' (first
    | with_reducible assumption | with_reducible apply keeps_parkPairs | with_reducible apply keeps_relayPauses
    | with_reducible apply keeps_updColl | with_reducible apply keeps_notice | with_reducible apply keeps_collRec
    | with_reducible apply keeps_updStream | with_reducible apply keeps_forAll
    | with_reducible refine keeps_fst (by assumption) ?_ | intro _ | split | dsimp only)

theorem keeps_stageChunk {M : State → Prop} {s : State} (n) (c) (tiles) (hs : Keeps M s) : Keeps M (State.stageChunk n c tiles
    s).1 := by
  unfold State.stageChunk
  repeat' (first
    | with_reducible assumption | with_reducible apply keeps_admitHeld | with_reducible apply keeps_spillStore
    | with_reducible apply keeps_spillFound | with_reducible apply keeps_spillStall
    | with_reducible refine keeps_fst (by assumption) ?_ | intro _ | split | dsimp only)

theorem keeps_formChunk {M : State → Prop} {s : State} (n) (r) (paired) (k) (hs : Keeps M s) : Keeps M (State.formChunk n r
    paired k s) := by
  unfold State.formChunk
  repeat' (first
    | with_reducible assumption | with_reducible apply keeps_updChunk | with_reducible apply keeps_chunkFails
    | with_reducible apply keeps_stageChunk | with_reducible refine keeps_fst (by assumption) ?_ | intro _ | split)

theorem keeps_formChunks {M : State → Prop} {s : State} (hs : Keeps M s) :
    Keeps M (State.formChunks s) := by
  unfold State.formChunks
  repeat' (first
    | with_reducible assumption | with_reducible apply keeps_forAll | with_reducible apply keeps_formChunk | intro _ | split)

theorem keeps_loadChunks {M : State → Prop} {s : State} (hs : Keeps M s) : Keeps M (State.loadChunks s) := by
  unfold State.loadChunks
  repeat' (first
    | with_reducible assumption | with_reducible apply keeps_spillLoad | with_reducible apply keeps_forAll | intro _)

theorem keeps_noSpaceResend {M : State → Prop} {s : State} (n) (c) (hs : Keeps M s) :
    Keeps M (State.noSpaceResend n c s) := by
  unfold State.noSpaceResend
  repeat' (first
    | with_reducible assumption | with_reducible apply keeps_forAll | with_reducible apply keeps_updChunk | intro _ | split)

theorem keeps_parkColl {M : State → Prop} {s : State} (c) (r) (hs : Keeps M s) : Keeps M (State.parkColl c r s) := by
  unfold State.parkColl
  repeat' (first
    | with_reducible assumption | with_reducible apply keeps_parkSend | with_reducible apply keeps_updRun
    | with_reducible apply keeps_flagRun | intro _ | split)

theorem keeps_critParks {M : State → Prop} {s : State} (hs : Keeps M s) : Keeps M (State.critParks s) := by
  unfold State.critParks
  repeat' (first
    | with_reducible assumption | with_reducible apply keeps_parkColl | with_reducible apply keeps_forAll
    | with_reducible refine keeps_fst (by assumption) ?_ | intro _ | split)

theorem keeps_peerPauses {M : State → Prop} {s : State} (rank) (n) (seq) (chunk) (hs : Keeps M s) :
    Keeps M (State.peerPauses rank n seq chunk s) := by
  unfold State.peerPauses
  repeat' (first
    | with_reducible assumption | with_reducible apply keeps_forAll | with_reducible apply keeps_collRec
    | with_reducible apply keeps_notice | intro _ | split | fail_if_no_progress (with_reducible refine keeps_mk rfl ?_))

theorem keeps_peerResumes {M : State → Prop} {s : State} (rank) (hs : Keeps M s) :
    Keeps M (State.peerResumes rank s) := by
  unfold State.peerResumes
  repeat' (first | with_reducible assumption | split | fail_if_no_progress (with_reducible refine keeps_mk rfl ?_))

theorem keeps_project {M : State → Prop} {s : State} (n) (hs : Keeps M s) : Keeps M (State.project n s) := by
  unfold State.project
  repeat' (first
    | with_reducible assumption | with_reducible apply keeps_announce | with_reducible apply keeps_updColl
    | with_reducible apply keeps_chosen | with_reducible apply keeps_forAll | with_reducible apply keeps_whenB | intro _
    | split | dsimp only)

theorem keeps_redoSendTile {M : State → Prop} {s : State} (n) (r) (paired) (k) (i) (hs : Keeps M s) : Keeps M
    (State.redoSendTile n r paired k i s) := by
  unfold State.redoSendTile
  repeat' (first
    | with_reducible assumption | with_reducible apply keeps_updChunk | with_reducible apply keeps_flagRun
    | with_reducible apply keeps_addW | with_reducible apply keeps_numbered | intro _ | split | dsimp only
    | fail_if_no_progress (with_reducible refine keeps_mk rfl ?_))

theorem keeps_replaySendTile {M : State → Prop} {s : State} (n) (r) (paired) (k) (i) (core) (hs : Keeps M s) : Keeps M
    (State.replaySendTile n r paired k i core s) := by
  unfold State.replaySendTile
  repeat' (first
    | with_reducible assumption | with_reducible apply keeps_redoSendTile | with_reducible apply keeps_replayedFrom | intro _
    | split)

theorem keeps_replaySends {M : State → Prop} {s : State} (onGone) (hs : Keeps M s) : Keeps M (State.replaySends onGone s) := by
  unfold State.replaySends
  repeat' (first
    | with_reducible assumption | with_reducible apply keeps_replaySendTile | with_reducible apply keeps_forAll | intro _
    | split)

theorem keeps_sendGo {M : State → Prop} {s : State} (n) (hs : Keeps M s) :
    Keeps M (State.sendGo n s) := by
  unfold State.sendGo
  repeat' (first
    | with_reducible assumption | with_reducible apply keeps_forAll | with_reducible apply keeps_beginChunk
    | with_reducible apply keeps_discardStop | with_reducible apply keeps_issuedNow | with_reducible apply keeps_startRead
    | intro _ | split)

theorem keeps_sendTimeout {M : State → Prop} {s : State} (n) (c) (hs : Keeps M s) :
    Keeps M (State.sendTimeout n c s) := by
  unfold State.sendTimeout
  repeat' (first
    | with_reducible assumption | with_reducible apply keeps_forAll | with_reducible apply keeps_giveUp
    | with_reducible apply keeps_updChunk | intro _ | split)

theorem keeps_thermPark {M : State → Prop} {s : State} (group) (hs : Keeps M s) :
    Keeps M (State.thermPark group s) := by
  unfold State.thermPark
  repeat' (first
    | with_reducible assumption | with_reducible apply keeps_critParks | intro _ | split | dsimp only
    | fail_if_no_progress (with_reducible refine keeps_mk rfl ?_))

theorem keeps_warnBegins {M : State → Prop} {s : State} (hs : Keeps M s) : Keeps M (State.warnBegins s) := by
  unfold State.warnBegins
  repeat' (first
    | with_reducible assumption | intro _ | split | dsimp only | fail_if_no_progress (with_reducible refine keeps_mk rfl ?_))

theorem keeps_chunkTile {M : State → Prop} {s : State} (n) (seq) (c) (i) (d) (e) (payload) (replay) (core) (hs : Keeps M s) :
    Keeps M (State.chunkTile n seq c i d e payload replay core s) := by
  unfold State.chunkTile
  repeat' (first | with_reducible assumption | with_reducible apply keeps_updChunk)

theorem keeps_sumTo {M : State → Prop} {s : State} (a) (c) (hs : Keeps M s) : Keeps M (State.sumTo a c s) := by
  unfold State.sumTo
  repeat' (first
    | with_reducible assumption | with_reducible apply keeps_imageRooms | with_reducible apply keeps_spillStall
    | with_reducible apply keeps_beginChunk | with_reducible apply keeps_spillFound | with_reducible apply keeps_bumpN
    | with_reducible apply keeps_bump | with_reducible apply keeps_boundRec | with_reducible apply keeps_updChunk
    | with_reducible apply keeps_chunkTile | with_reducible apply keeps_addW | with_reducible apply keeps_addDone
    | with_reducible apply keeps_dropA | with_reducible apply keeps_updColl | with_reducible apply keeps_forAll
    | with_reducible apply keeps_whenB | with_reducible refine keeps_fst (by assumption) ?_ | intro _ | split | dsimp only)

theorem keeps_keepSum {M : State → Prop} {s : State} (a) (hs : Keeps M s) : Keeps M (State.keepSum a s) := by
  unfold State.keepSum
  repeat' (first
    | with_reducible assumption | with_reducible apply keeps_makeRoomFor | with_reducible apply keeps_spillStore
    | with_reducible apply keeps_updColl | with_reducible apply keeps_dropA | with_reducible apply keeps_spillFound
    | with_reducible apply keeps_spillStall | with_reducible refine keeps_fst (by assumption) ?_ | intro _ | split)

theorem keeps_drainOwn {M : State → Prop} {s : State} (a) (hw) (hs : Keeps M s) : Keeps M (State.drainOwn a hw s).1 := by
  unfold State.drainOwn
  repeat' (first
    | with_reducible assumption | with_reducible apply keeps_drainRoom | with_reducible apply keeps_bump
    | with_reducible apply keeps_whenB | with_reducible refine keeps_fst (by assumption) ?_ | intro _ | split)

theorem keeps_drainDue {M : State → Prop} {s : State} (a) (hw0) (hs : Keeps M s) : Keeps M (State.drainDue a hw0 s) := by
  unfold State.drainDue
  repeat' (first
    | with_reducible assumption | with_reducible apply keeps_drainOwn | with_reducible apply keeps_sumTo
    | with_reducible apply keeps_keepSum | with_reducible refine keeps_fst (by assumption) ?_ | intro _ | split)

theorem keeps_drainMoved {M : State → Prop} {s : State} (a) (e) (d) (hw0) (hs : Keeps M s) : Keeps M (State.drainMoved a e d
    hw0 s) := by
  unfold State.drainMoved
  repeat' (first
    | with_reducible assumption | with_reducible apply keeps_updA | with_reducible apply keeps_drainDue | intro _ | split
    | dsimp only)

theorem keeps_accDrain {M : State → Prop} {s : State} (id) (hw0) (hs : Keeps M s) : Keeps M (State.accDrain id hw0 s) := by
  unfold State.accDrain
  repeat' (first
    | with_reducible assumption | with_reducible apply keeps_updA | with_reducible apply keeps_drainMoved
    | with_reducible apply keeps_drainDue | intro _ | split)

theorem keeps_forwardFailed {M : State → Prop} {s : State} (n) (c) (chunk) (hs : Keeps M s) :
    Keeps M (State.forwardFailed n c chunk s) := by
  unfold State.forwardFailed
  repeat' (first
    | with_reducible assumption | with_reducible apply keeps_beginChunk | with_reducible apply keeps_chunkFails | split)

theorem keeps_accFailsNow {M : State → Prop} {s : State} (a) (hs : Keeps M s) :
    Keeps M (State.accFailsNow a s) := by
  unfold State.accFailsNow
  repeat' (first
    | with_reducible assumption | with_reducible apply keeps_accFails | with_reducible apply keeps_forwardFailed | split)

theorem keeps_chunkErr {M : State → Prop} {s : State} (n) (r) (c) (hs : Keeps M s) :
    Keeps M (State.chunkErr n r c s) := by
  unfold State.chunkErr
  repeat' (first | with_reducible assumption | with_reducible apply keeps_flagRun | with_reducible apply keeps_updRun)

theorem keeps_chunkCounts {M : State → Prop} {s : State} (n) (r) (c) (hs : Keeps M s) :
    Keeps M (State.chunkCounts n r c s) := by
  unfold State.chunkCounts
  repeat' (first | with_reducible assumption | with_reducible apply keeps_updRun | with_reducible apply keeps_bump)

theorem keeps_chunkTaken {M : State → Prop} {s : State} (n) (seq) (k) (hs : Keeps M s) :
    Keeps M (State.chunkTaken n seq k s) :=
  keeps_mk rfl hs

theorem keeps_answerChunk {M : State → Prop} {s : State} (a1) (m) (nack) (hs : Keeps M s) :
    Keeps M (State.answerChunk a1 m nack s) :=
  keeps_mk rfl hs

theorem keeps_answerFor {M : State → Prop} {s : State} (n) (seq) (p) (m) (nack) (hs : Keeps M s) : Keeps M (State.answerFor n
    seq p m nack s) := by
  unfold State.answerFor
  repeat' (first | with_reducible assumption | with_reducible apply keeps_speaks | with_reducible apply keeps_answerChunk)

theorem keeps_acceptFailed {M : State → Prop} {s : State} (a1) (n) (r) (m) (hs : Keeps M s) :
    Keeps M (State.acceptFailed a1 n r m s) := by
  unfold State.acceptFailed
  repeat' (first
    | with_reducible assumption | with_reducible apply keeps_answerFor | with_reducible apply keeps_chunkTaken
    | with_reducible apply keeps_chunkCounts | with_reducible apply keeps_chunkErr)

theorem keeps_announced {M : State → Prop} {s : State} (m) (hs : Keeps M s) :
    Keeps M (State.announced m s) := by
  unfold State.announced
  repeat' (first | with_reducible assumption | split | fail_if_no_progress (with_reducible refine keeps_mk rfl ?_))

theorem keeps_wireDecoded {M : State → Prop} {s : State} (r) (tiles) (hs : Keeps M s) : Keeps M (State.wireDecoded r tiles s) := by
  unfold State.wireDecoded
  repeat' (first
    | with_reducible assumption | with_reducible apply keeps_chosen | with_reducible apply keeps_decodedOn
    | with_reducible refine keeps_fst (by assumption) ?_ | intro _ | split)

theorem keeps_commitWire {M : State → Prop} {s : State} (n) (r) (tile) (x) (hs : Keeps M s) : Keeps M (State.commitWire n r
    tile x s) := by
  unfold State.commitWire
  repeat' (first | with_reducible assumption | with_reducible apply keeps_addW)

theorem keeps_wireRecords {M : State → Prop} {s : State} (n) (r) (m) (tiles) (hs : Keeps M s) :
    Keeps M (State.wireRecords n r m tiles s) := by
  unfold State.wireRecords
  repeat' (first
    | with_reducible assumption | with_reducible apply keeps_forAll | with_reducible apply keeps_workReport | intro _ | split)

theorem keeps_stageBytes {M : State → Prop} {s : State} (o) (bytes) (tiles) (hs : Keeps M s) : Keeps M (State.stageBytes o
    bytes tiles s).1 := by
  unfold State.stageBytes
  repeat' (first
    | with_reducible assumption | with_reducible apply keeps_makeRoomFor | with_reducible apply keeps_spillStore
    | with_reducible refine keeps_fst (by assumption) ?_ | intro _ | split)

theorem keeps_renameSpill {M : State → Prop} {s : State} (a) (b) (hs : Keeps M s) : Keeps M (State.renameSpill a b s) := by
  unfold State.renameSpill
  repeat' (first
    | with_reducible assumption | intro _ | split | dsimp only | fail_if_no_progress (with_reducible refine keeps_mk rfl ?_))

theorem keeps_takeChunk {M : State → Prop} {s : State} (p) (m) (man) (payload) (c) (r) (hs : Keeps M s) : Keeps M
    (State.takeChunk p m man payload c r s) := by
  unfold State.takeChunk
  repeat' (first
    | with_reducible assumption | with_reducible apply keeps_answerFor | with_reducible apply keeps_bump
    | with_reducible apply keeps_collRec | with_reducible apply keeps_acceptFailed | with_reducible apply keeps_wireDecoded
    | with_reducible apply keeps_wireRecords | with_reducible apply keeps_renameSpill | with_reducible apply keeps_stageBytes
    | with_reducible apply keeps_spillStall | with_reducible apply keeps_spillFound | with_reducible apply keeps_chunkTaken
    | with_reducible apply keeps_chunkCounts | with_reducible refine keeps_fst (by assumption) ?_ | intro _ | split
    | dsimp only)

theorem keeps_gotChunk {M : State → Prop} {s : State} (p) (m) (msg) (early) (hs : Keeps M s) : Keeps M (State.gotChunk p m msg
    early s) := by
  unfold State.gotChunk
  repeat' (first
    | with_reducible assumption | with_reducible apply keeps_takeChunk | with_reducible apply keeps_stageBytes
    | with_reducible apply keeps_bump | with_reducible apply keeps_updLport | with_reducible apply keeps_answerChunk
    | with_reducible refine keeps_fst (by assumption) ?_ | intro _ | split)

theorem keeps_earlyChunks {M : State → Prop} {s : State} (hs : Keeps M s) : Keeps M (State.earlyChunks s) := by
  unfold State.earlyChunks
  repeat' (first
    | with_reducible assumption | with_reducible apply keeps_spillLoad | with_reducible apply keeps_gotChunk
    | with_reducible apply keeps_updLport | with_reducible apply keeps_forAll | intro _ | split | dsimp only)

theorem keeps_gotControl {M : State → Prop} {s : State} (a1) (m) (hs : Keeps M s) :
    Keeps M (State.gotControl a1 m s) := by
  unfold State.gotControl
  repeat' (first
    | with_reducible assumption | with_reducible apply keeps_announced | with_reducible apply keeps_peerResumes
    | with_reducible apply keeps_peerPauses | with_reducible apply keeps_chunkAcked | with_reducible apply keeps_chunkNacked
    | split)

theorem keeps_receive {M : State → Prop} {s : State} (a1) (rank) (man) (payload) (hs : Keeps M s) :
    Keeps M (State.receive a1 rank man payload s) := by
  unfold State.receive
  repeat' (first
    | with_reducible assumption | with_reducible apply keeps_updLport | with_reducible apply keeps_bump
    | with_reducible apply keeps_report | with_reducible apply keeps_gotControl | with_reducible apply keeps_peerResumes
    | with_reducible apply keeps_announced | with_reducible apply keeps_gotChunk | intro _ | split | dsimp only)

theorem keeps_recvDone {M : State → Prop} {s : State} (hs : Keeps M s) :
    Keeps M (State.recvDone s) := by
  unfold State.recvDone
  repeat' (first
    | with_reducible assumption | with_reducible apply keeps_forAll | with_reducible apply keeps_updColl | intro _ | split)

theorem keeps_recvNext {M : State → Prop} {s : State} (n) (r) (stored) (hs : Keeps M s) : Keeps M (State.recvNext n r stored s)
    := by
  unfold State.recvNext
  repeat' (first | with_reducible assumption | with_reducible apply keeps_issuedNow | with_reducible apply keeps_updRun)

theorem keeps_sumWire {M : State → Prop} {s : State} (n) (r) (k) (i) (core) (hs : Keeps M s) : Keeps M (State.sumWire n r k i
    core s) := by
  unfold State.sumWire
  repeat' (first
    | with_reducible assumption | with_reducible apply keeps_addAcc | with_reducible apply keeps_startRead
    | with_reducible apply keeps_forAll | intro _ | split)

theorem keeps_recvSum {M : State → Prop} {s : State} (n) (r) (k) (i) (stored) (hs : Keeps M s) : Keeps M (State.recvSum n r k i
    stored s) := by
  unfold State.recvSum
  repeat' (first
    | with_reducible assumption | with_reducible apply keeps_recvNext | with_reducible apply keeps_sumWire
    | with_reducible apply keeps_chosen | with_reducible apply keeps_unitTaken | with_reducible apply keeps_discardStop
    | with_reducible apply keeps_unitWait | intro _ | split)

theorem keeps_recvGo {M : State → Prop} {s : State} (n) (hs : Keeps M s) : Keeps M (State.recvGo n s) := by
  unfold State.recvGo
  repeat' (first
    | with_reducible assumption | with_reducible apply keeps_addDone | with_reducible apply keeps_forwardFailed
    | with_reducible apply keeps_discardStop | with_reducible apply keeps_updRun | with_reducible apply keeps_spillLoad
    | with_reducible apply keeps_recvNext | with_reducible apply keeps_commitWire | with_reducible apply keeps_recvSum
    | with_reducible apply keeps_forAll | intro _ | split | dsimp only)

theorem keeps_recvTimeout {M : State → Prop} {s : State} (n) (hs : Keeps M s) : Keeps M (State.recvTimeout n s) := by
  unfold State.recvTimeout
  repeat' (first
    | with_reducible assumption | with_reducible apply keeps_collRec | with_reducible apply keeps_chunkErr
    | with_reducible apply keeps_chunkTaken | with_reducible apply keeps_queueMsg | with_reducible apply keeps_updColl
    | with_reducible apply keeps_forAll | intro _ | split | dsimp only)

theorem keeps_sumCoded {M : State → Prop} {s : State} (id) (hs : Keeps M s) : Keeps M (State.sumCoded id s) := by
  unfold State.sumCoded
  repeat' (first
    | with_reducible assumption | with_reducible apply keeps_chunkTile | with_reducible apply keeps_dropW | intro _ | split)

theorem keeps_sumsGo {M : State → Prop} {s : State} (hs : Keeps M s) : Keeps M (State.sumsGo s) := by
  unfold State.sumsGo
  repeat' (first
    | with_reducible assumption | with_reducible apply keeps_spillLoad | with_reducible apply keeps_sumTo
    | with_reducible apply keeps_drainOwn | with_reducible apply keeps_updColl | with_reducible apply keeps_forAll
    | with_reducible refine keeps_fst (by assumption) ?_ | intro _ | split)

end Sys2Proof.Machine
end

