-- ==== Sys2Proof/Laws/KeepsChannels.lean ====
section
/-! SUPPORT. `Keeps` passes through channels, power and the loading of a Chart. -/

namespace Sys2Proof.Machine

theorem keeps_causewayWaits {M : State → Prop} {s : State} (recAddr) (tile) (hs : Keeps M s) : Keeps M (State.causewayWaits
    recAddr tile s) := by
  unfold State.causewayWaits
  repeat' (first
    | with_reducible assumption | with_reducible apply keeps_report | intro _ | split | dsimp only
    | fail_if_no_progress (with_reducible refine keeps_mk rfl ?_))

theorem keeps_causewayAlloc {M : State → Prop} {s : State} (id) (hs : Keeps M s) : Keeps M (State.causewayAlloc id s) := by
  unfold State.causewayAlloc
  repeat' (first
    | with_reducible assumption | with_reducible apply keeps_granted | with_reducible apply keeps_unitTaken
    | with_reducible apply keeps_updW | with_reducible apply keeps_takeGrant | with_reducible apply keeps_causewayWaits
    | with_reducible refine keeps_fst (by assumption) ?_ | intro _ | split | dsimp only
    | fail_if_no_progress (with_reducible refine keeps_mk rfl ?_))

theorem keeps_causewayUnlock {M : State → Prop} {s : State} (hs : Keeps M s) : Keeps M (State.causewayUnlock s) := by
  unfold State.causewayUnlock
  repeat' (first
    | with_reducible assumption | with_reducible apply keeps_sendRing | with_reducible refine keeps_fst (by assumption) ?_
    | intro _ | split)

theorem keeps_causewayNext {M : State → Prop} {s : State} (hs : Keeps M s) : Keeps M (State.causewayNext s) := by
  unfold State.causewayNext
  repeat' (first
    | with_reducible assumption | with_reducible apply keeps_causewayUnlock | intro _ | split | dsimp only
    | fail_if_no_progress (with_reducible refine keeps_mk rfl ?_))

theorem keeps_causewayDone {M : State → Prop} {s : State} (hs : Keeps M s) : Keeps M (State.causewayDone s) := by
  unfold State.causewayDone
  repeat' (first
    | with_reducible assumption | with_reducible apply keeps_causewayNext | with_reducible apply keeps_causewayAlloc
    | with_reducible apply keeps_dropW | with_reducible apply keeps_releaseOlds | intro _ | split)

theorem keeps_causewayEnds {M : State → Prop} {s : State} (ch) (hs : Keeps M s) :
    Keeps M (State.causewayEnds ch s) := by
  unfold State.causewayEnds
  repeat' (first
    | with_reducible assumption | with_reducible apply keeps_updChan | with_reducible apply keeps_report | split
    | fail_if_no_progress (with_reducible refine keeps_mk rfl ?_))

theorem keeps_causewayJob {M : State → Prop} {s : State} (recAddr) (trec) (tile) (w0) (a5) (stage) (hs : Keeps M s) :
    Keeps M (State.causewayJob recAddr trec tile w0 a5 stage s) := by
  unfold State.causewayJob
  repeat' (first
    | with_reducible assumption | with_reducible apply keeps_bump | with_reducible apply keeps_addW
    | fail_if_no_progress (with_reducible refine keeps_mk rfl ?_))

theorem keeps_causewayLock {M : State → Prop} {s : State} (recAddr) (trec) (tile) (e) (hs : Keeps M s) : Keeps M
    (State.causewayLock recAddr trec tile e s) := by
  unfold State.causewayLock
  repeat' (first
    | with_reducible assumption | with_reducible apply keeps_numbered | with_reducible apply keeps_sendRing | intro _ | split
    | dsimp only | fail_if_no_progress (with_reducible refine keeps_mk rfl ?_))

theorem keeps_causewayLost {M : State → Prop} {s : State} (recAddr) (trec) (tile) (e) (hs : Keeps M s) :
    Keeps M (State.causewayLost recAddr trec tile e s) := by
  unfold State.causewayLost
  repeat' (first | with_reducible assumption | with_reducible apply keeps_causewayJob)

theorem keeps_causewayMove {M : State → Prop} {s : State} (k) (recAddr) (trec) (e) (p) (img) (hs : Keeps M s) : Keeps M
    (State.causewayMove k recAddr trec e p img s) := by
  unfold State.causewayMove
  repeat' (first
    | with_reducible assumption | with_reducible apply keeps_causewayLost | with_reducible apply keeps_bumpN
    | with_reducible apply keeps_report | with_reducible apply keeps_causewayAlloc | with_reducible apply keeps_causewayJob
    | with_reducible apply keeps_whenB | intro _ | split | dsimp only
    | fail_if_no_progress (with_reducible refine keeps_mk rfl ?_))

theorem keeps_causewayTakes {M : State → Prop} {s : State} (k) (recAddr) (trec) (e) (p) (img) (hs : Keeps M s) : Keeps M
    (State.causewayTakes k recAddr trec e p img s) := by
  unfold State.causewayTakes
  repeat' (first
    | with_reducible assumption | with_reducible apply keeps_causewayMove | with_reducible apply keeps_causewayLock | intro _
    | split)

theorem keeps_causewayRead {M : State → Prop} {s : State} (k) (recAddr) (trec) (img) (hs : Keeps M s) : Keeps M
    (State.causewayRead k recAddr trec img s) := by
  unfold State.causewayRead
  repeat' (first
    | with_reducible assumption | with_reducible apply keeps_bumpN | with_reducible apply keeps_causewayNext
    | with_reducible apply keeps_bump | with_reducible apply keeps_loseSectors | with_reducible apply keeps_causewayTakes
    | intro _ | split | dsimp only)

theorem keeps_movePage {M : State → Prop} {s : State} (x) (hs : Keeps M s) : Keeps M (State.movePage x s) := by
  unfold State.movePage
  repeat' (first
    | with_reducible assumption | with_reducible apply keeps_updSpill | with_reducible apply keeps_spillLoad
    | with_reducible apply keeps_spillSpaceFor | with_reducible apply keeps_causewayWaits
    | with_reducible apply keeps_spillStore | with_reducible apply keeps_spillDrop
    | with_reducible refine keeps_fst (by assumption) ?_ | intro _ | split | dsimp only
    | fail_if_no_progress (with_reducible refine keeps_mk rfl ?_))

theorem keeps_causewaySpace {M : State → Prop} {s : State} (hs : Keeps M s) : Keeps M (State.causewaySpace s) := by
  unfold State.causewaySpace
  repeat' (first
    | with_reducible assumption | with_reducible apply keeps_movePage | with_reducible apply keeps_causewayAlloc
    | with_reducible apply keeps_forAll | intro _ | split)

theorem keeps_causewayTile {M : State → Prop} {s : State} (img) (hs : Keeps M s) : Keeps M (State.causewayTile img s) := by
  unfold State.causewayTile
  repeat' (first
    | with_reducible assumption | with_reducible apply keeps_movePage | with_reducible apply keeps_causewayEnds
    | with_reducible apply keeps_bumpN | with_reducible apply keeps_causewayRead | with_reducible apply keeps_forAll | intro _
    | split | dsimp only | fail_if_no_progress (with_reducible refine keeps_mk rfl ?_))

theorem keeps_chanCmd {M : State → Prop} {s : State} (a1) (a2) (a3) (ha3 : ∀  t, Keeps M t → Keeps M (a3  t)) (hs :
    Keeps M s) :
    Keeps M (State.chanCmd a1 a2 a3 s) := by
  unfold State.chanCmd
  split
  · exact ha3 s hs
  · exact hs

theorem keeps_chanResult {p : Params} {q : List Instr} {s : State} (r) (hs : Keeps (Fits p q) s) :
    Keeps (Fits p q) (State.chanResult r s) :=
  fits_mk rfl rfl rfl rfl hs

theorem keeps_event {M : State → Prop} {s : State} (a1) (a2) (a3) (ha3 : ∀  t, Keeps M t → Keeps M (a3  t)) (hs :
    Keeps M s) :
    Keeps M (State.event a1 a2 a3 s) := by
  unfold State.event
  split
  · exact hs
  · split
    · exact keeps_report _ (keeps_bump _ hs)
    · split
      · exact ha3 s hs
      · exact hs

theorem keeps_holdChan {M : State → Prop} {s : State} (ch) (us) (hs : Keeps M s) :
    Keeps M (State.holdChan ch us s) :=
  keeps_mk rfl hs

theorem keeps_holdLong {M : State → Prop} {s : State} (ch) (hs : Keeps M s) :
    Keeps M (State.holdLong ch s) := by
  unfold State.holdLong
  repeat' (first
    | with_reducible assumption | with_reducible apply keeps_report | with_reducible apply keeps_updChan | split | dsimp only)

theorem keeps_killChan {M : State → Prop} {s : State} (ch) (hs : Keeps M s) :
    Keeps M (State.killChan ch s) := by
  unfold State.killChan
  repeat' (first | with_reducible assumption | with_reducible apply keeps_report | with_reducible apply keeps_updChan)

theorem keeps_mapIn {p : Params} {q : List Instr} {s : State} (hs : Keeps (Fits p q) s) :
    Keeps (Fits p q) (State.mapIn s) := by
  unfold State.mapIn
  repeat' (first
    | with_reducible assumption | with_reducible apply keeps_forAll | with_reducible apply keeps_chanResult
    | with_reducible apply keeps_updPool | with_reducible apply keeps_updChan | intro _ | split | dsimp only)

theorem keeps_shrink {M : State → Prop} {s : State} (ch) (hs : Keeps M s) :
    Keeps M (State.shrink ch s) := by
  unfold State.shrink
  repeat' (first | with_reducible assumption | with_reducible apply keeps_forAll | with_reducible apply keeps_updPool | intro _)

theorem keeps_mapOut {par : Params} {l : List Instr} {s : State} (img) (hs : Keeps (Fits par l) s) : Keeps (Fits par l)
    (State.mapOut img s) := by
  unfold State.mapOut
  repeat' (first
    | with_reducible assumption | with_reducible apply keeps_chanResult | with_reducible apply keeps_bumpN
    | with_reducible apply keeps_degrade | with_reducible apply keeps_shrink | with_reducible apply keeps_updChan | intro _
    | split | dsimp only | fail_if_no_progress (with_reducible refine fits_mk rfl rfl rfl rfl ?_))

theorem keeps_mapAgain {M : State → Prop} {s : State} (hs : Keeps M s) : Keeps M (State.mapAgain s) :=
  ⟨hs.stable, hs.stable.mapped s hs.here⟩

theorem keeps_mapOutPlain {p : Params} {q : List Instr} {s : State} (hs : Keeps (Fits p q) s) :
    Keeps (Fits p q) (State.mapOutPlain s) := by
  unfold State.mapOutPlain
  repeat' (first | with_reducible assumption | with_reducible apply keeps_mapOut | split | dsimp only)

theorem keeps_updTherm {M : State → Prop} {s : State} (g) (f) (h1 : (f (s.groupTherm g)).group = g)
    (h2 : (f (s.groupTherm g)).st = (s.groupTherm g).st) (hs : Keeps M s) : Keeps M (State.updTherm g f s) :=
  keeps_of (t := s) (by rw [therm_updTherm h1 h2]; rfl) hs

theorem keeps_measureRate {M : State → Prop} {s : State} (group) (hs : Keeps M s) : Keeps M (State.measureRate group s) := by
  unfold State.measureRate
  dsimp only
  split
  · exact hs
  · exact keeps_updTherm _ _ (groupTherm_group _ _) rfl hs

theorem keeps_readBytes {M : State → Prop} {s : State} (addr) (sectors) (hs : Keeps M s) :
    Keeps M (State.readBytes addr sectors s) := by
  unfold State.readBytes
  split
  · split
    · exact hs
    · exact keeps_updTherm _ _ (groupTherm_group _ _) rfl hs
  · exact hs

theorem keeps_releaseChan {M : State → Prop} {s : State} (ch) (hs : Keeps M s) :
    Keeps M (State.releaseChan ch s) :=
  keeps_mk rfl hs

theorem keeps_setTherm {par : Params} {l : List Instr} {s : State} (group) (x) (hs : Keeps (Fits par l) s) :
    Keeps (Fits par l) (State.setTherm group x s) :=
  fits_of (t := s) rfl rfl rfl rfl hs

theorem keeps_thermEvent {par : Params} {l : List Instr} {s : State} (group) (x) (hs : Keeps (Fits par l) s) : Keeps (Fits par
    l) (State.thermEvent group x s) := by
  unfold State.thermEvent
  repeat' (first
    | with_reducible assumption | with_reducible apply keeps_warnBegins | with_reducible apply keeps_report
    | with_reducible apply keeps_setTherm | with_reducible apply keeps_thermPark | with_reducible apply keeps_whenB | intro _
    | split | dsimp only)

theorem keeps_noMap {M : State → Prop} {s : State} (hs : Keeps M s) : Keeps M { s with mapWait := none } :=
  ⟨hs.stable, hs.stable.noMap s hs.here⟩

theorem keeps_causewayStops {M : State → Prop} {s : State} (hs : Keeps M s) : Keeps M (State.causewayStops s) := by
  unfold State.causewayStops
  split
  · exact keeps_noMap hs
  · exact keeps_updChan _ _ (keeps_noMap (s := { State.causewayUnlock s with causeway := none }) (keeps_mk rfl (keeps_causewayUnlock hs)))

theorem keeps_clkRecord {p : Params} {q : List Instr} {s : State} (again) (hs : Keeps (Fits p q) s) :
    Keeps (Fits p q) (State.clkRecord again s) := by
  unfold State.clkRecord
  repeat' (first
    | with_reducible assumption | with_reducible apply keeps_report
    | fail_if_no_progress (with_reducible refine fits_mk rfl rfl rfl rfl ?_))

theorem keeps_clkLost {p : Params} {q : List Instr} {s : State} (c) (hs : Keeps (Fits p q) s) :
    Keeps (Fits p q) (State.clkLost c s) := by
  unfold State.clkLost
  repeat' (first
    | with_reducible assumption | with_reducible apply keeps_clkRecord | split
    | fail_if_no_progress (with_reducible refine fits_mk rfl rfl rfl rfl ?_))

theorem keeps_clkRepeat {p : Params} {q : List Instr} {s : State} (hs : Keeps (Fits p q) s) :
    Keeps (Fits p q) (State.clkRepeat s) := by
  unfold State.clkRepeat
  repeat' (first | with_reducible assumption | with_reducible apply keeps_clkRecord | split)

theorem keeps_clkReturn {p : Params} {q : List Instr} {s : State} (c) (hs : Keeps (Fits p q) s) :
    Keeps (Fits p q) (State.clkReturn c s) :=
  fits_mk rfl rfl rfl rfl hs

theorem keeps_dropDrain {M : State → Prop} {s : State} (hs : Keeps M s) :
    Keeps M (State.dropDrain s) :=
  keeps_mk rfl hs

theorem keeps_noChart {M : State → Prop} {s : State} (hs : Keeps M s) :
    Keeps M (State.noChart s) := by
  unfold State.noChart
  repeat' (first | with_reducible assumption | with_reducible apply keeps_report)

/-- A new target leaves PWR_GRANT as it was sampled. -/
theorem State.powerTo_grant (s : State) (level : Nat) : (s.powerTo level).grant = s.power.grant := by
  unfold State.powerTo
  dsimp only
  split <;> rfl

theorem keeps_rampTo {M : State → Prop} {s : State} (target) (hs : Keeps M s) : Keeps M (State.rampTo target s) :=
  keeps_of (by simp only [State.rampTo, State.powerTo_grant]; rfl) hs

theorem keeps_refuseRemote {M : State → Prop} {s : State} (hs : Keeps M s) :
    Keeps M (State.refuseRemote s) := by
  unfold State.refuseRemote
  repeat' (first
    | with_reducible assumption | with_reducible apply keeps_forAll | with_reducible apply keeps_answer | intro _ | split)

theorem keeps_workEnds {M : State → Prop} {s : State} (hs : Keeps M s) : Keeps M (State.workEnds s) := by
  unfold State.workEnds
  repeat' (first
    | with_reducible assumption | with_reducible apply keeps_refuseRemote | with_reducible apply keeps_causewayStops)

theorem keeps_unissueCommits {M : State → Prop} {s : State} (hs : Keeps M s) : Keeps M (State.unissueCommits s) := by
  unfold State.unissueCommits
  repeat' (first
    | with_reducible assumption | intro _ | split | dsimp only | fail_if_no_progress (with_reducible refine keeps_mk rfl ?_))

theorem keeps_tileEnds {M : State → Prop} {s : State} (w) (hs : Keeps M s) : Keeps M (State.tileEnds w s) := by
  unfold State.tileEnds
  repeat' (first | with_reducible assumption | with_reducible apply keeps_releaseOlds | with_reducible apply keeps_dropPlaces)

theorem keeps_warmStart {par : Params} {l : List Instr} {s : State} (src) (hs : Keeps (Fits par l) s) : Keeps (Fits par l)
    (State.warmStart src s) := by
  unfold State.warmStart
  repeat' (first
    | with_reducible assumption | with_reducible apply keeps_rampTo | with_reducible apply keeps_workEnds
    | with_reducible apply keeps_unissueCommits | with_reducible apply keeps_tileEnds | with_reducible apply keeps_spillDrop
    | with_reducible apply keeps_dropReqs | with_reducible apply keeps_forAll | intro _ | split | dsimp only
    | fail_if_no_progress (with_reducible refine fits_mk rfl rfl rfl rfl ?_))

theorem keeps_clusterDone {p : Params} {q : List Instr} {s : State} (hs : Keeps (Fits p q) s) :
    Keeps (Fits p q) (State.clusterDone s) := by
  unfold State.clusterDone
  repeat' (first
    | with_reducible assumption | with_reducible apply keeps_dropDrain | with_reducible apply keeps_noChart
    | with_reducible apply keeps_report | with_reducible apply keeps_warmStart | split | dsimp only
    | fail_if_no_progress (with_reducible refine fits_mk rfl rfl rfl rfl ?_))

theorem keeps_drainStream {M : State → Prop} {s : State} (n) (hs : Keeps M s) :
    Keeps M (State.drainStream n s) := by
  unfold State.drainStream
  repeat' (first | with_reducible assumption | with_reducible apply keeps_closeNow | with_reducible apply keeps_updStream | split)

theorem keeps_startDrain {M : State → Prop} {s : State} (why) (hs : Keeps M s) :
    Keeps M (State.startDrain why s) := by
  unfold State.startDrain
  repeat' (first
    | with_reducible assumption | with_reducible apply keeps_forAll | with_reducible apply keeps_drainStream | intro _
    | fail_if_no_progress (with_reducible refine keeps_mk rfl ?_))

theorem keeps_clusterOff {M : State → Prop} {s : State} (src) (hs : Keeps M s) : Keeps M (State.clusterOff src s) := by
  unfold State.clusterOff
  repeat' (first
    | with_reducible assumption | with_reducible apply keeps_startDrain | intro _ | split | dsimp only
    | fail_if_no_progress (with_reducible refine keeps_mk rfl ?_))

theorem keeps_clusterOn {M : State → Prop} {s : State} (hs : Keeps M s) : Keeps M (State.clusterOn s) := by
  unfold State.clusterOn
  repeat' (first
    | with_reducible assumption | with_reducible apply keeps_rampTo | with_reducible apply keeps_noChart
    | with_reducible refine keeps_fst (by assumption) ?_ | intro _ | split | dsimp only
    | fail_if_no_progress (with_reducible refine keeps_mk rfl ?_))

theorem keeps_sramCleared {M : State → Prop} {s : State} (hs : Keeps M s) : Keeps M (State.sramCleared s) := by
  unfold State.sramCleared
  repeat' (first
    | with_reducible assumption | intro _ | split | dsimp only | fail_if_no_progress (with_reducible refine keeps_mk rfl ?_))

theorem keeps_clusterWiped {M : State → Prop} {s : State} (hs : Keeps M s) : Keeps M (State.clusterWiped s) := by
  unfold State.clusterWiped
  repeat' (first
    | with_reducible assumption | with_reducible apply keeps_sramCleared | with_reducible apply keeps_workEnds | intro _
    | split | dsimp only | fail_if_no_progress (with_reducible refine keeps_mk rfl ?_))

theorem keeps_coldAgain {p : Params} {q : List Instr} {s : State} (a1) (a2) (hs : Keeps (Fits p q) s) :
    Keeps (Fits p q) (State.coldAgain a1 a2 s) := by
  exact keeps_fits ⟨hs.here.params, hs.here.pending, by simp [State.coldAgain, State.cold],
    ⟨by simp [State.coldAgain, State.cold, ErrState.cold], by simp [State.coldAgain, State.cold, ErrState.cold],
      by simp [State.coldAgain, State.cold, ErrState.cold]⟩⟩

theorem keeps_coldAssert {p : Params} {q : List Instr} {s : State} (hs : Keeps (Fits p q) s) :
    Keeps (Fits p q) (State.coldAssert s) := by
  unfold State.coldAssert
  repeat' (first | with_reducible assumption | with_reducible apply keeps_coldAgain)

theorem keeps_coldEnd {M : State → Prop} {s : State} (hs : Keeps M s) :
    Keeps M (State.coldEnd s) := by
  unfold State.coldEnd
  repeat' (first
    | with_reducible assumption | with_reducible apply keeps_forAll | with_reducible apply keeps_noChart
    | with_reducible apply keeps_report | intro _ | split | fail_if_no_progress (with_reducible refine keeps_mk rfl ?_))

theorem keeps_coldRelease {p : Params} {q : List Instr} {s : State} (lcIn) (hs : Keeps (Fits p q) s) :
    Keeps (Fits p q) (State.coldRelease lcIn s) := by
  unfold State.coldRelease
  repeat' (first | with_reducible assumption | with_reducible apply keeps_coldAgain | split)

theorem keeps_coreDone {M : State → Prop} {s : State} (c) (hs : Keeps M s) :
    Keeps M (State.coreDone c s) :=
  keeps_mk rfl hs

theorem keeps_enterHeld {M : State → Prop} {s : State} (reason) (hs : Keeps M s) : Keeps M (State.enterHeld reason s) := by
  unfold State.enterHeld
  repeat' (first
    | with_reducible assumption | with_reducible apply keeps_sramCleared | with_reducible apply keeps_workEnds | intro _
    | split | dsimp only | fail_if_no_progress (with_reducible refine keeps_mk rfl ?_))

theorem keeps_drainDone {par : Params} {l : List Instr} {s : State} (hs : Keeps (Fits par l) s) : Keeps (Fits par l)
    (State.drainDone s) := by
  unfold State.drainDone
  repeat' (first
    | with_reducible assumption | with_reducible apply keeps_enterHeld | with_reducible apply keeps_rampTo
    | with_reducible apply keeps_dropDrain | intro _ | split | dsimp only
    | fail_if_no_progress (with_reducible refine fits_mk rfl rfl rfl rfl ?_))

theorem keeps_fnResult {p : Params} {q : List Instr} {s : State} (r) (hs : Keeps (Fits p q) s) :
    Keeps (Fits p q) (State.fnResult r s) :=
  fits_mk rfl rfl rfl rfl hs

theorem keeps_setFn {M : State → Prop} {s : State} (f) (x) (hs : Keeps M s) :
    Keeps M (State.setFn f x s) := by
  unfold State.setFn
  repeat' (first
    | with_reducible assumption | with_reducible apply keeps_updCore | with_reducible apply keeps_updDport
    | with_reducible apply keeps_updStream | split | fail_if_no_progress (with_reducible refine keeps_mk rfl ?_))

theorem keeps_fnAct {p : Params} {q : List Instr} {s : State} (op) (f) (hs : Keeps (Fits p q) s) :
    Keeps (Fits p q) (State.fnAct op f s) := by
  unfold State.fnAct
  repeat' (first
    | with_reducible assumption | with_reducible apply keeps_fnResult | with_reducible apply keeps_updCore
    | with_reducible apply keeps_setFn | split)

theorem keeps_fnCmd {p : Params} {q : List Instr} {s : State} (op) (w) (hs : Keeps (Fits p q) s) :
    Keeps (Fits p q) (State.fnCmd op w s) := by
  unfold State.fnCmd
  repeat' (first | with_reducible assumption | with_reducible apply keeps_fnResult | with_reducible apply keeps_fnAct | split)

theorem keeps_rampEnds {p : Params} {q : List Instr} {s : State} (hs : Keeps (Fits p q) s) :
    Keeps (Fits p q) (State.rampEnds s) :=
  fits_mk rfl rfl rfl rfl hs

theorem keeps_governs {M : State → Prop} {s : State} (hs : Keeps M s) : Keeps M (State.governs s) := by
  unfold State.governs
  repeat' (first | with_reducible assumption | with_reducible apply keeps_chosen | with_reducible apply keeps_rampTo | split)

theorem keeps_fnRamped {p : Params} {q : List Instr} {s : State} (f) (hs : Keeps (Fits p q) s) :
    Keeps (Fits p q) (State.fnRamped f s) := by
  unfold State.fnRamped
  repeat' (first | with_reducible assumption | with_reducible apply keeps_setFn | with_reducible apply keeps_rampEnds | split)

theorem keeps_fnWiped {M : State → Prop} {s : State} (f) (hs : Keeps M s) :
    Keeps M (State.fnWiped f s) := by
  unfold State.fnWiped
  repeat' (first | with_reducible assumption | with_reducible apply keeps_clusterWiped | with_reducible apply keeps_setFn | split)

theorem keeps_grantChange {p : Params} {q : List Instr} {s : State} (level) (hs : Keeps (Fits p q) s) :
    Keeps (Fits p q) (State.grantChange level s) := by
  unfold State.grantChange
  repeat' (first
    | with_reducible assumption | split | dsimp only | fail_if_no_progress (with_reducible refine fits_mk rfl rfl rfl rfl ?_))

theorem keeps_leadExpires {p : Params} {q : List Instr} {s : State} (hs : Keeps (Fits p q) s) :
    Keeps (Fits p q) (State.leadExpires s) := by
  unfold State.leadExpires
  repeat' (first | with_reducible assumption | split | fail_if_no_progress (with_reducible refine fits_mk rfl rfl rfl rfl ?_))

theorem keeps_lifeEnd {M : State → Prop} {s : State} (hs : Keeps M s) :
    Keeps M (State.lifeEnd s) := by
  unfold State.lifeEnd
  repeat' (first
    | with_reducible assumption | with_reducible apply keeps_enterHeld | with_reducible apply keeps_noChart
    | with_reducible apply keeps_startDrain | split | fail_if_no_progress (with_reducible refine keeps_mk rfl ?_))

theorem keeps_lifeRamped {p : Params} {q : List Instr} {s : State} (hs : Keeps (Fits p q) s) :
    Keeps (Fits p q) (State.lifeRamped s) := by
  unfold State.lifeRamped
  repeat' (first
    | with_reducible assumption | with_reducible apply keeps_rampEnds | split
    | fail_if_no_progress (with_reducible refine fits_mk rfl rfl rfl rfl ?_))

theorem keeps_lifeWiped {par : Params} {l : List Instr} {s : State} (n) (target) (hs : Keeps (Fits par l) s) : Keeps (Fits par
    l) (State.lifeWiped n target s) := by
  unfold State.lifeWiped
  repeat' (first
    | with_reducible assumption | with_reducible apply keeps_sramCleared | with_reducible apply keeps_workEnds
    | with_reducible apply keeps_updStream | with_reducible apply keeps_report | intro _ | split | dsimp only
    | fail_if_no_progress (with_reducible refine fits_mk rfl rfl rfl rfl ?_))

theorem keeps_lifecycle {M : State → Prop} {s : State} (n) (hs : Keeps M s) :
    Keeps M (State.lifecycle n s) := by
  unfold State.lifecycle
  repeat' (first
    | with_reducible assumption | with_reducible apply keeps_startDrain | with_reducible apply keeps_startRun | split
    | fail_if_no_progress (with_reducible refine keeps_mk rfl ?_))

theorem keeps_mgReset {p : Params} {q : List Instr} {s : State} (hs : Keeps (Fits p q) s) :
    Keeps (Fits p q) (State.mgReset s) := by
  unfold State.mgReset
  split
  · exact keeps_fits ⟨hs.here.params, hs.here.pending, hs.here.counters, ⟨hs.here.err.log, by simp, hs.here.err.numbered⟩⟩
  · exact hs

theorem keeps_warmEnd {par : Params} {l : List Instr} {s : State} (src) (ended) (hs : Keeps (Fits par l) s) :
    Keeps (Fits par l) (State.warmEnd src ended s) := by
  unfold State.warmEnd
  refine keeps_noChart (keeps_report _ ?_)
  exact keeps_fits ⟨hs.here.params, hs.here.pending, hs.here.counters, ⟨hs.here.err.log, hs.here.err.mgq, hs.here.err.numbered⟩⟩

theorem keeps_warmRamped {p : Params} {q : List Instr} {s : State} (hs : Keeps (Fits p q) s) :
    Keeps (Fits p q) (State.warmRamped s) := by
  unfold State.warmRamped
  repeat' (first
    | with_reducible assumption | with_reducible apply keeps_rampEnds | with_reducible apply keeps_warmEnd | split
    | fail_if_no_progress (with_reducible refine fits_mk rfl rfl rfl rfl ?_))

theorem keeps_rampDone {p : Params} {q : List Instr} {s : State} (sc) (hs : Keeps (Fits p q) s) :
    Keeps (Fits p q) (State.rampDone sc s) := by
  unfold State.rampDone
  repeat' (first
    | with_reducible apply keeps_rampEnds | with_reducible assumption | with_reducible apply keeps_fnRamped
    | with_reducible apply keeps_warmRamped | with_reducible apply keeps_lifeRamped | split)

theorem keeps_repairDone {M : State → Prop} {s : State} (hs : Keeps M s) :
    Keeps M (State.repairDone s) := by
  unfold State.repairDone
  repeat' (first | with_reducible assumption | split | fail_if_no_progress (with_reducible refine keeps_mk rfl ?_))

theorem keeps_repairWord {M : State → Prop} {s : State} (w) (hs : Keeps M s) :
    Keeps M (State.repairWord w s) := by
  unfold State.repairWord
  repeat' (first | with_reducible assumption | split | fail_if_no_progress (with_reducible refine keeps_mk rfl ?_))

theorem keeps_shutDownDone {p : Params} {q : List Instr} {s : State} (f) (hs : Keeps (Fits p q) s) :
    Keeps (Fits p q) (State.shutDownDone f s) := by
  unfold State.shutDownDone
  repeat' (first
    | with_reducible assumption | with_reducible apply keeps_clusterDone | with_reducible apply keeps_streamOff
    | with_reducible apply keeps_setFn | split)

theorem keeps_supplyLoss {p : Params} {q : List Instr} {s : State} (hs : Keeps (Fits p q) s) :
    Keeps (Fits p q) (State.supplyLoss s) := by
  unfold State.supplyLoss
  repeat' (first | with_reducible assumption | with_reducible apply keeps_coldAgain)

theorem keeps_warmReset {par : Params} {l : List Instr} {s : State} (src) (hs : Keeps (Fits par l) s) : Keeps (Fits par l)
    (State.warmReset src s) := by
  unfold State.warmReset
  repeat' (first
    | with_reducible assumption | with_reducible apply keeps_warmStart | intro _ | split | dsimp only
    | fail_if_no_progress (with_reducible refine fits_mk rfl rfl rfl rfl ?_))

theorem keeps_warmWiped {par : Params} {l : List Instr} {s : State} (hs : Keeps (Fits par l) s) : Keeps (Fits par l)
    (State.warmWiped s) := by
  unfold State.warmWiped
  repeat' (first
    | with_reducible assumption | with_reducible apply keeps_rampTo | with_reducible apply keeps_sramCleared | intro _ | split
    | dsimp only | fail_if_no_progress (with_reducible refine fits_mk rfl rfl rfl rfl ?_))

theorem keeps_wipeDone {par : Params} {l : List Instr} {s : State} (sc) (hs : Keeps (Fits par l) s) : Keeps (Fits par l)
    (State.wipeDone sc s) := by
  unfold State.wipeDone
  repeat' (first
    | with_reducible assumption | with_reducible apply keeps_fnWiped | with_reducible apply keeps_warmWiped
    | with_reducible apply keeps_coldEnd | with_reducible apply keeps_rampTo | with_reducible apply keeps_lifeWiped | intro _
    | split | dsimp only | fail_if_no_progress (with_reducible refine fits_mk rfl rfl rfl rfl ?_))

theorem keeps_applyFull {par : Params} {l : List Instr} {s : State} (c) (img) (hs : Keeps (Fits par l) s) : Keeps (Fits par l)
    (State.applyFull c img s) := by
  unfold State.applyFull
  repeat' (first
    | with_reducible assumption | with_reducible apply keeps_report | with_reducible apply keeps_bumpN | intro _ | split
    | dsimp only | fail_if_no_progress (with_reducible refine fits_mk rfl rfl rfl rfl ?_))

theorem keeps_chartAbort {M : State → Prop} {s : State} (hs : Keeps M s) :
    Keeps M (State.chartAbort s) := by
  unfold State.chartAbort
  repeat' (first
    | with_reducible assumption | with_reducible apply keeps_dropReqs | split
    | fail_if_no_progress (with_reducible refine keeps_mk rfl ?_))

theorem keeps_chartCmd {M : State → Prop} {s : State} (a1) (a2) (a3) (ha3 : ∀  t, Keeps M t → Keeps M (a3  t)) (hs
    : Keeps M s) :
    Keeps M (State.chartCmd a1 a2 a3 s) := by
  unfold State.chartCmd
  split
  · exact ha3 s hs
  · exact hs

theorem keeps_stagePiece {M : State → Prop} {s : State} (i) (hs : Keeps M s) : Keeps M (State.stagePiece i s) := by
  unfold State.stagePiece
  repeat' (first
    | with_reducible assumption | with_reducible apply keeps_admitHeld | with_reducible apply keeps_spillStore
    | with_reducible refine keeps_fst (by assumption) ?_ | intro _ | split)

theorem keeps_stageChart {M : State → Prop} {s : State} (hs : Keeps M s) : Keeps M (State.stageChart s) := by
  unfold State.stageChart
  repeat' (first
    | with_reducible assumption | with_reducible apply keeps_stagePiece | with_reducible apply keeps_forAll | intro _ | split)

theorem keeps_chartData {M : State → Prop} {s : State} (w) (hs : Keeps M s) : Keeps M (State.chartData w s) := by
  unfold State.chartData
  repeat' (first
    | with_reducible assumption | with_reducible apply keeps_stageChart | intro _ | split | dsimp only
    | fail_if_no_progress (with_reducible refine keeps_mk rfl ?_))

theorem keeps_chartFetch {M : State → Prop} {s : State} (hs : Keeps M s) : Keeps M (State.chartFetch s) := by
  unfold State.chartFetch
  repeat' (first
    | with_reducible assumption | with_reducible apply keeps_issue | with_reducible apply keeps_forAll | intro _ | split
    | dsimp only | fail_if_no_progress (with_reducible refine keeps_mk rfl ?_))

theorem keeps_validateNow {M : State → Prop} {s : State} (hs : Keeps M s) : Keeps M (State.validateNow s) := by
  unfold State.validateNow
  repeat' (first
    | with_reducible assumption | with_reducible apply keeps_spillLoad | with_reducible apply keeps_sendRing
    | with_reducible apply keeps_forAll | intro _ | split | dsimp only
    | fail_if_no_progress (with_reducible refine keeps_mk rfl ?_))

theorem keeps_chartFinish {M : State → Prop} {s : State} (hs : Keeps M s) : Keeps M (State.chartFinish s) := by
  unfold State.chartFinish
  repeat' (first
    | with_reducible assumption | with_reducible apply keeps_validateNow | intro _ | split | dsimp only
    | fail_if_no_progress (with_reducible refine keeps_mk rfl ?_))

theorem keeps_loadFails {M : State → Prop} {s : State} (f) (hs : Keeps M s) :
    Keeps M (State.loadFails f s) := by
  unfold State.loadFails
  repeat' (first
    | with_reducible assumption | with_reducible apply keeps_dropReqs | with_reducible apply keeps_report
    | with_reducible apply keeps_startDrain | with_reducible apply keeps_enterHeld | split | dsimp only
    | fail_if_no_progress (with_reducible refine keeps_mk rfl ?_))

theorem keeps_chartPoison {M : State → Prop} {s : State} (hs : Keeps M s) : Keeps M (State.chartPoison s) := by
  unfold State.chartPoison
  repeat' (first | with_reducible assumption | with_reducible apply keeps_loadFails | intro _ | split)

theorem keeps_chartResult {M : State → Prop} {s : State} (r) (hs : Keeps M s) :
    Keeps M (State.chartResult r s) :=
  keeps_mk rfl hs

theorem keeps_chartStart {M : State → Prop} {s : State} (hs : Keeps M s) :
    Keeps M (State.chartStart s) := by
  unfold State.chartStart
  repeat' (first
    | with_reducible assumption | with_reducible apply keeps_report | with_reducible apply keeps_chartResult
    | with_reducible apply keeps_chartFetch | split | dsimp only | fail_if_no_progress (with_reducible refine keeps_mk rfl ?_))

theorem keeps_failRamp {par : Params} {l : List Instr} {s : State} (hs : Keeps (Fits par l) s) : Keeps (Fits par l)
    (State.failRamp s) := by
  unfold State.failRamp
  repeat' (first | with_reducible assumption | with_reducible apply keeps_rampTo | intro _ | split)

theorem keeps_gotChart {M : State → Prop} {s : State} (base) (addr) (n) (img) (bad) (hs : Keeps M s) : Keeps M (State.gotChart
    base addr n img bad s) := by
  unfold State.gotChart
  repeat' (first
    | with_reducible assumption | with_reducible apply keeps_loadFails | with_reducible apply keeps_stageChart
    | with_reducible apply keeps_validateNow | intro _ | split | dsimp only
    | fail_if_no_progress (with_reducible refine keeps_mk rfl ?_))

theorem keeps_updateSwitch {M : State → Prop} {s : State} (hs : Keeps M s) :
    Keeps M (State.updateSwitch s) := by
  unfold State.updateSwitch
  repeat' (first
    | with_reducible assumption | with_reducible apply keeps_report | split
    | fail_if_no_progress (with_reducible refine keeps_mk rfl ?_))

theorem keeps_validated {par : Params} {l : List Instr} {s : State} (peers) (img) (hs : Keeps (Fits par l) s) : Keeps (Fits par
    l) (State.validated peers img s) := by
  unfold State.validated
  repeat' (first
    | with_reducible assumption | with_reducible apply keeps_loadFails | with_reducible apply keeps_failRamp
    | with_reducible apply keeps_applyFull | intro _ | split | dsimp only
    | fail_if_no_progress (with_reducible refine fits_mk rfl rfl rfl rfl ?_))

end Sys2Proof.Machine
end

