-- ==== Sys2Proof/Laws/KeepsTiles.lean ====
section
/-! SUPPORT. `Keeps` passes through tests, tile work, memory answers, assignment, hardware faults and the settling of a step. -/

namespace Sys2Proof.Machine

theorem keeps_setFirstTest {M : State → Prop} {s : State} (x) (hs : Keeps M s) :
    Keeps M (State.setFirstTest x s) :=
  keeps_mk rfl hs

theorem keeps_testVoid {M : State → Prop} {s : State} (x) (hs : Keeps M s) :
    Keeps M (State.testVoid x s) := by
  unfold State.testVoid
  repeat' (first
    | with_reducible assumption | with_reducible apply keeps_whenB | with_reducible apply keeps_setFirstTest
    | with_reducible apply keeps_updStream | intro _)

theorem keeps_beginTest {M : State → Prop} {s : State} (x) (c) (hs : Keeps M s) :
    Keeps M (State.beginTest x c s) := by
  unfold State.beginTest
  repeat' (first
    | with_reducible assumption | with_reducible apply keeps_updCore
    | fail_if_no_progress (with_reducible refine keeps_mk rfl ?_))

theorem keeps_startOn {M : State → Prop} {s : State} (x) (c) (hs : Keeps M s) :
    Keeps M (State.startOn x c s) := by
  unfold State.startOn
  repeat' (first | with_reducible assumption | with_reducible apply keeps_testVoid | with_reducible apply keeps_beginTest | split)

theorem keeps_ferryChoose {M : State → Prop} {s : State} (l : List (Fin 16)) (hs : Keeps M s) :
    Keeps M (ferryChoose l s).2 := by
  induction l generalizing s with
  | nil => exact hs
  | cons c rest ih =>
    unfold ferryChoose
    split
    · exact hs
    · exact ih (keeps_report _ hs)

theorem keeps_startTest {M : State → Prop} {s : State} (hs : Keeps M s) :
    Keeps M (State.startTest s) := by
  unfold State.startTest
  split
  · split
    · exact keeps_startOn _ _ hs
    · split
      · split
        · exact keeps_of (t := s) rfl hs
        · exact keeps_testVoid _ hs
      · have hf := keeps_ferryChoose s.ferryOrder hs
        split
        · next t he => rw [he] at hf; exact keeps_of (t := t) rfl hf
        · next c t he => rw [he] at hf; exact keeps_startOn _ _ (keeps_setFirstTest _ hf)
  · exact hs

theorem keeps_coreTestStart {M : State → Prop} {s : State} (hs : Keeps M s) :
    Keeps M (State.coreTestStart s) := by
  unfold State.coreTestStart
  repeat' (first | with_reducible assumption | with_reducible apply keeps_startTest | split)

theorem keeps_askTest {M : State → Prop} {s : State} (n) (op) (shared) (hs : Keeps M s) :
    Keeps M (State.askTest n op shared s) := by
  unfold State.askTest
  repeat' (first
    | with_reducible assumption | with_reducible apply keeps_updStream | with_reducible apply keeps_startRun
    | with_reducible apply keeps_coreTestStart | split | fail_if_no_progress (with_reducible refine keeps_mk rfl ?_))

theorem keeps_scanReads {M : State → Prop} {s : State} (hs : Keeps M s) : Keeps M (State.scanReads s) := by
  unfold State.scanReads
  repeat' (first
    | with_reducible assumption | with_reducible refine keeps_fst (by assumption) ?_ | intro _ | split | dsimp only
    | fail_if_no_progress (with_reducible refine keeps_mk rfl ?_))

theorem keeps_enterPart {M : State → Prop} {s : State} (x) (a2) (hs : Keeps M s) :
    Keeps M (State.enterPart x a2 s) := by
  unfold State.enterPart
  repeat' (first
    | with_reducible assumption | with_reducible apply keeps_scanReads | intro _ | split | dsimp only
    | fail_if_no_progress (with_reducible refine keeps_mk rfl ?_))

theorem keeps_ferryTimer {M : State → Prop} {s : State} (hs : Keeps M s) :
    Keeps M (State.ferryTimer s) := by
  unfold State.ferryTimer
  repeat' (first
    | with_reducible assumption | with_reducible apply keeps_startTest | split | dsimp only
    | fail_if_no_progress (with_reducible refine keeps_mk rfl ?_))

theorem keeps_lbistDone {M : State → Prop} {s : State} (misr) (hs : Keeps M s) :
    Keeps M (State.lbistDone misr s) := by
  unfold State.lbistDone
  repeat' (first
    | with_reducible assumption | with_reducible apply keeps_report | with_reducible apply keeps_enterPart | split
    | fail_if_no_progress (with_reducible refine keeps_mk rfl ?_))

theorem keeps_packageDecoded {M : State → Prop} {s : State} (pkg) (hs : Keeps M s) :
    Keeps M (State.packageDecoded pkg s) := by
  unfold State.packageDecoded
  repeat' (first
    | with_reducible assumption | with_reducible apply keeps_checkedOn | with_reducible apply keeps_chosen | split | dsimp only)

theorem keeps_testIrq {M : State → Prop} {s : State} (hs : Keeps M s) :
    Keeps M (State.testIrq s) :=
  keeps_err (t := s) rfl rfl hs

theorem keeps_packageRead {M : State → Prop} {s : State} (n) (m) (pkg) (err) (hs : Keeps M s) :
    Keeps M (State.packageRead n m pkg err s) := by
  unfold State.packageRead
  repeat' (first
    | with_reducible assumption | with_reducible apply keeps_scanReads | with_reducible apply keeps_packageDecoded
    | with_reducible apply keeps_report | with_reducible apply keeps_updStream | with_reducible apply keeps_testIrq
    | with_reducible refine keeps_fst (by assumption) ?_ | intro _ | split | dsimp only
    | fail_if_no_progress (with_reducible refine keeps_mk rfl ?_))

theorem keeps_loadPackage {M : State → Prop} {s : State} (n) (img) (hs : Keeps M s) :
    Keeps M (State.loadPackage n img s) := by
  unfold State.loadPackage
  repeat' (first
    | with_reducible assumption | with_reducible apply keeps_startRun | with_reducible apply keeps_bumpN
    | with_reducible apply keeps_packageRead | with_reducible refine keeps_fst (by assumption) ?_ | intro _ | split | dsimp only
    | fail_if_no_progress (with_reducible refine keeps_mk rfl ?_))

theorem keeps_repaired {M : State → Prop} {s : State} (u0) (i) (w0) (hs : Keeps M s) : Keeps M (State.repaired u0 i w0 s) := by
  unfold State.repaired
  repeat' (first
    | with_reducible assumption | with_reducible apply keeps_report | intro _ | split | dsimp only
    | fail_if_no_progress (with_reducible refine keeps_mk rfl ?_))

theorem keeps_mbistOne {M : State → Prop} {s : State} (u) (i) (r) (hs : Keeps M s) : Keeps M (State.mbistOne u i r s).1 := by
  unfold State.mbistOne
  repeat' (first
    | with_reducible assumption | with_reducible apply keeps_repaired | with_reducible apply keeps_chosen
    | with_reducible apply keeps_forAll | with_reducible refine keeps_fst (by assumption) ?_ | intro _ | split)

theorem keeps_mbistAll {M : State → Prop} {s : State} (u) (i) (a1) (hs : Keeps M s) : Keeps M (State.mbistAll u i a1 s).1 := by
  induction a1 generalizing s with
  | nil => exact hs
  | cons r l ih => exact ih (keeps_mbistOne _ _ _ hs)

theorem keeps_mbistDone {M : State → Prop} {s : State} (results) (hs : Keeps M s) :
    Keeps M (State.mbistDone results s) := by
  unfold State.mbistDone
  repeat' (first
    | with_reducible assumption | with_reducible apply keeps_mbistAll | with_reducible apply keeps_enterPart
    | with_reducible apply keeps_report | with_reducible apply keeps_degrade | with_reducible apply keeps_whenB
    | with_reducible refine keeps_fst (by assumption) ?_ | intro _ | split | dsimp only
    | fail_if_no_progress (with_reducible refine keeps_mk rfl ?_))

theorem keeps_patternBytes {M : State → Prop} {s : State} (data) (err) (hs : Keeps M s) :
    Keeps M (State.patternBytes data err s) := by
  unfold State.patternBytes
  repeat' (first
    | with_reducible assumption | with_reducible apply keeps_packageRead | split | dsimp only
    | fail_if_no_progress (with_reducible refine keeps_mk rfl ?_))

theorem keeps_scanDone {M : State → Prop} {s : State} (fails) (hs : Keeps M s) :
    Keeps M (State.scanDone fails s) := by
  unfold State.scanDone
  repeat' (first
    | with_reducible assumption | with_reducible apply keeps_packageDecoded | with_reducible apply keeps_report
    | with_reducible apply keeps_enterPart | with_reducible refine keeps_fst (by assumption) ?_ | intro _ | split | dsimp only
    | fail_if_no_progress (with_reducible refine keeps_mk rfl ?_))

theorem keeps_sharedWiped {M : State → Prop} {s : State} (hs : Keeps M s) :
    Keeps M (State.sharedWiped s) := by
  unfold State.sharedWiped
  repeat' (first
    | with_reducible assumption | with_reducible apply keeps_updStream | split
    | fail_if_no_progress (with_reducible refine keeps_mk rfl ?_))

theorem keeps_segmentOpens {M : State → Prop} {s : State} (bitNo) (k) (hs : Keeps M s) : Keeps M (State.segmentOpens bitNo k s)
    := by
  unfold State.segmentOpens
  repeat' (first
    | with_reducible assumption | with_reducible refine keeps_fst (by assumption) ?_ | intro _ | split | dsimp only
    | fail_if_no_progress (with_reducible refine keeps_mk rfl ?_))

theorem keeps_testAccess {M : State → Prop} {s : State} (bitNo) (k) (hs : Keeps M s) :
    Keeps M (State.testAccess bitNo k s) := by
  unfold State.testAccess
  repeat' (first
    | with_reducible assumption | with_reducible apply keeps_segmentOpens | with_reducible apply keeps_bump
    | with_reducible apply keeps_report | with_reducible refine keeps_fst (by assumption) ?_ | intro _ | split | dsimp only
    | fail_if_no_progress (with_reducible refine keeps_mk rfl ?_))

theorem keeps_testRamped {M : State → Prop} {s : State} (c) (hs : Keeps M s) :
    Keeps M (State.testRamped c s) := by
  unfold State.testRamped
  repeat' (first | with_reducible assumption | with_reducible apply keeps_enterPart | with_reducible apply keeps_updCore | split)

theorem keeps_testWiped {M : State → Prop} {s : State} (c) (hs : Keeps M s) :
    Keeps M (State.testWiped c s) := by
  unfold State.testWiped
  repeat' (first
    | with_reducible assumption | with_reducible apply keeps_whenB | with_reducible apply keeps_report
    | with_reducible apply keeps_updCore | with_reducible apply keeps_degrade | with_reducible apply keeps_testIrq
    | with_reducible apply keeps_updStream | intro _ | split | fail_if_no_progress (with_reducible refine keeps_mk rfl ?_))

theorem keeps_updIport {M : State → Prop} {s : State} (a1) (f) (hs : Keeps M s) :
    Keeps M (State.updIport a1 f s) :=
  keeps_mk rfl hs

theorem keeps_beatWaits {M : State → Prop} {s : State} (port) (side) (hs : Keeps M s) :
    Keeps M (State.beatWaits port side s) := by
  unfold State.beatWaits
  repeat' (first | with_reducible assumption | with_reducible apply keeps_updIport | split)

theorem keeps_startIntake {M : State → Prop} {s : State} (n) (r) (hs : Keeps M s) :
    Keeps M (State.startIntake n r s) := by
  unfold State.startIntake
  repeat' (first
    | with_reducible assumption | with_reducible apply keeps_startResume | with_reducible apply keeps_startRun | split)

theorem keeps_roomFor {M : State → Prop} {s : State} (n) (hs : Keeps M s) : Keeps M (State.roomFor n s).1 := by
  unfold State.roomFor
  repeat' (first
    | with_reducible assumption | with_reducible apply keeps_makeRoomFor | with_reducible apply keeps_numbered
    | with_reducible apply keeps_spillFound | with_reducible apply keeps_spillStall
    | with_reducible refine keeps_fst (by assumption) ?_ | intro _ | split)

theorem keeps_openTile {M : State → Prop} {s : State} (port) (n) (id) (r) (hs : Keeps M s) : Keeps M (State.openTile port n id
    r s) := by
  unfold State.openTile
  repeat' (first | with_reducible assumption | with_reducible apply keeps_updRun | with_reducible apply keeps_addW)

theorem keeps_beatPasses {M : State → Prop} {s : State} (port) (hs : Keeps M s) :
    Keeps M (State.beatPasses port s) :=
  keeps_mk rfl hs

theorem keeps_beatJoins {M : State → Prop} {s : State} (port) (n) (side) (data) (faults) (hs : Keeps M s) :
    Keeps M (State.beatJoins port n side data faults s) := by
  unfold State.beatJoins
  repeat' (first
    | with_reducible assumption | with_reducible apply keeps_updW | with_reducible apply keeps_updStream
    | with_reducible apply keeps_failSource | with_reducible apply keeps_quantiseTile | split | dsimp only)

theorem keeps_beatFails {M : State → Prop} {s : State} (port) (n) (hs : Keeps M s) :
    Keeps M (State.beatFails port n s) := by
  unfold State.beatFails
  repeat' (first
    | with_reducible assumption | with_reducible apply keeps_updStream | with_reducible apply keeps_failSource | split)

theorem keeps_beatBegins {M : State → Prop} {s : State} (port) (n) (side) (data) (hs : Keeps M s) : Keeps M (State.beatBegins
    port n side data s) := by
  unfold State.beatBegins
  repeat' (first
    | with_reducible assumption | with_reducible apply keeps_beatWaits | with_reducible apply keeps_startIntake
    | with_reducible apply keeps_roomFor | with_reducible apply keeps_openTile | with_reducible apply keeps_beatPasses
    | with_reducible apply keeps_beatJoins | with_reducible apply keeps_updStream | with_reducible apply keeps_beatFails
    | with_reducible refine keeps_fst (by assumption) ?_ | intro _ | split | dsimp only)

theorem keeps_beatTaken {M : State → Prop} {s : State} (port) (side) (data) (faults) (hs : Keeps M s) : Keeps M
    (State.beatTaken port side data faults s) := by
  unfold State.beatTaken
  repeat' (first
    | with_reducible assumption | with_reducible apply keeps_beatWaits | with_reducible apply keeps_beatPasses
    | with_reducible apply keeps_updStream | with_reducible apply keeps_beatBegins | with_reducible apply keeps_beatJoins
    | with_reducible apply keeps_beatFails | with_reducible refine keeps_fst (by assumption) ?_ | intro _ | split | dsimp only)

theorem keeps_dupRecord {M : State → Prop} {s : State} (port) (u) (beat) (hs : Keeps M s) :
    Keeps M (State.dupRecord port u beat s) := by
  unfold State.dupRecord
  repeat' (first
    | with_reducible assumption | with_reducible apply keeps_workReport | with_reducible apply keeps_bump
    | with_reducible apply keeps_coreFault | split | dsimp only)

theorem keeps_deliverAgain {M : State → Prop} {s : State} (port) (u) (avoid) (hs : Keeps M s) :
    Keeps M (State.deliverAgain port u avoid s) := by
  unfold State.deliverAgain
  repeat' (first
    | with_reducible assumption | with_reducible apply keeps_replayRead | with_reducible apply keeps_replayGroup
    | with_reducible apply keeps_flagRun | with_reducible apply keeps_updDport | with_reducible apply keeps_addUnit | split)

theorem keeps_unitLeaves {M : State → Prop} {s : State} (port) (u) (hs : Keeps M s) :
    Keeps M (State.unitLeaves port u s) := by
  unfold State.unitLeaves
  repeat' (first
    | with_reducible assumption | with_reducible apply keeps_updDport | with_reducible apply keeps_dropR
    | with_reducible apply keeps_updRun | with_reducible apply keeps_unitEnds | with_reducible apply keeps_whenB
    | with_reducible apply keeps_bump | intro _ | split | dsimp only
    | fail_if_no_progress (with_reducible refine keeps_mk rfl ?_))

theorem keeps_beatOut {M : State → Prop} {s : State} (port) (dup) (hs : Keeps M s) :
    Keeps M (State.beatOut port dup s) := by
  unfold State.beatOut
  repeat' (first
    | with_reducible assumption | with_reducible apply keeps_updDport | with_reducible apply keeps_dupRecord
    | with_reducible apply keeps_deliverAgain | with_reducible apply keeps_unitLeaves | split | dsimp only)

theorem keeps_sourceNext {M : State → Prop} {s : State} (n) (r) (hs : Keeps M s) : Keeps M (State.sourceNext n r s) := by
  unfold State.sourceNext
  repeat' (first
    | with_reducible assumption | with_reducible apply keeps_roomFor | with_reducible apply keeps_readSource
    | with_reducible apply keeps_updRun | with_reducible apply keeps_addW | with_reducible refine keeps_fst (by assumption) ?_
    | intro _ | split)

theorem keeps_sourceGo {M : State → Prop} {s : State} (n) (seq) (hs : Keeps M s) :
    Keeps M (State.sourceGo n seq s) := by
  unfold State.sourceGo
  repeat' (first | with_reducible assumption | with_reducible apply keeps_sourceNext | split)

theorem keeps_compressGo {M : State → Prop} {s : State} (n) (hs : Keeps M s) :
    Keeps M (State.compressGo n s) := by
  unfold State.compressGo
  repeat' (first | with_reducible assumption | with_reducible apply keeps_sourceGo | with_reducible apply keeps_startRun | split)

theorem keeps_deliveryBeat {M : State → Prop} {s : State} (port) (hw) (hs : Keeps M s) :
    Keeps M (State.deliveryBeat port hw s) := by
  unfold State.deliveryBeat
  repeat' (first | with_reducible assumption | with_reducible apply keeps_beatOut)

theorem keeps_failParts {M : State → Prop} {s : State} (port) (hs : Keeps M s) :
    Keeps M (State.failParts port s) := by
  unfold State.failParts
  repeat' (first
    | with_reducible assumption | with_reducible apply keeps_forAll | with_reducible apply keeps_updStream
    | with_reducible apply keeps_failSource | intro _)

theorem keeps_intakeBeat {M : State → Prop} {s : State} (port) (side) (data) (faults) (hs : Keeps M s) :
    Keeps M (State.intakeBeat port side data faults s) := by
  unfold State.intakeBeat
  repeat' (first
    | with_reducible assumption | with_reducible apply keeps_beatWaits | with_reducible apply keeps_startIntake
    | with_reducible apply keeps_beatTaken | with_reducible refine keeps_fst (by assumption) ?_ | intro _ | split | dsimp only)

theorem keeps_intakeStall {M : State → Prop} {s : State} (port) (hs : Keeps M s) :
    Keeps M (State.intakeStall port s) := by
  unfold State.intakeStall
  repeat' (first
    | with_reducible assumption | with_reducible apply keeps_report | with_reducible apply keeps_updIport | split | dsimp only)

theorem keeps_portStall {M : State → Prop} {s : State} (port) (hs : Keeps M s) :
    Keeps M (State.portStall port s) := by
  unfold State.portStall
  repeat' (first
    | with_reducible assumption | with_reducible apply keeps_updDport | with_reducible apply keeps_workReport
    | with_reducible apply keeps_report | split | dsimp only)

theorem keeps_readNext {M : State → Prop} {s : State} (n) (kind) (use) (hs : Keeps M s) :
    Keeps M (State.readNext n kind use s) := by
  unfold State.readNext
  repeat' (first
    | with_reducible assumption | with_reducible apply keeps_startRun | with_reducible apply keeps_startRead
    | with_reducible apply keeps_issuedNow | with_reducible apply keeps_updRun | split | dsimp only)

theorem keeps_resumeGo {M : State → Prop} {s : State} (n) (hs : Keeps M s) :
    Keeps M (State.resumeGo n s) := by
  unfold State.resumeGo
  repeat' (first
    | with_reducible assumption | with_reducible apply keeps_sourceGo | with_reducible apply keeps_startResume | split)

theorem keeps_spillBack {M : State → Prop} {s : State} (id) (bad) (hs : Keeps M s) : Keeps M (State.spillBack id bad s) := by
  unfold State.spillBack
  repeat' (first
    | with_reducible assumption | with_reducible apply keeps_updA | with_reducible apply keeps_updSpill
    | with_reducible apply keeps_spillStore | with_reducible refine keeps_fst (by assumption) ?_ | intro _ | split)

theorem keeps_readData {M : State → Prop} {s : State} (r) (img) (dead) (faults) (hs : Keeps M s) : Keeps M (State.readData r
    img dead faults s) := by
  unfold State.readData
  repeat' (first
    | with_reducible assumption | with_reducible apply keeps_gotPresence | with_reducible apply keeps_fillCache
    | with_reducible apply keeps_gotEntry | with_reducible apply keeps_gotPayload | with_reducible apply keeps_gotSource
    | with_reducible apply keeps_gotIndex | with_reducible apply keeps_gotChart | with_reducible apply keeps_spillBack
    | with_reducible apply keeps_updSpill | with_reducible refine keeps_fst (by assumption) ?_ | intro _ | split)

theorem keeps_readAnswer {M : State → Prop} {s : State} (r) (img) (dead) (faults) (hs : Keeps M s) : Keeps M (State.readAnswer
    r img dead faults s) := by
  unfold State.readAnswer
  repeat' (first
    | with_reducible assumption | with_reducible apply keeps_readData | with_reducible apply keeps_bumpN
    | with_reducible apply keeps_readBytes | with_reducible apply keeps_whenB | intro _)

theorem keeps_replacePart {M : State → Prop} {s : State} (id) (i) (hs : Keeps M s) :
    Keeps M (State.replacePart id i s) := by
  unfold State.replacePart
  repeat' (first
    | with_reducible assumption | with_reducible apply keeps_dropReqs | with_reducible apply keeps_dropPlaces
    | with_reducible apply keeps_updPart | split)

theorem keeps_deadAnswer {M : State → Prop} {s : State} (r) (hs : Keeps M s) :
    Keeps M (State.deadAnswer r s) := by
  unfold State.deadAnswer
  repeat' (first
    | with_reducible assumption | with_reducible apply keeps_readAnswer | with_reducible apply keeps_replacePart
    | with_reducible apply keeps_entryErr | split | fail_if_no_progress (with_reducible refine keeps_mk rfl ?_))

theorem keeps_answerDead {M : State → Prop} {s : State} (hs : Keeps M s) :
    Keeps M (State.answerDead s) := by
  unfold State.answerDead
  repeat' (first
    | with_reducible assumption | with_reducible apply keeps_forAll | with_reducible apply keeps_deadAnswer | intro _
    | fail_if_no_progress (with_reducible refine keeps_mk rfl ?_))

theorem keeps_dropReq {M : State → Prop} {s : State} (r) (hs : Keeps M s) :
    Keeps M (State.dropReq r s) :=
  keeps_mk rfl hs

theorem keeps_mapAcked {M : State → Prop} {s : State} (id) (hs : Keeps M s) :
    Keeps M (State.mapAcked id s) := by
  unfold State.mapAcked
  repeat' (first | with_reducible assumption | with_reducible apply keeps_grantReady | with_reducible apply keeps_updW | split)

theorem keeps_writeAcked {par : Params} {l : List Instr} {s : State} (r) (hs : Keeps (Fits par l) s) : Keeps (Fits par l)
    (State.writeAcked r s) := by
  unfold State.writeAcked
  repeat' (first
    | with_reducible assumption | with_reducible apply keeps_updPart | with_reducible apply keeps_mapAcked
    | with_reducible apply keeps_remoteMapped | with_reducible apply keeps_entryAcked
    | with_reducible apply keeps_presenceAcked | with_reducible apply keeps_cmplHalf | with_reducible apply keeps_exportAcked
    | with_reducible apply keeps_spillMapped | with_reducible apply keeps_spillWritten | intro _ | split)

theorem keeps_writeErr {M : State → Prop} {s : State} (r) (hs : Keeps M s) :
    Keeps M (State.writeErr r s) := by
  unfold State.writeErr
  repeat' (first | with_reducible assumption | with_reducible apply keeps_entryErr | with_reducible apply keeps_issue | split)

theorem keeps_writeAnswer {p : Params} {q : List Instr} {s : State} (r) (err) (hs : Keeps (Fits p q) s) :
    Keeps (Fits p q) (State.writeAnswer r err s) := by
  unfold State.writeAnswer
  repeat' (first
    | with_reducible assumption | with_reducible apply keeps_writeErr | with_reducible apply keeps_writeAcked | split)

theorem keeps_serveAsk {M : State → Prop} {s : State} (x) (hs : Keeps M s) : Keeps M (State.serveAsk x s) := by
  unfold State.serveAsk
  repeat' (first
    | with_reducible assumption | with_reducible apply keeps_serveRequest | with_reducible apply keeps_serveRemote
    | with_reducible refine keeps_fst (by assumption) ?_ | intro _ | split)

theorem keeps_allocOne {M : State → Prop} {s : State} (pool) (hs : Keeps M s) {t : State} (ht : State.allocOne pool s = some t) :
    Keeps M t := by
  unfold State.allocOne at ht
  dsimp only at ht
  split at ht
  · cases ht
  · simp only [Option.map_eq_some_iff] at ht
    obtain ⟨x, -, rfl⟩ := ht
    exact keeps_serveAsk _ (keeps_granted _ _ hs)

theorem keeps_allocAll {M : State → Prop} {s : State} (a1) (a2) (hs : Keeps M s) :
    Keeps M (State.allocAll a1 a2 s) := by
  induction a2 generalizing s with
  | zero => exact hs
  | succ n ih =>
    unfold State.allocAll
    split
    · exact hs
    · next t ht => exact ih (keeps_allocOne _ hs ht)

theorem keeps_allocWaiting {M : State → Prop} {s : State} (hs : Keeps M s) :
    Keeps M (State.allocWaiting s) := by
  unfold State.allocWaiting
  repeat' (first
    | with_reducible assumption | with_reducible apply keeps_forAll | with_reducible apply keeps_allocAll
    | with_reducible apply keeps_serveRemote | intro _)

theorem keeps_askAgain {M : State → Prop} {s : State} (hs : Keeps M s) :
    Keeps M (State.askAgain s) :=
  keeps_mk rfl hs

theorem keeps_checkOne {M : State → Prop} {s : State} (hs : Keeps M s) {t : State} (ht : State.checkOne s = some t) :
    Keeps M t := by
  unfold State.checkOne at ht
  dsimp only at ht
  split at ht
  · cases ht
  · split at ht
    · cases ht
    · simp only [Option.map_eq_some_iff] at ht
      obtain ⟨x, -, rfl⟩ := ht
      exact keeps_updPart _ _ _ (keeps_granted _ _ (keeps_chosen hs))

theorem keeps_assignCheckers {M : State → Prop} {s : State} (a1) (hs : Keeps M s) :
    Keeps M (State.assignCheckers a1 s) := by
  induction a1 generalizing s with
  | zero => exact hs
  | succ n ih =>
    unfold State.assignCheckers
    split
    · exact hs
    · next t ht => exact ih (keeps_checkOne hs ht)

theorem keeps_takeEngine {M : State → Prop} {s : State} (w) (c) (e) (hs : Keeps M s) : Keeps M (State.takeEngine w c e s) := by
  unfold State.takeEngine
  repeat' (first
    | with_reducible assumption | with_reducible apply keeps_roleFound | with_reducible apply keeps_updR
    | with_reducible apply keeps_openUnit | with_reducible apply keeps_issuedNow | with_reducible apply keeps_updW | intro _
    | split)

theorem keeps_assignOne {M : State → Prop} {s : State} (hs : Keeps M s) {t : State} (ht : State.assignOne s = some
    t) :
    Keeps M t := by
  unfold State.assignOne at ht
  dsimp only at ht
  split at ht
  · cases ht
  · split at ht
    · cases ht
    · simp only [Option.map_eq_some_iff] at ht
      obtain ⟨x, -, rfl⟩ := ht
      exact keeps_takeEngine _ _ _ (keeps_granted _ _ (keeps_chosen hs))

theorem keeps_assignEngines {M : State → Prop} {s : State} (a1) (hs : Keeps M s) :
    Keeps M (State.assignEngines a1 s) := by
  induction a1 generalizing s with
  | zero => exact hs
  | succ n ih =>
    unfold State.assignEngines
    split
    · exact hs
    · next t ht => exact ih (keeps_assignOne hs ht)

theorem keeps_checkersGone {M : State → Prop} {s : State} (hs : Keeps M s) :
    Keeps M (State.checkersGone s) := by
  unfold State.checkersGone
  repeat' (first
    | with_reducible assumption | with_reducible apply keeps_forAll | with_reducible apply keeps_updPart
    | with_reducible apply keeps_noChecker | with_reducible apply keeps_noMajority | intro _ | split)

theorem keeps_issueOne {M : State → Prop} {s : State} (m) (hs : Keeps M s) {t : State} (ht : State.issueOne m s = some t) :
    Keeps M t := by
  unfold State.issueOne at ht
  dsimp only at ht
  split at ht
  · simp only [Option.map_eq_some_iff] at ht
    obtain ⟨x, -, rfl⟩ := ht
    exact keeps_mk rfl (keeps_granted _ _ (keeps_chosen hs))
  · cases ht

theorem keeps_issueAll {M : State → Prop} {s : State} (m) (fuel) (hs : Keeps M s) : Keeps M (State.issueAll m fuel s) := by
  induction fuel generalizing s with
  | zero => unfold State.issueAll; exact hs
  | succ n ih =>
    unfold State.issueAll
    cases h : State.issueOne m s with
    | none => exact hs
    | some t => exact ih (keeps_issueOne _ hs h)

theorem keeps_issueWaiting {M : State → Prop} {s : State} (hs : Keeps M s) : Keeps M (State.issueWaiting s) := by
  unfold State.issueWaiting
  repeat' (first
    | with_reducible assumption | with_reducible apply keeps_issueAll | with_reducible apply keeps_forAll | intro _)

theorem keeps_offer {M : State → Prop} {s : State} (a1) (hs : Keeps M s) :
    Keeps M (State.offer a1 s) := by
  unfold State.offer
  repeat' (first
    | with_reducible assumption | with_reducible apply keeps_updDport | with_reducible apply keeps_granted | split | dsimp only)

theorem keeps_offers {M : State → Prop} {s : State} (hs : Keeps M s) :
    Keeps M (State.offers s) := by
  unfold State.offers
  repeat' (first | with_reducible assumption | with_reducible apply keeps_forAll | with_reducible apply keeps_offer | intro _)

theorem keeps_roleStalls {M : State → Prop} {s : State} (hs : Keeps M s) :
    Keeps M (State.roleStalls s) := by
  unfold State.roleStalls
  repeat' (first
    | with_reducible assumption | with_reducible apply keeps_forAll | with_reducible apply keeps_roleStall
    | with_reducible apply keeps_roleFound | intro _ | split)

theorem keeps_addendLost {M : State → Prop} {s : State} (n) (chunk) (hs : Keeps M s) : Keeps M (State.addendLost n chunk s) :=
    by
  unfold State.addendLost
  repeat' (first
    | with_reducible assumption | intro _ | split | dsimp only | fail_if_no_progress (with_reducible refine keeps_mk rfl ?_))

theorem keeps_allocatorLost {M : State → Prop} {s : State} (pool) (hs : Keeps M s) :
    Keeps M (State.allocatorLost pool s) := by
  unfold State.allocatorLost
  repeat' (first | with_reducible assumption | with_reducible apply keeps_updPool | split)

theorem keeps_historyLost {M : State → Prop} {s : State} (n) (tile) (hs : Keeps M s) :
    Keeps M (State.historyLost n tile s) :=
  keeps_mk rfl hs

theorem keeps_sourceAgain {M : State → Prop} {s : State} (w) (hs : Keeps M s) : Keeps M (State.sourceAgain w s) := by
  unfold State.sourceAgain
  repeat' (first
    | with_reducible assumption | with_reducible apply keeps_readSource | with_reducible apply keeps_updW
    | with_reducible apply keeps_dropReqs | with_reducible apply keeps_failSource | intro _ | split)

theorem keeps_imageLost {M : State → Prop} {s : State} (id) (hs : Keeps M s) : Keeps M (State.imageLost id s) := by
  unfold State.imageLost
  repeat' (first
    | with_reducible assumption | with_reducible apply keeps_updStream | with_reducible apply keeps_sourceAgain
    | with_reducible apply keeps_replayWrite | intro _ | split)

theorem keeps_pageLost {M : State → Prop} {s : State} (n) (key) (page) (hs : Keeps M s) : Keeps M (State.pageLost n key page s)
    := by
  unfold State.pageLost
  repeat' (first | with_reducible assumption | with_reducible apply keeps_updStream)

theorem keeps_payloadLost {M : State → Prop} {s : State} (id) (hs : Keeps M s) : Keeps M (State.payloadLost id s) := by
  unfold State.payloadLost
  repeat' (first
    | with_reducible assumption | with_reducible apply keeps_wantEntry | with_reducible apply keeps_dropReqs | intro _ | split)

theorem keeps_recheck {M : State → Prop} {s : State} (c) (hs : Keeps M s) :
    Keeps M (State.recheck c s) :=
  keeps_mk rfl hs

theorem keeps_replayCore {M : State → Prop} {s : State} (c) (e) (hs : Keeps M s) : Keeps M (State.replayCore c e s) := by
  unfold State.replayCore
  repeat' (first
    | with_reducible assumption | with_reducible apply keeps_replayTile | with_reducible apply keeps_replayWrite
    | with_reducible apply keeps_forAll | intro _)

theorem keeps_replayGroups {M : State → Prop} {s : State} (c) (hs : Keeps M s) :
    Keeps M (State.replayGroups c s) := by
  unfold State.replayGroups
  repeat' (first
    | with_reducible assumption | with_reducible apply keeps_forAll | with_reducible apply keeps_replayGroup | intro _)

theorem keeps_stagedLost {M : State → Prop} {s : State} (n) (chunk) (hs : Keeps M s) : Keeps M (State.stagedLost n chunk s) :=
    by
  unfold State.stagedLost
  repeat' (first
    | with_reducible assumption | with_reducible apply keeps_redoSendTile | with_reducible apply keeps_chunkFails
    | with_reducible apply keeps_updChunk | with_reducible apply keeps_flagRun | with_reducible apply keeps_startRead
    | with_reducible apply keeps_forAll | intro _ | split | dsimp only)

theorem keeps_sumLost {M : State → Prop} {s : State} (id) (hs : Keeps M s) : Keeps M (State.sumLost id s) := by
  unfold State.sumLost
  repeat' (first
    | with_reducible assumption | with_reducible apply keeps_flagRun | with_reducible apply keeps_updColl
    | with_reducible apply keeps_forAll | intro _ | split | dsimp only
    | fail_if_no_progress (with_reducible refine keeps_mk rfl ?_))

theorem keeps_heldAgain {M : State → Prop} {s : State} (acc) (i) (hs : Keeps M s) : Keeps M (State.heldAgain acc i s) := by
  unfold State.heldAgain
  repeat' (first
    | with_reducible assumption | with_reducible apply keeps_updSpill | with_reducible apply keeps_readSpan
    | with_reducible refine keeps_fst (by assumption) ?_ | intro _ | split)

theorem keeps_tablesLost {M : State → Prop} {s : State} (c) (hs : Keeps M s) : Keeps M (State.tablesLost c s) := by
  unfold State.tablesLost
  repeat' (first
    | with_reducible assumption | with_reducible apply keeps_replayCore | with_reducible apply keeps_replayWrite
    | with_reducible apply keeps_recheck | with_reducible apply keeps_forAll | intro _)

theorem keeps_bufferLost {M : State → Prop} {s : State} (p) (hs : Keeps M s) : Keeps M (State.bufferLost p s) := by
  unfold State.bufferLost
  repeat' (first
    | with_reducible assumption | with_reducible apply keeps_deliverAgain | with_reducible refine keeps_fst (by assumption) ?_
    | intro _ | split)

theorem keeps_spillLost {M : State → Prop} {s : State} (o) (hs : Keeps M s) : Keeps M (State.spillLost o s) := by
  unfold State.spillLost
  repeat' (first
    | with_reducible assumption | with_reducible apply keeps_contextLost | with_reducible apply keeps_pageLost
    | with_reducible apply keeps_atollLost | with_reducible apply keeps_imageLost | with_reducible apply keeps_payloadLost
    | with_reducible apply keeps_addendLost | with_reducible apply keeps_stagedLost | with_reducible apply keeps_sumLost
    | with_reducible apply keeps_updLport | with_reducible apply keeps_chartPoison | with_reducible apply keeps_heldAgain
    | with_reducible refine keeps_fst (by assumption) ?_ | intro _ | split)

theorem keeps_storeReport {M : State → Prop} {s : State} (x) (note) (hs : Keeps M s) : Keeps M (State.storeReport x note s) :=
    by
  unfold State.storeReport
  repeat' (first
    | with_reducible assumption | with_reducible apply keeps_workReport | with_reducible apply keeps_report | intro _ | split)

theorem keeps_spillPoison {M : State → Prop} {s : State} (x) (addr) (hs : Keeps M s) : Keeps M (State.spillPoison x addr s) :=
    by
  unfold State.spillPoison
  repeat' (first
    | with_reducible assumption | with_reducible apply keeps_updSpill | with_reducible apply keeps_storeReport
    | with_reducible apply keeps_spillLost | intro _ | split)

theorem keeps_spillPoisons {M : State → Prop} {s : State} (hs : Keeps M s) : Keeps M (State.spillPoisons s) := by
  unfold State.spillPoisons
  repeat' (first
    | with_reducible assumption | with_reducible apply keeps_spillPoison | with_reducible apply keeps_forAll | intro _ | split)

theorem keeps_storeLost {M : State → Prop} {s : State} (x) (word) (hs : Keeps M s) : Keeps M (State.storeLost x word s) := by
  unfold State.storeLost
  repeat' (first
    | with_reducible assumption | with_reducible apply keeps_replayCore | with_reducible apply keeps_replayGroups
    | with_reducible apply keeps_recheck | with_reducible apply keeps_tablesLost | with_reducible apply keeps_bufferLost
    | with_reducible apply keeps_updA | with_reducible apply keeps_atollLost | with_reducible apply keeps_imageLost
    | with_reducible apply keeps_payloadLost | with_reducible apply keeps_addendLost | with_reducible apply keeps_stagedLost
    | with_reducible apply keeps_contextLost | with_reducible apply keeps_cacheDrop | with_reducible apply keeps_allocatorLost
    | with_reducible apply keeps_historyLost | with_reducible refine keeps_fst (by assumption) ?_ | intro _ | split)

theorem keeps_sramUe {M : State → Prop} {s : State} (x) (arr) (word) (hs : Keeps M s) : Keeps M (State.sramUe x arr word s) :=
    by
  unfold State.sramUe
  repeat' (first
    | with_reducible assumption | with_reducible apply keeps_storeReport | with_reducible apply keeps_bump
    | with_reducible apply keeps_storeLost | with_reducible apply keeps_coreFault | intro _ | split | dsimp only)

theorem keeps_sramFaults {M : State → Prop} {s : State} (hw0) (hs : Keeps M s) : Keeps M (State.sramFaults hw0 s) := by
  unfold State.sramFaults
  repeat' (first
    | with_reducible assumption | with_reducible apply keeps_correctedIn | with_reducible apply keeps_sramCe
    | with_reducible apply keeps_sramUe | with_reducible apply keeps_forAll | intro _ | split)

theorem keeps_withFaults {M : State → Prop} {s : State} (a1) (a2) (a3) (a4) (ha3 : ∀  t, Keeps M t → Keeps M (a3 
    t)) (ha4 : ∀  t, Keeps M t → Keeps M (a4  t)) (hs : Keeps M s) :
    Keeps M (State.withFaults a1 a2 a3 a4 s) := by
  unfold State.withFaults
  dsimp only
  split
  · exact ha3 _ (keeps_busParity _ _ _ (keeps_sramFaults _ hs))
  · exact ha4 _ (keeps_sramFaults _ hs)

theorem keeps_accSteps {M : State → Prop} {s : State} (hs : Keeps M s) :
    Keeps M (State.accSteps s) := by
  unfold State.accSteps
  repeat' (first
    | with_reducible assumption | with_reducible apply keeps_forAll | with_reducible apply keeps_loadPreload
    | with_reducible apply keeps_countStop | with_reducible apply keeps_atollEnds | with_reducible apply keeps_accFailsNow
    | intro _ | split | fail_if_no_progress (with_reducible refine keeps_mk rfl ?_))

theorem keeps_codeZeros {M : State → Prop} {s : State} (hs : Keeps M s) :
    Keeps M (State.codeZeros s) := by
  unfold State.codeZeros
  repeat' (first
    | with_reducible assumption | with_reducible apply keeps_forAll | with_reducible apply keeps_codeZero | intro _ | split)

theorem keeps_commitSends {M : State → Prop} {s : State} (hs : Keeps M s) :
    Keeps M (State.commitSends s) := by
  unfold State.commitSends
  repeat' (first
    | with_reducible assumption | with_reducible apply keeps_forAll | with_reducible apply keeps_sendCommit | intro _ | split)

theorem keeps_evacuate {M : State → Prop} {s : State} (hs : Keeps M s) : Keeps M (State.evacuate s) := by
  unfold State.evacuate
  repeat' (first
    | with_reducible assumption | with_reducible apply keeps_replayTile | with_reducible apply keeps_replayWrite
    | with_reducible apply keeps_replaySends | with_reducible apply keeps_moveAcc | with_reducible apply keeps_replayGroup
    | with_reducible apply keeps_forAll | intro _ | split | dsimp only
    | fail_if_no_progress (with_reducible refine keeps_mk rfl ?_))

theorem keeps_payloadOne {M : State → Prop} {s : State} (hs : Keeps M s) : Keeps M (State.payloadOne s).1 := by
  unfold State.payloadOne
  repeat' (first
    | with_reducible assumption | with_reducible apply keeps_restartRead | with_reducible apply keeps_makeRoomFor
    | with_reducible apply keeps_granted | with_reducible apply keeps_spillFound | with_reducible apply keeps_readPayload
    | with_reducible apply keeps_spillStall | with_reducible apply keeps_forAll
    | with_reducible refine keeps_fst (by assumption) ?_ | intro _ | split | dsimp only)

theorem keeps_fencesWait {M : State → Prop} {s : State} (hs : Keeps M s) :
    Keeps M (State.fencesWait s) := by
  unfold State.fencesWait
  repeat' (first
    | with_reducible assumption | with_reducible apply keeps_forAll | with_reducible apply keeps_fenceCheck | intro _ | split)

theorem keeps_headTimes {M : State → Prop} {s : State} (hs : Keeps M s) : Keeps M (State.headTimes s) := by
  unfold State.headTimes
  repeat' (first
    | with_reducible assumption | intro _ | split | dsimp only | fail_if_no_progress (with_reducible refine keeps_mk rfl ?_))

theorem keeps_phaseStages {M : State → Prop} {s : State} (hs : Keeps M s) :
    Keeps M (State.phaseStages s) := by
  unfold State.phaseStages
  repeat' (first
    | with_reducible assumption | with_reducible apply keeps_lifeEnd | split
    | fail_if_no_progress (with_reducible refine keeps_mk rfl ?_))

theorem keeps_readPayloads {M : State → Prop} {s : State} (fuel) (hs : Keeps M s) : Keeps M (State.readPayloads fuel s) := by
  induction fuel generalizing s with
  | zero => exact hs
  | succ n ih =>
    unfold State.readPayloads
    split
    · next h => exact ih (keeps_fst h (keeps_payloadOne hs))
    · next h => exact keeps_fst h (keeps_payloadOne hs)

theorem keeps_retireOne {M : State → Prop} {s : State} (hs : Keeps M s) {t : State} (ht : State.retireOne s = some
    t) :
    Keeps M t := by
  unfold State.retireOne at ht
  simp only [Option.map_eq_some_iff] at ht
  obtain ⟨w, -, rfl⟩ := ht
  exact keeps_retire _ hs

theorem keeps_retireAll {M : State → Prop} {s : State} (a1) (hs : Keeps M s) :
    Keeps M (State.retireAll a1 s) := by
  induction a1 generalizing s with
  | zero => exact hs
  | succ n ih =>
    unfold State.retireAll
    split
    · exact hs
    · next t ht => exact ih (keeps_retireOne hs ht)

theorem keeps_stagedBack {M : State → Prop} {s : State} (hs : Keeps M s) : Keeps M (State.stagedBack s) := by
  unfold State.stagedBack
  repeat' (first
    | with_reducible assumption | with_reducible apply keeps_spillLoad | with_reducible apply keeps_forAll | intro _)

theorem keeps_spillFrees {M : State → Prop} {s : State} (hs : Keeps M s) : Keeps M (State.spillFrees s) := by
  unfold State.spillFrees
  repeat' (first
    | with_reducible assumption | with_reducible apply keeps_spillDrop | with_reducible apply keeps_forAll | intro _)

theorem keeps_unitClean {M : State → Prop} {s : State} (hs : Keeps M s) : Keeps M (State.unitClean s) := by
  unfold State.unitClean
  repeat' (first
    | with_reducible assumption | intro _ | split | dsimp only | fail_if_no_progress (with_reducible refine keeps_mk rfl ?_))

theorem keeps_unitGo {M : State → Prop} {s : State} (w) (r) (hs : Keeps M s) : Keeps M (State.unitGo w r s) := by
  unfold State.unitGo
  repeat' (first
    | with_reducible assumption | with_reducible apply keeps_scatterTake | with_reducible apply keeps_drainTiles
    | with_reducible apply keeps_reduceStart | with_reducible apply keeps_groupStart | with_reducible apply keeps_recvGo
    | intro _ | split)

theorem keeps_unitOne {M : State → Prop} {s : State} (res) (hs : Keeps M s) {t : State} (ht : State.unitOne res s = some t) :
    Keeps M t := by
  unfold State.unitOne at ht
  dsimp only at ht
  split at ht
  · cases ht
  · simp only [Option.map_eq_some_iff] at ht
    obtain ⟨x, -, rfl⟩ := ht
    exact keeps_mk rfl (keeps_granted _ _ (keeps_unitGo _ _ (keeps_mk rfl hs)))

theorem keeps_unitAll {M : State → Prop} {s : State} (res) (fuel) (hs : Keeps M s) : Keeps M (State.unitAll res fuel s) := by
  induction fuel generalizing s with
  | zero => exact hs
  | succ n ih =>
    unfold State.unitAll
    split
    · exact hs
    · next t ht => exact ih (keeps_unitOne _ hs ht)

theorem keeps_unitsServe {M : State → Prop} {s : State} (hs : Keeps M s) : Keeps M (State.unitsServe s) := by
  unfold State.unitsServe
  repeat' (first
    | with_reducible assumption | with_reducible apply keeps_unitClean | with_reducible apply keeps_unitAll | intro _ | split)

theorem keeps_shutStages {M : State → Prop} {s : State} (hs : Keeps M s) :
    Keeps M (State.shutStages s) := by
  unfold State.shutStages
  repeat' (first
    | with_reducible assumption | with_reducible apply keeps_forAll | with_reducible apply keeps_whenB
    | with_reducible apply keeps_failParts | intro _ | fail_if_no_progress (with_reducible refine keeps_mk rfl ?_))

theorem keeps_wipesEnd {M : State → Prop} {s : State} (hs : Keeps M s) :
    Keeps M (State.wipesEnd s) := by
  unfold State.wipesEnd
  repeat' (first
    | with_reducible assumption | with_reducible apply keeps_forAll | with_reducible apply keeps_updStream | intro _ | split
    | dsimp only)

theorem keeps_settlePass {M : State → Prop} {s : State} (hs : Keeps M s) : Keeps M (State.settlePass s) := by
  unfold State.settlePass
  repeat' (first
    | with_reducible assumption | with_reducible apply keeps_headTimes | with_reducible apply keeps_heldReads
    | with_reducible apply keeps_presenceKnown | with_reducible apply keeps_evacuate | with_reducible apply keeps_answerDead
    | with_reducible apply keeps_issueWaiting | with_reducible apply keeps_spillPoisons | with_reducible apply keeps_carrySteps
    | with_reducible apply keeps_readPayloads | with_reducible apply keeps_stagedBack | with_reducible apply keeps_codeZeros
    | with_reducible apply keeps_accSteps | with_reducible apply keeps_chosen | with_reducible apply keeps_assignEngines
    | with_reducible apply keeps_checkersGone | with_reducible apply keeps_assignCheckers | with_reducible apply keeps_askAgain
    | with_reducible apply keeps_allocWaiting | with_reducible apply keeps_retireAll | with_reducible apply keeps_commitSends
    | with_reducible apply keeps_formChunks | with_reducible apply keeps_earlyChunks | with_reducible apply keeps_sumsGo
    | with_reducible apply keeps_recvDone | with_reducible apply keeps_collNotices | with_reducible apply keeps_loadChunks
    | with_reducible apply keeps_mapAgain | with_reducible apply keeps_causewayDone | with_reducible apply keeps_critParks
    | with_reducible apply keeps_releaseSources | with_reducible apply keeps_groupTails | with_reducible apply keeps_atollWants
    | with_reducible apply keeps_unitsServe | with_reducible apply keeps_parkSelves | with_reducible apply keeps_spillFrees
    | with_reducible apply keeps_fencesWait | with_reducible apply keeps_unfilled | with_reducible apply keeps_wipesEnd
    | with_reducible apply keeps_roleStalls | with_reducible apply keeps_shutStages | with_reducible apply keeps_phaseStages
    | with_reducible apply keeps_governs | with_reducible apply keeps_offers | with_reducible apply keeps_whenB | intro _
    | split)

theorem keeps_settle {M : State → Prop} {s : State} (hs : Keeps M s) : Keeps M (State.settle s) := by
  unfold State.settle
  repeat' (first | with_reducible assumption | with_reducible apply keeps_settlePass | intro _ | split)

end Sys2Proof.Machine
end

