-- ==== Sys2Proof/Laws/KeepsRegs.lean ====
section
/-! SUPPORT. `Keeps` passes through registers, wipes, the next unit of work and the die ring. -/

namespace Sys2Proof.Machine

theorem keeps_afterRead {p : Params} {q : List Instr} {s : State} (a1) (off) (hs : Keeps (Fits p q) s) :
    Keeps (Fits p q) (State.afterRead a1 off s) := by
  unfold State.afterRead
  repeat' (first | with_reducible assumption | split | fail_if_no_progress (with_reducible refine fits_mk rfl rfl rfl rfl ?_))

theorem keeps_bankWrite {p : Params} {q : List Instr} {s : State} (w) (hs : Keeps (Fits p q) s) :
    Keeps (Fits p q) (State.bankWrite w s) :=
  fits_mk rfl rfl rfl rfl hs

theorem keeps_cbaseWrite {M : State → Prop} {s : State} (a1) (hi) (w) (hs : Keeps M s) :
    Keeps M (State.cbaseWrite a1 hi w s) :=
  keeps_mk rfl hs

theorem keeps_cctlWrite {M : State → Prop} {s : State} (a1) (w) (hs : Keeps M s) :
    Keeps M (State.cctlWrite a1 w s) :=
  keeps_mk rfl hs

theorem keeps_ceExpires {M : State → Prop} {s : State} (hs : Keeps M s) :
    Keeps M (State.ceExpires s) := by
  unfold State.ceExpires
  split
  · exact keeps_err (t := s) rfl rfl hs
  · exact hs

theorem keeps_cheadWrite {M : State → Prop} {s : State} (a1) (w) (hs : Keeps M s) :
    Keeps M (State.cheadWrite a1 w s) :=
  keeps_mk rfl hs

theorem keeps_cntClear {p : Params} {q : List Instr} {s : State} (a1) (hs : Keeps (Fits p q) s) :
    Keeps (Fits p q) (State.cntClear a1 s) := by
  unfold State.cntClear
  split
  · exact keeps_fits ⟨hs.here.params, hs.here.pending, by simp, hs.here.err⟩
  · exact hs

theorem keeps_cqClear {p : Params} {q : List Instr} {s : State} (hi) (w) (setNow) (hs : Keeps (Fits p q) s) :
    Keeps (Fits p q) (State.cqClear hi w setNow s) :=
  fits_mk rfl rfl rfl rfl hs

theorem keeps_ctlWrite {p : Params} {q : List Instr} {s : State} (a1) (w) (hs : Keeps (Fits p q) s) :
    Keeps (Fits p q) (State.ctlWrite a1 w s) := by
  unfold State.ctlWrite
  repeat' (first
    | with_reducible assumption | with_reducible apply keeps_clusterOn | with_reducible apply keeps_clusterOff
    | with_reducible apply keeps_warmReset | split)

theorem keeps_errAck {M : State → Prop} {s : State} (a1) (hs : Keeps M s) :
    Keeps M (State.errAck a1 s) := by
  unfold State.errAck
  split
  · exact keeps_err (t := s) rfl rfl hs
  · exact keeps_report _ hs

theorem keeps_irqClear {M : State → Prop} {s : State} (a1) (a2) (hs : Keeps M s) :
    Keeps M (State.irqClear a1 a2 s) :=
  keeps_err (t := s) rfl rfl hs

theorem keeps_onWrite {M : State → Prop} {s : State} (a2) (ha2 : ∀  t, Keeps M t → Keeps M (a2  t)) (hs : Keeps M
    s) :
    Keeps M (State.onWrite s a2) := by
  unfold State.onWrite
  split
  · exact ha2 s hs
  · exact hs

theorem keeps_qbaseWrite {M : State → Prop} {s : State} (a1) (hi) (w) (hs : Keeps M s) :
    Keeps M (State.qbaseWrite a1 hi w s) :=
  keeps_mk rfl hs

theorem keeps_qctlWrite {M : State → Prop} {s : State} (a1) (w) (hs : Keeps M s) :
    Keeps M (State.qctlWrite a1 w s) := by
  unfold State.qctlWrite
  repeat' (first | with_reducible assumption | with_reducible apply keeps_setQueue | split | dsimp only)

theorem keeps_qtailWrite {M : State → Prop} {s : State} (a1) (w) (hs : Keeps M s) :
    Keeps M (State.qtailWrite a1 w s) :=
  keeps_mk rfl hs

theorem keeps_queueWrite {M : State → Prop} {s : State} (a1) (r) (w) (hs : Keeps M s) :
    Keeps M (State.queueWrite a1 r w s) := by
  unfold State.queueWrite
  repeat' (first
    | with_reducible assumption | with_reducible apply keeps_qbaseWrite | with_reducible apply keeps_qctlWrite
    | with_reducible apply keeps_qtailWrite | with_reducible apply keeps_cbaseWrite | with_reducible apply keeps_cctlWrite
    | with_reducible apply keeps_cheadWrite | split)

theorem keeps_readAccess {p : Params} {q : List Instr} {s : State} (a1) (off) (be) (hs : Keeps (Fits p q) s) :
    Keeps (Fits p q) (State.readAccess a1 off be s) := by
  unfold State.readAccess
  repeat' (first
    | with_reducible assumption | with_reducible apply keeps_afterRead | split | dsimp only
    | fail_if_no_progress (with_reducible refine fits_mk rfl rfl rfl rfl ?_))

theorem keeps_recordOut {par : Params} {l : List Instr} {s : State} (hs : Keeps (Fits par l) s) :
    Keeps (Fits par l) (State.recordOut s) := by
  unfold State.recordOut
  split
  · exact hs
  · next r rest hr =>
    split
    · refine keeps_fits ⟨hs.here.params, hs.here.pending, hs.here.counters, ⟨hs.here.err.log, ?_, hs.here.err.numbered⟩⟩
      have := hs.here.err.mgq
      rw [hr] at this
      simp at this ⊢
      omega
    · exact hs

theorem keeps_roleRepeat {M : State → Prop} {s : State} (n) (hs : Keeps M s) :
    Keeps M (State.roleRepeat n s) := by
  unfold State.roleRepeat
  repeat' (first
    | with_reducible assumption | with_reducible apply keeps_roleRecord | with_reducible apply keeps_updStream | split)

theorem keeps_spillRepeat {M : State → Prop} {s : State} (n) (hs : Keeps M s) :
    Keeps M (State.spillRepeat n s) := by
  unfold State.spillRepeat
  repeat' (first | with_reducible assumption | with_reducible apply keeps_spillRec | with_reducible apply keeps_updStream | split)

theorem keeps_svcAckWrite {M : State → Prop} {s : State} (a1) (hs : Keeps M s) :
    Keeps M (State.svcAckWrite a1 s) := by
  unfold State.svcAckWrite
  split
  · exact keeps_err (t := s) rfl rfl hs
  · exact hs

theorem keeps_svcRepeat {M : State → Prop} {s : State} (hs : Keeps M s) :
    Keeps M (State.svcRepeat s) := by
  unfold State.svcRepeat
  repeat' (first | with_reducible assumption | with_reducible apply keeps_sendDegraded | split)

theorem keeps_writeReg {p : Params} {q : List Instr} {s : State} (a1) (off) (w) (hs : Keeps (Fits p q) s) :
    Keeps (Fits p q) (State.writeReg a1 off w s) := by
  unfold State.writeReg
  repeat' (first
    | with_reducible assumption | with_reducible apply keeps_ctlWrite | with_reducible apply keeps_bankWrite
    | with_reducible apply keeps_chanCmd | with_reducible apply keeps_mapIn | with_reducible apply keeps_mapOutPlain
    | with_reducible apply keeps_irqClear | with_reducible apply keeps_cqClear | with_reducible apply keeps_errAck
    | with_reducible apply keeps_svcAckWrite | with_reducible apply keeps_chartCmd | with_reducible apply keeps_chartAbort
    | with_reducible apply keeps_chartFinish | with_reducible apply keeps_chartStart | with_reducible apply keeps_chartData
    | with_reducible apply keeps_sctlCmd | with_reducible apply keeps_fnCmd | with_reducible apply keeps_cntClear
    | with_reducible apply keeps_queueWrite | split | fail_if_no_progress (with_reducible refine fits_mk rfl rfl rfl rfl ?_))

theorem keeps_writeAccess {p : Params} {q : List Instr} {s : State} (a1) (off) (be) (w) (hs : Keeps (Fits p q) s) :
    Keeps (Fits p q) (State.writeAccess a1 off be w s) := by
  unfold State.writeAccess
  repeat' (first
    | with_reducible assumption | with_reducible apply keeps_writeReg | split | dsimp only
    | fail_if_no_progress (with_reducible refine fits_mk rfl rfl rfl rfl ?_))

theorem keeps_afterCode {M : State → Prop} {s : State} (w) (hs : Keeps M s) :
    Keeps M (State.afterCode w s) := by
  unfold State.afterCode
  repeat' (first | with_reducible assumption | with_reducible apply keeps_sumCoded | split)

theorem keeps_beatDone {M : State → Prop} {s : State} (port) (hw) (hs : Keeps M s) :
    Keeps M (State.beatDone port hw s) := by
  unfold State.beatDone
  repeat' (first
    | with_reducible assumption | with_reducible apply keeps_sramFaults | with_reducible apply keeps_deliveryBeat
    | with_reducible apply keeps_busParity | with_reducible apply keeps_deliverAgain | split | dsimp only)

theorem keeps_beatIn {M : State → Prop} {s : State} (a1) (a2) (a3) (a4) (hs : Keeps M s) :
    Keeps M (State.beatIn a1 a2 a3 a4 s) :=
  keeps_withFaults _ _ _ _ (fun _ h => h) (fun _ h => keeps_intakeBeat _ _ _ _ h) hs

theorem keeps_checkSeen {M : State → Prop} {s : State} (c) (seen) (hs : Keeps M s) : Keeps M (State.checkSeen c seen s) := by
  unfold State.checkSeen
  repeat' (first | with_reducible assumption | with_reducible apply keeps_checkerEnds | intro _ | split)

theorem keeps_checkDone {M : State → Prop} {s : State} (c) (seen) (hw0) (hs : Keeps M s) : Keeps M (State.checkDone c seen hw0
    s) := by
  unfold State.checkDone
  repeat' (first
    | with_reducible assumption | with_reducible apply keeps_withFaults | with_reducible apply keeps_recheck
    | with_reducible apply keeps_checkSeen | intro _)

theorem keeps_codeDone {M : State → Prop} {s : State} (c) (e) (hw) (hs : Keeps M s) :
    Keeps M (State.codeDone c e hw s) := by
  unfold State.codeDone
  repeat' (first
    | with_reducible assumption | with_reducible apply keeps_sramFaults | with_reducible apply keeps_replayWrite
    | with_reducible apply keeps_busParity | with_reducible apply keeps_afterCode | with_reducible apply keeps_codeEnds
    | split | dsimp only)

theorem keeps_decodeDone {M : State → Prop} {s : State} (c) (e) (hw0) (hs : Keeps M s) : Keeps M (State.decodeDone c e hw0 s)
    := by
  unfold State.decodeDone
  repeat' (first
    | with_reducible assumption | with_reducible apply keeps_sramFaults | with_reducible apply keeps_replayTile
    | with_reducible apply keeps_busParity | with_reducible apply keeps_decodeEnds | with_reducible apply keeps_decodedOn
    | intro _ | split | dsimp only)

theorem keeps_rampOf {p : Params} {q : List Instr} {s : State} (sc) (hs : Keeps (Fits p q) s) :
    Keeps (Fits p q) (State.rampOf sc s) := by
  unfold State.rampOf
  repeat' (first
    | with_reducible assumption | with_reducible apply keeps_testRamped | with_reducible apply keeps_rampDone | split)

theorem keeps_readReplays {M : State → Prop} {s : State} (r) (hs : Keeps M s) :
    Keeps M (State.readReplays r s) := by
  unfold State.readReplays
  repeat' (first
    | with_reducible assumption | with_reducible apply keeps_updR | with_reducible apply keeps_flagRun
    | with_reducible apply keeps_updW | with_reducible refine keeps_fst (by assumption) ?_ | intro _ | split)

theorem keeps_readDone {M : State → Prop} {s : State} (r) (img) (hw) (hs : Keeps M s) :
    Keeps M (State.readDone r img hw s) := by
  unfold State.readDone
  repeat' (first
    | with_reducible assumption | with_reducible apply keeps_withFaults | with_reducible apply keeps_issue
    | with_reducible apply keeps_readReplays | with_reducible apply keeps_readAnswer | with_reducible apply keeps_dropReq
    | intro _)

theorem keeps_thirdSeen {M : State → Prop} {s : State} (c) (seen) (hs : Keeps M s) : Keeps M (State.thirdSeen c seen s) := by
  unfold State.thirdSeen
  repeat' (first | with_reducible assumption | with_reducible apply keeps_thirdEnds | intro _ | split)

theorem keeps_thirdDone {M : State → Prop} {s : State} (c) (seen) (hw0) (hs : Keeps M s) : Keeps M (State.thirdDone c seen hw0
    s) := by
  unfold State.thirdDone
  repeat' (first
    | with_reducible assumption | with_reducible apply keeps_withFaults | with_reducible apply keeps_recheck
    | with_reducible apply keeps_thirdSeen | intro _)

theorem keeps_wipeCore {M : State → Prop} {s : State} (n) (hs : Keeps M s) :
    Keeps M (State.wipeCore n s) := by
  unfold State.wipeCore
  repeat' (first
    | with_reducible assumption | with_reducible apply keeps_startRun | with_reducible apply keeps_updStream
    | with_reducible apply keeps_updRun | with_reducible apply keeps_updCore | split | dsimp only)

theorem keeps_wipeIdle {M : State → Prop} {s : State} (n) (hs : Keeps M s) : Keeps M (State.wipeIdle n s) := by
  unfold State.wipeIdle
  repeat' (first
    | with_reducible assumption | with_reducible apply keeps_startRun | with_reducible apply keeps_discardStop
    | with_reducible apply keeps_updStream | with_reducible apply keeps_forAll | intro _ | split | dsimp only
    | fail_if_no_progress (with_reducible refine keeps_mk rfl ?_))

theorem keeps_wipesOf {M : State → Prop} {s : State} (c) (hs : Keeps M s) :
    Keeps M (State.wipesOf c s) :=
  keeps_mk rfl hs

theorem keeps_wipeOf {p : Params} {q : List Instr} {s : State} (sc) (hs : Keeps (Fits p q) s) :
    Keeps (Fits p q) (State.wipeOf sc s) := by
  unfold State.wipeOf
  repeat' (first
    | with_reducible assumption | with_reducible apply keeps_testWiped | with_reducible apply keeps_sharedWiped
    | with_reducible apply keeps_wipesOf | with_reducible apply keeps_fnWiped | with_reducible apply keeps_wipeDone | split)

theorem keeps_wipeStream {M : State → Prop} {s : State} (n) (hs : Keeps M s) :
    Keeps M (State.wipeStream n s) := by
  unfold State.wipeStream
  repeat' (first | with_reducible assumption | with_reducible apply keeps_updStream | with_reducible apply keeps_startRun | split)

theorem keeps_writeDone {par : Params} {l : List Instr} {s : State} (r) (err) (par0) (hs : Keeps (Fits par l) s) : Keeps (Fits
    par l) (State.writeDone r err par0 s) := by
  unfold State.writeDone
  repeat' (first
    | with_reducible assumption | with_reducible apply keeps_dropReq | with_reducible apply keeps_writeAnswer
    | with_reducible apply keeps_issue | with_reducible apply keeps_busParity | intro _ | split)

theorem keeps_accReplays {M : State → Prop} {s : State} (id) (hs : Keeps M s) :
    Keeps M (State.accReplays id s) := by
  unfold State.accReplays
  repeat' (first | with_reducible assumption | with_reducible apply keeps_flagRun | split)

theorem keeps_addCmd {M : State → Prop} {s : State} (id) (k) (hw) (hs : Keeps M s) :
    Keeps M (State.addCmd id k hw s) := by
  unfold State.addCmd
  repeat' (first
    | with_reducible assumption | with_reducible apply keeps_withFaults | with_reducible apply keeps_accReplays
    | with_reducible apply keeps_accAdd | intro _)

theorem keeps_allocCmd {M : State → Prop} {s : State} (id) (hs : Keeps M s) :
    Keeps M (State.allocCmd id s) := by
  unfold State.allocCmd
  repeat' (first | with_reducible assumption | with_reducible apply keeps_serveRequest | split)

theorem keeps_atWork {M : State → Prop} {s : State} (a1) (ha1 : ∀  t, Keeps M t → Keeps M (a1  t)) (hs : Keeps M
    s) :
    Keeps M (State.atWork a1 s) := by
  unfold State.atWork
  split
  · exact ha1 s hs
  · exact hs

theorem keeps_scatterReplays {M : State → Prop} {s : State} (hs : Keeps M s) :
    Keeps M (State.scatterReplays s) := by
  unfold State.scatterReplays
  repeat' (first | with_reducible assumption | with_reducible apply keeps_flagRun | split)

theorem keeps_atollDrainCmd {M : State → Prop} {s : State} (hw0) (hs : Keeps M s) : Keeps M (State.atollDrainCmd hw0 s) := by
  unfold State.atollDrainCmd
  repeat' (first
    | with_reducible assumption | with_reducible apply keeps_withFaults | with_reducible apply keeps_scatterReplays
    | with_reducible apply keeps_atollDrain)

theorem keeps_clocked {M : State → Prop} {s : State} (clks) (f) (hf : ∀ t, Keeps M t → Keeps M (f t)) (hs : Keeps M s) :
    Keeps M (State.clocked clks f s) := by
  unfold State.clocked
  split
  · exact hs
  · exact hf s hs

theorem keeps_whenPowered {M : State → Prop} {s : State} (a1) (ha1 : ∀  t, Keeps M t → Keeps M (a1  t)) (hs : Keeps M s) :
    Keeps M (State.whenPowered a1 s) := by
  unfold State.whenPowered
  split
  · exact ha1 s hs
  · exact hs

theorem keeps_parityAt {M : State → Prop} {s : State} (u0) (path) (hs : Keeps M s) : Keeps M (State.parityAt u0 path s) := by
  unfold State.parityAt
  repeat' (first
    | with_reducible assumption | with_reducible apply keeps_whenPowered | with_reducible apply keeps_busParity | intro _)

theorem keeps_crossing {M : State → Prop} {s : State} (clks) (u0) (par) (f) (hf : ∀ t, Keeps M t → Keeps M (f t)) (hs : Keeps M s) :
    Keeps M (State.crossing clks u0 par f s) := by
  refine keeps_clocked _ _ (fun t ht => ?_) hs
  split
  · exact hf t ht
  · exact keeps_parityAt _ _ ht

theorem keeps_drainCmd {M : State → Prop} {s : State} (id) (hw) (hs : Keeps M s) :
    Keeps M (State.drainCmd id hw s) := by
  unfold State.drainCmd
  repeat' (first
    | with_reducible assumption | with_reducible apply keeps_withFaults | with_reducible apply keeps_accReplays
    | with_reducible apply keeps_accDrain | intro _)

theorem keeps_exportCmd {M : State → Prop} {s : State} (n) (hs : Keeps M s) :
    Keeps M (State.exportCmd n s) := by
  unfold State.exportCmd
  repeat' (first | with_reducible assumption | with_reducible apply keeps_exportGo | split)

theorem keeps_goOn {M : State → Prop} {s : State} (a1) (a2) (a3) (a4) (ha4 : ∀ x0 t, Keeps M t → Keeps M (a4 x0 t))
    (hs : Keeps M s) :
    Keeps M (State.goOn a1 a2 a3 a4 s) := by
  unfold State.goOn
  split
  · exact hs
  · dsimp only
    split
    · exact hs
    · split
      · exact ha4 _ _ (keeps_startRun _ _ hs)
      · exact keeps_startRun _ _ hs

theorem keeps_mergeCmd {M : State → Prop} {s : State} (n) (hs : Keeps M s) :
    Keeps M (State.mergeCmd n s) := by
  unfold State.mergeCmd
  repeat' (first | with_reducible assumption | with_reducible apply keeps_goOn | with_reducible apply keeps_mergeGo | intro _)

theorem keeps_onBit {M : State → Prop} {s : State} (a1) (a2) (a3) (a4) (ha4 : ∀  t, Keeps M t → Keeps M (a4  t))
    (hs : Keeps M s) :
    Keeps M (State.onBit a1 a2 a3 a4 s) := by
  unfold State.onBit
  split
  · exact ha4 s hs
  · exact hs

theorem keeps_onOp {M : State → Prop} {s : State} (a1) (a2) (a3) (ha3 : ∀  t, Keeps M t → Keeps M (a3  t)) (hs :
    Keeps M s) :
    Keeps M (State.onOp a1 a2 a3 s) := by
  unfold State.onOp
  split
  · exact ha3 s hs
  · exact hs

theorem keeps_recvCmd {M : State → Prop} {s : State} (n) (hs : Keeps M s) :
    Keeps M (State.recvCmd n s) := by
  unfold State.recvCmd
  repeat' (first | with_reducible assumption | with_reducible apply keeps_recvGo | with_reducible apply keeps_startRun | split)

theorem keeps_reduceCmd {M : State → Prop} {s : State} (n) (hs : Keeps M s) :
    Keeps M (State.reduceCmd n s) := by
  unfold State.reduceCmd
  repeat' (first | with_reducible assumption | with_reducible apply keeps_goOn | with_reducible apply keeps_reduceGo | intro _)

theorem keeps_register {M : State → Prop} {s : State} (par) (f) (hf : ∀  t, Keeps M t → Keeps M (f  t)) (hs : Keeps M s) :
    Keeps M (State.register par f s) := by
  unfold State.register
  repeat' (first | with_reducible assumption | with_reducible apply keeps_crossing)

theorem keeps_acknowledge {M : State → Prop} {s : State} (par) (f) (hf : ∀  t, Keeps M t → Keeps M (f  t)) (hs : Keeps M s) :
    Keeps M (State.acknowledge par f s) := by
  unfold State.acknowledge
  repeat' (first | with_reducible assumption | with_reducible apply keeps_crossing)

theorem keeps_registerRead {M : State → Prop} {s : State} (p) (off) (par) (f) (hf : ∀ t, Keeps M t → Keeps M (f t)) (hs : Keeps
    M s) :
    Keeps M (State.registerRead p off par f s) := by
  refine keeps_clocked _ _ (fun t ht => ?_) hs
  cases par with
  | none => exact hf t ht
  | some path => exact hf _ (keeps_parityAt _ _ ht)

theorem keeps_fromMemory {M : State → Prop} {s : State} (par) (f) (hf : ∀  t, Keeps M t → Keeps M (f  t)) (hs : Keeps M s) :
    Keeps M (State.fromMemory par f s) := by
  unfold State.fromMemory
  repeat' (first | with_reducible assumption | with_reducible apply keeps_crossing | intro _ | split)

theorem keeps_scatterGo {M : State → Prop} {s : State} (n) (r) (hs : Keeps M s) : Keeps M (State.scatterGo n r s) := by
  unfold State.scatterGo
  repeat' (first
    | with_reducible assumption | with_reducible apply keeps_scatterBegin | with_reducible apply keeps_scatterRead
    | with_reducible refine keeps_fst (by assumption) ?_ | intro _ | split)

theorem keeps_scatterCmd {M : State → Prop} {s : State} (n) (hs : Keeps M s) : Keeps M (State.scatterCmd n s) := by
  unfold State.scatterCmd
  repeat' (first | with_reducible assumption | with_reducible apply keeps_goOn | with_reducible apply keeps_scatterGo | intro _)

theorem keeps_sendCmd {M : State → Prop} {s : State} (n) (hs : Keeps M s) :
    Keeps M (State.sendCmd n s) := by
  unfold State.sendCmd
  repeat' (first | with_reducible assumption | with_reducible apply keeps_sendGo | with_reducible apply keeps_startRun | split)

theorem keeps_updateCmd {M : State → Prop} {s : State} (lanes) (hw) (hs : Keeps M s) :
    Keeps M (State.updateCmd lanes hw s) := by
  unfold State.updateCmd
  repeat' (first
    | with_reducible assumption | with_reducible apply keeps_withFaults | with_reducible apply keeps_scatterReplays
    | with_reducible apply keeps_atollUpdate | intro _)

theorem keeps_walkCmd {M : State → Prop} {s : State} (group) (hw0) (hs : Keeps M s) : Keeps M (State.walkCmd group hw0 s) := by
  unfold State.walkCmd
  repeat' (first
    | with_reducible assumption | with_reducible apply keeps_sramFaults | with_reducible apply keeps_withFaults
    | with_reducible apply keeps_replayGroup | with_reducible apply keeps_mergeWalk | intro _ | split)

theorem keeps_whenOpen {M : State → Prop} {s : State} (a1) (ha1 : ∀  t, Keeps M t → Keeps M (a1  t)) (hs : Keeps M
    s) :
    Keeps M (State.whenOpen a1 s) := by
  unfold State.whenOpen
  split
  · exact ha1 s hs
  · exact hs

theorem keeps_epochBoundary {M : State → Prop} {s : State} (hs : Keeps M s) : Keeps M (State.epochBoundary s) := by
  unfold State.epochBoundary
  repeat' (first | with_reducible assumption | with_reducible apply keeps_askSpills | with_reducible apply keeps_reclaim)

theorem keeps_queueRemote {M : State → Prop} {s : State} (c) (hs : Keeps M s) : Keeps M (State.queueRemote c s) := by
  unfold State.queueRemote
  repeat' (first
    | with_reducible assumption | with_reducible apply keeps_answer | with_reducible apply keeps_numbered | intro _ | split
    | dsimp only | fail_if_no_progress (with_reducible refine keeps_mk rfl ?_))

theorem keeps_ringCommit {M : State → Prop} {s : State} (c) (hw) (hs : Keeps M s) :
    Keeps M (State.ringCommit c hw s) :=
  keeps_withFaults _ _ _ _ (fun _ h => h) (fun _ h => keeps_queueRemote _ h) hs

theorem keeps_ringIdent {M : State → Prop} {s : State} (_p) (hs : Keeps M s) :
    Keeps M (State.ringIdent _p s) := by
  unfold State.ringIdent
  repeat' (first
    | with_reducible assumption | with_reducible apply keeps_sendRing | with_reducible refine keeps_fst (by assumption) ?_
    | intro _ | split)

theorem keeps_ringRelease {M : State → Prop} {s : State} (pool) (start) (size) (unnamed) (hs : Keeps M s) :
    Keeps M (State.ringRelease pool start size unnamed s) := by
  unfold State.ringRelease
  repeat' (first
    | with_reducible assumption | with_reducible apply keeps_discardSectors | with_reducible apply keeps_releaseSectors | split)

theorem keeps_ringRequest {M : State → Prop} {s : State} (r) (hs : Keeps M s) :
    Keeps M (State.ringRequest r s) := by
  unfold State.ringRequest
  repeat' (first | with_reducible assumption | with_reducible apply keeps_answer | with_reducible apply keeps_serveRemote | split)

end Sys2Proof.Machine
end

