-- ==== Sys2Proof/Laws/KeepsExec.lean ====
section
/-! SUPPORT. `Keeps` passes through the meaning of each command, one lemma for each row. -/

namespace Sys2Proof.Machine

theorem keeps_execAccumulatorAdd {M : State → Prop} {s u : State} (t0) (acc) (k) (hw0) (hs : Keeps M s) (hu :
    execAccumulatorAdd t0 acc k hw0 s = .next u) : Keeps M u := by
  unfold execAccumulatorAdd at hu
  injection hu with hu
  subst hu
  repeat' (first
    | with_reducible assumption | with_reducible apply keeps_settle | with_reducible apply keeps_clocked
    | with_reducible apply keeps_addCmd | with_reducible apply keeps_timed | intro _)

theorem keeps_execAccumulatorDrain {M : State → Prop} {s u : State} (t0) (acc) (hw0) (hs : Keeps M s) (hu :
    execAccumulatorDrain t0 acc hw0 s = .next u) : Keeps M u := by
  unfold execAccumulatorDrain at hu
  injection hu with hu
  subst hu
  repeat' (first
    | with_reducible assumption | with_reducible apply keeps_settle | with_reducible apply keeps_clocked
    | with_reducible apply keeps_drainCmd | with_reducible apply keeps_timed | intro _)

theorem keeps_execAck {M : State → Prop} {s u : State} (t0) (port) (rank) (man) (par0) (hs : Keeps M s) (hu : execAck t0 port
    rank man par0 s = .next u) : Keeps M u := by
  unfold execAck at hu
  injection hu with hu
  subst hu
  repeat' (first
    | with_reducible assumption | with_reducible apply keeps_settle | with_reducible apply keeps_crossing
    | with_reducible apply keeps_receive | with_reducible apply keeps_timed | intro _)

theorem keeps_execAllocationRequest {M : State → Prop} {s u : State} (t0) (job) (hs : Keeps M s) (hu : execAllocationRequest t0
    job s = .next u) : Keeps M u := by
  unfold execAllocationRequest at hu
  injection hu with hu
  subst hu
  repeat' (first
    | with_reducible assumption | with_reducible apply keeps_settle | with_reducible apply keeps_clocked
    | with_reducible apply keeps_allocCmd | with_reducible apply keeps_timed | intro _)

theorem keeps_execAtollDrain {M : State → Prop} {s u : State} (t0) (hw0) (hs : Keeps M s) (hu : execAtollDrain t0 hw0 s = .next
    u) : Keeps M u := by
  unfold execAtollDrain at hu
  injection hu with hu
  subst hu
  repeat' (first
    | with_reducible assumption | with_reducible apply keeps_settle | with_reducible apply keeps_clocked
    | with_reducible apply keeps_atollDrainCmd | with_reducible apply keeps_timed | intro _)

theorem keeps_execAtollUpdate {M : State → Prop} {s u : State} (t0) (lanes) (hw0) (hs : Keeps M s) (hu : execAtollUpdate t0
    lanes hw0 s = .next u) : Keeps M u := by
  unfold execAtollUpdate at hu
  injection hu with hu
  subst hu
  repeat' (first
    | with_reducible assumption | with_reducible apply keeps_settle | with_reducible apply keeps_clocked
    | with_reducible apply keeps_updateCmd | with_reducible apply keeps_timed | intro _)

theorem keeps_execCausewaySpace {M : State → Prop} {s u : State} (t0) (hs : Keeps M s) (hu : execCausewaySpace t0 s = .next u)
    : Keeps M u := by
  unfold execCausewaySpace at hu
  injection hu with hu
  subst hu
  repeat' (first
    | with_reducible assumption | with_reducible apply keeps_settle | with_reducible apply keeps_clocked
    | with_reducible apply keeps_causewaySpace | with_reducible apply keeps_timed)

theorem keeps_execCausewayTile {M : State → Prop} {s u : State} (t0) (img) (par) (hs : Keeps M s)
    (hu : execCausewayTile t0 img par s = .next u) : Keeps M u := by
  unfold execCausewayTile at hu
  injection hu with hu
  subst hu
  repeat' (first
    | with_reducible assumption | with_reducible apply keeps_timed | with_reducible apply keeps_fromMemory
    | with_reducible apply keeps_causewayTile | with_reducible apply keeps_settle | intro _)

theorem keeps_execCbaseWrite {M : State → Prop} {s u : State} (t0) (q) (hi0) (w) (par0) (hs : Keeps M s) (hu : execCbaseWrite
    t0 q hi0 w par0 s = .next u) : Keeps M u := by
  unfold execCbaseWrite at hu
  injection hu with hu
  subst hu
  repeat' (first
    | with_reducible assumption | with_reducible apply keeps_register | with_reducible apply keeps_whenOpen
    | with_reducible apply keeps_cbaseWrite | with_reducible apply keeps_timed | intro _)

theorem keeps_execCeWindowExpiry {M : State → Prop} {s u : State} (t0) (hs : Keeps M s)
    (hu : execCeWindowExpiry t0 s = .next u) : Keeps M u := by
  unfold execCeWindowExpiry at hu
  injection hu with hu
  subst hu
  repeat' (first | with_reducible assumption | with_reducible apply keeps_timed | with_reducible apply keeps_ceExpires)

theorem keeps_execChDead {M : State → Prop} {s u : State} (t0) (ev) (par0) (hs : Keeps M s) (hu : execChDead t0 ev par0 s =
    .next u) : Keeps M u := by
  unfold execChDead at hu
  injection hu with hu
  subst hu
  repeat' (first
    | with_reducible assumption | with_reducible apply keeps_settle | with_reducible apply keeps_crossing
    | with_reducible apply keeps_event | with_reducible apply keeps_killChan | with_reducible apply keeps_timed | intro _)

theorem keeps_execChHold {M : State → Prop} {s u : State} (t0) (ev) (par0) (hs : Keeps M s) (hu : execChHold t0 ev par0 s =
    .next u) : Keeps M u := by
  unfold execChHold at hu
  injection hu with hu
  subst hu
  repeat' (first
    | with_reducible assumption | with_reducible apply keeps_settle | with_reducible apply keeps_crossing
    | with_reducible apply keeps_event | with_reducible apply keeps_holdChan | with_reducible apply keeps_timed | intro _)

theorem keeps_execChRelease {M : State → Prop} {s u : State} (t0) (ev) (par0) (hs : Keeps M s) (hu : execChRelease t0 ev par0 s
    = .next u) : Keeps M u := by
  unfold execChRelease at hu
  injection hu with hu
  subst hu
  repeat' (first
    | with_reducible assumption | with_reducible apply keeps_settle | with_reducible apply keeps_crossing
    | with_reducible apply keeps_event | with_reducible apply keeps_releaseChan | with_reducible apply keeps_timed | intro _)

theorem keeps_execChartAbort {M : State → Prop} {s u : State} (t0) (w) (par0) (hs : Keeps M s) (hu : execChartAbort t0 w par0 s
    = .next u) : Keeps M u := by
  unfold execChartAbort at hu
  injection hu with hu
  subst hu
  repeat' (first
    | with_reducible assumption | with_reducible apply keeps_register | with_reducible apply keeps_chartCmd
    | with_reducible apply keeps_chartAbort | with_reducible apply keeps_timed | intro _)

theorem keeps_execChartData {M : State → Prop} {s u : State} (t0) (w) (par0) (hs : Keeps M s) (hu : execChartData t0 w par0 s =
    .next u) : Keeps M u := by
  unfold execChartData at hu
  injection hu with hu
  subst hu
  repeat' (first
    | with_reducible assumption | with_reducible apply keeps_register | with_reducible apply keeps_whenOpen
    | with_reducible apply keeps_chartData | with_reducible apply keeps_timed | intro _)

theorem keeps_execChartFinish {M : State → Prop} {s u : State} (t0) (w) (par0) (hs : Keeps M s) (hu : execChartFinish t0 w par0
    s = .next u) : Keeps M u := by
  unfold execChartFinish at hu
  injection hu with hu
  subst hu
  repeat' (first
    | with_reducible assumption | with_reducible apply keeps_register | with_reducible apply keeps_chartCmd
    | with_reducible apply keeps_chartFinish | with_reducible apply keeps_timed | intro _)

theorem keeps_execChartStart {M : State → Prop} {s u : State} (t0) (w) (par0) (hs : Keeps M s) (hu : execChartStart t0 w par0 s
    = .next u) : Keeps M u := by
  unfold execChartStart at hu
  injection hu with hu
  subst hu
  repeat' (first
    | with_reducible assumption | with_reducible apply keeps_register | with_reducible apply keeps_chartCmd
    | with_reducible apply keeps_chartStart | with_reducible apply keeps_timed | intro _)

theorem keeps_execChartValidationDone {par0 : Params} {l : List Instr} {s u : State} (t0) (peers) (img) (par) (hs : Keeps (Fits
    par0 l) s)
    (hu : execChartValidationDone t0 peers img par s = .next u) : Keeps (Fits par0 l) u := by
  unfold execChartValidationDone at hu
  injection hu with hu
  subst hu
  repeat' (first
    | with_reducible assumption | with_reducible apply keeps_timed | with_reducible apply keeps_crossing
    | with_reducible apply keeps_validated | with_reducible apply keeps_settle | intro _)

theorem keeps_execCheadWrite {M : State → Prop} {s u : State} (t0) (q) (w) (par0) (hs : Keeps M s) (hu : execCheadWrite t0 q w
    par0 s = .next u) : Keeps M u := by
  unfold execCheadWrite at hu
  injection hu with hu
  subst hu
  repeat' (first
    | with_reducible assumption | with_reducible apply keeps_register | with_reducible apply keeps_whenOpen
    | with_reducible apply keeps_cheadWrite | with_reducible apply keeps_timed | intro _)

theorem keeps_execCheckerOutcome {M : State → Prop} {s u : State} (t0) (core) (seen) (hw0) (hs : Keeps M s) (hu :
    execCheckerOutcome t0 core seen hw0 s = .next u) : Keeps M u := by
  unfold execCheckerOutcome at hu
  injection hu with hu
  subst hu
  repeat' (first
    | with_reducible assumption | with_reducible apply keeps_settle | with_reducible apply keeps_clocked
    | with_reducible apply keeps_checkDone | with_reducible apply keeps_timed | intro _)

theorem keeps_execChunk {M : State → Prop} {s u : State} (t0) (port) (rank) (man) (payload) (par0) (hs : Keeps M s) (hu :
    execChunk t0 port rank man payload par0 s = .next u) : Keeps M u := by
  unfold execChunk at hu
  injection hu with hu
  subst hu
  repeat' (first
    | with_reducible assumption | with_reducible apply keeps_settle | with_reducible apply keeps_crossing
    | with_reducible apply keeps_receive | with_reducible apply keeps_timed | intro _)

theorem keeps_execChunkSend {M : State → Prop} {s u : State} (t0) (port) (par0) (hs : Keeps M s) (hu : execChunkSend t0 port
    par0 s = .next u) : Keeps M u := by
  unfold execChunkSend at hu
  injection hu with hu
  subst hu
  repeat' (first
    | with_reducible assumption | with_reducible apply keeps_settle | with_reducible apply keeps_crossing
    | with_reducible apply keeps_chunkSend | with_reducible apply keeps_timed | intro _)

theorem keeps_execClkLost {par : Params} {l : List Instr} {s u : State} (t0) (c) (hs : Keeps (Fits par l) s)
    (hu : execClkLost t0 c s = .next u) : Keeps (Fits par l) u := by
  unfold execClkLost at hu
  injection hu with hu
  subst hu
  repeat' (first
    | with_reducible assumption | with_reducible apply keeps_timed | with_reducible apply keeps_whenPowered
    | with_reducible apply keeps_clkLost | intro _)

theorem keeps_execClkLostRepeat {par : Params} {l : List Instr} {s u : State} (t0) (hs : Keeps (Fits par l) s)
    (hu : execClkLostRepeat t0 s = .next u) : Keeps (Fits par l) u := by
  unfold execClkLostRepeat at hu
  injection hu with hu
  subst hu
  repeat' (first
    | with_reducible assumption | with_reducible apply keeps_timed | with_reducible apply keeps_whenPowered
    | with_reducible apply keeps_clkRepeat)

theorem keeps_execClockReturn {par : Params} {l : List Instr} {s u : State} (t0) (c) (hs : Keeps (Fits par l) s)
    (hu : execClockReturn t0 c s = .next u) : Keeps (Fits par l) u := by
  unfold execClockReturn at hu
  injection hu with hu
  subst hu
  repeat' (first
    | with_reducible assumption | with_reducible apply keeps_timed | with_reducible apply keeps_whenPowered
    | with_reducible apply keeps_clkReturn | intro _)

theorem keeps_execCloseStream {par : Params} {l : List Instr} {s u : State} (t0) (w) (par0) (hs : Keeps (Fits par l) s) (hu :
    execCloseStream t0 w par0 s = .next u) : Keeps (Fits par l) u := by
  unfold execCloseStream at hu
  injection hu with hu
  subst hu
  repeat' (first
    | with_reducible assumption | with_reducible apply keeps_settle | with_reducible apply keeps_register
    | with_reducible apply keeps_whenOpen | with_reducible apply keeps_onOp | with_reducible apply keeps_sctlCmd
    | with_reducible apply keeps_timed | intro _)

theorem keeps_execClusterDisable {M : State → Prop} {s u : State} (t0) (p) (par0) (hs : Keeps M s) (hu : execClusterDisable t0
    p par0 s = .next u) : Keeps M u := by
  unfold execClusterDisable at hu
  injection hu with hu
  subst hu
  repeat' (first
    | with_reducible assumption | with_reducible apply keeps_settle | with_reducible apply keeps_register
    | with_reducible apply keeps_whenOpen | with_reducible apply keeps_clusterOff | with_reducible apply keeps_timed | intro _)

theorem keeps_execClusterEnable {M : State → Prop} {s u : State} (t0) (p) (par0) (hs : Keeps M s) (hu : execClusterEnable t0 p
    par0 s = .next u) : Keeps M u := by
  unfold execClusterEnable at hu
  injection hu with hu
  subst hu
  repeat' (first
    | with_reducible assumption | with_reducible apply keeps_settle | with_reducible apply keeps_register
    | with_reducible apply keeps_whenOpen | with_reducible apply keeps_clusterOn | with_reducible apply keeps_timed | intro _)

theorem keeps_execCntClear {par : Params} {l : List Instr} {s u : State} (t0) (w) (par0) (hs : Keeps (Fits par l) s) (hu :
    execCntClear t0 w par0 s = .next u) : Keeps (Fits par l) u := by
  unfold execCntClear at hu
  injection hu with hu
  subst hu
  repeat' (first
    | with_reducible assumption | with_reducible apply keeps_register | with_reducible apply keeps_whenOpen
    | with_reducible apply keeps_cntClear | with_reducible apply keeps_timed | intro _)

theorem keeps_execColdResetAssert {par : Params} {l : List Instr} {s u : State} (t0) (hs : Keeps (Fits par l) s)
    (hu : execColdResetAssert t0 s = .next u) : Keeps (Fits par l) u := by
  unfold execColdResetAssert at hu
  injection hu with hu
  subst hu
  repeat' (first | with_reducible assumption | with_reducible apply keeps_timed | with_reducible apply keeps_coldAssert)

theorem keeps_execColdResetRelease {par : Params} {l : List Instr} {s u : State} (t0) (lcIn) (hs : Keeps (Fits par l) s)
    (hu : execColdResetRelease t0 lcIn s = .next u) : Keeps (Fits par l) u := by
  unfold execColdResetRelease at hu
  injection hu with hu
  subst hu
  repeat' (first | with_reducible assumption | with_reducible apply keeps_timed | with_reducible apply keeps_coldRelease)

theorem keeps_execCollProjection {M : State → Prop} {s u : State} (t0) (stream) (hs : Keeps M s) (hu : execCollProjection t0
    stream s = .next u) : Keeps M u := by
  unfold execCollProjection at hu
  injection hu with hu
  subst hu
  repeat' (first
    | with_reducible assumption | with_reducible apply keeps_settle | with_reducible apply keeps_clocked
    | with_reducible apply keeps_project | with_reducible apply keeps_timed | intro _)

theorem keeps_execCollectiveRecv {M : State → Prop} {s u : State} (t0) (stream) (hs : Keeps M s)
    (hu : execCollectiveRecv t0 stream s = .next u) : Keeps M u := by
  unfold execCollectiveRecv at hu
  injection hu with hu
  subst hu
  repeat' (first
    | with_reducible assumption | with_reducible apply keeps_settle | with_reducible apply keeps_timed
    | with_reducible apply keeps_recvCmd)

theorem keeps_execCollectiveSend {M : State → Prop} {s u : State} (t0) (stream) (hs : Keeps M s)
    (hu : execCollectiveSend t0 stream s = .next u) : Keeps M u := by
  unfold execCollectiveSend at hu
  injection hu with hu
  subst hu
  repeat' (first
    | with_reducible assumption | with_reducible apply keeps_settle | with_reducible apply keeps_timed
    | with_reducible apply keeps_sendCmd)

theorem keeps_execCompress {M : State → Prop} {s u : State} (t0) (stream) (hs : Keeps M s)
    (hu : execCompress t0 stream s = .next u) : Keeps M u := by
  unfold execCompress at hu
  injection hu with hu
  subst hu
  repeat' (first
    | with_reducible assumption | with_reducible apply keeps_settle | with_reducible apply keeps_timed
    | with_reducible apply keeps_compressGo)

theorem keeps_execContextFetchDone {M : State → Prop} {s u : State} (t0) (q) (img) (par) (hs : Keeps M s)
    (hu : execContextFetchDone t0 q img par s = .next u) : Keeps M u := by
  unfold execContextFetchDone at hu
  injection hu with hu
  subst hu
  repeat' (first
    | with_reducible assumption | with_reducible apply keeps_timed | with_reducible apply keeps_fromMemory
    | with_reducible apply keeps_atWork | with_reducible apply keeps_contextBack | with_reducible apply keeps_settle | intro _)

theorem keeps_execCoreTestStart {M : State → Prop} {s u : State} (t0) (hs : Keeps M s)
    (hu : execCoreTestStart t0 s = .next u) : Keeps M u := by
  unfold execCoreTestStart at hu
  injection hu with hu
  subst hu
  repeat' (first
    | with_reducible assumption | with_reducible apply keeps_timed | with_reducible apply keeps_clocked
    | with_reducible apply keeps_coreTestStart | with_reducible apply keeps_settle)

theorem keeps_execCqPendClear {par : Params} {l : List Instr} {s u : State} (t0) (hi0) (w) (setNow) (par0) (hs : Keeps (Fits
    par l) s) (hu : execCqPendClear t0 hi0 w setNow par0 s = .next u) : Keeps (Fits par l) u := by
  unfold execCqPendClear at hu
  injection hu with hu
  subst hu
  repeat' (first
    | with_reducible assumption | with_reducible apply keeps_register | with_reducible apply keeps_whenOpen
    | with_reducible apply keeps_cqClear | with_reducible apply keeps_timed | intro _)

theorem keeps_execCtxdbgBankWrite {par : Params} {l : List Instr} {s u : State} (t0) (w) (par0) (hs : Keeps (Fits par l) s) (hu
    : execCtxdbgBankWrite t0 w par0 s = .next u) : Keeps (Fits par l) u := by
  unfold execCtxdbgBankWrite at hu
  injection hu with hu
  subst hu
  repeat' (first
    | with_reducible assumption | with_reducible apply keeps_register | with_reducible apply keeps_whenOpen
    | with_reducible apply keeps_bankWrite | with_reducible apply keeps_timed | intro _)

theorem keeps_execCtxdbgSnapshot {par : Params} {l : List Instr} {s u : State} (t0) (off) (par0) (hs : Keeps (Fits par l) s)
    (hu : execCtxdbgSnapshot t0 off par0 s = .next u) : Keeps (Fits par l) u := by
  unfold execCtxdbgSnapshot at hu
  injection hu with hu
  subst hu
  repeat' (first
    | with_reducible assumption | with_reducible apply keeps_registerRead | with_reducible apply keeps_readAccess
    | with_reducible apply keeps_timed | intro _)

theorem keeps_execCurrentRampDone {par0 : Params} {l : List Instr} {s u : State} (t0) (sc) (hs : Keeps (Fits par0 l) s)
    (hu : execCurrentRampDone t0 sc s = .next u) : Keeps (Fits par0 l) u := by
  unfold execCurrentRampDone at hu
  injection hu with hu
  subst hu
  repeat' (first
    | with_reducible assumption | with_reducible apply keeps_timed | with_reducible apply keeps_clocked
    | with_reducible apply keeps_rampOf | with_reducible apply keeps_settle | intro _)

theorem keeps_execDeliveryBeat {M : State → Prop} {s u : State} (t0) (port) (hw0) (hs : Keeps M s) (hu : execDeliveryBeat t0
    port hw0 s = .next u) : Keeps M u := by
  unfold execDeliveryBeat at hu
  injection hu with hu
  subst hu
  repeat' (first
    | with_reducible assumption | with_reducible apply keeps_settle | with_reducible apply keeps_clocked
    | with_reducible apply keeps_beatDone | with_reducible apply keeps_timed | intro _)

theorem keeps_execDescriptorCompletion {M : State → Prop} {s u : State} (t0) (src) (hs : Keeps M s) (hu :
    execDescriptorCompletion t0 src s = .next u) : Keeps M u := by
  unfold execDescriptorCompletion at hu
  injection hu with hu
  subst hu
  repeat' (first
    | with_reducible assumption | with_reducible apply keeps_settle | with_reducible apply keeps_clocked
    | with_reducible apply keeps_complete | with_reducible apply keeps_timed | intro _)

theorem keeps_execDescriptorFetch {M : State → Prop} {s u : State} (t0) (q) (img) (par) (hs : Keeps M s)
    (hu : execDescriptorFetch t0 q img par s = .next u) : Keeps M u := by
  unfold execDescriptorFetch at hu
  injection hu with hu
  subst hu
  repeat' (first
    | with_reducible assumption | with_reducible apply keeps_timed | with_reducible apply keeps_fromMemory
    | with_reducible apply keeps_atWork | with_reducible apply keeps_fetch | with_reducible apply keeps_settle | intro _)

theorem keeps_execDieRingCommit {M : State → Prop} {s u : State} (t0) (c) (hw0) (hs : Keeps M s) (hu : execDieRingCommit t0 c
    hw0 s = .next u) : Keeps M u := by
  unfold execDieRingCommit at hu
  injection hu with hu
  subst hu
  repeat' (first
    | with_reducible assumption | with_reducible apply keeps_settle | with_reducible apply keeps_clocked
    | with_reducible apply keeps_ringCommit | with_reducible apply keeps_timed | intro _)

theorem keeps_execDieRingContribution {M : State → Prop} {s u : State} (t0) (acc) (k) (entry) (payload) (par0) (hs : Keeps M s)
    (hu : execDieRingContribution t0 acc k entry payload par0 s = .next u) : Keeps M u := by
  unfold execDieRingContribution at hu
  injection hu with hu
  subst hu
  repeat' (first
    | with_reducible assumption | with_reducible apply keeps_settle | with_reducible apply keeps_crossing
    | with_reducible apply keeps_contribution | with_reducible apply keeps_timed | intro _)

theorem keeps_execDieRingIdentCheck {M : State → Prop} {s u : State} (t0) (p) (par0) (hs : Keeps M s) (hu :
    execDieRingIdentCheck t0 p par0 s = .next u) : Keeps M u := by
  unfold execDieRingIdentCheck at hu
  injection hu with hu
  subst hu
  repeat' (first
    | with_reducible assumption | with_reducible apply keeps_crossing | with_reducible apply keeps_ringIdent
    | with_reducible apply keeps_timed | intro _)

theorem keeps_execDieRingInvalidate {M : State → Prop} {s u : State} (t0) (entryAddr) (par0) (hs : Keeps M s) (hu :
    execDieRingInvalidate t0 entryAddr par0 s = .next u) : Keeps M u := by
  unfold execDieRingInvalidate at hu
  injection hu with hu
  subst hu
  repeat' (first
    | with_reducible assumption | with_reducible apply keeps_crossing | with_reducible apply keeps_invalidate
    | with_reducible apply keeps_timed | intro _)

theorem keeps_execDieRingResponse {M : State → Prop} {s u : State} (t0) (job) (a) (par0) (hs : Keeps M s) (hu :
    execDieRingResponse t0 job a par0 s = .next u) : Keeps M u := by
  unfold execDieRingResponse at hu
  injection hu with hu
  subst hu
  repeat' (first
    | with_reducible assumption | with_reducible apply keeps_settle | with_reducible apply keeps_crossing
    | with_reducible apply keeps_gotAnswer | with_reducible apply keeps_timed | intro _)

theorem keeps_execDieRingSectorRelease {M : State → Prop} {s u : State} (t0) (pool) (start) (size) (unnamed) (par0) (hs : Keeps
    M s) (hu : execDieRingSectorRelease t0 pool start size unnamed par0 s = .next u) : Keeps M u := by
  unfold execDieRingSectorRelease at hu
  injection hu with hu
  subst hu
  repeat' (first
    | with_reducible assumption | with_reducible apply keeps_settle | with_reducible apply keeps_crossing
    | with_reducible apply keeps_ringRelease | with_reducible apply keeps_timed | intro _)

theorem keeps_execDieRingSectorRequest {M : State → Prop} {s u : State} (t0) (r) (par0) (hs : Keeps M s) (hu :
    execDieRingSectorRequest t0 r par0 s = .next u) : Keeps M u := by
  unfold execDieRingSectorRequest at hu
  injection hu with hu
  subst hu
  repeat' (first
    | with_reducible assumption | with_reducible apply keeps_settle | with_reducible apply keeps_crossing
    | with_reducible apply keeps_ringRequest | with_reducible apply keeps_timed | intro _)

theorem keeps_execDrainDone {par : Params} {l : List Instr} {s u : State} (t0) (hs : Keeps (Fits par l) s) (hu : execDrainDone
    t0 s = .next u) : Keeps (Fits par l) u := by
  unfold execDrainDone at hu
  injection hu with hu
  subst hu
  repeat' (first
    | with_reducible assumption | with_reducible apply keeps_settle | with_reducible apply keeps_clocked
    | with_reducible apply keeps_drainDone | with_reducible apply keeps_timed)

theorem keeps_execEpochBoundary {M : State → Prop} {s u : State} (t0) (hs : Keeps M s) (hu : execEpochBoundary t0 s = .next u)
    : Keeps M u := by
  unfold execEpochBoundary at hu
  injection hu with hu
  subst hu
  repeat' (first
    | with_reducible assumption | with_reducible apply keeps_settle | with_reducible apply keeps_clocked
    | with_reducible apply keeps_epochBoundary | with_reducible apply keeps_timed)

theorem keeps_execErrAckWrite {M : State → Prop} {s u : State} (t0) (p) (w) (par) (hs : Keeps M s)
    (hu : execErrAckWrite t0 p w par s = .next u) : Keeps M u := by
  unfold execErrAckWrite at hu
  injection hu with hu
  subst hu
  repeat' (first
    | with_reducible assumption | with_reducible apply keeps_timed | with_reducible apply keeps_acknowledge
    | with_reducible apply keeps_whenOpen | with_reducible apply keeps_errAck | intro _)

theorem keeps_execExpand {M : State → Prop} {s u : State} (t0) (stream) (hs : Keeps M s)
    (hu : execExpand t0 stream s = .next u) : Keeps M u := by
  unfold execExpand at hu
  injection hu with hu
  subst hu
  repeat' (first
    | with_reducible assumption | with_reducible apply keeps_settle | with_reducible apply keeps_timed
    | with_reducible apply keeps_readNext)

theorem keeps_execExportTiles {M : State → Prop} {s u : State} (t0) (stream) (hs : Keeps M s)
    (hu : execExportTiles t0 stream s = .next u) : Keeps M u := by
  unfold execExportTiles at hu
  injection hu with hu
  subst hu
  repeat' (first
    | with_reducible assumption | with_reducible apply keeps_settle | with_reducible apply keeps_timed
    | with_reducible apply keeps_exportCmd)

theorem keeps_execFenceBarrier {M : State → Prop} {s u : State} (t0) (stream) (hs : Keeps M s)
    (hu : execFenceBarrier t0 stream s = .next u) : Keeps M u := by
  unfold execFenceBarrier at hu
  injection hu with hu
  subst hu
  repeat' (first
    | with_reducible assumption | with_reducible apply keeps_settle | with_reducible apply keeps_timed
    | with_reducible apply keeps_atWork | with_reducible apply keeps_fenceBarrier | intro _)

theorem keeps_execFenceStreams {M : State → Prop} {s u : State} (t0) (stream) (hs : Keeps M s)
    (hu : execFenceStreams t0 stream s = .next u) : Keeps M u := by
  unfold execFenceStreams at hu
  injection hu with hu
  subst hu
  repeat' (first
    | with_reducible assumption | with_reducible apply keeps_settle | with_reducible apply keeps_timed
    | with_reducible apply keeps_atWork | with_reducible apply keeps_fenceStreams | intro _)

theorem keeps_execFerryNow {M : State → Prop} {s u : State} (t0) (stream) (hs : Keeps M s)
    (hu : execFerryNow t0 stream s = .next u) : Keeps M u := by
  unfold execFerryNow at hu
  injection hu with hu
  subst hu
  repeat' (first
    | with_reducible assumption | with_reducible apply keeps_settle | with_reducible apply keeps_timed
    | with_reducible apply keeps_atWork | with_reducible apply keeps_askTest | intro _)

theorem keeps_execFerryTimer {M : State → Prop} {s u : State} (t0) (hs : Keeps M s)
    (hu : execFerryTimer t0 s = .next u) : Keeps M u := by
  unfold execFerryTimer at hu
  injection hu with hu
  subst hu
  repeat' (first
    | with_reducible assumption | with_reducible apply keeps_timed | with_reducible apply keeps_clocked
    | with_reducible apply keeps_ferryTimer | with_reducible apply keeps_settle)

theorem keeps_execFnDisable {par : Params} {l : List Instr} {s u : State} (t0) (w) (par0) (hs : Keeps (Fits par l) s) (hu :
    execFnDisable t0 w par0 s = .next u) : Keeps (Fits par l) u := by
  unfold execFnDisable at hu
  injection hu with hu
  subst hu
  repeat' (first
    | with_reducible assumption | with_reducible apply keeps_settle | with_reducible apply keeps_register
    | with_reducible apply keeps_fnCmd | with_reducible apply keeps_timed | intro _)

theorem keeps_execFnEnable {par : Params} {l : List Instr} {s u : State} (t0) (w) (par0) (hs : Keeps (Fits par l) s) (hu :
    execFnEnable t0 w par0 s = .next u) : Keeps (Fits par l) u := by
  unfold execFnEnable at hu
  injection hu with hu
  subst hu
  repeat' (first
    | with_reducible assumption | with_reducible apply keeps_settle | with_reducible apply keeps_register
    | with_reducible apply keeps_fnCmd | with_reducible apply keeps_timed | intro _)

theorem keeps_execFnReset {par : Params} {l : List Instr} {s u : State} (t0) (w) (par0) (hs : Keeps (Fits par l) s) (hu :
    execFnReset t0 w par0 s = .next u) : Keeps (Fits par l) u := by
  unfold execFnReset at hu
  injection hu with hu
  subst hu
  repeat' (first
    | with_reducible assumption | with_reducible apply keeps_settle | with_reducible apply keeps_register
    | with_reducible apply keeps_fnCmd | with_reducible apply keeps_timed | intro _)

theorem keeps_execHoldLong {M : State → Prop} {s u : State} (t0) (channel) (hs : Keeps M s) (hu : execHoldLong t0 channel s =
    .next u) : Keeps M u := by
  unfold execHoldLong at hu
  injection hu with hu
  subst hu
  repeat' (first
    | with_reducible assumption | with_reducible apply keeps_clocked | with_reducible apply keeps_holdLong
    | with_reducible apply keeps_timed | intro _)

theorem keeps_execIntakeBeat {M : State → Prop} {s u : State} (t0) (port) (side) (data) (hw0) (hs : Keeps M s) (hu :
    execIntakeBeat t0 port side data hw0 s = .next u) : Keeps M u := by
  unfold execIntakeBeat at hu
  injection hu with hu
  subst hu
  repeat' (first
    | with_reducible assumption | with_reducible apply keeps_settle | with_reducible apply keeps_clocked
    | with_reducible apply keeps_beatIn | with_reducible apply keeps_timed | intro _)

theorem keeps_execIntakeStall {M : State → Prop} {s u : State} (t0) (port) (hs : Keeps M s) (hu : execIntakeStall t0 port s =
    .next u) : Keeps M u := by
  unfold execIntakeStall at hu
  injection hu with hu
  subst hu
  repeat' (first
    | with_reducible assumption | with_reducible apply keeps_clocked | with_reducible apply keeps_intakeStall
    | with_reducible apply keeps_timed | intro _)

theorem keeps_execIntentLeadExpiry {par0 : Params} {l : List Instr} {s u : State} (t0) (hs : Keeps (Fits par0 l) s)
    (hu : execIntentLeadExpiry t0 s = .next u) : Keeps (Fits par0 l) u := by
  unfold execIntentLeadExpiry at hu
  injection hu with hu
  subst hu
  repeat' (first
    | with_reducible assumption | with_reducible apply keeps_timed | with_reducible apply keeps_clocked
    | with_reducible apply keeps_leadExpires | with_reducible apply keeps_settle)

theorem keeps_execIrqStatClear {M : State → Prop} {s u : State} (t0) (w) (setNow) (par0) (hs : Keeps M s) (hu :
    execIrqStatClear t0 w setNow par0 s = .next u) : Keeps M u := by
  unfold execIrqStatClear at hu
  injection hu with hu
  subst hu
  repeat' (first
    | with_reducible assumption | with_reducible apply keeps_register | with_reducible apply keeps_whenOpen
    | with_reducible apply keeps_irqClear | with_reducible apply keeps_timed | intro _)

theorem keeps_execLbistDone {M : State → Prop} {s u : State} (t0) (misr) (hs : Keeps M s)
    (hu : execLbistDone t0 misr s = .next u) : Keeps M u := by
  unfold execLbistDone at hu
  injection hu with hu
  subst hu
  repeat' (first
    | with_reducible assumption | with_reducible apply keeps_timed | with_reducible apply keeps_clocked
    | with_reducible apply keeps_lbistDone | intro _)

theorem keeps_execLifecycle {M : State → Prop} {s u : State} (t0) (stream) (hs : Keeps M s)
    (hu : execLifecycle t0 stream s = .next u) : Keeps M u := by
  unfold execLifecycle at hu
  injection hu with hu
  subst hu
  repeat' (first
    | with_reducible assumption | with_reducible apply keeps_settle | with_reducible apply keeps_timed
    | with_reducible apply keeps_atWork | with_reducible apply keeps_lifecycle | intro _)

theorem keeps_execLoRegisterRead {par : Params} {l : List Instr} {s u : State} (t0) (p) (off) (be) (par0) (hs : Keeps (Fits par
    l) s) (hu : execLoRegisterRead t0 p off be par0 s = .next u) : Keeps (Fits par l) u := by
  unfold execLoRegisterRead at hu
  injection hu with hu
  subst hu
  repeat' (first
    | with_reducible assumption | with_reducible apply keeps_registerRead | with_reducible apply keeps_readAccess
    | with_reducible apply keeps_timed | intro _)

theorem keeps_execLoadPackage {M : State → Prop} {s u : State} (t0) (stream) (img) (par) (hs : Keeps M s)
    (hu : execLoadPackage t0 stream img par s = .next u) : Keeps M u := by
  unfold execLoadPackage at hu
  injection hu with hu
  subst hu
  repeat' (first
    | with_reducible assumption | with_reducible apply keeps_timed | with_reducible apply keeps_fromMemory
    | with_reducible apply keeps_atWork | with_reducible apply keeps_loadPackage | with_reducible apply keeps_settle | intro _)

theorem keeps_execMapIn {par : Params} {l : List Instr} {s u : State} (t0) (w) (par0) (hs : Keeps (Fits par l) s) (hu :
    execMapIn t0 w par0 s = .next u) : Keeps (Fits par l) u := by
  unfold execMapIn at hu
  injection hu with hu
  subst hu
  repeat' (first
    | with_reducible assumption | with_reducible apply keeps_settle | with_reducible apply keeps_register
    | with_reducible apply keeps_chanCmd | with_reducible apply keeps_mapIn | with_reducible apply keeps_timed | intro _)

theorem keeps_execMapOut {par : Params} {l : List Instr} {s u : State} (t0) (w) (img) (par0) (hs : Keeps (Fits par l) s) (hu :
    execMapOut t0 w img par0 s = .next u) : Keeps (Fits par l) u := by
  unfold execMapOut at hu
  injection hu with hu
  subst hu
  repeat' (first
    | with_reducible assumption | with_reducible apply keeps_settle | with_reducible apply keeps_register
    | with_reducible apply keeps_chanCmd | with_reducible apply keeps_mapOut | with_reducible apply keeps_timed | intro _)

theorem keeps_execMbistDone {M : State → Prop} {s u : State} (t0) (results) (hs : Keeps M s)
    (hu : execMbistDone t0 results s = .next u) : Keeps M u := by
  unfold execMbistDone at hu
  injection hu with hu
  subst hu
  repeat' (first
    | with_reducible assumption | with_reducible apply keeps_timed | with_reducible apply keeps_clocked
    | with_reducible apply keeps_mbistDone | intro _)

theorem keeps_execMemoryReadResponse {M : State → Prop} {s u : State} (t0) (port) (tag) (img) (hw) (hs : Keeps M s)
    (hu : execMemoryReadResponse t0 port tag img hw s = .next u) : Keeps M u := by
  unfold execMemoryReadResponse at hu
  split at hu
  · injection hu with hu
    subst hu
    exact keeps_timed _ hs
  · split at hu
    · split at hu
      · injection hu with hu
        subst hu
        exact keeps_settle (keeps_readDone _ _ _ (keeps_timed _ hs))
      · cases hu
    · split at hu
      · cases hu
      · injection hu with hu
        subst hu
        exact keeps_timed _ hs

theorem keeps_execMemoryWriteResponse {par : Params} {l : List Instr} {s u : State} (t0) (port) (tag) (err) (parity)
    (hs : Keeps (Fits par l) s) (hu : execMemoryWriteResponse t0 port tag err parity s = .next u) : Keeps (Fits par l) u := by
  unfold execMemoryWriteResponse at hu
  split at hu
  · injection hu with hu
    subst hu
    exact keeps_timed _ hs
  · split at hu
    · split at hu
      · cases hu
      · injection hu with hu
        subst hu
        exact keeps_settle (keeps_writeDone _ _ _ (keeps_timed _ hs))
    · split at hu
      · cases hu
      · injection hu with hu
        subst hu
        exact keeps_timed _ hs

theorem keeps_execMerge {M : State → Prop} {s u : State} (t0) (stream) (hs : Keeps M s)
    (hu : execMerge t0 stream s = .next u) : Keeps M u := by
  unfold execMerge at hu
  injection hu with hu
  subst hu
  repeat' (first
    | with_reducible assumption | with_reducible apply keeps_settle | with_reducible apply keeps_timed
    | with_reducible apply keeps_mergeCmd)

theorem keeps_execMergeWalk {M : State → Prop} {s u : State} (t0) (group) (hw0) (hs : Keeps M s) (hu : execMergeWalk t0 group
    hw0 s = .next u) : Keeps M u := by
  unfold execMergeWalk at hu
  injection hu with hu
  subst hu
  repeat' (first
    | with_reducible assumption | with_reducible apply keeps_settle | with_reducible apply keeps_clocked
    | with_reducible apply keeps_walkCmd | with_reducible apply keeps_timed | intro _)

theorem keeps_execMgRecordOut {par0 : Params} {l : List Instr} {s u : State} (t0) (par) (hs : Keeps (Fits par0 l) s)
    (hu : execMgRecordOut t0 par s = .next u) : Keeps (Fits par0 l) u := by
  unfold execMgRecordOut at hu
  injection hu with hu
  subst hu
  repeat' (first
    | with_reducible assumption | with_reducible apply keeps_timed | with_reducible apply keeps_crossing
    | with_reducible apply keeps_recordOut)

theorem keeps_execMgRstN {par : Params} {l : List Instr} {s u : State} (t0) (hs : Keeps (Fits par l) s)
    (hu : execMgRstN t0 s = .next u) : Keeps (Fits par l) u := by
  unfold execMgRstN at hu
  injection hu with hu
  subst hu
  repeat' (first | with_reducible assumption | with_reducible apply keeps_timed | with_reducible apply keeps_mgReset)

theorem keeps_execMigrate {M : State → Prop} {s u : State} (t0) (stream) (hs : Keeps M s)
    (hu : execMigrate t0 stream s = .next u) : Keeps M u := by
  unfold execMigrate at hu
  injection hu with hu
  subst hu
  repeat' (first
    | with_reducible assumption | with_reducible apply keeps_settle | with_reducible apply keeps_timed
    | with_reducible apply keeps_readNext)

theorem keeps_execNack {M : State → Prop} {s u : State} (t0) (port) (rank) (man) (par0) (hs : Keeps M s) (hu : execNack t0 port
    rank man par0 s = .next u) : Keeps M u := by
  unfold execNack at hu
  injection hu with hu
  subst hu
  repeat' (first
    | with_reducible assumption | with_reducible apply keeps_settle | with_reducible apply keeps_crossing
    | with_reducible apply keeps_receive | with_reducible apply keeps_timed | intro _)

theorem keeps_execNoSpaceResend {M : State → Prop} {s u : State} (t0) (stream) (chunk) (hs : Keeps M s) (hu : execNoSpaceResend
    t0 stream chunk s = .next u) : Keeps M u := by
  unfold execNoSpaceResend at hu
  injection hu with hu
  subst hu
  repeat' (first
    | with_reducible assumption | with_reducible apply keeps_settle | with_reducible apply keeps_clocked
    | with_reducible apply keeps_noSpaceResend | with_reducible apply keeps_timed | intro _)

theorem keeps_execNotice {M : State → Prop} {s u : State} (t0) (port) (rank) (man) (par0) (hs : Keeps M s) (hu : execNotice t0
    port rank man par0 s = .next u) : Keeps M u := by
  unfold execNotice at hu
  injection hu with hu
  subst hu
  repeat' (first
    | with_reducible assumption | with_reducible apply keeps_settle | with_reducible apply keeps_crossing
    | with_reducible apply keeps_receive | with_reducible apply keeps_timed | intro _)

theorem keeps_execOpenStream {par : Params} {l : List Instr} {s u : State} (t0) (w) (par0) (hs : Keeps (Fits par l) s) (hu :
    execOpenStream t0 w par0 s = .next u) : Keeps (Fits par l) u := by
  unfold execOpenStream at hu
  injection hu with hu
  subst hu
  repeat' (first
    | with_reducible assumption | with_reducible apply keeps_settle | with_reducible apply keeps_register
    | with_reducible apply keeps_whenOpen | with_reducible apply keeps_onOp | with_reducible apply keeps_sctlCmd
    | with_reducible apply keeps_timed | intro _)

theorem keeps_execPortStall {M : State → Prop} {s u : State} (t0) (port) (hs : Keeps M s) (hu : execPortStall t0 port s = .next
    u) : Keeps M u := by
  unfold execPortStall at hu
  injection hu with hu
  subst hu
  repeat' (first
    | with_reducible assumption | with_reducible apply keeps_clocked | with_reducible apply keeps_portStall
    | with_reducible apply keeps_timed | intro _)

theorem keeps_execPpResponse {M : State → Prop} {s u : State} (t0) (data) (err) (par) (hs : Keeps M s)
    (hu : execPpResponse t0 data err par s = .next u) : Keeps M u := by
  unfold execPpResponse at hu
  injection hu with hu
  subst hu
  repeat' (first
    | with_reducible assumption | with_reducible apply keeps_timed | with_reducible apply keeps_crossing
    | with_reducible apply keeps_patternBytes | with_reducible apply keeps_settle | intro _)

theorem keeps_execPwrGrantChange {par0 : Params} {l : List Instr} {s u : State} (t0) (level) (par) (hs : Keeps (Fits par0 l) s)
    (hu : execPwrGrantChange t0 level par s = .next u) : Keeps (Fits par0 l) u := by
  unfold execPwrGrantChange at hu
  injection hu with hu
  subst hu
  repeat' (first
    | with_reducible assumption | with_reducible apply keeps_timed | with_reducible apply keeps_crossing
    | with_reducible apply keeps_grantChange | with_reducible apply keeps_settle | intro _)

theorem keeps_execQbaseWrite {M : State → Prop} {s u : State} (t0) (q) (hi0) (w) (par0) (hs : Keeps M s) (hu : execQbaseWrite
    t0 q hi0 w par0 s = .next u) : Keeps M u := by
  unfold execQbaseWrite at hu
  injection hu with hu
  subst hu
  repeat' (first
    | with_reducible assumption | with_reducible apply keeps_register | with_reducible apply keeps_whenOpen
    | with_reducible apply keeps_qbaseWrite | with_reducible apply keeps_timed | intro _)

theorem keeps_execQtailWrite {M : State → Prop} {s u : State} (t0) (q) (w) (par0) (hs : Keeps M s) (hu : execQtailWrite t0 q w
    par0 s = .next u) : Keeps M u := by
  unfold execQtailWrite at hu
  injection hu with hu
  subst hu
  repeat' (first
    | with_reducible assumption | with_reducible apply keeps_register | with_reducible apply keeps_whenOpen
    | with_reducible apply keeps_qtailWrite | with_reducible apply keeps_timed | intro _)

theorem keeps_execQueueDisable {M : State → Prop} {s u : State} (t0) (q) (w) (par0) (hs : Keeps M s) (hu : execQueueDisable t0
    q w par0 s = .next u) : Keeps M u := by
  unfold execQueueDisable at hu
  injection hu with hu
  subst hu
  repeat' (first
    | with_reducible assumption | with_reducible apply keeps_register | with_reducible apply keeps_whenOpen
    | with_reducible apply keeps_onBit | with_reducible apply keeps_qctlWrite | with_reducible apply keeps_timed | intro _)

theorem keeps_execQueueEnable {M : State → Prop} {s u : State} (t0) (q) (w) (par0) (hs : Keeps M s) (hu : execQueueEnable t0 q
    w par0 s = .next u) : Keeps M u := by
  unfold execQueueEnable at hu
  injection hu with hu
  subst hu
  repeat' (first
    | with_reducible assumption | with_reducible apply keeps_register | with_reducible apply keeps_whenOpen
    | with_reducible apply keeps_onBit | with_reducible apply keeps_qctlWrite | with_reducible apply keeps_timed | intro _)

theorem keeps_execRateMeasure {M : State → Prop} {s u : State} (t0) (group) (hs : Keeps M s) (hu : execRateMeasure t0 group s =
    .next u) : Keeps M u := by
  unfold execRateMeasure at hu
  injection hu with hu
  subst hu
  repeat' (first
    | with_reducible assumption | with_reducible apply keeps_clocked | with_reducible apply keeps_measureRate
    | with_reducible apply keeps_timed | intro _)

theorem keeps_execReadRestart {M : State → Prop} {s u : State} (t0) (job) (hs : Keeps M s) (hu : execReadRestart t0 job s =
    .next u) : Keeps M u := by
  unfold execReadRestart at hu
  injection hu with hu
  subst hu
  repeat' (first
    | with_reducible assumption | with_reducible apply keeps_settle | with_reducible apply keeps_clocked
    | with_reducible apply keeps_restartRead | with_reducible apply keeps_timed | intro _)

theorem keeps_execRecomputeDone {M : State → Prop} {s u : State} (t0) (acc) (pass) (hs : Keeps M s) (hu : execRecomputeDone t0
    acc pass s = .next u) : Keeps M u := by
  unfold execRecomputeDone at hu
  injection hu with hu
  subst hu
  repeat' (first
    | with_reducible assumption | with_reducible apply keeps_settle | with_reducible apply keeps_clocked
    | with_reducible apply keeps_recomputed | with_reducible apply keeps_timed | intro _)

theorem keeps_execRecvTimeout {M : State → Prop} {s u : State} (t0) (stream) (hs : Keeps M s) (hu : execRecvTimeout t0 stream s
    = .next u) : Keeps M u := by
  unfold execRecvTimeout at hu
  injection hu with hu
  subst hu
  repeat' (first
    | with_reducible assumption | with_reducible apply keeps_settle | with_reducible apply keeps_clocked
    | with_reducible apply keeps_recvTimeout | with_reducible apply keeps_timed | intro _)

theorem keeps_execReduce {M : State → Prop} {s u : State} (t0) (stream) (hs : Keeps M s)
    (hu : execReduce t0 stream s = .next u) : Keeps M u := by
  unfold execReduce at hu
  injection hu with hu
  subst hu
  repeat' (first
    | with_reducible assumption | with_reducible apply keeps_settle | with_reducible apply keeps_timed
    | with_reducible apply keeps_reduceCmd)

theorem keeps_execRegisterWrite {par0 : Params} {l : List Instr} {s u : State} (t0) (p) (off) (be) (w) (par) (hs : Keeps (Fits
    par0 l) s)
    (hu : execRegisterWrite t0 p off be w par s = .next u) : Keeps (Fits par0 l) u := by
  unfold execRegisterWrite at hu
  injection hu with hu
  subst hu
  repeat' (first
    | with_reducible assumption | with_reducible apply keeps_timed | with_reducible apply keeps_crossing
    | with_reducible apply keeps_writeAccess | with_reducible apply keeps_settle | intro _)

theorem keeps_execRemoteWaitRetry {M : State → Prop} {s u : State} (t0) (job) (hs : Keeps M s) (hu : execRemoteWaitRetry t0 job
    s = .next u) : Keeps M u := by
  unfold execRemoteWaitRetry at hu
  injection hu with hu
  subst hu
  repeat' (first
    | with_reducible assumption | with_reducible apply keeps_settle | with_reducible apply keeps_clocked
    | with_reducible apply keeps_retryRemote | with_reducible apply keeps_timed | intro _)

theorem keeps_execRepairDone {M : State → Prop} {s u : State} (t0) (hs : Keeps M s)
    (hu : execRepairDone t0 s = .next u) : Keeps M u := by
  unfold execRepairDone at hu
  injection hu with hu
  subst hu
  repeat' (first | with_reducible assumption | with_reducible apply keeps_timed | with_reducible apply keeps_repairDone)

theorem keeps_execRepairWord {M : State → Prop} {s u : State} (t0) (w) (hs : Keeps M s)
    (hu : execRepairWord t0 w s = .next u) : Keeps M u := by
  unfold execRepairWord at hu
  injection hu with hu
  subst hu
  repeat' (first | with_reducible assumption | with_reducible apply keeps_timed | with_reducible apply keeps_repairWord)

theorem keeps_execResume {M : State → Prop} {s u : State} (t0) (stream) (hs : Keeps M s)
    (hu : execResume t0 stream s = .next u) : Keeps M u := by
  unfold execResume at hu
  injection hu with hu
  subst hu
  repeat' (first
    | with_reducible assumption | with_reducible apply keeps_settle | with_reducible apply keeps_timed
    | with_reducible apply keeps_resumeGo)

theorem keeps_execRoleWait {M : State → Prop} {s u : State} (t0) (stream) (hs : Keeps M s) (hu : execRoleWait t0 stream s =
    .next u) : Keeps M u := by
  unfold execRoleWait at hu
  injection hu with hu
  subst hu
  repeat' (first
    | with_reducible assumption | with_reducible apply keeps_clocked | with_reducible apply keeps_roleRepeat
    | with_reducible apply keeps_timed | intro _)

theorem keeps_execScanDone {M : State → Prop} {s u : State} (t0) (seen) (hs : Keeps M s)
    (hu : execScanDone t0 seen s = .next u) : Keeps M u := by
  unfold execScanDone at hu
  injection hu with hu
  subst hu
  repeat' (first
    | with_reducible assumption | with_reducible apply keeps_timed | with_reducible apply keeps_clocked
    | with_reducible apply keeps_scanDone | with_reducible apply keeps_settle | intro _)

theorem keeps_execScatterAcc {M : State → Prop} {s u : State} (t0) (stream) (hs : Keeps M s)
    (hu : execScatterAcc t0 stream s = .next u) : Keeps M u := by
  unfold execScatterAcc at hu
  injection hu with hu
  subst hu
  repeat' (first
    | with_reducible assumption | with_reducible apply keeps_settle | with_reducible apply keeps_timed
    | with_reducible apply keeps_scatterCmd)

theorem keeps_execScrub {M : State → Prop} {s u : State} (t0) (stream) (hs : Keeps M s)
    (hu : execScrub t0 stream s = .next u) : Keeps M u := by
  unfold execScrub at hu
  injection hu with hu
  subst hu
  repeat' (first
    | with_reducible assumption | with_reducible apply keeps_settle | with_reducible apply keeps_timed
    | with_reducible apply keeps_readNext)

theorem keeps_execSendTimeout {M : State → Prop} {s u : State} (t0) (stream) (chunk) (hs : Keeps M s) (hu : execSendTimeout t0
    stream chunk s = .next u) : Keeps M u := by
  unfold execSendTimeout at hu
  injection hu with hu
  subst hu
  repeat' (first
    | with_reducible assumption | with_reducible apply keeps_settle | with_reducible apply keeps_clocked
    | with_reducible apply keeps_sendTimeout | with_reducible apply keeps_timed | intro _)

theorem keeps_execShutDownCompletes {par : Params} {l : List Instr} {s u : State} (t0) (f) (hs : Keeps (Fits par l) s) (hu :
    execShutDownCompletes t0 f s = .next u) : Keeps (Fits par l) u := by
  unfold execShutDownCompletes at hu
  injection hu with hu
  subst hu
  repeat' (first
    | with_reducible assumption | with_reducible apply keeps_settle | with_reducible apply keeps_clocked
    | with_reducible apply keeps_shutDownDone | with_reducible apply keeps_timed | intro _)

theorem keeps_execSpillFull {M : State → Prop} {s u : State} (t0) (stream) (hs : Keeps M s) (hu : execSpillFull t0 stream s =
    .next u) : Keeps M u := by
  unfold execSpillFull at hu
  injection hu with hu
  subst hu
  repeat' (first
    | with_reducible assumption | with_reducible apply keeps_clocked | with_reducible apply keeps_spillRepeat
    | with_reducible apply keeps_timed | intro _)

theorem keeps_execSramWipeDone {par : Params} {l : List Instr} {s u : State} (t0) (sc) (hs : Keeps (Fits par l) s) (hu :
    execSramWipeDone t0 sc s = .next u) : Keeps (Fits par l) u := by
  unfold execSramWipeDone at hu
  injection hu with hu
  subst hu
  repeat' (first
    | with_reducible assumption | with_reducible apply keeps_settle | with_reducible apply keeps_clocked
    | with_reducible apply keeps_wipeOf | with_reducible apply keeps_timed | intro _)

theorem keeps_execSupplyLoss {par : Params} {l : List Instr} {s u : State} (t0) (hs : Keeps (Fits par l) s)
    (hu : execSupplyLoss t0 s = .next u) : Keeps (Fits par l) u := by
  unfold execSupplyLoss at hu
  injection hu with hu
  subst hu
  repeat' (first | with_reducible assumption | with_reducible apply keeps_timed | with_reducible apply keeps_supplyLoss)

theorem keeps_execSvcAckWrite {M : State → Prop} {s u : State} (t0) (p) (w) (par) (hs : Keeps M s)
    (hu : execSvcAckWrite t0 p w par s = .next u) : Keeps M u := by
  unfold execSvcAckWrite at hu
  injection hu with hu
  subst hu
  repeat' (first
    | with_reducible assumption | with_reducible apply keeps_timed | with_reducible apply keeps_acknowledge
    | with_reducible apply keeps_whenOpen | with_reducible apply keeps_svcAckWrite | intro _)

theorem keeps_execSvcRepeat {M : State → Prop} {s u : State} (t0) (hs : Keeps M s)
    (hu : execSvcRepeat t0 s = .next u) : Keeps M u := by
  unfold execSvcRepeat at hu
  injection hu with hu
  subst hu
  repeat' (first | with_reducible assumption | with_reducible apply keeps_timed | with_reducible apply keeps_svcRepeat)

theorem keeps_execTestAccess {M : State → Prop} {s u : State} (t0) (bit) (kind) (par) (hs : Keeps M s)
    (hu : execTestAccess t0 bit kind par s = .next u) : Keeps M u := by
  unfold execTestAccess at hu
  injection hu with hu
  subst hu
  repeat' (first
    | with_reducible assumption | with_reducible apply keeps_timed | with_reducible apply keeps_crossing
    | with_reducible apply keeps_testAccess | intro _)

theorem keeps_execTestLbist {M : State → Prop} {s u : State} (t0) (stream) (hs : Keeps M s)
    (hu : execTestLbist t0 stream s = .next u) : Keeps M u := by
  unfold execTestLbist at hu
  injection hu with hu
  subst hu
  repeat' (first
    | with_reducible assumption | with_reducible apply keeps_settle | with_reducible apply keeps_timed
    | with_reducible apply keeps_atWork | with_reducible apply keeps_askTest | intro _)

theorem keeps_execTestMbist {M : State → Prop} {s u : State} (t0) (stream) (hs : Keeps M s)
    (hu : execTestMbist t0 stream s = .next u) : Keeps M u := by
  unfold execTestMbist at hu
  injection hu with hu
  subst hu
  repeat' (first
    | with_reducible assumption | with_reducible apply keeps_settle | with_reducible apply keeps_timed
    | with_reducible apply keeps_atWork | with_reducible apply keeps_askTest | intro _)

theorem keeps_execTestMbistShared {M : State → Prop} {s u : State} (t0) (stream) (hs : Keeps M s)
    (hu : execTestMbistShared t0 stream s = .next u) : Keeps M u := by
  unfold execTestMbistShared at hu
  injection hu with hu
  subst hu
  repeat' (first
    | with_reducible assumption | with_reducible apply keeps_settle | with_reducible apply keeps_timed
    | with_reducible apply keeps_atWork | with_reducible apply keeps_askTest | intro _)

theorem keeps_execThermCrit {par : Params} {l : List Instr} {s u : State} (t0) (ev) (par0) (hs : Keeps (Fits par l) s) (hu :
    execThermCrit t0 ev par0 s = .next u) : Keeps (Fits par l) u := by
  unfold execThermCrit at hu
  injection hu with hu
  subst hu
  repeat' (first
    | with_reducible assumption | with_reducible apply keeps_settle | with_reducible apply keeps_crossing
    | with_reducible apply keeps_event | with_reducible apply keeps_thermEvent | with_reducible apply keeps_timed | intro _)

theorem keeps_execThermNormal {par : Params} {l : List Instr} {s u : State} (t0) (ev) (par0) (hs : Keeps (Fits par l) s) (hu :
    execThermNormal t0 ev par0 s = .next u) : Keeps (Fits par l) u := by
  unfold execThermNormal at hu
  injection hu with hu
  subst hu
  repeat' (first
    | with_reducible assumption | with_reducible apply keeps_settle | with_reducible apply keeps_crossing
    | with_reducible apply keeps_event | with_reducible apply keeps_thermEvent | with_reducible apply keeps_timed | intro _)

theorem keeps_execThermWarn {par : Params} {l : List Instr} {s u : State} (t0) (ev) (par0) (hs : Keeps (Fits par l) s) (hu :
    execThermWarn t0 ev par0 s = .next u) : Keeps (Fits par l) u := by
  unfold execThermWarn at hu
  injection hu with hu
  subst hu
  repeat' (first
    | with_reducible assumption | with_reducible apply keeps_settle | with_reducible apply keeps_crossing
    | with_reducible apply keeps_event | with_reducible apply keeps_thermEvent | with_reducible apply keeps_timed | intro _)

theorem keeps_execThirdEvaluation {M : State → Prop} {s u : State} (t0) (core) (seen) (hw0) (hs : Keeps M s) (hu :
    execThirdEvaluation t0 core seen hw0 s = .next u) : Keeps M u := by
  unfold execThirdEvaluation at hu
  injection hu with hu
  subst hu
  repeat' (first
    | with_reducible assumption | with_reducible apply keeps_settle | with_reducible apply keeps_clocked
    | with_reducible apply keeps_thirdDone | with_reducible apply keeps_timed | intro _)

theorem keeps_execTileCodeDone {M : State → Prop} {s u : State} (t0) (core) (eng) (hw0) (hs : Keeps M s) (hu : execTileCodeDone
    t0 core eng hw0 s = .next u) : Keeps M u := by
  unfold execTileCodeDone at hu
  injection hu with hu
  subst hu
  repeat' (first
    | with_reducible assumption | with_reducible apply keeps_settle | with_reducible apply keeps_clocked
    | with_reducible apply keeps_codeDone | with_reducible apply keeps_timed | intro _)

theorem keeps_execTileCommit {M : State → Prop} {s u : State} (t0) (img) (par) (hs : Keeps M s)
    (hu : execTileCommit t0 img par s = .next u) : Keeps M u := by
  unfold execTileCommit at hu
  injection hu with hu
  subst hu
  repeat' (first
    | with_reducible assumption | with_reducible apply keeps_timed | with_reducible apply keeps_fromMemory
    | with_reducible apply keeps_takeCommit | with_reducible apply keeps_settle | intro _)

theorem keeps_execTileDecodeDone {M : State → Prop} {s u : State} (t0) (core) (eng) (hw0) (hs : Keeps M s) (hu :
    execTileDecodeDone t0 core eng hw0 s = .next u) : Keeps M u := by
  unfold execTileDecodeDone at hu
  injection hu with hu
  subst hu
  repeat' (first
    | with_reducible assumption | with_reducible apply keeps_settle | with_reducible apply keeps_clocked
    | with_reducible apply keeps_decodeDone | with_reducible apply keeps_timed | intro _)

theorem keeps_execUpdateSwitch {M : State → Prop} {s u : State} (t0) (hs : Keeps M s) (hu : execUpdateSwitch t0 s = .next u) :
    Keeps M u := by
  unfold execUpdateSwitch at hu
  injection hu with hu
  subst hu
  repeat' (first
    | with_reducible assumption | with_reducible apply keeps_settle | with_reducible apply keeps_clocked
    | with_reducible apply keeps_updateSwitch | with_reducible apply keeps_timed)

theorem keeps_execWarmRst {par : Params} {l : List Instr} {s u : State} (t0) (p) (par0) (hs : Keeps (Fits par l) s) (hu :
    execWarmRst t0 p par0 s = .next u) : Keeps (Fits par l) u := by
  unfold execWarmRst at hu
  injection hu with hu
  subst hu
  repeat' (first
    | with_reducible assumption | with_reducible apply keeps_settle | with_reducible apply keeps_register
    | with_reducible apply keeps_whenOpen | with_reducible apply keeps_warmReset | with_reducible apply keeps_timed | intro _)

theorem keeps_execWarmRstN {par0 : Params} {l : List Instr} {s u : State} (t0) (hs : Keeps (Fits par0 l) s)
    (hu : execWarmRstN t0 s = .next u) : Keeps (Fits par0 l) u := by
  unfold execWarmRstN at hu
  injection hu with hu
  subst hu
  repeat' (first
    | with_reducible assumption | with_reducible apply keeps_timed | with_reducible apply keeps_clocked
    | with_reducible apply keeps_warmReset | with_reducible apply keeps_settle | intro _)

theorem keeps_execWipeCore {M : State → Prop} {s u : State} (t0) (stream) (hs : Keeps M s)
    (hu : execWipeCore t0 stream s = .next u) : Keeps M u := by
  unfold execWipeCore at hu
  injection hu with hu
  subst hu
  repeat' (first
    | with_reducible assumption | with_reducible apply keeps_settle | with_reducible apply keeps_timed
    | with_reducible apply keeps_wipeCore)

theorem keeps_execWipeIdleSram {M : State → Prop} {s u : State} (t0) (stream) (hs : Keeps M s)
    (hu : execWipeIdleSram t0 stream s = .next u) : Keeps M u := by
  unfold execWipeIdleSram at hu
  injection hu with hu
  subst hu
  repeat' (first
    | with_reducible assumption | with_reducible apply keeps_settle | with_reducible apply keeps_timed
    | with_reducible apply keeps_wipeIdle)

theorem keeps_execWipeStreamData {M : State → Prop} {s u : State} (t0) (stream) (hs : Keeps M s)
    (hu : execWipeStreamData t0 stream s = .next u) : Keeps M u := by
  unfold execWipeStreamData at hu
  injection hu with hu
  subst hu
  repeat' (first
    | with_reducible assumption | with_reducible apply keeps_settle | with_reducible apply keeps_timed
    | with_reducible apply keeps_wipeStream)

end Sys2Proof.Machine
end

