-- ==== Sys2Proof/WellFormed.lean ====
section
/-! DEFINITION. What a command may carry: the bounds that the spec's messages, ports and memory give the operands whose type does
not say them already. -/

namespace Sys2Proof

/-- A time of TIME_IN (16_integration Table 16-3: 64 bits). -/
def timeOk (t : Time) : Bool := decide (t < 2 ^ 64)

/-- A stream number (05_streams_and_order R160: 16 bits). -/
def streamOk (n : Nat) : Bool := decide (n < 2 ^ 16)

/-- The addresses of a list rise strictly, lie below a bound and their bytes are not zero. -/
def cellsOk : List (Nat × Byte) → Bool
  | [] => true
  | [c] => decide (c.1 < 2 ^ 64) && c.2 != 0
  | c :: d :: rest => decide (c.1 < d.1) && c.2 != 0 && cellsOk (d :: rest)

/-- What memory returns is in its one form (log 8): rising addresses, no zero byte listed, poison by the sector of 64 bytes. -/
def Image.wf (img : Image) : Bool := cellsOk img.cells && img.poison.all fun a => a % 64 == 0 && decide (a < 2 ^ 64)

/-- The bounds of the operands of a hardware fault (11_integrity Table 11-2, Table 11-6: DETAIL fields of 32 bits). -/
def HwFault.wf : HwFault → Bool
  | .correctable _ arr => decide (arr < 2 ^ 32)
  | .uncorrectable _ arr word => decide (arr < 2 ^ 32) && decide (word < 2 ^ 32)
  | .parity path => decide (path < 2 ^ 32)
  | .quant group elem _ => decide (group < 4096) && decide (elem < 16384)
  | .dupMismatch => true
  | .residue elem => decide (elem < 16384)
  | .sumCheck elem _ => decide (elem < 16384)
  | .madePayload _ _ => true

/-- The path of a parity error (11_integrity Table 11-6: a DETAIL field of 32 bits). -/
def parOk (par : Option Nat) : Bool := par.all fun n => decide (n < 2 ^ 32)

/-- The image that a checker decoder saw is a tile of 4,096 bytes (02_tile_container R41). -/
def Seen.wf : Seen → Bool
  | .image b => b.length == 4096
  | .error r => decide (r < 256)

/-- A sector list of a request: sizes of at most a tile (02_tile_container R52). -/
def sizesOk (l : List (Nat × Nat)) : Bool := l.all fun x => decide (x.2 ≤ 64)

/-- A class of Table 5-26. -/
def classOk (c : Nat) : Bool := decide (1 ≤ c) && decide (c ≤ 6)

/-- The fields of a commit over the die ring: clusters of a die (01_five_levels R10), the pool and the addresses of a record (Table 2-3). -/
def RemoteCommit.wf (c : RemoteCommit) : Bool :=
  decide (c.cluster < 8) && decide (c.pool < 256) && decide (c.tile < 2 ^ 32) && decide (c.recAddr < 2 ^ 64) &&
    decide (c.entryAddr < 2 ^ 64) && decide (c.mapAddr < 2 ^ 64) && classOk c.cls

/-- The fields of a sector request over the die ring. -/
def RemoteRequest.wf (r : RemoteRequest) : Bool :=
  decide (r.cluster < 8) && decide (r.pool < 256) && decide (r.tile < 2 ^ 32) && decide (r.recAddr < 2 ^ 64) && sizesOk r.sizes &&
    classOk r.cls && decide (r.stream < 65538) && decide (1 ≤ r.weight) && decide (r.weight < 256)

/-- The identity of a running cluster (12_chart R463: 12, 6 and 3 bits). -/
def Peer.wf (p : Peer) : Bool := decide (p.rank < 4096) && decide (p.die < 64) && decide (p.cluster < 8)

/-- A RANK of the link ports (09_collectives: 12 bits) with a manifest of 192 bytes. -/
def manifestOk (rank : Nat) (man : List Byte) : Bool := decide (rank < 4096) && man.length == 192

/-- What MBIST finds: an instance number of 16 bits, row and column addresses of 12 (14_field_test Table 14-3), and an address for DETAIL_B of
its record (R534). -/
def MbistResult.wf (r : MbistResult) : Bool :=
  decide (r.arr < 2 ^ 16) && decide (r.addr < 2 ^ 32) && r.cells.all fun c => decide (c.1 < 4096) && decide (c.2 < 4096)

/-- What the chains give for a pattern: an index of 32 bits, and the bits of at most 256 chains of 512 cells (14_field_test Table 14-6). -/
def ScanSeen.wf (o : ScanSeen) : Bool := decide (o.index < 2 ^ 32) && decide (o.bits.length ≤ 16384)

/-- A command keeps the bounds of its operands. -/
def Instr.wf : Instr → Bool
  | .coldResetAssert t => timeOk t
  | .coldResetRelease t _ => timeOk t
  | .repairWord t _ => timeOk t
  | .repairDone t => timeOk t
  | .warmRstN t => timeOk t
  | .warmRst t _ par => timeOk t && parOk par
  | .mgRstN t => timeOk t
  | .clusterDisable t _ par => timeOk t && parOk par
  | .clusterEnable t _ par => timeOk t && parOk par
  | .clkLost t _ => timeOk t
  | .clkLostRepeat t => timeOk t
  | .pwrGrantChange t _ par => timeOk t && parOk par
  | .intentLeadExpiry t => timeOk t
  | .currentRampDone t _ => timeOk t
  | .sramWipeDone t _ => timeOk t
  | .drainDone t => timeOk t
  | .fnEnable t _ par => timeOk t && parOk par
  | .fnDisable t _ par => timeOk t && parOk par
  | .fnReset t _ par => timeOk t && parOk par
  | .shutDownCompletes t _ => timeOk t
  | .queueEnable t _ _ par => timeOk t && parOk par
  | .queueDisable t _ _ par => timeOk t && parOk par
  | .qbaseWrite t _ _ _ par => timeOk t && parOk par
  | .cbaseWrite t _ _ _ par => timeOk t && parOk par
  | .qtailWrite t _ _ par => timeOk t && parOk par
  | .cheadWrite t _ _ par => timeOk t && parOk par
  | .openStream t _ par => timeOk t && parOk par
  | .closeStream t _ par => timeOk t && parOk par
  | .descriptorFetch t _ img par => timeOk t && img.wf && parOk par
  | .contextFetchDone t _ img par => timeOk t && img.wf && parOk par
  | .expand t n => timeOk t && streamOk n
  | .compress t n => timeOk t && streamOk n
  | .resume t n => timeOk t && streamOk n
  | .exportTiles t n => timeOk t && streamOk n
  | .reduce t n => timeOk t && streamOk n
  | .scatterAcc t n => timeOk t && streamOk n
  | .merge t n => timeOk t && streamOk n
  | .collectiveSend t n => timeOk t && streamOk n
  | .collectiveRecv t n => timeOk t && streamOk n
  | .migrate t n => timeOk t && streamOk n
  | .scrub t n => timeOk t && streamOk n
  | .fenceStreams t n => timeOk t && streamOk n
  | .fenceBarrier t n => timeOk t && streamOk n
  | .wipeStreamData t n => timeOk t && streamOk n
  | .wipeCore t n => timeOk t && streamOk n
  | .wipeIdleSram t n => timeOk t && streamOk n
  | .testLbist t n => timeOk t && streamOk n
  | .testMbist t n => timeOk t && streamOk n
  | .testMbistShared t n => timeOk t && streamOk n
  | .ferryNow t n => timeOk t && streamOk n
  | .loadPackage t n img par => timeOk t && streamOk n && img.wf && parOk par
  | .lifecycle t n => timeOk t && streamOk n
  | .descriptorCompletion t src => timeOk t && match src with
    | .early _ => true
    | .stream n => streamOk n
  | .memoryReadResponse t _ tag img hw => timeOk t && decide (tag < 1024) && img.wf && hw.all HwFault.wf
  | .memoryWriteResponse t _ tag _ par => timeOk t && decide (tag < 1024) && parOk par
  | .readRestart t _ => timeOk t
  | .tileDecodeDone t _ _ hw => timeOk t && hw.all HwFault.wf
  | .deliveryBeat t _ hw => timeOk t && hw.all HwFault.wf
  | .portStall t _ => timeOk t
  | .intakeBeat t _ _ data hw => timeOk t && data.length == 512 && hw.all HwFault.wf
  | .intakeStall t _ => timeOk t
  | .tileCodeDone t _ _ hw => timeOk t && hw.all HwFault.wf
  | .checkerOutcome t _ seen hw => timeOk t && seen.all Seen.wf && hw.all HwFault.wf
  | .thirdEvaluation t _ seen hw => timeOk t && seen.all Seen.wf && hw.all HwFault.wf
  | .allocationRequest t _ => timeOk t
  | .tileCommit t img par => timeOk t && img.wf && parOk par
  | .dieRingCommit t c hw => timeOk t && c.wf && hw.all HwFault.wf
  | .dieRingSectorRequest t r par => timeOk t && r.wf && parOk par
  | .dieRingInvalidate t a par => timeOk t && decide (a < 2 ^ 64) && parOk par
  | .remoteWaitRetry t _ => timeOk t
  | .epochBoundary t => timeOk t
  | .accumulatorAdd t _ _ hw => timeOk t && hw.all HwFault.wf
  | .recomputeDone t _ _ => timeOk t
  | .accumulatorDrain t _ hw => timeOk t && hw.all HwFault.wf
  | .atollUpdate t lanes hw => timeOk t && decide (1 ≤ lanes) && decide (lanes ≤ 4) && hw.all HwFault.wf
  | .atollDrain t hw => timeOk t && hw.all HwFault.wf
  | .mergeWalk t _ hw => timeOk t && hw.all HwFault.wf
  | .chunk t _ rank man payload par => timeOk t && manifestOk rank man && payload.length % 64 == 0 && decide (payload.length ≤ 64 * 16448) && parOk par
  | .ack t _ rank man par => timeOk t && manifestOk rank man && parOk par
  | .nack t _ rank man par => timeOk t && manifestOk rank man && parOk par
  | .notice t _ rank man par => timeOk t && manifestOk rank man && parOk par
  | .chunkSend t _ par => timeOk t && parOk par
  | .noSpaceResend t n _ => timeOk t && streamOk n
  | .recvTimeout t n => timeOk t && streamOk n
  | .sendTimeout t n _ => timeOk t && streamOk n
  | .collProjection t n => timeOk t && streamOk n
  | .rateMeasure t group => timeOk t && decide (group < 64)
  | .chHold t _ par => timeOk t && parOk par
  | .chRelease t _ par => timeOk t && parOk par
  | .chDead t _ par => timeOk t && parOk par
  | .thermNormal t _ par => timeOk t && parOk par
  | .thermWarn t _ par => timeOk t && parOk par
  | .thermCrit t _ par => timeOk t && parOk par
  | .holdLong t ch => timeOk t && decide (ch < 4096)
  | .mapOut t _ img par => timeOk t && img.wf && parOk par
  | .mapIn t _ par => timeOk t && parOk par
  | .causewayTile t img par => timeOk t && img.wf && parOk par
  | .causewaySpace t => timeOk t
  | .chartStart t _ par => timeOk t && parOk par
  | .chartData t _ par => timeOk t && parOk par
  | .chartFinish t _ par => timeOk t && parOk par
  | .chartAbort t _ par => timeOk t && parOk par
  | .chartValidationDone t peers img par => timeOk t && peers.all Peer.wf && img.wf && parOk par
  | .updateSwitch t => timeOk t
  | .errAckWrite t _ _ par => timeOk t && parOk par
  | .svcAckWrite t _ _ par => timeOk t && parOk par
  | .svcRepeat t => timeOk t
  | .spillFull t n => timeOk t && streamOk n
  | .roleWait t n => timeOk t && streamOk n
  | .ceWindowExpiry t => timeOk t
  | .mgRecordOut t par => timeOk t && parOk par
  | .ferryTimer t => timeOk t
  | .coreTestStart t => timeOk t
  | .lbistDone t _ => timeOk t
  | .mbistDone t results => timeOk t && results.all MbistResult.wf
  | .scanDone t seen => timeOk t && seen.all ScanSeen.wf
  | .ppResponse t data _ par => timeOk t && data.length == 8 && parOk par
  | .testAccess t bitNo _ par => timeOk t && decide (bitNo < 2 ^ 32) && parOk par
  | .cntClear t _ par => timeOk t && parOk par
  | .ctxdbgBankWrite t _ par => timeOk t && parOk par
  | .ctxdbgSnapshot t _ par => timeOk t && parOk par
  | .loRegisterRead t _ _ _ par => timeOk t && parOk par
  | .irqStatClear t _ _ par => timeOk t && parOk par
  | .cqPendClear t _ _ _ par => timeOk t && parOk par
  | .registerWrite t _ _ _ _ par => timeOk t && parOk par
  | .clockReturn t _ => timeOk t
  | .supplyLoss t => timeOk t
  | .dieRingContribution t _ _ _ payload par => timeOk t && payload.length % 64 == 0 && parOk par
  | .dieRingIdentCheck t p par => timeOk t && p.wf && parOk par
  | .dieRingSectorRelease t pool start size _ par => timeOk t && decide (pool < 256) && decide (start < 2 ^ 64) && decide (size ≤ 64) && parOk par
  | .dieRingResponse t _ _ par => timeOk t && parOk par

end Sys2Proof
end

