-- ==== Sys2Proof/Tests/Slice0.lean ====
section
/-! SUPPORT. The model's own tests: commands that are not well formed, small runs of one step with values from the spec, and for each
statement of Obligations.lean a state and operands that meet its hypotheses. -/

namespace Sys2Proof.Tests

open Sys2Proof.Machine

set_option Elab.async false

/-! ### Helpers -/

/-- A pool of 4,096 sectors on channel 5 of thermal group 1. -/
def pool0 : Pool := ⟨0, false, 0, 10, 0x100000, 4096, 0x80000, [⟨5, 1, 0, 4096⟩]⟩

/-- A Chart with core 0 active in every role, every port, and one pool. -/
def chart0 : Chart :=
  { Chart.blank with
    active := 1
    roles := 0xF
    memEn := 0xFF
    dpEn := 0xFF
    ipEn := 0xF
    lpEn := 3
    reserve := List.replicate 64 0
    pools := [pool0] }

/-- A machine that runs with that Chart. -/
def up : State :=
  { State.reset with
    chart := { ChartSt.reset with held := false, applied := some chart0 }
    pools := [⟨0, [(0, 4096)], [], [], 0, []⟩] }

/-- The same with the static inputs of DJ4-X, which has link ports. -/
def upX : State := { up with params := { up.params with hardening := 2 } }

/-- The machine on a die ring with two clusters. -/
def ringed (s : State) : State := { s with params := { s.params with drCount := 2 } }

/-- Channel 5 in a state. -/
def channelled (f : Chan → Chan) (s : State) : State := { s with chans := [f (Chan.fresh 5)] }

/-- Channel 5 held. -/
def holdOn (s : State) : State := channelled (fun c => { c with held := true }) s

/-- The machine with other registers. -/
def regd (f : Regs → Regs) (s : State) : State := { s with regs := f s.regs }

/-- A record of 8 tiles of FP16, in pool 0 with its directory at 0x40000. -/
def recT : BitVec 1024 := BitVec.ofNat 1024
  (pack [(30, 1 + 2 ^ 25 * 1), (34, 0), (64, 0x40000), (32, 8), (32, 16384), (32, 1), (32, 1), (32, 1)])

/-- A D4 descriptor of stream 1, SEQ 7: KIND, bits 256 to 511 as fields. -/
def desc (kind : Nat) (body : List (Nat × Nat)) : BitVec 512 :=
  BitVec.ofNat 512 (pack [(32, kind), (32, 1), (32, 7), (160, 0)] + 2 ^ 256 * pack body)

/-- A fetched descriptor that names recT at 0x1000. -/
def runOf (d : BitVec 512) : Run := Run.fetched d 0 0 ⟨recT, recT, recT, [], false, false, false, false, false, 0⟩

/-- A run that has started with a number of units. -/
def going (n : Nat) (r : Run) : Run := { r with started := true, total := n }

/-- Stream 1 on queue 0 with these runs. -/
def str (runs : List Run) : Stream := { Stream.opened 0x01000001 7 0 0 (some 0) true 0 with runs := runs }

/-- The machine with stream 1 working on these runs. -/
def busy (runs : List Run) : State := { up with streams := [str runs] }

/-! ### Well-formed commands -/

theorem test_wf_time : (Instr.repairDone (2 ^ 64)).wf = false ∧ (Instr.repairDone (2 ^ 64 - 1)).wf = true := by decide +kernel
theorem test_wf_stream : (Instr.expand 0 65536).wf = false ∧ (Instr.expand 0 65535).wf = true := by decide +kernel
theorem test_wf_tag : (Instr.memoryWriteResponse 0 0 1024 false none).wf = false ∧ (Instr.memoryWriteResponse 0 0 1023 false none).wf = true := by
  decide +kernel
theorem test_wf_image_order : (Instr.tileCommit 0 ⟨[(2, 1), (1, 1)], []⟩ none).wf = false ∧ (Instr.tileCommit 0 ⟨[(1, 1), (2, 1)], []⟩ none).wf = true := by
  decide +kernel
theorem test_wf_image_zero : (Instr.tileCommit 0 ⟨[(2, 0)], []⟩ none).wf = false := by decide +kernel
theorem test_wf_image_top : (Instr.tileCommit 0 ⟨[(2 ^ 64, 1)], []⟩ none).wf = false := by decide +kernel
theorem test_wf_poison : (Instr.tileCommit 0 ⟨[], [8]⟩ none).wf = false ∧ (Instr.tileCommit 0 ⟨[], [64]⟩ none).wf = true := by decide +kernel
theorem test_wf_fault : (Instr.deliveryBeat 0 0 [.parity (2 ^ 32)]).wf = false ∧ (Instr.deliveryBeat 0 0 [.parity 3]).wf = true := by
  decide +kernel
theorem test_wf_sums : (Instr.accumulatorDrain 0 0 [.sumCheck 16384 1]).wf = false ∧ (Instr.accumulatorDrain 0 0 [.sumCheck 1 1]).wf = true := by decide +kernel
theorem test_wf_seen : (Instr.checkerOutcome 0 0 (some (.image [1])) []).wf = false ∧ (Instr.checkerOutcome 0 0 none []).wf = true := by
  decide +kernel
theorem test_wf_beat : (Instr.intakeBeat 0 0 0 [1] []).wf = false := by decide +kernel
theorem test_wf_ring : (Instr.dieRingCommit 0 ⟨.write, 8, 0, 0, 0, 0, 0, 0, 0, 0, 0, none, false, 3⟩ []).wf = false ∧
    (Instr.dieRingSectorRequest 0 ⟨1, 0, 0, 0, 0, [(0, 65)], 3, none, 1, 1⟩ none).wf = false ∧ (Instr.dieRingIdentCheck 0 ⟨0, 4096, 0, 0, 0⟩ none).wf = false := by
  decide +kernel
theorem test_wf_release : (Instr.dieRingSectorRelease 0 256 0 1 false none).wf = false ∧ (Instr.dieRingSectorRelease 0 255 0 64 false none).wf = true := by
  decide +kernel
theorem test_wf_lanes : (Instr.atollUpdate 0 5 []).wf = false ∧ (Instr.atollUpdate 0 0 []).wf = false ∧ (Instr.atollUpdate 0 4 []).wf = true := by
  decide +kernel
theorem test_wf_manifest : (Instr.ack 0 0 0 [] none).wf = false ∧ (Instr.ack 0 0 4096 (List.replicate 192 0) none).wf = false ∧
    (Instr.ack 0 0 4095 (List.replicate 192 0) none).wf = true := by decide +kernel
theorem test_wf_payload : (Instr.chunk 0 0 0 (List.replicate 192 0) [1] none).wf = false := by decide +kernel
theorem test_wf_contribution : (Instr.dieRingContribution 0 0 0 0 [1] none).wf = false := by decide +kernel
theorem test_wf_pattern : (Instr.ppResponse 0 [1] false none).wf = false := by decide +kernel
theorem test_wf_group : (Instr.rateMeasure 0 64).wf = false ∧ (Instr.holdLong 0 4096).wf = false := by decide +kernel

/-- The table gives no row any bits (98_reader): no word spells a command. -/
theorem test_no_word : decodeTableWord 0 0 = none ∧ decodeTableWord 32 0xFFFFFFFF = none := ⟨rfl, rfl⟩

/-- Twenty equal bytes are coded as a literal and a match, and come back (07_compression R280, R284; RFC 1951). -/
theorem test_deflate_match : (deflateToks (List.replicate 20 7)).length = 2 ∧
    inflate (fixedBlock (deflateToks (List.replicate 20 7))) = some (List.replicate 20 7) := by decide +kernel

/-! ### Resets, clocks and current: the hypotheses can be met -/

/-- No clock is lost in a state whose DJ_CLK_STAT is 0: every state below but those of `wit_LostClocks`. -/
theorem no_clock_lost (s : State) (l : List Clk) (h : s.regs.clkStat = 0) : s.clksLost l = false := by
  simp only [State.clksLost, List.any_eq_false]
  intro c _
  simp [State.clkIsLost, h]

/-- The register ports reach the registers. -/
theorem wit_reached : up.reached = true ∧ up.reached = true ∧ State.reset.reached = true ∧ up.regs.clkStat = 0 := by
  decide +kernel

theorem wit_StepRunsFrontCommand : ({ up with pending := [.ceWindowExpiry 1] } : State).pending = .ceWindowExpiry 1 :: [] := rfl

theorem wit_StepKeepsFits : ∃ t, Fits up.params (.ceWindowExpiry 1 :: []) { up with pending := [.ceWindowExpiry 1], err := ErrState.cold } ∧
    step { up with pending := [.ceWindowExpiry 1], err := ErrState.cold } = .next t :=
  ⟨_, ⟨rfl, rfl, rfl, ⟨by decide, by decide, by intro i r h; simp [ErrState.cold] at h⟩⟩, rfl⟩

/-- A request of port 1 that an answer may match. -/
def asked (k : ReqKind) (why : Purpose) : State := { up with reqs := [⟨1, 5, k, 0x40000, 1, [], why, 0⟩] }

/-- The four cases of an answer: no request on a port in service, and on one that is not; the other kind; its own kind. -/
theorem wit_UnmatchedAnswersStop : up.req? 1 5 = none ∧ up.portThere .memory 1 = true ∧ State.reset.portThere .memory 1 = false ∧
    ((asked .read .discarded).req? 1 5).map (·.kind) = some .read ∧ ((asked .write .discarded).req? 1 5).map (·.kind) = some .write := by
  decide +kernel

theorem wit_ColdResetSteps : ({ up with phase := .coldLow } : State).phase = .coldLow ∧ (4 : BitVec 3).toNat < 5 ∧ 5 ≤ (5 : BitVec 3).toNat ∧
    ({ up with phase := .repair } : State).phase = .repair ∧ bit (0x80000000 : Word).toNat 31 = true ∧
    ({ up with phase := .repair, test := { up.test with spares := [(0, 0, 0)] } } : State).spareFree 0x80000000 = false ∧
    ({ State.reset with phase := .coldWipe } : State).lcInvalid = false ∧ State.reset.test.repairBad = [] ∧
    ({ State.reset with phase := .coldWipe } : State).chart.held = true := by
  refine ⟨rfl, by decide, by decide, rfl, by decide, ?_, rfl, rfl, rfl⟩
  have h : (spareOf 0x80000000) = (0, 0, 0) := by decide
  simp only [State.spareFree, h, Bool.and_eq_false_iff]
  exact Or.inr (by decide)

theorem wit_WarmResetSteps : up.phase = .run ∧ (up.cluster.st = .on ∨ up.cluster.st = .off) ∧
    ({ up with cluster := Fn.isOff } : State).cluster.st = .off ∧ ({ up with phase := .warm .rampWipe 0 0 } : State).phase = .warm .rampWipe 0 0 ∧
    ({ up with power := { up.power with leadOver := true } } : State).power.leadOver = true ∧
    ({ up with phase := .warm .wipe 1 2 } : State).phase = .warm .wipe 1 2 ∧
    ({ up with phase := .warm .rampHeld 2 0 } : State).phase = .warm .rampHeld 2 0 := by decide +kernel

theorem wit_WarmResetRequests : ({ up with phase := .warm .quiesce 0 0 } : State).phase = .warm .quiesce 0 0 ∧ up.phase = .run ∧
    ({ up with cluster := ⟨.shutting, .ramp⟩ } : State).cluster.st = .shutting ∧
    (∃ st n k, ({ up with phase := .life .wipe 1 3, cluster := ⟨.shutting, .before⟩ } : State).phase = .life st n k) ∧
    ({ up with cluster := ⟨.pendingOn, .wiped⟩, warmWait := some 1 } : State).warmWait = some 1 ∧
    ({ up with cluster := ⟨.pendingOn, .wiped⟩ } : State).cluster.stage = .wiped ∧ up.cluster.st = .on :=
  ⟨rfl, rfl, rfl, ⟨_, _, _, rfl⟩, rfl, rfl, rfl⟩

theorem wit_ManagementReset : up.powered = true ∧ ({ up with phase := .repair } : State).powered = true := by decide +kernel

/-- A clock is lost, is lost already, is due for a repeat, and is not due. -/
theorem wit_LostClocks : up.powered = true ∧ up.clkUsed .eclk = true ∧ up.clkUsed .lclk = false ∧ up.regs.clkStat &&& clkBit .eclk = 0 ∧
    (regd (fun r => { r with clkStat := 1 }) up).regs.clkStat &&& clkBit .eclk ≠ 0 ∧
    up.clkRec + up.svcAfter up.clkRec ≤ 60000000000 ∧ 59999999999 < up.clkRec + up.svcAfter up.clkRec ∧
    (regd (fun r => { r with clkStat := 0x40 }) up).clksLost [.hclk, .eclk] = true ∧
    (regd (fun r => { r with clkStat := 1 }) up).clksLost [.hclk, .eclk] = true ∧ (regd (fun r => { r with clkStat := 1 }) up).clksLost [.eclk] = true ∧
    (regd (fun r => { r with clkStat := 0x80 }) up).clksLost [.dclk, .eclk] = true ∧
    (regd (fun r => { r with clkStat := 2 }) up).clksLost [memClk 1, .eclk] = true ∧
    (regd (fun r => { r with clkStat := 0x20 }) up).clksLost [.lclk, .eclk] = true ∧ up.clksLost [.hclk, .eclk] = false ∧
    upX.clksLost [.lclk, .eclk] = false := by decide +kernel

theorem wit_GrantAndLead : ({ up with power := { up.power with intent := some (true, 5000, 100) } } : State).power.intent = some (true, 5000, 100) ∧
    100 + up.intentLead ≤ 1100 ∧ 1099 < 100 + up.intentLead ∧ up.chartVal Chart.grantEn false = false ∧
    ({ up with chart := { up.chart with applied := some { chart0 with grantEn := true } } } : State).chartVal Chart.grantEn false = true := by
  decide +kernel

/-- Core 0 in a stage of its shut-down. -/
def coreIn (x : Fn) : State := { up with cores := up.cores.set 0 { up.cores[0] with fn := x } }

theorem wit_ShutDownStages : (coreIn ⟨.shutting, .ramp⟩).fn? (.core 0) = some ⟨.shutting, .ramp⟩ ∧
    (coreIn ⟨.shutting, .ramp⟩).inTest (.core 0) = false ∧ (coreIn ⟨.shutting, .wipe⟩).fn? (.core 0) = some ⟨.shutting, .wipe⟩ ∧
    (coreIn ⟨.pendingOn, .wiped⟩).fn? (.core 0) = some ⟨.pendingOn, .wiped⟩ ∧
    (coreIn ⟨.shutting, .wiped⟩).inTest (.core 0) = false ∧ (∀ n, FnId.core 0 ≠ .stream n) ∧ FnId.core 0 ≠ .cluster := by
  refine ⟨?_, ?_, ?_, ?_, ?_, fun n => by simp, by simp⟩ <;> decide +kernel

/-- Core 0 and delivery port 1 are selected. -/
theorem wit_FunctionCommands : up.reached = true ∧ up.fnRefused 1 = none ∧ up.heldForTest (fnOfSel up.selected.1 up.selected.2) = none ∧
    up.fn? (fnOfSel up.selected.1 up.selected.2) = some Fn.isOn ∧ (coreIn ⟨.off, .idle⟩).fnRefused 3 = none ∧
    (coreIn ⟨.shutting, .ramp⟩).fn? (fnOfSel 0 0) = some ⟨.shutting, .ramp⟩ ∧ (coreIn ⟨.pendingOn, .wipe⟩).fnRefused 2 = none ∧
    (regd (fun r => { r with fnSel := 0x102 }) up).fnRefused 1 = none ∧ bits (1 : Word).toNat 1 0 = 1 ∧ bits (2 : Word).toNat 1 0 = 2 ∧
    bits (3 : Word).toNat 1 0 = 3 := by decide +kernel

/-- The four refusals: absent, not active, retired, badly named. -/
theorem wit_FunctionCommandsRefused : up.reached = true ∧ (regd (fun r => { r with fnSel := 0x904 }) up).fnRefused 1 = some 2 ∧
    (regd (fun r => { r with fnSel := 0x100 }) up).fnRefused 1 = some 2 ∧
    ({ up with cores := up.cores.set 0 { up.cores[0] with retired := true } } : State).fnRefused 1 = some 3 ∧
    (regd (fun r => { r with fnSel := 5 }) up).fnRefused 1 = some 4 ∧ up.fnRefused 5 = some 4 := by decide +kernel

theorem wit_ClusterOnAndOff : up.phase = .run ∧ up.cluster.st = .on ∧ (∀ n k, up.chart.drain ≠ some (.life n k)) ∧
    ({ up with cluster := ⟨.shutting, .before⟩ } : State).cluster.st = .shutting ∧
    ({ up with chart := { up.chart with drain := some (.life 1 3) } } : State).inLife = true ∧
    ({ up with chart := { up.chart with drain := some (.updateFailed 0x70) } } : State).drainOver = true := by
  refine ⟨rfl, rfl, fun n k => by simp [up, ChartSt.reset], rfl, rfl, by decide +kernel⟩

/-! ### Queues and streams -/

/-- The machine with queue 0 changed. -/
def queued (f : Queue → Queue) (s : State) : State := s.setQueue 0 (f (s.queue 0))

theorem wit_QueueRegisterWrites : up.reached = true ∧ bit (0x19 : Word).toNat 0 = true ∧ up.chart.applied.isSome = true ∧
    (up.queue 0).enable = false ∧ (up.queue 0).badFor (bits (0x19 : Word).toNat 6 2) = false ∧
    (up.queue 0).badFor (bits (0x15 : Word).toNat 6 2) = true ∧ (up.queue 0).badFor 16 = false ∧ (up.queue 0).badFor 17 = true ∧
    ((queued (fun z => { z with base := 64 }) up).queue 0).badFor 6 = true ∧ bit (0x18 : Word).toNat 0 = false := by decide +kernel

/-- OPEN of stream 1 on queue 0 with weight 1, pinned or not. -/
def opening (a2 : Word) (s : State) : State := regd (fun r => { r with sctlArg0 := 0x01000001, sctlArg2 := a2 }) s

/-- Stream 1 in a state. -/
def strIn (x : Fn) : State := { up with streams := [{ str [] with fn := x }] }

/-- Stream 1 pinned in the one context that queue 0 reserves; nothing is left over for the shared pool. -/
def pinned1 : State :=
  { opening 2 up with
    regs := { (opening 2 up).regs with sctlArg0 := 0x01000002 }
    streams := [{ str [] with pin := true }]
    chart := { up.chart with applied := some { chart0 with reserve := [1, 16383] } } }

theorem wit_OpenStream_pinned : pinned1.reached = true ∧ pinned1.noWork = false ∧ badArgs pinned1.regs.sctlArg0 pinned1.regs.sctlArg2 1 = false ∧
    (0 : Fin 64).val = bits pinned1.regs.sctlArg0.toNat 21 16 ∧ pinned1.stream? 2 = none ∧ bits pinned1.regs.sctlArg0.toNat 15 0 = 2 ∧
    bit pinned1.regs.sctlArg2.toNat 1 = true ∧ pinned1.allPinned 0 = true ∧ (opening 2 up).allPinned 0 = false := by decide +kernel

theorem wit_OpenStream : (opening 2 up).reached = true ∧ bits (1 : Word).toNat 1 0 = 1 ∧ (opening 2 up).noWork = false ∧
    badArgs (opening 2 up).regs.sctlArg0 (opening 2 up).regs.sctlArg2 1 = false ∧
    (0 : Fin 64).val = bits (opening 2 up).regs.sctlArg0.toNat 21 16 ∧ (opening 2 up).stream? 1 = none ∧ (opening 0 up).stream? 1 = none ∧
    bit (opening 2 up).regs.sctlArg2.toNat 1 = true ∧ bit (opening 0 up).regs.sctlArg2.toNat 1 = false ∧
    ((strIn ⟨.shutting, .ramp⟩).stream? 1).map (·.fn.st) = some .shutting ∧ ((strIn Fn.isOn).stream? 1).map (·.fn.st) = some .on := by
  decide +kernel

theorem wit_OpenStreamRefused : (opening 0 State.reset).reached = true ∧ (opening 0 State.reset).noWork = true ∧
    (opening 0 up).noWork = false ∧ badArgs 0x00000001 0 1 = true ∧ badArgs 0x01000001 1 1 = true ∧ badArgs 0x01400001 0 1 = true ∧
    badArgs 0x01000001 0x101 1 = false ∧ badArgs 0x01000001 0x101 5 = true ∧ bits (5 : Word).toNat 1 0 = 1 := by decide +kernel

theorem wit_CloseStream : up.reached = true ∧ bits (2 : Word).toNat 1 0 = 2 ∧ up.stream? 1 = none ∧
    (strIn Fn.isOn).stream? 1 = some (str []) ∧ ((strIn ⟨.pendingOn, .ramp⟩).stream? 1).map (·.fn.st) = some .pendingOn ∧
    ((strIn ⟨.shutting, .wiped⟩).stream? 1).map Stream.fn = some ⟨.shutting, .wiped⟩ := by decide +kernel

/-- A machine whose queue 0 has one descriptor, with stream 1 open. -/
def fetching : State := queued (fun z => { z with enable := true, qtail := 1 }) (busy [])

/-- Memory that holds a descriptor at address 0. -/
def imageOf (d : BitVec 512) : Image := ⟨((List.range 64).map fun i => (i, BitVec.ofNat 8 (d.toNat / 256 ^ i))).filter fun c => c.2 != 0, []⟩

/-- A fetched descriptor with a kind that is not listed, with a bad handle, of a stream that is OFF, and one that joins its stream. -/
theorem wit_DescriptorFetch : fetching.working = true ∧ fetching.portsUp = true ∧
    fetching.spanHeld (fetching.queue 0).headAddr (fetching.queue 0).entryBytes = false ∧ fetching.namedHeld (imageOf (desc 1 [])) (desc 1 []) = false ∧ (fetching.takeWaiting 0 ⟨[], []⟩).isNone = true ∧ (fetching.queue 0).wait = none ∧
    fetching.mayFetch 0 = true ∧ fetching.headDesc 0 (imageOf (desc 1 [])) = desc 1 [] ∧
    fetching.kindBad false (dKind (desc 5 [])) = true ∧ fetching.kindBad false (dKind (desc 1 [])) = false ∧
    fetching.handleBad (BitVec.ofNat 32 (1 + 2 ^ 16)) = true ∧ fetching.handleBad (dHandle (desc 1 [])) = false ∧
    fetching.stream? 2 = none ∧ fetching.stream? (dStream (desc 1 [])) = some (str []) ∧ (str []).queue = 0 ∧ (str []).fn.st = .on ∧
    (str []).held < 8 ∧ (str []).todo = [] ∧ (str []).slot.isSome = true ∧ dSeq (desc 1 []) = (str []).expectSeq ∧
    dSeq (desc 1 []) ≠ ({ str [] with expectSeq := 8 } : Stream).expectSeq := by decide +kernel

/-- Queue 0 has its ring on channel 5, which is held. -/
def ringHeld : State := holdOn (queued (fun z => { z with enable := true, qtail := 1, base := 0x100000 }) (busy []))

theorem wit_DescriptorFetch_held : ringHeld.working = true ∧ ringHeld.portsUp = true ∧ (ringHeld.takeWaiting 0 ⟨[], []⟩).isNone = true ∧
    (ringHeld.queue 0).wait = none ∧ ringHeld.mayFetch 0 = true ∧ ringHeld.spanHeld (ringHeld.queue 0).headAddr (ringHeld.queue 0).entryBytes = true ∧
    (holdOn fetching).namedHeld ⟨[], []⟩ (desc 1 [(64, 0x100000)]) = true := by decide +kernel

/-- Stream 1 parked, its descriptor waiting at queue 0, which has one context reserved. -/
def parked : State :=
  { queued (fun z => { z with wait := some (.parked, desc 1 []) }) up with
    streams := [{ str [] with slot := none }]
    chart := { up.chart with applied := some { chart0 with reserve := [1] } } }

/-- Its copy in the Lagoon, written and not yet asked back. -/
def copy1 : Spill := ⟨2, .context 1, 0, 64, 64, false, false, 0, [], 0, false, 0, false, none, false⟩

theorem wit_ContextFetchDone : parked.working = true ∧ parked.portsUp = true ∧ (parked.queue 0).wait = some (.parked, desc 1 []) ∧
    parked.stream? (dStream (desc 1 [])) = some { str [] with slot := none } ∧
    (({ parked with time := 5 } : State).getSlot 1 0).2.isSome = true ∧ parked.lagoon = [] ∧
    (({ parked with lagoon := [copy1] } : State).lagoon.find? fun x => x.of_ == .context (dStream (desc 1 []))) = some copy1 ∧ copy1.came = false := by
  decide +kernel

theorem wit_DescriptorCompletion :
    ((queued (fun z => { z with early := [(desc 1 [], 0x10)], irqAll := true }) up).queue 0).early = (desc 1 [], 0x10) :: [] ∧
    ((queued (fun z => { z with early := [(desc 1 [], 0x10)] }) up).queue 0).ringFull = false ∧
    ((queued (fun z => { z with ctail := 64 }) up).queue 0).ringFull = true ∧
    (let r := { runOf (desc 1 []) with status := 0x14, finished := true }
     (busy [r]).stream? 1 = some (str [r]) ∧ (busy [r]).canComplete (str [r]) r = true ∧ ((busy [r]).queue r.queue).ringFull = false ∧
       (busy [r]).barrierTurn 1 r = true) := by decide +kernel


/-! ### Descriptors at work -/

/-- Tiles 2 to 5 of a tensor for a kind, with the last field of the body. -/
def tiles4 (kind : Nat) (last : List (Nat × Nat)) : Run := runOf (desc kind ([(64, 0x1000), (32, 2), (32, 4)] ++ last))

/-- The four kinds that read stored tiles, before their first unit; a run that has started and has one unit left. -/
theorem wit_StoredTileReads : (busy [tiles4 1 []]).working = true ∧ (busy [tiles4 1 []]).frontRun 1 (· == 1) = some (tiles4 1 []) ∧
    (busy [tiles4 1 []]).run? 1 (tiles4 1 []).seq = some (tiles4 1 []) ∧ (tiles4 1 []).issued < (tiles4 1 []).units ∧
    (busy [tiles4 1 []]).portOpen (tiles4 1 []).desc = true ∧ (tiles4 1 []).issued < (tiles4 1 []).doneUnits + 64 ∧
    (busy [tiles4 0x30 []]).frontRun 1 (· == 0x30) = some (tiles4 0x30 []) ∧ (busy [tiles4 0x31 []]).frontRun 1 (· == 0x31) = some (tiles4 0x31 []) ∧
    (busy [tiles4 4 []]).frontRun 1 (· == 4) = some (tiles4 4 []) ∧ (tiles4 4 []).flags.spaceStop = false ∧ (tiles4 4 []).issued < (tiles4 4 []).doneUnits + 64 ∧
    (busy [{ going 4 (tiles4 1 []) with issued := 3 }]).frontRun 1 (· == 1) = some { going 4 (tiles4 1 []) with issued := 3 } := by
  decide +kernel

/-- A COMPRESS from memory at 0x200000. -/
def compress4 : Run := tiles4 2 [(3, 4), (61, 0), (64, 0x200000)]

theorem wit_SourceTileReads : (busy [going 4 compress4]).working = true ∧
    (busy [going 4 compress4]).frontRun 1 (· == 2) = some (going 4 compress4) ∧
    (busy [going 4 compress4]).run? 1 compress4.seq = some (going 4 compress4) ∧ (going 4 compress4).started = true ∧
    (going 4 compress4).finished = false ∧ dSource compress4.desc = 4 ∧ (going 4 compress4).issued < (going 4 compress4).total ∧
    (busy [going 4 compress4]).accepted 1 compress4.seq < 32 ∧ (({ busy [going 4 compress4] with time := 5 } : State).roomFor 1).2.isSome = true ∧
    (busy [compress4]).frontRun 1 (· == 2) = some compress4 ∧ compress4.started = false := by decide +kernel

/-- A RESUME of SEQ 6, and the stop record that it names or does not name. -/
def resume6 : Run := runOf (desc 3 [(64, 0x1000), (32, 6), (32, 0), (3, 0)])

/-- The stop record of SEQ 6. -/
def stop6 : StopRec := ⟨6, 1, 0x1000, 3, 2, 0, 0, 1, 0⟩

/-- Stream 1 with a RESUME and a stop record. -/
def stopped (p : Option StopRec) : State := { up with streams := [{ str [resume6] with stop := p }] }

theorem wit_ResumeStarts : (stopped (some stop6)).working = true ∧
    (stopped (some stop6)).stream? 1 = some { str [resume6] with stop := some stop6 } ∧ resume6.kind = 3 ∧ resume6.started = false ∧
    resume6.finished = false ∧ stop6.seq = BitVec.ofNat 32 (dFirst resume6.desc) ∧ stop6.recAddr = dTensor resume6.desc ∧
    stop6.source = dSource resume6.desc ∧ stop6.srcAddr = dSrcAddr resume6.desc ∧
    ({ stop6 with seq := 5 } : StopRec).seq ≠ BitVec.ofNat 32 (dFirst resume6.desc) ∧ (stopped none).stream? 1 = some (str [resume6]) ∧
    resume6.inSeq = true ∧ resume6.flags.countLimit = false ∧ (stopped (some stop6)).recordOpen 1 = false ∧
    stop6.past resume6.desc resume6.rec1 = false ∧ ({ stop6 with remaining := 6 } : StopRec).past resume6.desc resume6.rec1 = true := by
  decide +kernel

/-- A REDUCE of two tiles with two sources. -/
def reduce2 : Run :=
  { going 2 (runOf (desc 0x10 [(64, 0x1000), (32, 2), (32, 2), (64, 0x3000), (16, 2)])) with
    srcs := [(0x1100, recT, 0), (0x1180, recT, 0)] }

/-- Its accumulator tile, with no addend yet. -/
def acc9 : AccTile := AccTile.new 9 1 7 0 0 1 false 2048 [2] 2

theorem wit_ReduceGoesOn : (busy [reduce2]).working = true ∧
    (busy [reduce2]).workRun 1 0x10 ((busy [reduce2]).addendsLeft 1) = some reduce2 ∧ reduce2.started = true ∧
    (busy [reduce2]).run? 1 reduce2.seq = some reduce2 ∧ (busy [reduce2]).portOpen reduce2.desc = true ∧ reduce2.issued < reduce2.total ∧
    ((busy [reduce2]).onServers (reduceNeed none)).filter (fun c => decide ((busy [reduce2]).usedSlots c +
      accSlots reduce2.isInteger reduce2.nAcc ≤ 4)) = [0] ∧
    (let s := { busy [{ reduce2 with issued := 1 }] with accs := [acc9] }
     s.workRun 1 0x10 (s.addendsLeft 1) = some { reduce2 with issued := 1 } ∧ s.acc? 9 = some acc9 ∧
      (s.accs.find? fun a => a.stream == 1 && a.seq == reduce2.seq && !a.failed && decide (a.held.length < a.want)) = some acc9 ∧
      reduce2.addends[acc9.held.length]?.isSome = true) := by decide +kernel

/-- A list of one has one choice. -/
theorem pick_one {α : Type} (a : α) (n : Nat) : pick [a] n = some a := by simp [pick, Nat.mod_one]

theorem wit_ReduceGoesOn_core : (busy [reduce2]).unitOpen resReduce 1 = true ∧ (busy [reduce2]).reduceCore reduce2 = some 0 ∧
    ({ busy [reduce2] with unitWaits := [⟨resReduce, 2, 0x10⟩] } : State).unitOpen resReduce 1 = false := by
  have h : ((busy [reduce2]).onServers (reduceNeed none)).filter (fun c => decide ((busy [reduce2]).usedSlots c +
      accSlots reduce2.isInteger reduce2.nAcc ≤ 4)) = [0] := by decide +kernel
  refine ⟨rfl, ?_, rfl⟩
  unfold State.reduceCore State.accCore
  rw [h]
  exact pick_one 0 _

/-- A record of FP8 in the MERGE order of A and one of W: 64 by 64. -/
def recM : BitVec 1024 := BitVec.ofNat 1024
  (pack [(4, 3), (2, 1), (2, 1), (17, 0), (2, 1), (37, 0), (64, 0x40000), (32, 1), (32, 64), (32, 64), (32, 1), (32, 1), (16, 64), (16, 64)])

/-- A MERGE of two groups of 8 rows to delivery port 0. -/
def merge2 : Run :=
  { going 2 (runOf (desc 0x12 [(64, 0x1000), (32, 0), (16, 2), (3, 0), (2, 0), (11, 0), (64, 0x1100), (32, 0)])) with rec1 := recM, rec2 := recM }

/-- The machine with a fabric in which every port reaches every core. -/
def wired (s : State) : State :=
  { s with chart := { s.chart with applied := some { chart0 with fabric := List.replicate 22 0xFFFF } } }

theorem wit_MergeGroups : (wired (busy [merge2])).working = true ∧
    (wired (busy [merge2])).workRun 1 0x12 ((wired (busy [merge2])).blocksLeft 1) = some merge2 ∧ merge2.started = true ∧
    (wired (busy [merge2])).run? 1 merge2.seq = some merge2 ∧ (wired (busy [merge2])).stream? 1 = some (str [merge2]) ∧
    (wired (busy [merge2])).portOpen merge2.desc = true ∧ merge2.groupsLeft (str [merge2]) = true ∧
    (wired (busy [merge2])).groupPort merge2 = true ∧ (wired (busy [merge2])).blockRoom 1 merge2.seq = true ∧
    (wired (busy [merge2])).blockGroup 1 merge2 = none ∧ (wired (busy [merge2])).unitOpen resMerge 1 = true := by decide +kernel

theorem wit_MergeGroups_core : (wired (busy [merge2])).groupCore merge2 (str [merge2]) = some 0 := by
  have h : ((wired (busy [merge2])).onServers (descNeed merge2.desc)).filter ((wired (busy [merge2])).groupRoom
    (runsTwo ((str [merge2]).rowCodes merge2.rec1 (merge2.nextGroup (str [merge2])).1))) = [0] := by decide +kernel
  unfold State.groupCore
  rw [h]
  exact pick_one 0 _

/-- Its first group on core 0, with both tiles of K block 0 read: A is ZERO, W is not. -/
def group3 : MGroup := ⟨3, 1, 7, 0, 0, 0, 8, 0, [(false, 0, .zero), (true, 0, .ok (List.replicate 4096 1))], 1, 1, 0, [], [], [], false, 0, 0, false, false, none, false⟩

/-- The machine with that group at work. -/
def walking : State := { wired (busy [{ merge2 with issued := 1 }]) with groups := [group3] }

theorem wit_MergeGroups_walk : (walking.groups.find? fun x => x.id == 3) = some group3 ∧
    walking.run? group3.stream group3.seq = some { merge2 with issued := 1 } ∧ walking.coreWorks group3.core = true ∧ group3.away = false ∧ group3.left = [] ∧
    group3.walked < mergeKt merge2.rec1 ∧ (group3.tile false group3.walked).isSome = true ∧
    (group3.tile true group3.walked).isSome = true ∧ walking.clksLost [.eclk] = false ∧ walking.rjobs = [] ∧
    ((group3.tile true group3.walked).any fun x => x.1.isErr) = false := by
  refine ⟨rfl, ?_⟩
  decide +kernel

/-- A SEND, or a RECV, of the one chunk of a tensor of 8 tiles, to or from rank 3. -/
def coll1 (kind acc : Nat) : Run :=
  runOf (desc kind [(64, 0x1000), (32, 0), (16, 1), (12, 3), (1, 0), (1, 0), (1, acc), (1, 0), (32, 9), (32, 2), (32, 5000)])

/-- The machine with that collective. -/
def sharing (r : Run) (c : Coll) : State := { wired upX with streams := [str [r]], colls := [c] }

/-- Its collective side. -/
def side (send : Bool) : Coll := Coll.new 1 7 send 0 none

/-- An accepted chunk 0 of FP16 tiles. -/
def got0 : RecvChunk := ⟨0, false, 1, false, false, [], []⟩

theorem wit_CollectivesGoOn_send : (sharing (going 1 (coll1 0x20 0)) (side true)).working = true ∧
    (sharing (going 1 (coll1 0x20 0)) (side true)).run? 1 7 = some (going 1 (coll1 0x20 0)) ∧
    (sharing (going 1 (coll1 0x20 0)) (side true)).coll? 1 7 = some (side true) ∧
    ((sharing (going 1 (coll1 0x20 0)) (side true)).stream? 1).bind Stream.stop = none ∧
    (sharing (going 1 (coll1 0x20 0)) (side true)).frontRun 1 (· == 0x20) = some (going 1 (coll1 0x20 0)) ∧ (side true).paired = none ∧
    (coll1 0x20 0).flags.parked = false ∧ (side true).staged < 8 ∧ (0 : Nat) < (going 1 (coll1 0x20 0)).total ∧
    0 < chunkStored (coll1 0x20 0).rec1 (dFirst (coll1 0x20 0).desc) := by decide +kernel

/-- A RECV with its chunk, for the copy and for the accumulation. -/
def recv8 (acc : Nat) : State := sharing (going 8 (coll1 0x21 acc)) { side false with recv := [got0], accepted := [0] }

theorem wit_CollectivesGoOn_recv : (recv8 0).working = true ∧ (recv8 0).frontRun 1 (· == 0x21) = some (going 8 (coll1 0x21 0)) ∧
    ([got0].find? fun k => k.chunk == dFirst (coll1 0x21 0).desc + 0 / 16) = some got0 ∧ got0.failed = false ∧ dAccum (coll1 0x21 0).desc = false ∧
    got0.wide = false ∧ got0.spoilt = false ∧ (recv8 0).inPlace (.received 1 got0.chunk) = true ∧ (recv8 1).frontRun 1 (· == 0x21) = some (going 8 (coll1 0x21 1)) ∧ dAccum (coll1 0x21 1).desc = true := by
  decide +kernel

theorem wit_CollectivesGoOn_core : (recv8 1).unitOpen resReduce 1 = true ∧ (recv8 1).recvCore (going 8 (coll1 0x21 1)) got0 = some 0 := by
  have h : ((recv8 1).onServers (reduceNeed (descPort (coll1 0x21 1).desc))).filter (fun c => decide ((recv8 1).usedSlots c +
      accSlots (recType recT == 5 && got0.elem == 5) (logicalN (recType recT)) ≤ 4)) = [0] := by decide +kernel
  refine ⟨rfl, ?_⟩
  unfold State.recvCore State.accCore
  exact (congrArg (fun l => pick l (recv8 1).choice) h).trans (pick_one 0 _)

/-- A FENCE in STREAMS mode that waits for SEQ 4 of stream 2. -/
def fence2 : Run := going 1 (runOf (desc 0x40 [(64, 0), (32, 2), (32, 4), (32, 0xFFFFFFFF), (32, 0), (32, 0xFFFFFFFF), (32, 0)]))

/-- Stream 1 with this run at its head beside stream 2, whose last completion had this SEQ. -/
def beside (r : Run) (last : Option Word) : State :=
  { up with streams := [str [r], { str [] with num := 2, slot := some 1, lastSeq := last }] }

/-- A FENCE that is met, one whose stream is OFF, and one that waits. -/
theorem wit_FenceStreams : (beside fence2 (some 4)).working = true ∧ (beside fence2 (some 4)).headRun 1 = some fence2 ∧ fence2.kind = 0x40 ∧
    dBarrier fence2.desc = false ∧ fence2.started = true ∧ fence2.finished = false ∧ fence2.inSeq = true ∧ fence2.sub = 0 ∧
    ((dFenceList fence2.desc).all fun h => ((beside fence2 (some 4)).fenceOne h).1) = true ∧
    ((dFenceList fence2.desc).any fun h => ((busy [fence2]).fenceOne h).2) = true ∧ (busy [fence2]).headRun 1 = some fence2 ∧
    ((dFenceList fence2.desc).all fun h => !((beside fence2 (some 3)).fenceOne h).2) = true ∧
    ((dFenceList fence2.desc).any fun h => !((beside fence2 (some 3)).fenceOne h).1) = true := by decide +kernel

/-- A FENCE in BARRIER mode: group 1, epoch 5, so many members. -/
def barrier5 (n : Nat) : Run := runOf (desc 0x40 [(8, 1), (8, 1), (16, n), (32, 5)])

/-- An open instance with stream 2 in it. -/
def instance5 : Barrier := ⟨1, 5, 2, [2], false⟩

/-- A barrier that opens, one of a single member, the last member of one, and an instance that is over. -/
theorem wit_FenceBarrier : (busy [barrier5 2]).stream? 1 = some (str [barrier5 2]) ∧ (str [barrier5 2]).fn.st = .on ∧ (barrier5 2).kind = 0x40 ∧
    dBarrier (barrier5 2).desc = true ∧ (barrier5 2).started = false ∧ (barrier5 2).finished = false ∧ (barrier5 2).inSeq = true ∧ (busy [barrier5 2]).working = true ∧
    (∀ b ∈ (busy [barrier5 2]).barriers, b.group ≠ dBgroup (barrier5 2).desc) ∧ 1 < dBcount (barrier5 2).desc ∧ dBcount (barrier5 1).desc ≤ 1 ∧
    ([instance5].find? fun b => b.group == dBgroup (barrier5 2).desc && b.epoch == dBepoch (barrier5 2).desc) = some instance5 ∧
    instance5.isDone = false ∧ instance5.count = dBcount (barrier5 2).desc ∧ instance5.count ≤ instance5.members.length + 1 ∧
    instance5.count ≠ dBcount (barrier5 3).desc := by decide +kernel

/-- A WIPE with a scope, of core 0. -/
def wipe (scope : Nat) : Run := runOf (desc 0x41 [(64, 0), (32, 0), (32, 0), (64, scope)])

theorem wit_Wipes : (busy [wipe 0]).wipeRun 1 0 = some (wipe 0) ∧ (busy [wipe 1]).wipeRun 1 1 = some (wipe 1) ∧
    (busy [wipe 2]).wipeRun 1 2 = some (wipe 2) ∧ (wipe 0).inSeq = true ∧ (wipe 1).inSeq = true ∧ (wipe 2).inSeq = true ∧ dCore (wipe 1).desc < up.params.cores ∧ dCore (wipe 1).desc < 16 ∧
    ((busy [wipe 1]).core (coreOf (dCore (wipe 1).desc))).fn.st = .on ∧ ((coreIn ⟨.off, .idle⟩).core 0).fn.st = .off := by decide +kernel

/-- A TEST with an operation, of a core, with ARG_B. -/
def testing (op core arg : Nat) : Run := runOf (desc 0x42 [(64, 0), (32, core), (32, 0), (64, op), (64, arg)])

/-- A Ferry test of core 0 that runs. -/
def ferry0 : CoreTest := CoreTest.new 0 0 true true true 0

/-- The machine with that test and a TEST descriptor. -/
def tested (r : Run) : State := { busy [r] with test := { up.test with running := some ferry0 } }

theorem wit_TestsWait : (tested (testing 0 0 0)).working = true ∧ (tested (testing 0 0 0)).headRun 1 = some (testing 0 0 0) ∧
    (testing 0 0 0).kind = 0x42 ∧ (testing 0 0 0).started = false ∧ (testing 0 0 0).finished = false ∧
    (tested (testing 0 0 0)).test.running = some ferry0 ∧ dOp (testing 0 0 0).desc = 0 ∧ dCore (testing 0 0 0).desc ≠ 255 ∧
    dOp (testing 1 0 0).desc = 1 ∧ dOp (testing 1 255 0).desc = 1 ∧ dCore (testing 1 255 0).desc = 255 ∧
    (tested (testing 1 255 0)).aloneFor 1 = true ∧
    ({ beside (testing 1 255 0) none with test := { up.test with running := some ferry0 } } : State).aloneFor 1 = false ∧
    dOp (testing 2 0 0).desc = 2 ∧ (testing 0 0 0).inSeq = true := by decide +kernel

/-- No test runs: LBIST, MBIST and a Ferry test of core 0, and the MBIST of the shared SRAMs, can start at once. -/
theorem wit_TestsWait_start : (busy [testing 0 0 0]).working = true ∧ (busy [testing 0 0 0]).headRun 1 = some (testing 0 0 0) ∧
    (busy [testing 0 0 0]).test.running = none ∧ (busy [testing 0 0 0]).test.waiting = [] ∧ dCore (testing 0 0 0).desc = (0 : Fin 16).val ∧
    (busy [testing 0 0 0]).eligibleCore 0 = true ∧
    (busy [testing 0 0 0]).testReady { CoreTest.new 0 2 true false false 1 with order := (testing 0 0 0).order } 0 = true ∧
    (busy [testing 1 0 0]).testReady { CoreTest.new 0 2 false true false 1 with order := (testing 1 0 0).order } 0 = true ∧
    (busy [testing 2 0 0]).testReady { CoreTest.new 0 2 true true true 1 with order := (testing 2 0 0).order } 0 = true ∧
    (busy [testing 1 255 0]).working = true ∧ (busy [testing 1 255 0]).headRun 1 = some (testing 1 255 0) ∧
    (busy [testing 1 255 0]).aloneFor 1 = true ∧ (busy [testing 1 255 0]).test.running = none := by decide +kernel

/-- Memory with the first words of a manifest at 0x800: the mark and LENGTH 64. -/
def manImage : Image := ⟨[(0x800, 0x44), (0x801, 0x4A), (0x802, 0x50), (0x803, 0x4D), (0x810, 64)], []⟩

theorem wit_LoadPackage : (busy [testing 3 0 0x800]).working = true ∧ (busy [testing 3 0 0x800]).portsUp = true ∧
    (busy [testing 3 0 0x800]).spanHeld 0x800 128 = false ∧ (busy [testing 3 0 0x800]).spanBad manImage 0x800 128 = false ∧
    dArgB (testing 3 0 0x800).desc = 0x800 ∧ dArgB (testing 3 0 0x100000).desc = 0x100000 ∧
    (holdOn (busy [testing 3 0 0x100000])).headRun 1 = some (testing 3 0 0x100000) ∧
    (holdOn (busy [testing 3 0 0x100000])).spanHeld 0x100000 128 = true ∧
    (holdOn (busy [testing 3 0 0x100000])).portsUp = true ∧ (busy [testing 3 0 0x800]).headRun 1 = some (testing 3 0 0x800) ∧
    dOp (testing 3 0 0x800).desc = 3 ∧ (testing 3 0 0x800).inSeq = true ∧ (testing 3 0 0x800).kind = 0x42 ∧ (busy [testing 3 0 0x800]).test.pkg = none ∧
    imgPoison manImage (dArgB (testing 3 0 0x800).desc) 128 = false ∧
    byteBits (imgRead manImage (dArgB (testing 3 0 0x800).desc) 128) 31 0 = 0x4D504A44 ∧
    manLength (imgRead manImage (dArgB (testing 3 0 0x800).desc) 128) ≠ 0 ∧
    byteBits (imgRead ⟨[], []⟩ (dArgB (testing 3 0 0x800).desc) 128) 31 0 ≠ 0x4D504A44 ∧
    manLength (imgRead ⟨[(0x800, 0x44), (0x801, 0x4A), (0x802, 0x50), (0x803, 0x4D)], []⟩ 0x800 128) = 0 := by decide +kernel

/-- A LIFECYCLE with TARGET 3. -/
def life3 : Run := runOf (desc 0x43 [(64, 0), (32, 3)])

theorem wit_LifeCycleChange : (beside life3 none).working = true ∧ (beside life3 none).headRun 1 = some life3 ∧ life3.kind = 0x43 ∧
    life3.started = false ∧ life3.finished = false ∧ life3.inSeq = true ∧ ({ beside life3 none with phase := .life .wipe 1 3 } : State).phase = .life .wipe 1 3 := by
  decide +kernel

/-! ### Memory answers and the tile pipeline -/

/-- The read of tile 2 of the EXPAND, at a stage. -/
def read6 (st : RStage) : RJob := ⟨6, 1, 7, 0, .deliver, 0x1000, recT, 2, st, 0, 0, [], none, false, none, false, false⟩

/-- An EXPAND with one tile started. -/
def expand4 : Run := { going 4 (tiles4 1 []) with issued := 1 }

/-- The machine with that tile being read. -/
def reading (st : RStage) : State := { busy [expand4] with rjobs := [read6 st] }

/-- Its request with tag 5 on port 1. -/
def answered (k : ReqKind) (why : Purpose) (s : State) : State := { s with reqs := [⟨1, 5, k, 0x40000, 1, [], why, 0⟩] }

theorem wit_DescriptorCompletion_halves :
    (∃ r, (answered .write16 (.cmpl (.early 0) 0x3000 (List.replicate 16 1) (some 0) ⟨7, none⟩) up).req? 1 5 = some r ∧ r.kind ≠ .read ∧
      r.purpose = .cmpl (.early 0) 0x3000 (List.replicate 16 1) (some 0) ⟨7, none⟩) ∧
    ∃ r, (answered .write16 (.cmpl (.stream 1) 0x3000 [] (some 0) ⟨7, none⟩) (busy [])).req? 1 5 = some r ∧ r.kind ≠ .read ∧
      r.purpose = .cmpl (.stream 1) 0x3000 [] (some 0) ⟨7, none⟩ := by
  refine ⟨⟨_, rfl, by decide, rfl⟩, _, rfl, by decide, rfl⟩

/-- A coded tile of stream 1 with one payload write to come. -/
def write4 (st : WStage) : WJob :=
  { WJob.new 4 1 7 0 (.memory 0x200000) 0x1000 recT 2 st with
    parts := [{ Part.new 0x1000 recT 2 (List.replicate 8 1) 0 1 (List.replicate 8 1) 0 with acks := 2 }] }

/-- The machine with that tile. -/
def writing (st : WStage) : State := { busy [{ going 4 compress4 with issued := 1 }] with wjobs := [write4 st] }

theorem wit_MemoryAnswers : (∃ r, (answered .read (.presence 6) (reading .presence)).req? 1 5 = some r ∧ r.kind = .read ∧ r.purpose = .presence 6) ∧
    (reading .presence).rjob? 6 = some (read6 .presence) ∧ imgPoison ⟨[], []⟩ (presenceAddr recT 2) 8 = false ∧
    (imgNat ⟨[], []⟩ (presenceAddr recT 2) 8).testBit (2 % 64) = false ∧ (reading .presence).run? 1 7 = some expand4 ∧
    (∃ r, (answered .read (.payload 6 0) (reading (.payload 2))).req? 1 5 = some r ∧ r.purpose = .payload 6 0 ∧ r.sectors < 2) ∧
    (reading (.payload 2)).rjob? 6 = some (read6 (.payload 2)) ∧
    ({ reading (.payload 2) with time := 5 } : State).readLate (read6 (.payload 2)) = false ∧
    (∃ r, (answered .write (.partWrite 4 0) (writing .writing)).req? 1 5 = some r ∧ r.kind ≠ .read ∧ r.purpose = .partWrite 4 0) ∧
    (writing .writing).wjob? 4 = some (write4 .writing) := by
  refine ⟨⟨_, rfl, rfl, rfl⟩, ?_, ?_, ?_, ?_, ⟨_, rfl, rfl, by decide⟩, ?_, ?_, ⟨_, rfl, by decide, rfl⟩, ?_⟩ <;> decide +kernel

/-- A record whose home is die 1. -/
def recFar : BitVec 1024 := recT ||| BitVec.ofNat 1024 (2 ^ 16)

/-- The same tile of that record. -/
def readFar : RJob := { read6 (.payload 2) with trec := recFar }

theorem wit_ReadRestart : ({ busy [expand4] with rjobs := [readFar] } : State).rjob? 6 = some readFar ∧ readFar.stage = .payload 2 ∧
    (busy [expand4]).epochNs < 2 * (25001 - readFar.entryAt) ∧ ¬ (busy [expand4]).epochNs < 2 * (25000 - readFar.entryAt) ∧
    recHomeDie readFar.trec ≠ (busy [expand4]).die := by decide +kernel

theorem wit_EnginesFinish : (reading (.onEngine 0 2)).readOn 0 2 = some (read6 (.onEngine 0 2)) ∧ (read6 (.onEngine 0 2)).use = .deliver ∧
    (reading (.onEngine 0 2)).run? 1 7 = some expand4 ∧ expand4.kind = 1 ∧
    (∀ v ∈ (reading (.onEngine 0 2)).dports[dportOf (dDport expand4.desc)].units, v.job ≠ some 6) ∧
    (writing (.onEngine 0 1)).codeOn 0 1 = some (write4 (.onEngine 0 1)) ∧
    (writing (.onEngine 0 1)).run? 1 7 = some { going 4 compress4 with issued := 1 } ∧
    (∀ k, (write4 (.onEngine 0 1)).src ≠ .received k) := by
  refine ⟨?_, ?_, ?_, ?_, ?_, ?_, ?_, fun k => by simp [write4, WJob.new]⟩ <;> decide +kernel

/-- A tile of the EXPAND with one beat on delivery port 0. -/
def unit8 (last : Bool) : DUnit :=
  ⟨8, 1, 7, 0, [(if last then (BitVec.ofNat 128 (2 ^ 127 - 1)) else 0, [], [])], 0, true, false, false, false, false, 0, true, none⟩

/-- The machine with that beat on the bus. -/
def offering (last : Bool) : State :=
  { busy [expand4] with
    dports := up.dports.set 0 ⟨Fn.isOn, [unit8 last], some (8, if last then BitVec.ofNat 128 (2 ^ 127 - 1) else 0, [], []), 0, none, none⟩ }

theorem wit_DeliveryBeats : (offering false).dports[(0 : Fin 8)].bus = some (8, 0, [], []) ∧
    ((offering false).dports[(0 : Fin 8)].units.find? fun x => x.id == 8) = some (unit8 false) ∧ metaLast 0 = false ∧
    metaLast (BitVec.ofNat 128 (2 ^ 127 - 1)) = true ∧ (unit8 true).again = false ∧ (offering true).run? 1 7 = some expand4 ∧
    (offering false).dports[(0 : Fin 8)].stall = none ∧ (offering false).dports[(0 : Fin 8)].since + 1000000 ≤ 1000000 := by decide +kernel

/-- A COMPRESS from intake port 0. -/
def taking : Run := going 4 (tiles4 2 [(3, 0)])

/-- Its tile with no beat yet. -/
def beats4 : WJob := WJob.new 4 1 7 0 (.intake 0) 0x1000 recT 2 .beats

/-- The machine that takes it in. -/
def intake : State := { busy [{ taking with issued := 1 }] with wjobs := [beats4] }

theorem wit_IntakeBeats : intake.stream? (ipStream 1) = some (str [{ taking with issued := 1 }]) ∧ intake.beatReady 0 (ipStream 1) = true ∧
    (str [taking]).discard = false ∧ intake.partTile (ipStream 1) = some beats4 ∧ intake.wjob? 4 = some beats4 ∧ ipBeat 1 = (str [taking]).beat ∧
    (str [taking]).beat < 7 ∧ ipErr 0x80001 = true ∧ ipErr 1 = false ∧
    (∃ since, ({ intake with iports := up.iports.set 0 ⟨Fn.isOn, some (1, 0), none⟩ } : State).iports[(0 : Fin 4)].wait = some (1, since) ∧
      since + 1000000 ≤ 1000000) := by
  refine ⟨?_, ?_, ?_, ?_, ?_, ?_, ?_, ?_, ?_, ⟨0, by decide +kernel⟩⟩ <;> decide +kernel

/-- The tile with core 0 as a checker of its part. -/
def checked (v : Verify) : WJob :=
  { WJob.new 4 1 7 0 (.memory 0x200000) 0x1000 recT 2 .writing with
    parts := [{ Part.new 0x1000 recT 2 [1] (crc64 [1]) 1 [1] 0 with verify := v }] }

/-- The machine with that tile. -/
def checkingAs (v : Verify) : State := { busy [{ going 4 compress4 with issued := 1 }] with wjobs := [checked v] }

theorem wit_CheckerOutcomes : (checkingAs (.checking 0)).wjob? 4 = some (checked (.checking 0)) ∧
    (∃ p, (checkingAs (.checking 0)).checkedBy 0 = some (checked (.checking 0), 0, p) ∧ seenPasses p (.image [1]) = true) ∧
    (∃ p, (checkingAs (.third 1 0 (.error 1))).thirdBy 0 = some (checked (.third 1 0 (.error 1)), 0, p, 1, .error 1) ∧
      seenPasses p (.image [1]) = true ∧ seenPasses p (.error 1) = false) := by
  refine ⟨by decide +kernel, ⟨_, rfl, by decide +kernel⟩, ⟨_, rfl, by decide +kernel, by decide +kernel⟩⟩

/-- The tile that asks for one sector. -/
def asking (free : List (Nat × Nat)) : State := { writing .space with pools := [⟨0, free, [], [], 0, []⟩] }

/-- A granted request; one that waits because its sectors are delayed is met by a pool whose free list is empty. -/
theorem wit_AllocationRequest : (asking [(0, 4096)]).wjob? 4 = some (write4 .space) ∧ (asking [(0, 4096)]).requestTurn (write4 .space) = true ∧
    (write4 .space).stream ≠ causewayStream ∧ (write4 .space).request = some (0, [(0, 1)]) ∧ (asking [(0, 4096)]).pool? 0 = some pool0 ∧
    (asking [(0, 4096)]).poolSt? 0 = some ⟨0, [(0, 4096)], [], [], 0, []⟩ ∧
    ({ asking [(0, 4096)] with time := 5 } : State).tryAlloc pool0 ⟨0, [(0, 4096)], [], [], 0, []⟩ 0x1000 2 [(0, 1)] =
      .granted [0] [(1, 4095)] 0 ∧
    ({ asking [] with time := 5 } : State).tryAlloc pool0 ⟨0, [], [], [(0, 0, 64)], 0, []⟩ 0x1000 2 [(0, 1)] = .waits := by
  decide +kernel

/-- A request that fails: no sector is free, and none will be. -/
theorem wit_AllocationRequest_fails : (asking []).wjob? 4 = some (write4 .space) ∧ (asking []).requestTurn (write4 .space) = true ∧
    (asking []).poolSt? 0 = some ⟨0, [], [], [], 0, []⟩ ∧
    ({ asking [] with time := 5 } : State).tryAlloc pool0 ⟨0, [], [], [], 0, []⟩ 0x1000 2 [(0, 1)] = .fails ∧
    (asking []).stream? 1 = some (str [{ going 4 compress4 with issued := 1 }]) ∧
    (asking []).run? 1 7 = some { going 4 compress4 with issued := 1 } ∧ (going 4 compress4).kind = 2 ∧ (going 4 compress4).stopAt = none ∧
    ((((str [{ going 4 compress4 with issued := 1 }]).runs.dropWhile fun y => !y.named 7).drop 1).any Run.begun) = false ∧
    (str []).stop = none := by decide +kernel

/-- A commit of tile 2 at the front of the queue. -/
def commit2 : Commit :=
  ⟨3, 4, 0, none, 0, 0x1000, 2, 0x40020, 0x40080, BitVec.ofNat 128 (2 ^ 36 + 2 ^ 43), 0, [], 7, 1, none, false, 3, false, false, 0⟩

theorem wit_TileCommit : ({ writing .writing with commits := [commit2] } : State).commits = [commit2] ∧ commit2.written = false ∧
    commit2.expect = none ∧ (writing .writing).lockedOut commit2 = false ∧ (writing .writing).portsUp = true ∧
    (writing .writing).commitHeld commit2 = false ∧ (writing .writing).spanBad ⟨[], []⟩ (commit2.mapAddr / 64 * 64) 64 = false ∧
    (writing .writing).spanBad ⟨[], []⟩ commit2.entryAddr 16 = false ∧ entState commit2.entry ≠ 0 ∧
    (holdOn (writing .writing)).commitHeld { commit2 with entryAddr := 0x100020 } = true ∧ (holdOn (writing .writing)).portsUp = true ∧
    (holdOn (writing .writing)).lockedOut { commit2 with entryAddr := 0x100020 } = false := by decide +kernel


/-! ### The die ring -/

/-- A commit of cluster 1. -/
def rc1 : RemoteCommit := ⟨.write, 1, 9, 0, 0x1000, 2, 0x40020, 0x40080, 1, 7, 1, none, false, 3⟩

/-- A request of cluster 1 for one sector. -/
def request1 : RemoteRequest := ⟨1, 9, 0, 0x1000, 2, [(0, 1)], 3, none, 1, 1⟩

theorem wit_DieRingMessages : up.unavailable = false ∧ State.reset.unavailable = true ∧ up.pool? request1.pool = some pool0 ∧
    up.poolSt? request1.pool = some ⟨0, [(0, 4096)], [], [], 0, []⟩ ∧
    ({ up with time := 5 } : State).poolReady ⟨0, [(0, 4096)], [], [], 0, []⟩ = true ∧
    ({ up with time := 5 } : State).tryAlloc pool0 ⟨0, [(0, 4096)], [], [], 0, []⟩ request1.recAddr request1.tile request1.sizes =
      .granted [0] [(1, 4095)] 0 ∧ up.ownIdent = some ⟨0, 0, 0, 0, 0⟩ ∧ up.onMappedOut pool0 7 = false ∧
    rc1.op = .write ∧ ({ up with time := 5 } : State).turnsAway rc1 = false ∧ ({ State.reset with time := 5 } : State).turnsAway rc1 = true ∧
    ({ rc1 with op := .lock } : RemoteCommit).op = .lock ∧ up.lockTaken { rc1 with op := .lock } = false ∧
    ({ up with remoteLocks := [(2, 0x40020)] } : State).lockTaken { rc1 with op := .lock } = true ∧
    ({ up with pools := [⟨0, [], [], [], 9, []⟩] } : State).poolSt? request1.pool = some ⟨0, [], [], [], 9, []⟩ ∧
    ({ up with time := 5 } : State).poolReady ⟨0, [], [], [], 9, []⟩ = false ∧
    up.ringAfter (.invalidate 9) = [] ∧ (ringed up).ringAfter (.invalidate 9) = [.invalidate 9] := by decide +kernel

/-- A pool with sectors released in epoch 0 and in epoch 1. -/
def delaying : PoolSt := ⟨0, [(8, 4088)], [(7, 1)], [(0, 0, 2), (1, 4, 1)], 0, []⟩

/-- At 100 us, epoch 2 begins: the first is free, the second is not. -/
theorem wit_EpochBoundary : ({ up with pools := [delaying] } : State).poolSt? delaying.id = some delaying ∧
    ({ up with pools := [delaying] } : State).pool? delaying.id = some pool0 ∧ ({ up with time := 100000 } : State).epoch = 2 ∧
    ({ up with time := 99999 } : State).epoch = 1 ∧ reclaimable pool0 delaying.used 7 1 = [(7, 1)] ∧
    ({ up with pools := [delaying] } : State).onMappedOut pool0 7 = false := by decide +kernel

/-- The request number 9 of tile 4 to the cluster that allocates its pool. -/
def ask9 (f : AskOf) : OwnAsk := ⟨f, ⟨0, 9, 0, 0x1000, 2, [(0, 1)], 3, none, 1, 1⟩⟩

/-- A tile that waits for that cluster. -/
def remote4 : State := { writing (.remoteWait 9) with asks := [ask9 (.job 4)], remoteWaits := [⟨9, false, 1, 0, 0⟩] }

theorem wit_RingAnswers : (remote4.asks.find? fun x => x.req.job == 9) = some (ask9 (.job 4)) ∧ remote4.wjob? 4 = some (write4 (.remoteWait 9)) ∧
    (write4 (.remoteWait 9)).stage = .remoteWait (ask9 (.job 4)).req.job ∧
    ((List.zipWith (fun z f => (z.1, f, z.2)) (ask9 (.job 4)).req.sizes [3]).all fun r => (write4 (.remoteWait 9)).parts[r.1]?.any fun p =>
      p.needsPlace && p.sectors == r.2.2 && recPool p.trec == (ask9 (.job 4)).req.pool) = true ∧
    (ask9 .gone).req.sizes = [(0, 1)] ∧ State.reset.poolSt? (ask9 .gone).req.pool = none ∧
    (remote4.remoteWaits.find? fun x => x.job == 9) = some ⟨9, false, 1, 0, 0⟩ ∧ (remote4.ringing 9).isSome = true ∧ 0 + remote4.epochNs ≤ 50000 ∧
    49999 < 0 + remote4.epochNs ∧ (ask9 (.job 4)).of_ ≠ .gone ∧ (writing (.queued 0)).lockAsk 4 = none ∧
    (writing (.queued 0)).wjob? 4 = some (write4 (.queued 0)) ∧ 0 < (write4 (.queued 0)).parts.length := by decide +kernel

/-- The read of addend 1 of accumulator tile 9. -/
def addend1 : RJob := { read6 .presence with use := .addend 9 1 0 }

theorem wit_DieRingContribution : (({ busy [reduce2] with rjobs := [addend1] } : State).rjobs.find? fun j =>
      match j.use with | .addend a x _ => a == 9 && x == 1 | _ => false) = some addend1 ∧ addend1.use = .addend 9 1 0 ∧
    ({ busy [reduce2] with rjobs := [addend1] } : State).rjob? addend1.id = some addend1 ∧ entState (BitVec.ofNat 128 (2 ^ 36 + 2 ^ 43)) ≠ 0 ∧ entState 0 = 0 := by
  refine ⟨?_, rfl, ?_, ?_, ?_⟩ <;> decide +kernel

/-- A sum that fills the Harbour. -/
def filling (s : State) : State := { s with colls := [{ Coll.new 9 1 true 0 none with sums := [{ AccTile.new 8 9 1 0 0 1 false 2048 [0] 1 with nacc := 262144 }] }] }

/-- There is room, no room in the Harbour but in the staging region, or none. -/
theorem wit_DieRingContribution_room : (({ busy [reduce2] with rjobs := [addend1], time := 5 } : State).makeRoomFor (.payload 6) 64 1).2 = true ∧
    ((filling { busy [reduce2] with rjobs := [addend1], time := 5 }).makeRoomFor (.payload 6) 64 1).2 = true ∧
    ((filling { busy [reduce2] with rjobs := [addend1], time := 5, pools := [] }).makeRoomFor (.payload 6) 64 1).2 = false ∧
    64 * entLen (BitVec.ofNat 128 (2 ^ 36 + 2 ^ 43)) = 64 := by decide +kernel

/-! ### Accumulation -/

/-- The first addend, read as ZERO. -/
def addendZ : Addend := { Addend.new 0 1 1 with tiles := [(0, .zero, 0)] }

/-- The accumulator tile with one addend read, and with both added. -/
def accOne : AccTile := { acc9 with held := [addendZ] }

/-- The same with both addends added. -/
def accAll : AccTile := { acc9 with held := [{ addendZ with added := true }, { addendZ with k := 1, added := true }] }

/-- The same with an open residue fault, for the first or for the second time. -/
def accBad (n : Nat) : AccTile := { acc9 with faulted := some (0x0C, 0, 0), tries := n }

/-- The machine with an accumulator tile. -/
def summing (a : AccTile) : State := { busy [{ reduce2 with issued := 1 }] with accs := [a] }

theorem wit_AccumulatorSteps_add : (summing accOne).acc? 9 = some accOne ∧ (summing accOne).accWorks accOne = true ∧ accOne.fixedAdds = [] ∧
    (accOne.held.find? fun x => x.k == 0 && x.complete && !x.bad && !x.added) = some addendZ ∧ addendZ.lost = false ∧
    (accOne.acc.integer && addendZ.wrongAnchor) = false := by
  refine ⟨rfl, ?_⟩
  decide +kernel

theorem wit_AccumulatorSteps_recompute : (summing (accBad 1)).acc? 9 = some (accBad 1) ∧ (accBad 0).faulted = some (0x0C, 0, 0) ∧
    ((accBad 0).held.any fun p => p.lost) = false ∧ (summing (accBad 0)).recomputeCore (accBad 0) (reduceNeed none) = some 0 ∧
    (accBad 0).tries = 0 ∧ (accBad 1).tries ≠ 0 ∧ (summing (accBad 0)).stagedSources 9 = [] ∧
    (({ accBad 0 with held := [{ addendZ with lost := true }] } : AccTile).held.any fun p => p.lost) = true := by
  refine ⟨rfl, ?_⟩
  decide +kernel

theorem wit_AccumulatorSteps_drain : (summing accAll).acc? 9 = some accAll ∧ (summing accAll).accWorks accAll = true ∧ accAll.allIn = true ∧
    accAll.chunk = none ∧ (summing accAll).run? 1 7 = some { reduce2 with issued := 1 } ∧
    (({ summing accAll with time := 5 } : State).imageRooms accAll.dests.length).2.isSome = true ∧
    (filling { summing accAll with pools := [] }).acc? 9 = some accAll ∧ (filling { summing accAll with pools := [] }).accWorks accAll = true ∧
    ((filling { summing accAll with pools := [], time := 5 }).imageRooms accAll.dests.length).2 = none := by
  refine ⟨rfl, ?_⟩
  decide +kernel

/-- A SCATTER_ACC of two updates with a segment limit of 4. -/
def scatter2 : Run := going 2 (runOf (desc 0x11 [(64, 0x1000), (32, 4), (32, 2), (64, 0x5000), (64, 0x1100)]))

/-- It holds the Atoll; the index of update 0 is k, the update tile has an outcome. -/
def holding (k : Word) (d : Dec) : Scatter := { Scatter.new 1 7 with indices := [(0, k)], tiles := [(0, d)] }

/-- The machine at that point. -/
def scattering (x : Scatter) : State := { busy [scatter2] with scatter := some x }

theorem wit_ScatterAndAtoll : (busy [scatter2]).working = true ∧ (busy [scatter2]).frontRun 1 (· == 0x11) = some scatter2 ∧
    (busy [scatter2]).run? 1 7 = some scatter2 ∧ (busy [scatter2]).portOpen scatter2.desc = true ∧ (busy [scatter2]).scat? 1 = none ∧
    (scattering (holding 3 .zero)).scat? 1 = some (holding 3 .zero) ∧ (holding 3 .zero).seq = scatter2.seq ∧
    up.atollMismatch = none ∧
    scatter2.sub / (1 + segsPerTile scatter2.rec2 / 16) * segsPerTile scatter2.rec2 < dCount scatter2.desc ∧
    (scattering (holding 3 .zero)).scatter = some (holding 3 .zero) ∧ (holding 3 .zero).draining = false ∧ (holding 3 .zero).limit = false ∧
    (holding 3 .zero).next < dCount scatter2.desc ∧ (holding 3 .zero).classify scatter2 0 = .nothing ∧
    (holding 4 .zero).classify scatter2 0 = .dropped ∧ ({ holding 3 .zero with next := 2 } : Scatter).updatesOver scatter2 = true ∧
    (holding 3 .zero).running = none ∧ (scattering (holding 3 .zero)).heldParts (holding 3 .zero) scatter2.rec1 = [] ∧
    (scattering { holding 3 .zero with spill := [(3, [])] }).heldParts { holding 3 .zero with spill := [(3, [])] } scatter2.rec1 = [0] := by
  decide +kernel

/-- A SCATTER_ACC that reads ahead, with its first update and without. -/
theorem wit_ScatterAndAtoll_reads : (let s := { busy [scatter2] with readers := [holding 3 .zero] }
    s.run? (holding 3 .zero).stream (holding 3 .zero).seq = some scatter2 ∧ s.readers = [holding 3 .zero] ∧
      (match (holding 3 .zero).classify scatter2 0 with | .waits => false | _ => true) = true ∧
      (match (Scatter.new 1 7).classify scatter2 0 with | .waits => true | _ => false) = true ∧
      (s.readers.find? fun y => y.stream == 1) = some (holding 3 .zero)) := by decide +kernel

/-- An update whose first element is 1.0, for a key that has an entry and for one that has none. -/
theorem wit_ScatterAndAtoll_enters : (match (holding 3 (.ok (0x80 :: 0x3F :: List.replicate 4094 0))).classify scatter2 0 with
      | .enters key vs => key == 3 && vs.length == 32
      | _ => false) = true ∧ up.keyFull 3 1 = false ∧
    (([] : List AtollEntry).find? fun e => e.bucket == atollBucket 3 && e.key == 3) = none ∧
    ((List.range 4).find? fun w => !([] : List AtollEntry).any fun e => e.bucket == atollBucket 3 && e.way == w) = some 0 ∧
    (([] : List AtollEntry).filter fun e => e.bucket == atollBucket 3).length < 4 ∧
    ([AtollEntry.fresh (atollBucket 3) 0 3 []].find? fun e => e.bucket == atollBucket 3 && e.key == 3).isSome = true := by decide +kernel

/-! ### Collectives -/

/-- A manifest from rank 3 to this cluster about chunk 0 of group 9, step 2. -/
def man3 (kind : Nat) (f : Man → Man) : List Byte := (f (Man.plain kind 3 0 9 2 0)).bytes

/-- The chunk of a SEND as it stands. -/
def chunkAt (st : ChunkState) (nacks sends : Nat) : SendChunk := { SendChunk.new 0 with st := st, nacks := nacks, sends := sends }

/-- The machine whose SEND has sent its chunk. -/
def sending (k : SendChunk) : State := sharing { going 1 (coll1 0x20 0) with issued := 1, doneUnits := 1 } { side true with send := [k] }

/-- The machine with a RECV of the chunk. -/
def expecting : State := sharing (going 8 (coll1 0x21 0)) (side false)

theorem wit_LinkMessages_bad : upX.linkOn 0 = true ∧ manOk 3 (List.replicate 192 0) = false ∧ manOk 4 (man3 2 id) = false ∧
    manOk 3 (man3 2 id) = true ∧ (Man.parse (man3 2 fun m => { m with dst := 1 })).dst ≠ upX.rankNo ∧ (Man.parse (man3 2 id)).dst = upX.rankNo := by
  decide +kernel

theorem wit_LinkMessages_answers : ((sending (chunkAt (.sent 0) 0 1)).sendOf 0 (Man.parse (man3 2 id))).map (·.2.2) = some (chunkAt (.sent 0) 0 1) ∧
    (sending (chunkAt (.sent 0) 0 1)).coll? 1 7 = some { side true with send := [chunkAt (.sent 0) 0 1] } ∧
    (Man.parse (man3 2 id)).kind = 2 ∧ (Man.parse (man3 3 id)).kind = 3 ∧ (Man.parse (man3 3 fun m => { m with nack := 3 })).nack = 3 ∧
    (Man.parse (man3 3 fun m => { m with nack := 2 })).nack = 2 ∧ (chunkAt (.sent 0) 1 1).nacks < 2 ∧ 2 ≤ (chunkAt (.sent 0) 2 1).nacks ∧
    (sending (chunkAt (.sent 0) 0 1)).run? 1 7 = some { going 1 (coll1 0x20 0) with issued := 1, doneUnits := 1 } ∧
    (0 : Nat) - dFirst (coll1 0x20 0).desc < 1 ∧ (chunkAt (.sent 0) 0 1).st ≠ .acked ∧ (chunkAt (.sent 0) 0 1).st ≠ .givenUp ∧
    (chunkAt (.sent 0) 0 1).st ≠ .reading := by
  decide +kernel

theorem wit_LinkMessages_notice : (Man.parse (man3 4 fun m => { m with pause := true })).kind = 4 ∧
    (expecting.noticeOf 0 (Man.parse (man3 4 fun m => { m with pause := true }))).isSome = true ∧
    (Man.parse (man3 4 fun m => { m with pause := true })).pause = true ∧ (Man.parse (man3 4 fun m => { m with pause := true })).late = false ∧
    (Man.parse (man3 4 fun m => { m with resumed := true })).resumed = true ∧ expecting.paused 3 = false := by decide +kernel

theorem wit_LinkMessages_chunk : (Man.parse (man3 1 id)).kind = 1 ∧ upX.recvOf 0 (Man.parse (man3 1 id)) = none ∧
    4 ≤ (List.replicate 4 (⟨3, [], []⟩ : LinkMsg)).length ∧
    expecting.recvOf 0 (Man.parse (man3 1 id)) = some (side false, going 8 (coll1 0x21 0)) ∧ expecting.coll? 1 7 = some (side false) ∧
    upX.paused 3 = false ∧ (Man.parse (man3 1 id)).late = false ∧
    (side false).accepted.contains (Man.parse (man3 1 id)).chunk = false ∧
    ({ side false with accepted := [0] } : Coll).accepted.contains (Man.parse (man3 1 id)).chunk = true ∧ ((side false).recv.filter fun k => !k.failed).length < 8 ∧
    (going 8 (coll1 0x21 0)).takesChunk (Man.parse (man3 1 id)).chunk = true ∧
    (Man.parse (man3 1 fun m => { m with failed := true })).failed = true ∧ (Man.parse (man3 1 id)).sectors = 0 ∧
    (Man.parse (man3 1 id)).tcrc = 0 := by decide +kernel

/-- A record of one tile of FP16. -/
def recOne : BitVec 1024 := BitVec.ofNat 1024
  (pack [(30, 1 + 2 ^ 25 * 1), (34, 0), (64, 0x40000), (32, 1), (32, 2048), (32, 1), (32, 1), (32, 1)])

/-- The RECV of its chunk. -/
def recvOne : Run := { going 1 (coll1 0x21 0) with rec1 := recOne }

/-- A payload with one ZERO tile: its entry, completed to a sector. -/
def zeroPayload : List Byte := leBytes 16 (2 ^ 62 + 2 ^ 64 * zeroCheck.toNat) ++ List.replicate 48 0

/-- Its manifest; the signature of a tile of zeros is 0 (09_collectives R351). -/
def manZ : List Byte := man3 1 fun m => { m with elem := 1, tiles := 1, sectors := 1, tcrc := crc64 zeroPayload }

/-- The tile as it is read from the payload. -/
def tilesZ : List (BitVec 128 × List Byte × Dec) :=
  (List.range (wireCount recOne (Man.parse manZ))).map ((sharing recvOne (side false)).wireTile 1 (recStride recOne) zeroPayload)

set_option maxRecDepth 100000 in
theorem wit_LinkMessages_data : (sharing recvOne (side false)).recvOf 0 (Man.parse manZ) = some (side false, recvOne) ∧
    manOk 3 manZ = true ∧ (Man.parse manZ).kind = 1 ∧ (Man.parse manZ).late = false ∧
    zeroPayload.length = 64 * (Man.parse manZ).sectors ∧ (Man.parse manZ).tcrc = (if zeroPayload = [] then 0 else crc64 zeroPayload) ∧
    (Man.parse manZ).failed = false ∧ wireFits recvOne (Man.parse manZ) = true ∧ (tilesZ.any fun x => x.2.2.isErr) = false ∧
    (Man.parse manZ).tiles = chunkTiles recOne (Man.parse manZ).chunk ∧
    recvOne.takesChunk (Man.parse manZ).chunk = true ∧ (sharing recvOne (side false)).spill? (.early 0 manZ) = none ∧
    (∀ i, i < 16 → tileSignature (if (Man.parse manZ).wide then 14 else (Man.parse manZ).elem)
      (((tilesZ.drop (perTransport (recType recOne) (Man.parse manZ).wide * i)).take (perTransport (recType recOne) (Man.parse manZ).wide)).map
        fun x => decImage x.2.2) = nth (Man.parse manZ).sigs i 0) ∧
    (sharing recvOne (side false)).harbourUse + zeroPayload.length ≤ harbourBytes 2 := by decide +kernel

/-- An answer waits at link port 0. -/
def waitingMsg : Bool × Nat × Nat × LinkMsg := (false, 65536, 0, ⟨3, [], []⟩)

theorem wit_CollectiveTimers_send : (upX.lports[(0 : Fin 2)].tx ++ [waitingMsg]).find? (fun x => !x.1 && !upX.paused x.2.2.2.rank) = some waitingMsg ∧
    ((sending (chunkAt (.noSpace 0) 0 1)).colls.filter fun x => x.stream == 1 && x.isSend) = [{ side true with send := [chunkAt (.noSpace 0) 0 1] }] ∧
    ([chunkAt (.noSpace 0) 0 1].find? fun k => k.chunk == 0) = some (chunkAt (.noSpace 0) 0 1) ∧ (chunkAt (.noSpace 0) 0 1).st = .noSpace 0 ∧
    0 + 10000 ≤ 10000 ∧ (chunkAt (.sent 0) 0 2).st = .sent 0 ∧ (sending (chunkAt (.sent 0) 0 2)).paused 3 = false ∧
    0 + (sending (chunkAt (.sent 0) 0 2)).collTimeout 0 + (sending (chunkAt (.sent 0) 0 2)).lateOf 3 ≤ 2000000 ∧ (chunkAt (.sent 0) 0 2).sends < 3 ∧
    3 ≤ (chunkAt (.sent 0) 0 3).sends := by decide +kernel

/-- The RECV at the head of its stream since time 0. -/
def recvHead : Run := { going 8 (coll1 0x21 0) with head := some 0 }

theorem wit_CollectiveTimers_recv : ((sharing recvHead (side false)).colls.filter fun x => x.stream == 1 && !x.isSend) = [side false] ∧
    recvHead.head = some 0 ∧ recvHead.takesChunk ((side false).nextOf recvHead) = true ∧ (side false).nextOf recvHead < dFirst recvHead.desc + dChunks recvHead.desc ∧
    max 0 (side false).timer + (sharing recvHead (side false)).collTimeout 0 + (sharing recvHead (side false)).lateOf (dPeer recvHead.desc) ≤ 2000000 ∧
    (side false).expiries < 2 ∧ 2 ≤ ({ side false with expiries := 2 } : Coll).expiries := by decide +kernel

/-- Group 1 in THERM_WARN since 100 us, with a rate of 1 GB/s that has been measured. -/
def warm1 : GroupTherm := ⟨1, .warn, some 1000000000, 640, 100000⟩

/-- A RECV that accumulates and did one tile in 10 ns before the warning. -/
def slow : Coll := { side false with before := some (10, 1) }

/-- The machine with it, and with the warned group. -/
def warming : State := { sharing (going 8 (coll1 0x21 1)) slow with therms := [warm1] }

theorem wit_ProjectionAndRate : (warming.colls.filter fun x => x.stream == 1) = [slow] ∧ warming.coll? 1 7 = some slow ∧
    warming.run? 1 7 = some (going 8 (coll1 0x21 1)) ∧ slow.isSend = false ∧ slow.lateSent = false ∧
    (warming.therms.any fun x => x.st == .warn) = true ∧ slow.projAt + 10000 ≤ 110000 ∧ 9999 < slow.projAt + 10000 ∧
    ({ warming with time := 110000 } : State).delayOf slow (going 8 (coll1 0x21 1)) = some 32688 ∧
    dSlack (coll1 0x21 1).desc < min (2 ^ 32 - 1) 32688 ∧
    ({ up with time := 110000 } : State).groupTherm 1 = ⟨1, .normal, none, 0, 110000⟩ ∧ (warming.groupTherm 1).st ≠ .normal ∧
    (warming.groupTherm 1).since + 10000 ≤ 110000 := by decide +kernel

/-- A RECV that has announced a delay of 100 ns, whose slack is 5,000 ns; and one whose announced delay still holds. -/
theorem wit_ProjectionAndRate_again : (let c := { slow with lateSent := true, late := 100 }
    ({ warming with colls := [c] } : State).coll? 1 7 = some c ∧
      ({ warming with colls := [c], time := 110000 } : State).delayOf c (going 8 (coll1 0x21 1)) = some 32688 ∧
      c.late < 32688 ∧ dSlack (coll1 0x21 1).desc ≤ 2 * (32688 - c.late)) ∧
    (let c := { slow with lateSent := true, late := 32688 }
     ({ warming with colls := [c] } : State).coll? 1 7 = some c ∧ 32688 ≤ c.late) ∧
    32688 ≤ dSlack (desc 0x21 [(64, 0x1000), (32, 0), (16, 1), (12, 3), (1, 0), (1, 0), (1, 1), (1, 0), (32, 9), (32, 2), (32, 40000)]) := by
  decide +kernel

/-- The SEND behind a RECV of stream 1: the same words with the next SEQ. -/
def pairS : Run := { going 1 (coll1 0x20 0) with desc := (coll1 0x20 0).desc + 2 ^ 64 }

/-- No group is warned, and the peer of the pair's RECV has announced 9,000 ns: the SEND passes them on. -/
theorem wit_ProjectionAndRate_pair : (let c := { Coll.new 1 8 true 0 none with paired := some 7 }
    let s := { wired upX with streams := [str [going 8 (coll1 0x21 0), pairS]], colls := [c], peerLate := [(3, 9000)] }
    pairS.seq = 8 ∧ (s.colls.filter fun x => x.stream == 1) = [c] ∧ s.coll? 1 8 = some c ∧ s.run? 1 8 = some pairS ∧
      ((s.pairedRecv c).map fun y => s.lateOf (dPeer y.desc)).getD 0 = 9000 ∧ (s.therms.any fun x => x.st == .warn) = false ∧
      c.projAt + 10000 ≤ 110000 ∧ dSlack pairS.desc < 9000 ∧ c.lateSent = false) := by decide +kernel

/-! ### Channels, thermal states and the Causeway -/

/-- An event: CODE, TARGET, ARG. -/
def event (code target arg : Nat) : Dword := BitVec.ofNat 64 (pack [(4, code), (12, target), (32, arg)])

theorem wit_ChannelEvents : up.evOn = true ∧ up.evBad (event 7 5 0) = true ∧ up.evBad (event 1 6 0) = true ∧ up.evBad (event 4 5 0) = true ∧
    up.evBad (event 1 5 9) = false ∧ evCode (event 1 5 9) = 1 ∧ up.evBad (event 3 5 0) = false ∧ up.evBad (event 4 1 0) = false ∧
    up.evBad (event 6 1 0) = false ∧ evCode (event 6 1 0) = 6 ∧ (up.chan 5).held = false ∧ up.therm 1 ≠ .warn ∧
    ({ up with therms := [⟨1, .warn, none, 0, 0⟩] } : State).therm 1 = .warn ∧ up.holdLimit 5 = some 10000 := by decide +kernel

theorem wit_ChannelEvents_hold : (channelled (fun c => { c with held := true }) up).holdLimit 5 = some 10000 ∧
    ((channelled (fun c => { c with held := true }) up).chan 5).held = true ∧
    ((channelled (fun c => { c with held := true }) up).chan 5).holdAt + (((channelled (fun c => { c with held := true }) up).chan 5).holdReps + 1) * 10000 ≤
      10000 ∧
    9999 < ((channelled (fun c => { c with held := true }) up).chan 5).holdAt + 1 * 10000 := by decide +kernel

/-- The registers name channel 5 and a list of one tensor record. -/
def mapping (s : State) : State := regd (fun r => { r with chanArg := 5, chanListLo := 0x2000, chanLcount := 1 }) s

/-- A Causeway of channel 5. -/
def causeway0 : Causeway := ⟨5, [], 0, false, none, none, 0, none, 0⟩

theorem wit_MapOutAndMapIn : (5 : Nat) = bits (mapping up).regs.chanArg.toNat 11 0 ∧ State.reset.chart.held = true ∧ (mapping up).ownPools 4 = [] ∧
    (mapping up).chart.held = false ∧ (mapping up).ownPools 5 ≠ [] ∧ ((channelled (fun c => { c with out := true }) up).chan 5).out = true ∧
    ((channelled (fun c => { c with out := true }) up).chan 5).unfinished = false ∧ (mapping up).causeway = none ∧ ((mapping up).chan 5).out = false ∧
    ((mapping up).listBytes != 0 && (mapping up).chanList % 64 == 0 && (mapping up).spanHeld (mapping up).chanList (mapping up).listBytes) = false ∧
    (let s := mapping (holdOn up)
     let u := regd (fun r => { r with chanListLo := 0x100000 }) s
     u.reached = true ∧ (u.chan 5).out = false ∧ u.ownPools 5 ≠ [] ∧ (u.listBytes != 0 && u.chanList % 64 == 0 && u.spanHeld u.chanList u.listBytes) = true) ∧
    (mapping up).badList ⟨[(0x2000, 64)], []⟩ = true ∧ (mapping up).badList ⟨[(0x2000, 128)], []⟩ = false ∧
    ({ up with causeway := some causeway0 } : State).causeway.isSome = true ∧
    ((channelled (fun c => { c with out := true, dead := true }) up).chan 5).dead = true ∧
    bits (1 : Word).toNat 1 0 = 1 ∧ bits (2 : Word).toNat 1 0 = 2 := by decide +kernel

/-- Memory that holds recT at 0x1000, and an entry and a presence bit of tile 0 or none. -/
def tensorImage (present : Bool) : Image :=
  ⟨(((List.range 128).map fun i => (0x1000 + i, BitVec.ofNat 8 (recT.toNat / 256 ^ i))) ++
    (if present then (((List.range 16).map fun i => (0x40000 + i, BitVec.ofNat 8 ((2 ^ 62 + 2 ^ 36 + 2 ^ 43) / 256 ^ i))) ++ [(0x40080, 1)])
     else [])).filter fun c => c.2 != 0, []⟩

/-- A Causeway at tile 0 of that tensor. -/
def causeway1 : Causeway := ⟨5, [0x1000], 0, false, none, none, 0, none, 0⟩

theorem wit_CausewaySteps : up.phase = .run ∧ up.portsUp = true ∧ up.spanLost (tensorImage true) 0x1000 128 = 0 ∧ causeway0.job = none ∧ up.pagesOn 5 = [] ∧ recHomeCluster recT = up.clusterNo ∧
    causeway0.askedAt < ({ up with time := 50000 } : State).epoch ∧ causeway0.list = [] ∧ up.residueOn 5 = 0 ∧
    ({ up with pools := [{ delaying with used := [(7, 1)] }] } : State).residueOn 5 ≠ 0 ∧
    causeway1.list = [0x1000] ∧ spanPoison (tensorImage true) 0x1000 128 = 0 ∧ imgRec (tensorImage true) 0x1000 = recT ∧
    recordBad up.poolIds recT = false ∧ ¬ recTiles recT ≤ causeway1.tile ∧ recTiles recT ≤ ({ causeway1 with tile := 8 } : Causeway).tile ∧
    imgPoison (tensorImage true) (presenceAddr recT 0) 8 = false ∧ (imgNat (tensorImage true) (presenceAddr recT 0) 8).testBit 0 = true ∧
    (imgNat (tensorImage false) (presenceAddr recT 0) 8).testBit 0 = false ∧ imgPoison (tensorImage true) (entryAddr recT 0) 16 = false ∧
    (let e := BitVec.ofNat 128 (imgNat (tensorImage true) (entryAddr recT 0) 16)
     entryFail e = 0 ∧ entState e = 1 ∧ onChannel pool0 5 (entAddr e) (entLen e) = true) ∧
    ((channelled (fun c => { c with dead := true }) up).chan 5).dead = true ∧
    ([0x1000, presenceAddr recT 0, entryAddr recT 0].all fun x => !(channelled (fun c => { c with dead := true }) up).readWaits x &&
      !(channelled (fun c => { c with dead := true }) up).deadAddr x) = true := by decide +kernel

theorem wit_CausewaySteps_space : ({ causeway1 with job := some 4 } : Causeway).job = some 4 ∧
    (asking [(0, 4096)]).pool? 0 = some pool0 ∧ (writing .spaceWait).wjob? 4 = some (write4 .spaceWait) ∧ (write4 .spaceWait).stage = .spaceWait ∧
    (write4 .spaceWait).request = some (0, [(0, 1)]) := by decide +kernel

/-! ### The Chart -/

/-- A section: TAG, version 1, its length, its check and its body (12_chart Table 12-2). -/
def section_ (tag : Nat) (body : List Byte) : List Byte :=
  leBytes 16 (pack [(16, tag), (8, 1), (8, 0), (32, body.length), (32, (crc32c body).toNat)]) ++ body

/-- A Chart: its header, its sections and its seal (12_chart Tables 12-1, 12-3). -/
def chartBytes (upd : Nat) (l : List (Nat × List Byte)) : List Byte :=
  let data := leBytes 16 (pack [(32, 0x48434A44), (8, 1), (2, upd), (22, 0), (32, 77)]) ++ (l.map fun x => section_ x.1 x.2).flatten
  data ++ leBytes 32 (pack [(32, 0x4C414553), (16, l.length), (16, 0), (32, data.length + 32), (16, 0x7E1A), (16, 0), (16, 0x4201),
    (16, 0x4201), (32, 0), (64, (crc64 data).toNat)])

/-- A FULL Chart of core 0 with memory port 0 and one pool. -/
def fullChart : List Byte := chartBytes 0
  [(1, leBytes 16 0), (2, leBytes 16 (1 + 2 ^ 32 * 0xF)), (3, leBytes 64 0), (4, leBytes 8 0x0101),
    (5, leBytes 64 (pack [(16, 1), (16, 1), (96, 0), (16, 0), (16, 0), (10, 1), (22, 0), (64, 0x100000), (64, 4096), (64, 0x80000), (32, 5),
      (36, 0), (36, 4096)])),
    (6, leBytes 136 0), (9, leBytes 136 1), (0xA, leBytes 16 1000), (0xB, leBytes 16 0), (0xC, leBytes 16 0)]

/-- An UPDATE of the seed 0: IDENT with BASE_ID 0 and TEST. -/
def updateChart : List Byte := chartBytes 1 [(1, leBytes 16 0), (0xB, leBytes 16 0)]

/-- The machine that loads these bytes. -/
def validating (upd : Bool) (b : List Byte) (s : State) : State :=
  { s with chart := { s.chart with load := .validating, isUpdate := upd, staged := b } }

theorem wit_ChartLoad_start : up.reached = true ∧ bits (1 : Word).toNat 1 0 = 1 ∧ ({ up with lc := 4 } : State).startCode = 5 ∧
    (regd (fun r => { r with chartCtl := 1 }) State.reset).startCode = 3 ∧ State.reset.startCode = 0 ∧
    (regd (fun r => { r with chartCtl := 2, chartLen := 7 }) State.reset).startCode = 4 ∧
    ({ up.chart with load := .loading } : ChartSt).dmaLeft = 0 ∧ ([] : List Byte).length + 4 ≤ chartLimit false ∧
    chartLimit true < (131072 - 3) + 4 ∧ up.chart.load ≠ .loading ∧ bits (2 : Word).toNat 1 0 = 2 ∧ bits (3 : Word).toNat 1 0 = 3 ∧
    up.chartPieces = [] := by
  decide +kernel

set_option maxRecDepth 100000 in
/-- No bytes, a whole Chart, and an UPDATE of the Chart in force. -/
theorem wit_ChartLoad_validate : (validating false [] State.reset).chart.load = .validating ∧ up.cluster.st = .on ∧
    (match validateChart ⟨up.params, up.retiredCores, none, []⟩ false false [] with | .error f => f.reason == 0x70 | .ok _ => false) = true ∧
    (match validateChart ⟨up.params, up.retiredCores, none, []⟩ false false fullChart with
      | .ok x => x.1.pools == [⟨0, false, 0, 2000, 0x100000, 4096, 0x80000, [⟨5, 0, 0, 4096⟩]⟩] && x.1.chartId == 77
      | .error _ => false) = true ∧
    (match validateChart ⟨up.params, up.retiredCores, some chart0, []⟩ true false updateChart with
      | .ok x => x.2 == [1, 0xB]
      | .error _ => false) = true := by decide +kernel

set_option maxRecDepth 100000 in
/-- The allocation map of that Chart lies at 0x80000, on no channel; one that lies on a held channel waits. -/
theorem wit_ChartLoad_held : (match validateChart ⟨up.params, up.retiredCores, none, []⟩ false false fullChart with
      | .ok x => !State.reset.mapsHeld x.1 && (holdOn State.reset).mapsHeld { x.1 with pools := [{ pool0 with mapBase := 0x100000 }] }
      | .error _ => false) = true := by decide +kernel

/-- An UPDATE that waits to be switched to. -/
def switching : State := { up with chart := { up.chart with load := .switching, update := some (chart0, true, [1, 7]) } }

theorem wit_ChartLoad_switch : switching.chart.update = some (chart0, true, [1, 7]) ∧ switching.enginesEmpty = true ∧
    ({ reading (.onEngine 0 0) with chart := switching.chart } : State).enginesEmpty = false := by decide +kernel

/-! ### Errors, service and stalls -/

/-- The machine with an open service request. -/
def serviced : State := { up with err := { up.err with svcOpen := true, svcRecs := [0], svcNext := 100 } }

theorem wit_ErrorCommands : up.regsOpen = true ∧ up.clksLost [.hclk] = false ∧ (laterSeq 1 up.err.ack && !laterSeq 1 up.err.head) = true ∧
    (laterSeq 0 up.err.ack && !laterSeq 0 up.err.head) = false ∧ (laterSeq 2 up.err.ack && !laterSeq 2 up.err.head) = false ∧
    serviced.err.svcOpen = true ∧ serviced.err.svcRecs.contains 0 = true ∧ serviced.err.svcRecs.contains 1 = false ∧ up.powered = true ∧
    serviced.err.svcNext ≤ 100 ∧ up.err.ceStart + up.ceWindow ≤ 3600000000000 ∧ 3599999999999 < up.err.ceStart + up.ceWindow ∧
    up.err.mgq = [Rec.noChart0] := by decide +kernel

/-- Stream 1 stalled for space, and for a core. -/
def stalled (core : Bool) : State :=
  { (if core then coreIn ⟨.off, .idle⟩ else up) with
    streams := [{ str [expand4] with stallSpill := some (0, 0), stallRole := some (0, 0, 0) }]
    rjobs := [read6 .ready] }

theorem wit_ErrorCommands_stalls : ((stalled false).stream? 1).bind Stream.stallSpill = some (0, 0) ∧
    0 + (stalled false).svcAfter 0 ≤ 60000000000 ∧ 59999999999 < 0 + (stalled false).svcAfter 0 ∧
    ((stalled true).stream? 1).bind Stream.stallRole = some (0, 0, 0) ∧
    (((stalled true).stream? 1).bind (stalled true).lacksCore).isSome = true := by decide +kernel

/-! ### Field test -/

/-- The machine with a Ferry interval of 5 s. -/
def ferrying (s : State) : State := { s with chart := { s.chart with applied := some { chart0 with ferryInterval := 5 } } }

/-- A test of core 0 at a part. -/
def testAt (part : Nat) : CoreTest := { CoreTest.new 0 2 true true true 1 with part := part }

theorem wit_FieldTestCommands : (ferrying up).phase = .run ∧ (ferrying up).chartVal Chart.ferryInterval 0 ≠ 0 ∧
    ((ferrying up).test.waiting.any fun x => x.cause == 0) = false ∧ (testAt 4).core < 17 ∧
    (ferrying up).test.ferryAt + (ferrying up).chartVal Chart.ferryInterval 0 * 1000000000 ≤ 5000000000 ∧
    4999999999 < (ferrying up).test.ferryAt + (ferrying up).chartVal Chart.ferryInterval 0 * 1000000000 ∧
    up.chartVal Chart.ferryInterval 0 = 0 ∧ up.test.running = none ∧ (testAt 4).core = (0 : Fin 16).val ∧ up.eligibleCore 0 = true ∧
    up.testReady (testAt 4) 0 = true ∧ (testAt 0).part = 0 ∧ (testAt 1).part = 1 ∧ (testAt 1).core < 16 ∧
    up.spareCovers 3 [(1, 1), (2, 2), (3, 3), (4, 4)] = [] ∧ up.spareCovers 3 [(1, 1)] ≠ [] ∧ (testAt 2).part = 2 := by decide +kernel

/-- A package of 8 bytes for a SCAN part, whose digest is right, and one for a descriptor that is not complete. -/
theorem wit_FieldTestCommands_package :
    (let m := leBytes 16 0 ++ leBytes 8 8 ++ sha384 (List.replicate 8 0) ++ List.replicate 56 0
     manLength m ≤ (List.replicate 8 (0 : Byte)).length ∧ sha384 (List.replicate 8 0) = manDigest m ∧
       sha384 (List.replicate 8 1) ≠ manDigest m ∧ (([] ++ List.replicate 4 (0 : Byte)).take (manLength m)).length < manLength m ∧
       (packageFails 0 m (([] ++ List.replicate 8 (0 : Byte)).take (manLength m)) false).isSome = true) ∧
    up.accessOpen (.directScan 0) = false ∧ up.accessOpen (.bist none) = true ∧ up.powered = true ∧ up.test.lastRefusal = none := by decide +kernel

/-- A package of no tiles and no patterns, with PACKAGE_ID 5 and VERSION 6, for DJ4-C (14_field_test Table 14-5). -/
def pkg0 : List Byte := leBytes 64 (pack [(32, 0x4B504A44), (8, 1), (24, 0), (16, 5), (16, 6), (16, 0x4201), (16, 0x4201), (32, 0), (32, 0), (3, 1)])

/-- The manifest of a package (Table 14-4). -/
def manOf (b : List Byte) : List Byte :=
  leBytes 16 (pack [(32, 0x4D504A44), (16, 5), (16, 6), (64, 0x700)]) ++ leBytes 8 b.length ++ sha384 b ++ List.replicate 56 0

theorem wit_FieldTestCommands_good : packageFails 0 (manOf pkg0) pkg0 false = none ∧ manLength (manOf pkg0) = 64 ∧
    manOffset (manOf pkg0) = 0x700 ∧ (PkgLoad.new (some 1) (manOf pkg0)).len = 64 ∧ packageScan pkg0 [] = [] ∧
    sha384 pkg0 = manDigest (manOf pkg0) := by decide +kernel

/-- The image of a tile with one pattern of one chain of one cell: EXPECT 0, MASK 1 (Table 14-6). -/
def patternImg : List Byte := leBytes 32 (2 ^ 32 + 2 ^ 35 + 2 ^ 44 + 2 ^ 144) ++ List.replicate 4064 0

/-- A package of that tile, stored RAW. -/
def pkg1 : List Byte :=
  leBytes 64 (pack [(32, 0x4B504A44), (8, 1), (24, 0), (16, 5), (16, 6), (16, 0x4201), (16, 0x4201), (32, 1), (32, 1), (3, 1)]) ++
    leBytes 64 (2 + 2 ^ 36 * 64 + 2 ^ 43 * 2 + 2 ^ 62 + 2 ^ 64 * (crc64 patternImg).toNat) ++ patternImg

set_option maxRecDepth 100000 in
/-- The cell is seen as 1, as 0, and not at all. -/
theorem wit_FieldTestCommands_scan : packageScan pkg1 [⟨0, [1]⟩] = [(0, 0, 1)] ∧ packageScan pkg1 [⟨0, [0]⟩] = [] ∧ packageScan pkg1 [] = [] := by
  decide +kernel

/-! A manifest names the digest and the length of its package, whatever the package holds. -/


theorem shaBlock_length (hs : List Dword) (b : List Byte) (h : hs.length = 8) : (shaBlock hs b).length = 8 := by simp [shaBlock, h]

theorem shaFold_length (l : List (List Byte)) (hs : List Dword) (h : hs.length = 8) : (l.foldl shaBlock hs).length = 8 := by
  induction l generalizing hs with
  | nil => exact h
  | cons b l ih => exact ih _ (shaBlock_length hs b h)

theorem leBytes_length (n x : Nat) : (leBytes n x).length = n := by
  induction n generalizing x with
  | zero => rfl
  | succ n ih => simp [leBytes, ih]

theorem sha384_length (l : List Byte) : (sha384 l).length = 48 := by
  have h : ((groupsOf 128 ((shaPad l).length / 128) (shaPad l)).foldl shaBlock shaInit).length = 8 := shaFold_length _ _ rfl
  simp [sha384, List.length_flatMap, leBytes_length, h]

theorem leNat_leBytes (n x : Nat) : leNat (leBytes n x) = x % 256 ^ n := by
  induction n generalizing x with
  | zero => simp [leBytes, leNat, Nat.mod_one]
  | succ n ih =>
    have h : 256 ^ (n + 1) = 256 * 256 ^ n := by ring
    rw [h, Nat.mod_mul, ← ih]; rfl

theorem leNat_append (a b : List Byte) : leNat (a ++ b) = leNat a + 256 ^ a.length * leNat b := by
  induction a with
  | nil => simp [leNat]
  | cons x a ih => simp [leNat, ih, Nat.pow_succ, Nat.mul_add]; ring

/-- Of every package that LENGTH can name. -/
theorem manOf_names (b : List Byte) (h : b.length < 2 ^ 32) : manDigest (manOf b) = sha384 b ∧ manLength (manOf b) = b.length := by
  have hl := sha384_length b
  constructor
  · simp [manDigest, manOf, slice, List.drop_append, leBytes_length, hl, List.take_append]
  · simp only [manLength, byteBits, bits, manOf, List.append_assoc]
    rw [leNat_append, leNat_append]
    rw [leNat_append, leNat_leBytes, leNat_leBytes, leBytes_length, leBytes_length]
    generalize leNat (sha384 b ++ List.replicate 56 0) = d
    norm_num [pack]
    omega

theorem patternImg_length : patternImg.length = 4096 := by rw [patternImg, List.length_append, leBytes_length, List.length_replicate]

theorem pkg1_length : pkg1.length = 4224 := by
  rw [pkg1, List.length_append, List.length_append, leBytes_length, leBytes_length, patternImg_length]

theorem digest_right (b : List Byte) (h : b.length < 2 ^ 32) (h8 : b.length % 8 = 0) :
    sha384 (b.take (manLength (manOf b))) = manDigest (manOf b) ∧ (PkgLoad.new none (manOf b)).len = b.length := by
  have n := manOf_names b h
  refine ⟨by rw [n.1, n.2, List.take_length], ?_⟩
  simp only [PkgLoad.new, n.2, ceilDiv]
  omega

theorem wit_FieldTestCommands_digest : sha384 (pkg1.take (manLength (manOf pkg1))) = manDigest (manOf pkg1) ∧
    (PkgLoad.new none (manOf pkg1)).len = pkg1.length := digest_right pkg1 (by rw [pkg1_length]; decide) (by rw [pkg1_length])

/-! ### Registers -/

theorem wit_RegisterAccesses : up.reached = true ∧ bit (1 : Word).toNat 0 = true ∧ (0x40040 : BitVec 20).toNat % 64 = 0 ∧
    0x40000 ≤ (0x40040 : BitVec 20).toNat ∧ (0x40040 : BitVec 20).toNat < 0x80000 ∧ goodSize 0x20000 0xF = true ∧
    reaches .host (0x20000 : BitVec 20).toNat = true ∧ isLo (0x20000 : BitVec 20).toNat = true ∧
    ({ up with time := 5 } : State).readReg 0x20000 = some 0 ∧ ({ up with time := 5 } : State).readReg (0x20000 + 4) = some 0 ∧
    goodSize 0x20002 0xF = false ∧ goodSize 0x20000 0x3 = false ∧ mgWrites (0x014 : BitVec 20).toNat = false ∧
    ({ up with time := 5 } : State).readReg (0x6000 : BitVec 20).toNat = none ∧ (up.regs.store (0x014 : BitVec 20).toNat 9).isSome = true := by
  decide +kernel

theorem wit_PlainCommandsKeepRegisters : ∃ t, PlainCommand (.ceWindowExpiry 1) ∧ exec (.ceWindowExpiry 1) up = .next t := ⟨_, trivial, rfl⟩

/-! ### What the commands do in those states -/

/-- One record has been sent, with this reason and severity. -/
def sent (s u : State) (r : Nat) (sv : Sev) : Bool :=
  u.err.head == s.err.head + 1 && u.err.log.getLast?.any fun x => x.reason == r && decide (x.sev = sv) && x.recSeq == s.err.head

theorem test_sramWipeDone_1 : Settles (.sramWipeDone 9 .cold) { up with phase := .coldWipe } fun u => u.phase = .run ∧
    u.err.head = 2 ∧ (u.err.log.getLast?.map Rec.reason) = some 0x7C := ⟨_, rfl, by decide +kernel⟩

theorem test_currentRampDone_1 : Settles (.currentRampDone 9 .warm) { up with phase := .warm .rampWipe 0 0, power := {
    up.power with leadOver := true, target := 7, ballast := true } } fun u => u.phase = .warm .wipe 0 0 ∧ u.power.est = 7 ∧
    u.power.ballast = false := ⟨_, rfl, by decide +kernel⟩

theorem test_sramWipeDone_2 : Settles (.sramWipeDone 9 .warm) { up with phase := .warm .wipe 0 3, streams := [str []] } fun u
    => u.phase = .warm .rampHeld 0 3 ∧ u.streams = [] ∧ u.dirCache = [] := ⟨_, rfl, by decide +kernel⟩

theorem test_currentRampDone_3 : Settles (.currentRampDone 9 (.fn (.core 0))) (coreIn ⟨.shutting, .ramp⟩) fun u => u.fn?
    (.core 0) = some ⟨.shutting, .wipe⟩ := ⟨_, rfl, by decide +kernel⟩

theorem test_shutDownCompletes_1 : Settles (.shutDownCompletes 9 (.core 0)) (coreIn ⟨.shutting, .wiped⟩) fun u => u.fn? (.core
    0) = some ⟨.off, .idle⟩ := ⟨_, rfl, by decide +kernel⟩

theorem test_shutDownCompletes_2 : Settles (.shutDownCompletes 9 (.core 0)) (coreIn ⟨.pendingOn, .wiped⟩) fun u => u.fn?
    (.core 0) = some ⟨.on, .idle⟩ := ⟨_, rfl, by decide +kernel⟩

/-- A descriptor whose reopening a CLOSE discarded completes on the queue that fetched it (R199). -/
theorem test_refused : Settles (.shutDownCompletes 9 (.stream 1))
    { up with streams := [{ str [] with fn := ⟨.shutting, .wiped⟩, refused := [(3, desc 1 [])] }] }
    fun u => (u.queue 3).early = [(desc 1 [], 0x12)] ∧ u.stream? 1 = none := ⟨_, rfl, by decide +kernel⟩

theorem test_fnDisable_1 : Settles (.fnDisable 9 2 none) up fun u => u.fn? (.core 0) = some ⟨.shutting, firstStage (.core 0)⟩ ∧
    u.regs.fnResult = 0 := ⟨_, rfl, by decide +kernel⟩

theorem test_fnReset_1 : Settles (.fnReset 9 3 none) up fun u => u.fn? (.core 0) = some ⟨.pendingOn, firstStage (.core 0)⟩ ∧
    u.regs.fnResult = 1 := ⟨_, rfl, by decide +kernel⟩

theorem test_fnEnable_1 : Settles (.fnEnable 9 1 none) (coreIn ⟨.shutting, .ramp⟩) fun u => u.fn? (.core 0) = some ⟨.pendingOn,
    .ramp⟩ ∧ u.regs.fnResult = 1 := ⟨_, rfl, by decide +kernel⟩

theorem test_clusterDisable_1 : Settles (.clusterDisable 9 .host none) up fun u => u.cluster = ⟨.shutting, .before⟩ ∧ u.chart.drain
    = some (.disable (portCode .host)) ∧ u.regs = up.regs := ⟨_, rfl, by decide +kernel⟩

theorem test_clusterEnable_1 : Settles (.clusterEnable 9 .host none) { up with cluster := Fn.isOff } fun u => u.cluster = Fn.isOn ∧
    u.chart.held = true ∧ u.chart.applied = none ∧ u.err.head = 2 := ⟨_, rfl, by decide +kernel⟩

theorem test_drainDone_1 : Settles (.drainDone 9) { up with chart := { up.chart with drain := some (.updateFailed 0x70) } }
    fun u => u.chart.held = true ∧ u.chart.reason = 0x70 ∧ u.chart.applied = none ∧ (List.finRange 64).all (fun q => (u.queue
    q).enable = false) := ⟨_, rfl, by decide +kernel⟩

theorem test_openStream_1 : Settles (.openStream 9 1 none) (opening 2 up) fun u => u.regs.sctlResult = 0 ∧ (u.stream? 1).any (fun x
    => x.fn = ⟨.on, .idle⟩ ∧ x.runs = [] ∧ x.expectSeq = 0 ∧ x.weight = 1 ∧ x.queue = 0 ∧ x.pin ∧ !x.deadline ∧ x.windowUs = 0
    ∧ x.lateness = 0 ∧ x.lastCmpl = 9) := ⟨_, rfl, by decide +kernel⟩

theorem test_closeStream_1 : Settles (.closeStream 9 2 none) (opening 0 (busy [runOf (desc 1 [(64, 0x1000), (32, 2), (32, 4)])]))
    fun u => u.regs.sctlResult = 0 ∧ (u.stream? 1).any (fun x => x.fn = ⟨.shutting, .before⟩ ∧ x.runs.length = 1) := ⟨_, rfl,
    by decide +kernel⟩

theorem test_clock_lost : exec (.qtailWrite 5 0 9 none) (regd (fun r => { r with clkStat := 0x40 }) up) =
    .next { regd (fun r => { r with clkStat := 0x40 }) up with time := 5 } := rfl

theorem test_resume_1 : Settles (.resume 5 1) (stopped (some stop6)) fun u => (u.run? 1 7).any (fun y => y.started ∧ y.total =
    2 ∧ y.cont = some stop6) = true := ⟨_, rfl, by decide +kernel⟩

theorem test_resume_2 : Settles (.resume 5 1) (stopped none) fun u => (u.run? 1 7).any (fun y => y.finished ∧ y.status = 0x18)
    = true := ⟨_, rfl, by decide +kernel⟩

theorem test_fenceStreams_1 : Settles (.fenceStreams 5 1) (beside fence2 (some 4)) fun u => (u.headRun 1).any (fun y =>
    y.finished) = true := ⟨_, rfl, by decide +kernel⟩

theorem test_fenceStreams_2 : Settles (.fenceStreams 5 1) (busy [fence2]) fun u => (u.headRun 1).any (fun y => y.finished ∧
    y.flags.fenceBroken) = true := ⟨_, rfl, by decide +kernel⟩

theorem test_fenceBarrier_1 : Settles (.fenceBarrier 5 1) (busy [barrier5 2]) fun u => (u.barriers.any fun b => b.group = 1 ∧
    b.epoch = 5 ∧ b.count = 2 ∧ b.members = [1] ∧ !b.isDone) = true ∧ (u.headRun 1).any (fun y => !y.finished ∧ y.started) =
    true := ⟨_, rfl, by decide +kernel⟩

theorem test_fenceBarrier_2 : Settles (.fenceBarrier 5 1) (busy [barrier5 1]) fun u => (u.headRun 1).any (fun y => y.finished
    ) = true := ⟨_, rfl, by decide +kernel⟩

theorem test_wipeStreamData_1 : Settles (.wipeStreamData 5 1) (busy [wipe 0]) fun u => (u.headRun 1).any (fun y => y.finished)
    = true  := ⟨_, rfl, by decide +kernel⟩

theorem test_wipeIdleSram_1 : Settles (.wipeIdleSram 5 1) {busy [wipe 2] with dirCache := [(0,0)]} fun u => u.dirCache = [] ∧
    (u.headRun 1).any (fun y => y.finished) = true  := ⟨_, rfl, by decide +kernel⟩

theorem test_wipeCore_1 : Settles (.wipeCore 5 1) (busy [wipe 1]) fun u => (u.core 0).fn = ⟨.pendingOn, .ramp⟩ ∧ (u.headRun
    1).any (fun y => y.started ∧ !y.finished) = true  := ⟨_, rfl, by decide +kernel⟩

theorem test_wipeCore_2 : Settles (.wipeCore 5 1) {busy [wipe 1] with cores := (coreIn ⟨.off,.idle⟩).cores} fun u =>
    (u.headRun 1).any (fun y => y.started ∧ !y.finished ∧ y.sub = 1) = true  := ⟨_, rfl, by decide +kernel⟩

/-- A test waits behind the one that runs, and its descriptor has started. -/
def tw (x : CoreTest) (u : State) : Bool := u.test.running = some ferry0 ∧ u.test.waiting.contains x ∧ (u.headRun 1).any (fun
  y => y.started)

theorem test_testLbist_1 : Settles (.testLbist 5 1) (tested (testing 0 0 0)) fun u => tw (CoreTest.new 0 2 true false false 1)
    u = true := ⟨_, rfl, by decide +kernel⟩

theorem test_testMbist_1 : Settles (.testMbist 5 1) (tested (testing 1 0 0)) fun u => tw (CoreTest.new 0 2 false true false 1)
    u = true := ⟨_, rfl, by decide +kernel⟩

theorem test_testMbistShared_1 : Settles (.testMbistShared 5 1) (tested (testing 1 255 0)) fun u => tw (CoreTest.new 16 2
    false true false 1) u = true := ⟨_, rfl, by decide +kernel⟩

theorem test_testMbistShared_2 : Settles (.testMbistShared 5 1) { beside (testing 1 255 0) none with test := { up.test with
    running := some ferry0 } } fun u => u.test.waiting = [] ∧ (u.headRun 1).any (fun y => y.finished ∧ y.status = 0x14) = true
    := ⟨_, rfl, by decide +kernel⟩

theorem test_ferryNow_1 : Settles (.ferryNow 5 1) (tested (testing 2 0 0)) fun u => tw (CoreTest.new 0 2 true true true 1) u =
    true := ⟨_, rfl, by decide +kernel⟩

/-- A core test that starts at once: the core shuts down for it. -/
def starts (x : CoreTest) (u : State) : Bool := u.test.running = some x ∧ u.test.waiting = [] ∧ (u.core 0).fn = ⟨.pendingOn, .before⟩ ∧
  (u.headRun 1).any (fun y => y.started ∧ !y.finished)

theorem test_testLbist_2 : Settles (.testLbist 5 1) (busy [testing 0 0 0]) fun u => starts (CoreTest.new 0 2 true false false 1) u = true :=
  ⟨_, rfl, by decide +kernel⟩

theorem test_testMbist_2 : Settles (.testMbist 5 1) (busy [testing 1 0 0]) fun u => starts (CoreTest.new 0 2 false true false 1) u = true :=
  ⟨_, rfl, by decide +kernel⟩

theorem test_ferryNow_2 : Settles (.ferryNow 5 1) (busy [testing 2 0 0]) fun u => starts (CoreTest.new 0 2 true true true 1) u = true :=
  ⟨_, rfl, by decide +kernel⟩

theorem test_testMbistShared_3 : Settles (.testMbistShared 5 1) (busy [testing 1 255 0]) fun u => u.test.running =
    some { CoreTest.new 16 2 false true false 1 with part := 1 } ∧ u.test.waiting = [] := ⟨_, rfl, by decide +kernel⟩

theorem test_loadPackage_1 : Settles (.loadPackage 5 1 manImage none) (busy [testing 3 0 0x800]) fun u => u.test.pkg = some ⟨some
    1, imgRead manImage 0x800 128, [], false, 0, 64⟩ ∧ (u.headRun 1).any (fun y => y.started) = true := ⟨_, rfl, by decide +kernel⟩

theorem test_lifecycle_1 : Settles (.lifecycle 5 1) (beside life3 none) fun u => u.chart.drain = some (.life 1 3) ∧ u.lc = 2 ∧
    (u.stream? 2).any (fun y => y.fn.st = .shutting) = true ∧ (u.headRun 1).any (fun y => y.started) = true := ⟨_, rfl, by
    decide +kernel⟩

theorem test_memoryReadResponse_1 : Settles (.memoryReadResponse 5 1 5 ⟨[],[]⟩ []) (answered .read (.presence 6) (reading
    .presence)) fun u => u.rjobs = [] ∧ (u.dports[0].units.any fun v => v.stream = 1 ∧ v.seq = 7 ∧ v.unit = 0 ∧ v.decoded ∧
    !v.poison) = true := ⟨_, rfl, by decide +kernel⟩

theorem test_memoryReadResponse_2 : Settles (.memoryReadResponse 5 1 5 ⟨[],[]⟩ []) (answered .read (.payload 6 0) (reading
    (.payload 2))) fun u => (u.rjobs.map (·.stage)) = [.payload 1] := ⟨_, rfl, by decide +kernel⟩

theorem test_memoryWriteResponse_1 : Settles (.memoryWriteResponse 5 1 5 false none) (answered .write (.partWrite 4 0) (writing
    .writing)) fun u => (u.wjob? 4).any (fun v => v.parts = (write4 .writing).parts.modify 0 fun p => { p with acks := 1 }) =
    true := ⟨_, rfl, by decide +kernel⟩

/-- Once the second half of a record is acknowledged, its queue's bit of DJ_CQ_PEND is set (R547). -/
theorem test_completion_interrupt : Settles (.memoryWriteResponse 5 1 5 false none) (answered .write16 (.cmpl (.early 2) 0x3000 [] (some 2) ⟨7, none⟩) up)
    fun u => u.regs.cqPend = 4 := ⟨_, rfl, by decide +kernel⟩

theorem test_memoryWriteResponse_2 : Settles (.memoryWriteResponse 5 1 5 true none) (answered .write (.partWrite 4 0) (writing
    .writing)) fun u => u.wjobs = (writing .writing).wjobs ∧ ((u.reqs ++ u.holdq).any fun z => z.addr = 0x40000 ∧ z.purpose =
    .partWrite 4 0) = true := ⟨_, rfl, by decide +kernel⟩

theorem test_deliveryBeat_1 : Settles (.deliveryBeat 5 0 []) (offering false) fun u => u.dports[0].bus = none ∧
    u.dports[0].last = some (0, [], []) ∧ u.dports[0].stall = none ∧ (u.dports[0].units.find? fun x => x.id == 8) = some {
    unit8 false with next := 1 } := ⟨_, rfl, by decide +kernel⟩

theorem test_deliveryBeat_2 : Settles (.deliveryBeat 5 0 []) (offering true) fun u => u.dports[0].bus = none ∧
    u.dports[0].units = [] ∧ (u.run? 1 7).any (fun y => y.outCount = 1 ∧ y.errTiles = 0) = true := ⟨_, rfl, by decide +kernel⟩

theorem test_intakeBeat_1 : Settles (.intakeBeat 5 0 1 (List.replicate 512 1) []) intake fun u => (u.wjob? 4).any (fun v =>
    v.data = List.replicate 512 1) = true ∧ (u.stream? 1).any (fun v => v.beat = 1) = true ∧ u.iports[0].wait = none := ⟨_,
    rfl, by decide +kernel⟩

theorem test_intakeBeat_2 : Settles (.intakeBeat 5 0 0x80001 (List.replicate 512 1) []) intake fun u => (u.wjob? 4).any (fun v
    => v.fail = some 0x42) = true := ⟨_, rfl, by decide +kernel⟩

theorem test_checkerOutcome_1 : Settles (.checkerOutcome 5 0 (some (.image [1])) []) (checkingAs (.checking 0)) fun u => (u.wjob?
    4).any (fun v => v.parts.all fun q => q.verify = .passed) = true ∧ (u.core 0).chkN = 1 ∧ u.err = up.err := ⟨_, rfl, by
    decide +kernel⟩

theorem test_thirdEvaluation_1 : Settles (.thirdEvaluation 5 0 (some (.image [1])) []) (checkingAs (.third 1 0 (.error 1))) fun u
    => (u.wjob? 4).any (fun v => v.parts.all fun q => q.verify = .passed) = true ∧ (u.err.log.any fun r => r.reason = 6 ∧
    r.recSeq = 1) = true := ⟨_, rfl, by decide +kernel⟩

theorem test_thirdEvaluation_2 : Settles (.thirdEvaluation 5 0 (some (.error 1)) []) (checkingAs (.third 1 0 (.error 1))) fun u
    => (u.wjob? 4).any (fun v => v.stage = .space ∧ v.parts.all fun q => q.state = 2 ∧ q.payload = q.img) = true ∧
    (u.err.log.any fun r => r.reason = 7 ∧ r.recSeq = 1) = true := ⟨_, rfl, by decide +kernel⟩

theorem test_allocationRequest_2 : Settles (.allocationRequest 5 4) { asking [] with pools := [⟨0, [], [], [(0, 0, 64)],
    0, []⟩] } fun u => (u.wjob? 4).any (fun v => v.stage = .spaceWait) = true ∧ (u.poolSt? 0).any (fun q => q.free = [] ∧
    q.waiting = [4]) = true := ⟨_, rfl, by decide +kernel⟩

theorem test_dieRingCommit_1 : Settles (.dieRingCommit 5 rc1 []) up fun u => u.commits.map (fun d => (d.remote, d.job, d.tile,
    d.entryAddr, d.entry, d.seq)) = [(some 1, 9, 2, 0x40020, 1, 7)] ∧ u.commits.all (fun d => !d.written) = true := ⟨_, rfl,
    by decide +kernel⟩

theorem test_dieRingCommit_2 : Settles (.dieRingCommit 5 rc1 []) (ringed State.reset) fun u => u.ring = [.answer 1 9 .unavailable] ∧
    u.commits = [] := ⟨_, rfl, by decide +kernel⟩

theorem test_dieRingSectorRequest_1 : Settles (.dieRingSectorRequest 5 request1 none) (ringed State.reset) fun u => u.ring = [.answer 1 9
    .unavailable] ∧ u.pools = [] := ⟨_, rfl, by decide +kernel⟩

theorem test_epochBoundary_1 : Settles (.epochBoundary 100000) {up with pools := [delaying]} fun u => (u.poolSt? 0).any (fun q
    => q.used = [(7,1)] ∧ q.delayed = [(1,4,1)] ∧ q.free = [(0,2),(8,4088)]) = true := ⟨_, rfl, by decide +kernel⟩

theorem test_dieRingResponse_1 : Settles (.dieRingResponse 5 9 (.grant [3]) none) remote4 fun u => u.remoteWaits = [] ∧
    (u.wjobs.map fun v => (v.id, v.parts.map Part.place)) = [(4, [some (0,3,1)])] := ⟨_, rfl, by decide +kernel⟩

theorem test_remoteWaitRetry_1 : Settles (.remoteWaitRetry 50000 9) (ringed remote4) fun u => u.ring.length = 1 ∧ u.remoteWaits =
    [⟨9,false,1,50000,0⟩] := ⟨_, rfl, by decide +kernel⟩

/-- An entry of a coded tile of one sector. -/
def ent1 : BitVec 128 := BitVec.ofNat 128 (2 ^ 36 + 2 ^ 43)

theorem test_dieRingContribution_1 : Settles (.dieRingContribution 5 9 1 ent1 (List.replicate 64 1) none) { busy [reduce2] with
    rjobs := [addend1], reqs := [⟨1, 5, .read, 0x40000, 1, [], .presence 6, 0⟩] } fun u => (u.rjob? 6).any (fun z => z.stage =
    .ready ∧ z.entry = ent1 ∧ z.buf = [(0, List.replicate 64 1)]) = true ∧ u.reqs.all (fun q =>
    !Purpose.ofRead 6 q.purpose) = true := ⟨_, rfl, by decide +kernel⟩

theorem test_accumulatorAdd_1 : Settles (.accumulatorAdd 5 9 0 []) (summing accOne) fun u => (u.acc? 9).any (fun b => b.core =
    0 ∧ !b.failed ∧ b.faulted = none ∧ b.held.all fun x => x.added) = true := ⟨_, rfl, by decide +kernel⟩

theorem test_recomputeDone_1 : Settles (.recomputeDone 5 9 true) (summing (accBad 0)) fun u => (u.acc? 9).any (fun b => b.core
    = 0 ∧ !b.failed ∧ b.faulted = none) = true := ⟨_, rfl, by decide +kernel⟩

theorem test_recomputeDone_2 : Settles (.recomputeDone 5 9 false) (summing (accBad 0)) fun u => (u.acc? 9).any (fun b =>
    b.core = 0 ∧ !b.failed ∧ b.faulted = some (0xC, 0, 0) ∧ b.tries = 1 ∧ b.cores = [0]) = true := ⟨_, rfl, by decide +kernel⟩

theorem test_atollUpdate_1 : Settles (.atollUpdate 5 1 []) (scattering (holding 4 .zero)) fun u => u.atoll = [] ∧
    u.scatter.any (fun x => x.next = 1 ∧ x.dropped) = true := ⟨_, rfl, by decide +kernel⟩

theorem test_atollUpdate_2 : Settles (.atollUpdate 5 1 []) (scattering (holding 3 .zero)) fun u => u.atoll = [] ∧
    u.scatter.any (fun x => x.next = 1 ∧ !x.dropped) = true := ⟨_, rfl, by decide +kernel⟩

theorem test_atollDrain_1 : Settles (.atollDrain 5 []) (scattering { holding 3 .zero with next := 2 }) fun u => u.scatter.any
    (fun x => x.draining ∧ x.running = none ∧ x.parts = []) = true := ⟨_, rfl, by decide +kernel⟩

theorem test_chunk_1 : Settles (.chunk 5 0 3 (List.replicate 192 0) [] none) upX fun u => sent up u 0x50 .corrected = true := ⟨_,
    rfl, by decide +kernel⟩

theorem test_nack_1 : Settles (.nack 5 0 3 (man3 2 fun m => { m with dst := 1 }) none) upX fun u => sent up u 0x53 .corrected =
    true := ⟨_, rfl, by decide +kernel⟩

theorem test_ack_2 : Settles (.ack 5 0 3 (man3 2 id) none) (sending (chunkAt (.sent 0) 0 1)) fun u => (u.run? 1 7).any (fun y =>
    y.outCount = 1) = true ∧ (u.coll? 1 7).any (fun d => d.send.any fun j => j.chunk = 0 ∧ j.st = .acked) = true := ⟨_, rfl,
    by decide +kernel⟩

theorem test_nack_2 : Settles (.nack 5 0 3 (man3 3 fun m => { m with nack := 3 }) none) (sending (chunkAt (.sent 0) 0 1)) fun u =>
    (u.coll? 1 7).any (fun d => d.send.any fun j => j.chunk = 0 ∧ j.st = .noSpace 5 ∧ j.nacks = 0) = true := ⟨_, rfl, by
    decide +kernel⟩

theorem test_notice_1 : Settles (.notice 5 0 3 (man3 4 fun m => { m with pause := true }) none) expecting fun u => u.paused 3 =
    true ∧ sent up u 0x57 .corrected = true := ⟨_, rfl, by decide +kernel⟩

theorem test_notice_2 : Settles (.notice 5 0 3 (man3 4 fun m => { m with resumed := true }) none) { expecting with peerPaused :=
    [3] } fun u => u.paused 3 = false ∧ u.err = expecting.err := ⟨_, rfl, by decide +kernel⟩

/-- Four early chunks wait at link port 0. -/
def full4 : State := { upX with lports := upX.lports.set 0 ⟨Fn.isOn, [], [], [], List.replicate 4 ⟨3, [], []⟩⟩ }

theorem test_chunk_2 : Settles (.chunk 5 0 3 (man3 1 id) [] none) full4 fun u => u.lports[0].tx = [(false, 65536, 0, ⟨3, ({
    Man.plain 3 0 3 9 2 0 with nack := 3 } : Man).bytes, []⟩)] := ⟨_, rfl, by decide +kernel⟩

theorem test_chunkSend_1 : Settles (.chunkSend 5 0 none) { upX with lports := upX.lports.set 0 ⟨Fn.isOn, [waitingMsg], [], [], []⟩ }
    fun u => u.lports[0].out = [⟨true, true, 192, 3, List.replicate 256 0⟩] ∧ u.lports[0].tx = [] := ⟨_, rfl, by decide +kernel⟩

theorem test_noSpaceResend_1 : Settles (.noSpaceResend 10000 1 0) (sending (chunkAt (.noSpace 0) 0 1)) fun u => (u.coll? 1
    7).any (fun d => d.send = [chunkAt .ready 0 1]) = true := ⟨_, rfl, by decide +kernel⟩

theorem test_sendTimeout_1 : Settles (.sendTimeout 2000000 1 0) (sending (chunkAt (.sent 0) 0 2)) fun u => (u.coll? 1 7).any
    (fun d => d.send = [chunkAt .ready 0 2]) = true := ⟨_, rfl, by decide +kernel⟩

theorem test_sendTimeout_2 : Settles (.sendTimeout 2000000 1 0) (sending (chunkAt (.sent 0) 0 3)) fun u => sent up u 0x52
    .contained = true ∧ (u.coll? 1 7).any (fun d => d.send.all fun j => j.st = .givenUp) = true := ⟨_, rfl, by decide +kernel⟩

theorem test_recvTimeout_1 : Settles (.recvTimeout 2000000 1) (sharing recvHead (side false)) fun u => (u.coll? 1 7).any (fun
    d => d.expiries = 1 ∧ d.timer = 2000000) = true ∧ (u.lports[0].tx.map fun x => (x.2.2.2.rank, x.2.2.2.man)) = [(3, ({
    Man.plain 3 0 3 9 2 0 with nack := 4 } : Man).bytes)] := ⟨_, rfl, by decide +kernel⟩

theorem test_recvTimeout_2 : Settles (.recvTimeout 2000000 1) (sharing recvHead { side false with expiries := 2 }) fun u =>
    sent up u 0x52 .contained = true ∧ (u.coll? 1 7).any (fun d => d.expiries = 0 ∧ d.accepted = [0]) = true := ⟨_, rfl, by
    decide +kernel⟩

theorem test_thermCrit_1 : Settles (.thermCrit 5 (event 1 6 0) none) up fun u => sent up u 0x69 .corrected = true := ⟨_, rfl, by
    decide +kernel⟩

theorem test_chHold_2 : Settles (.chHold 5 (event 1 5 9) none) up fun u => u.err = up.err ∧ (u.chan 5).held = true ∧ (u.chan
    5).holdUs = 9 ∧ (u.chan 5).holdAt = 5 := ⟨_, rfl, by decide +kernel⟩

theorem test_chDead_1 : Settles (.chDead 5 (event 3 5 0) none) (busy [expand4]) fun u => sent up u 0x63 .uncontained = true ∧
    (u.chan 5).dead = true := ⟨_, rfl, by decide +kernel⟩

theorem test_thermCrit_2 : Settles (.thermCrit 5 (event 6 1 0) none) up fun u => sent up u 0x68 .corrected = true ∧ u.therm 1 =
    .crit := ⟨_, rfl, by decide +kernel⟩

theorem test_mapOut_1 : Settles (.mapOut 5 1 ⟨[(0x2000, 64)], []⟩ none) (mapping up) fun u => u.regs = { (mapping up).regs with
    chanResult := 4 } ∧ u.chans = [] ∧ u.causeway = none := ⟨_, rfl, by decide +kernel⟩

theorem test_mapOut_2 : Settles (.mapOut 5 1 ⟨[(0x2000, 128)], []⟩ none) (mapping up) fun u => u.regs = { (mapping up).regs with
    chanResult := 0 } ∧ (u.chan 5).out = true ∧ (u.chan 5).unfinished = false ∧ u.causeway = some ⟨5, [128], 0, false, none,
    none, 0, none, 0⟩ ∧ u.cwChannel = 5 := ⟨_, rfl, by decide +kernel⟩

theorem test_mapIn_1 : Settles (.mapIn 5 2 none) (mapping (channelled (fun c => { c with out := true }) up)) fun u => u.regs = {
    (mapping up).regs with chanResult := 0 } ∧ (u.chan 5).out = false ∧ u.err = up.err := ⟨_, rfl, by decide +kernel⟩

theorem test_causewayTile_1 : Settles (.causewayTile 5 ⟨[],[]⟩ none) { up with causeway := some causeway0 } fun u => u.causeway =
    none ∧ (u.chan 5).unfinished = false ∧ u.err = up.err := ⟨_, rfl, by decide +kernel⟩

theorem test_causewayTile_2 : Settles (.causewayTile 5 ⟨[],[]⟩ none) { up with causeway := some causeway0, pools := [{ delaying
    with used := [(7, 1)] }] } fun u => u.causeway = none ∧ sent up u 0x67 .contained = true := ⟨_, rfl, by decide +kernel⟩

theorem test_chartValidationDone_1 : Settles (.chartValidationDone 5 [] ⟨[],[]⟩ none) (validating false [] State.reset) fun u =>
    u.chart.held = true ∧ u.chart.load = .none ∧ u.chart.result = 5 ∧ u.chart.reason = 0x70 ∧ sent up u 0x70 .contained = true
    := ⟨_, rfl, by decide +kernel⟩

set_option maxRecDepth 100000 in
theorem test_chartValidationDone_2 : Settles (.chartValidationDone 5 [] ⟨[],[]⟩ none) (validating false fullChart State.reset) fun
    u => u.chart.applied.isSome = true ∧ u.chart.held = false ∧ u.chart.load = .none ∧ u.chart.chartId = 77 ∧ u.lfsr = 1 ∧
    u.pools.map PoolSt.id = [0] ∧ sent up u 0x7D .corrected = true := ⟨_, rfl, by decide +kernel⟩

theorem test_updateSwitch_1 : Settles (.updateSwitch 5) switching fun u => u.chart.applied = some chart0 ∧ u.chart.update =
    none ∧ u.chart.load = .none ∧ u.pools = up.pools ∧ sent up u 0x7D .corrected = true := ⟨_, rfl, by decide +kernel⟩

theorem test_spillFull_1 : Runs (.spillFull 60000000000 1) (stalled false) fun u => sent up u 0x13 .corrected = true ∧
    (u.stream? 1).any (fun x => x.stallSpill = some (0, 60000000000)) = true := ⟨_, rfl, by decide +kernel⟩

theorem test_roleWait_1 : Runs (.roleWait 60000000000 1) (stalled true) fun u => sent up u 0x16 .corrected = true ∧ (u.stream?
    1).any (fun x => x.stallRole = some (0, 0, 60000000000)) = true := ⟨_, rfl, by decide +kernel⟩

theorem test_ferryTimer_1 : Settles (.ferryTimer 5000000000) { ferrying up with test := { up.test with running := some (testAt
    0) } } fun u => u.test.running = some (testAt 0) ∧ u.test.waiting = [CoreTest.new 17 0 true true true 0] := ⟨_, rfl, by
    decide +kernel⟩

theorem test_coreTestStart_1 : Settles (.coreTestStart 5) { up with test := { up.test with waiting := [testAt 4] } } fun u =>
    u.test.running = some { testAt 4 with man := none } ∧ u.test.waiting = [] ∧ (u.core 0).fn = ⟨.pendingOn, .before⟩ := ⟨_,
    rfl, by decide +kernel⟩

/-- The test of core 0 at a part. -/
def tst (p : Nat) : State := { up with test := { up.test with running := some (testAt p) } }

theorem test_mbistDone_1 : Runs (.mbistDone 5 [⟨3, [], 0, false⟩]) (tst 1) fun u => u.err = up.err ∧ u.test.running = some {
    (testAt 1).after true with part := 3 } := ⟨_, rfl, by decide +kernel⟩

theorem test_mbistDone_2 : Runs (.mbistDone 5 [⟨3, [(1, 1), (2, 2), (3, 3), (4, 4)], 9, false⟩]) (tst 1) fun u => sent up u 0x92 .contained = true ∧
    u.test.mbistFail = 1 ∧ u.test.running = some { (testAt 1).after false with part := 3 } := ⟨_, rfl, by decide +kernel⟩

/-- A manifest of eight bytes of zero. -/
def mm := leBytes 16 0 ++ leBytes 8 8 ++ sha384 (List.replicate 8 0) ++ List.replicate 56 (0 : Byte)

/-- The machine that reads that package: for a descriptor, or for a SCAN part. -/
def tsp (b : List Byte) (n : Option Nat) : State :=
  { up with test := { up.test with running := some (testAt 2), pkg := some ⟨n, mm, b, false, 0, 8⟩ } }

theorem test_ppResponse_1 : Settles (.ppResponse 5 (List.replicate 4 0) false none) (tsp [] none) fun u => u.test.pkg = some ⟨none,
    mm, List.replicate 4 0, false, 0, 8⟩ ∧ u.err = up.err := ⟨_, rfl, by decide +kernel⟩

theorem test_testAccess_1 : Runs (.testAccess 5 0 (.directScan 0) none) up fun u => sent up u 0x9A .corrected = true ∧
    u.test.lastRefusal = some 5 := ⟨_, rfl, by decide +kernel⟩

theorem test_testAccess_2 : Runs (.testAccess 5 3 (.bist (some 2)) none) up fun u => u.err = up.err ∧ u.test.segments = [(3, .bist (some 2))] :=
  ⟨_, rfl, by decide +kernel⟩

/-- The package of no patterns has been read for a SCAN part, which passes; no core is ON. -/
theorem test_scanDone_1 : Settles (.scanDone 5 []) { tsp [] none with cores := (coreIn ⟨.off, .idle⟩).cores, test := { (tsp [] none).test with
    pkg := some { PkgLoad.new none (manOf pkg0) with bytes := pkg0 } } } fun u => u.err = up.err ∧ u.test.pkg = none ∧
    u.test.running = some { (testAt 2).after true with part := 3 } := ⟨_, rfl, by decide +kernel⟩

/-- An empty ring whose tail has passed its last index is not fetched (05_streams_and_order R153). -/
theorem test_ring_empty : (queued (fun z => { z with enable := true, qtail := 128 }) up).mayFetch 0 = false ∧
    (queued (fun z => { z with enable := true, qtail := 129 }) up).mayFetch 0 = true := by decide +kernel

theorem test_tileDecodeDone_1 : Settles (.tileDecodeDone 5 0 2 []) (reading (.onEngine 0 2)) fun u => (u.core 0).decN = 1 ∧
    (u.dports[0].units.any fun v => v.stream = 1 ∧ v.seq = 7 ∧ v.unit = 0 ∧ v.decoded) = true := ⟨_, rfl, by decide +kernel⟩

end Sys2Proof.Tests
end

section
/-! SUPPORT. What the allocation state of the pools keeps: the operations that write map sectors or ask for spill space leave it. -/

namespace Sys2Proof.Machine

/-- A list of operations that each leave the pools leaves them. -/
theorem forAll_pools {α : Type} {f : α → State → State} (hf : ∀ a t, (f a t).pools = t.pools) (l : List α) (s : State) :
    (forAll l f s).pools = s.pools :=
  keeps_foldl (R := fun t => t.pools = s.pools) (fun t a h => (hf a t).trans h) rfl

@[simp] theorem State.issue_pools (r : MemReq) (s : State) : (s.issue r).pools = s.pools := by
  unfold State.issue
  split
  · dsimp only
    split <;> simp
  · split <;> simp

@[simp] theorem State.writeSpan_pools (addr : Nat) (data : List Byte) (why : Purpose) (s : State) :
    (s.writeSpan addr data why).pools = s.pools :=
  (forAll_pools (fun _ t => t.issue_pools _) _ _).trans (by simp)

@[simp] theorem State.writeMap_pools (pool a n : Nat) (why : Purpose) (s : State) : (s.writeMap pool a n why).pools = s.pools := by
  unfold State.writeMap
  split
  · exact forAll_pools (fun _ t => t.writeSpan_pools _ _ _) _ _
  · rfl

@[simp] theorem State.found_pools (pool a n : Nat) (s : State) : (s.found pool a n).pools = s.pools := rfl

@[simp] theorem State.ask_pools (o : AskOf) (r : RemoteRequest) (s : State) : (s.ask o r).pools = s.pools := by
  simp [State.ask]

@[simp] theorem State.askSpill_pools (x : Spill) (s : State) : (s.askSpill x).pools = s.pools := by
  simp [State.askSpill]

@[simp] theorem State.askSpills_pools (s : State) : s.askSpills.pools = s.pools :=
  forAll_pools State.askSpill_pools _ s

/-- The allocation state of a pool is looked up in the pools alone. -/
theorem State.poolSt?_congr {s t : State} (h : s.pools = t.pools) (id : Nat) : s.poolSt? id = t.poolSt? id := by
  unfold State.poolSt?
  rw [h]

end Sys2Proof.Machine
end

section
/-! SUPPORT. Reader epochs: what releases and the start of an epoch do to the allocation state of one pool (05_streams_and_order R189, R190;
10_memory_channels Map-out), and what their commands do. -/

namespace Sys2Proof.Machine

/-! ### Release and return of sectors -/

/-- A pool after a run of its sectors on a channel in service has been released in some epoch. -/
def PoolSt.released (ps : PoolSt) (epoch a n : Nat) : PoolSt :=
  { ps with
    used := cutRuns a (a + n) ps.used
    delayed := ps.delayed ++ [(epoch, a, n)] }

/-- A pool at the start of an epoch: what is due joins the free list, unless it lies on a channel that is mapped out. -/
def PoolSt.reclaimed (ps : PoolSt) (p : Pool) (now : Nat) (out : Nat → Bool) : PoolSt :=
  { ps with
    free := joinFree p ((ps.delayed.filter fun d => decide (d.1 + 2 ≤ now) && !out d.2.1).foldl
      (fun l d => insertRun (d.2.1, d.2.2) l) ps.free)
    delayed := ps.delayed.filter fun d => decide (now < d.1 + 2) }

/-- The start of an epoch for a pool, if the Chart lists it. -/
def State.reclaimPool (s : State) (ps : PoolSt) : PoolSt :=
  match s.pool? ps.id with
  | none => ps
  | some p => ps.reclaimed p s.epoch (s.onMappedOut p)

theorem State.reclaimPool_some {s : State} {p : Pool} {ps : PoolSt} (hp : s.pool? ps.id = some p) :
    s.reclaimPool ps = ps.reclaimed p s.epoch (s.onMappedOut p) := by
  simp [State.reclaimPool, hp]

@[simp] theorem State.reclaimPool_id (s : State) (ps : PoolSt) : (s.reclaimPool ps).id = ps.id := by
  unfold State.reclaimPool
  split <;> rfl

theorem State.reclaim_pools (s : State) : s.reclaim.pools = s.pools.map s.reclaimPool := rfl

/-- The release of one run in use, on a channel that is not mapped out (R189): the run waits with the number of the epoch. -/
theorem State.poolSt?_releaseSectors {s : State} {id a n : Nat} {p : Pool} {ps : PoolSt} (hp : s.pool? id = some p)
    (hps : s.poolSt? id = some ps) (hr : reclaimable p ps.used a n = [(a, n)]) (ho : s.onMappedOut p a = false) :
    (s.releaseSectors id a n).poolSt? id = some (ps.released s.epoch a n) := by
  unfold State.releaseSectors
  simp only [hp, hps, hr, ho, forAll_cons, forAll_nil]
  rw [State.poolSt?_congr ((State.writeMap_pools ..).trans (State.found_pools ..))]
  exact poolSt?_updPool hps rfl

/-- The start of an epoch, for one pool (R190). -/
theorem State.poolSt?_reclaim {s : State} {id : Nat} {p : Pool} {ps : PoolSt} (hp : s.pool? ps.id = some p)
    (hps : s.poolSt? id = some ps) : s.reclaim.poolSt? id = some (ps.reclaimed p s.epoch (s.onMappedOut p)) := by
  have hkey : (fun x : PoolSt => x.id == id) ∘ s.reclaimPool = fun x => x.id == id := by
    funext x
    simp
  rw [State.poolSt?, State.reclaim_pools, List.find?_map, hkey, ← State.poolSt?, hps, Option.map_some, State.reclaimPool_some hp]

/-- A whole boundary: the spills that ask again leave the pools. -/
theorem State.poolSt?_epochBoundary {s : State} {id : Nat} {p : Pool} {ps : PoolSt} (hp : s.pool? ps.id = some p)
    (hps : s.poolSt? id = some ps) : s.epochBoundary.poolSt? id = some (ps.reclaimed p s.epoch (s.onMappedOut p)) :=
  (State.poolSt?_congr s.reclaim.askSpills_pools id).trans (State.poolSt?_reclaim hp hps)

/-! ### The commands, while ECLK runs -/

/-- What crosses the domains of clocks that all run takes place. -/
theorem State.clocked_of_running {l : List Clk} {f : State → State} {s : State} (h : s.clksLost l = false) : s.clocked l f = f s := by
  simp [State.clocked, h]

theorem exec_epochBoundary {t : Time} {s : State} (h : s.clksLost [.eclk] = false) :
    exec (.epochBoundary t) s = .next (s.timed t).epochBoundary.settle := by
  show execEpochBoundary t s = _
  unfold execEpochBoundary
  rw [State.clocked_of_running (s := s.timed t) h]

theorem exec_dieRingSectorRelease {t : Time} {pool a n : Nat} {s : State} (h : s.clksLost [.eclk] = false) :
    exec (.dieRingSectorRelease t pool a n false none) s = .next ((s.timed t).releaseSectors pool a n).settle := by
  show execDieRingSectorRelease t pool a n false none s = _
  unfold execDieRingSectorRelease State.crossing
  rw [State.clocked_of_running (s := s.timed t) h]
  rfl

/-- Settles O45: a release takes the epoch of its time, and the start of an epoch frees what was released two or more epochs before. -/
theorem epochBoundary : Obligations.EpochBoundary := by
  intro t p ps s hps hp hclk
  refine ⟨rfl, fun a n hr ho => ?_, ?_⟩
  · exact ⟨_, exec_dieRingSectorRelease hclk, _, State.poolSt?_releaseSectors (s := s.timed t) hp hps hr ho, rfl, rfl⟩
  · exact ⟨_, exec_epochBoundary hclk, _, State.poolSt?_epochBoundary (s := s.timed t) hp hps, rfl, rfl, rfl⟩

end Sys2Proof.Machine
end

section
/-! SUPPORT. Management and cold resets: what they do to the error state (13_clocks_power_lifecycle R498; 11_integrity R444). -/

namespace Sys2Proof.Machine

/-- The error state after a management reset: the queue and its output are empty and the loss mark is set; the log stands. -/
def ErrState.managementReset (e : ErrState) : ErrState := { e with mgq := [], mgOut := [], loss := true }

/-- A record that finds room in the management queue enters it with the loss mark, counting what its own placement loses (R444). -/
theorem ErrState.place_mgq {e : ErrState} (r : Rec) (h : e.mgq.length < 32) :
    (e.place r).1.mgq = e.mgq ++ [{ r with loss := e.loss || e.overwrites }] := by
  unfold ErrState.place
  simp only [h, if_true]

/-- The record sent next after a management reset is alone in the queue and carries LOSS. -/
theorem ErrState.managementReset_place_mgq (e : ErrState) (r : Rec) :
    (e.managementReset.place r).1.mgq = [{ r with loss := true }] :=
  ErrState.place_mgq r (e := e.managementReset) (by decide : 0 < 32)

theorem State.mgReset_of_powered {s : State} (h : s.powered = true) : s.mgReset = { s with err := s.err.managementReset } := if_pos h

theorem exec_mgRstN {t : Time} {s : State} (h : s.powered = true) :
    exec (.mgRstN t) s = .next { s with time := t, err := s.err.managementReset } :=
  congrArg Host.Outcome.next (State.mgReset_of_powered (s := s.timed t) h)

/-- A cold reset leaves the error state of a machine without records. -/
theorem State.coldAssert_err (s : State) : s.coldAssert.err = ErrState.cold := rfl

theorem exec_coldResetAssert (t : Time) (s : State) : exec (.coldResetAssert t) s = .next (s.timed t).coldAssert := rfl

/-- Settles O10: a management reset keeps the log and marks the loss of the queue; a cold reset clears the whole error state. -/
theorem managementReset : Obligations.ManagementReset := by
  intro t s
  refine ⟨fun hp => ⟨_, exec_mgRstN hp, rfl, fun n => ?_⟩, ⟨_, exec_coldResetAssert t s, ?_⟩⟩
  · rw [State.report_err]
    exact ⟨_, ErrState.managementReset_place_mgq s.err _, rfl⟩
  · simp only [State.coldAssert_err]
    exact ⟨rfl, rfl, rfl, rfl, rfl⟩

end Sys2Proof.Machine
end

section
/-! SUPPORT. Requests of a warm reset: what the two requests and the end of a shut-down of the cluster do (13_clocks_power_lifecycle R495, R496;
12_chart R486). -/

namespace Sys2Proof.Machine

/-! ### What begins, waits or has no effect -/

/-- What a warm reset that begins does to the phase, the waiting request and the Chart: a load with its staged bytes, a drain and a
validated UPDATE end (R486, R495). -/
theorem State.warmStart_ends (src : Nat) (s : State) :
    (s.warmStart src).phase = .warm .quiesce src s.unrecorded ∧ (s.warmStart src).warmWait = none ∧
      (s.warmStart src).chart.load = .none ∧ (s.warmStart src).chart.staged = [] ∧ (s.warmStart src).chart.drain = none ∧
      (s.warmStart src).chart.update = none := ⟨rfl, rfl, rfl, rfl, rfl, rfl⟩

/-- A request while a warm reset runs has no effect. -/
theorem State.warmReset_of_warm {s : State} {st : SeqStage} {src n : Nat} (h : s.phase = .warm st src n) (k : Nat) : s.warmReset k = s := by
  simp only [State.warmReset, h]

/-- A request while the cluster shuts down waits; one that waits already keeps its source. -/
theorem State.warmReset_of_shutDown {s : State} (hph : s.phase = .run ∨ ∃ st n k, s.phase = .life st n k)
    (hc : s.cluster.st = .shutting ∨ s.cluster.st = .pendingOn) (k : Nat) :
    s.warmReset k = { s with warmWait := some (s.warmWait.getD k) } := by
  obtain hrun | ⟨st, n, m, hlife⟩ := hph
  · simp only [State.warmReset, hrun, if_pos hc]
  · simp only [State.warmReset, hlife, if_pos hc]

/-- A request that finds the cluster ON or OFF in operation begins at once. -/
theorem State.warmReset_of_run {s : State} (hph : s.phase = .run) (hc : s.cluster.st = .on ∨ s.cluster.st = .off) (k : Nat) :
    s.warmReset k = s.warmStart k := by
  have hc' : ¬(s.cluster.st = .shutting ∨ s.cluster.st = .pendingOn) := by
    obtain h | h := hc <;> simp [h]
  simp only [State.warmReset, hph, if_neg hc']

/-- In every phase in which a request has an effect, the ports take the write of WARM_RST. -/
theorem State.whenOpen_warmReset (k : Nat) (s : State) : s.whenOpen (State.warmReset k) = s.warmReset k := by
  cases hph : s.phase <;> simp [State.whenOpen, State.regsOpen, State.warmReset, hph]

/-- The shut-down of the cluster completes, and the warm reset that waits begins: the record of the completion keeps the request. -/
theorem State.clusterDone_of_waiting {s : State} {src : Nat} (h : s.warmWait = some src) : ∃ u : State, s.clusterDone = u.warmStart src := by
  unfold State.clusterDone
  dsimp only
  generalize hu : (if s.cluster.st = .pendingOn then _ else _) = u
  have hw : u.warmWait = some src := by
    rw [← hu, ← h]
    split <;> simp [State.noChart, State.dropDrain]
  exact ⟨u, by rw [hw]⟩

/-- The cluster has no test of its own: its completion waits for the end of its wipe only. -/
theorem State.shutDownDone_cluster {s : State} (h : s.cluster.stage = .wiped) : s.shutDownDone .cluster = s.clusterDone := by
  simp [State.shutDownDone, State.fn?, State.inTest, h]

/-! ### The commands -/

/-- What changes nothing changes nothing through clocks that may be lost, either. -/
theorem State.clocked_of_fixed {l : List Clk} {f : State → State} {s : State} (h : f s = s) : s.clocked l f = s := by
  simp only [State.clocked, h, ite_self]

theorem exec_warmRstN (t : Time) (s : State) :
    exec (.warmRstN t) s = .next ((s.timed t).clocked [.hclk, .eclk] (State.warmReset 0)).settle := rfl

/-- A write of WARM_RST without a parity error. -/
theorem exec_warmRst (t : Time) (p : Port) (s : State) :
    exec (.warmRst t p none) s = .next ((s.timed t).clocked [.hclk, .eclk] (State.warmReset (portCode p))).settle := by
  rw [← funext (State.whenOpen_warmReset (portCode p))]
  rfl

theorem exec_shutDownCompletes {t : Time} {f : FnId} {s : State} (h : s.clksLost [.eclk] = false) :
    exec (.shutDownCompletes t f) s = .next ((s.timed t).shutDownDone f).settle := by
  show execShutDownCompletes t f s = _
  unfold execShutDownCompletes
  rw [State.clocked_of_running (s := s.timed t) h]

/-- Settles O9: a request of a warm reset has no effect, waits, or begins, by the phase and the state of the cluster; one that waits begins
with the completion of the shut-down. -/
theorem warmResetRequests : Obligations.WarmResetRequests := by
  intro t p s
  simp only [exec_warmRstN, exec_warmRst]
  refine ⟨fun st src n hph => ?_, fun hclk hph hst => ?_, fun src hwait hstage hclk => ?_, fun hclk hph hst => ?_⟩
  · have hnone (k : Nat) := State.warmReset_of_warm (s := s.timed t) hph k
    rw [State.clocked_of_fixed (hnone _), State.clocked_of_fixed (hnone _)]
    exact ⟨rfl, rfl⟩
  · have hwaits (k : Nat) := State.warmReset_of_shutDown (s := s.timed t) hph hst k
    rw [State.clocked_of_running (s := s.timed t) hclk, State.clocked_of_running (s := s.timed t) hclk, hwaits, hwaits]
    exact ⟨rfl, rfl⟩
  · obtain ⟨u, hu⟩ := State.clusterDone_of_waiting (s := s.timed t) hwait
    obtain ⟨hphase, hnone, -⟩ := State.warmStart_ends src u
    refine ⟨u.warmStart src, ?_, ⟨_, hphase⟩, hnone⟩
    rw [exec_shutDownCompletes hclk, State.shutDownDone_cluster (s := s.timed t) hstage, hu]
  · obtain ⟨hphase, -, hchart⟩ := State.warmStart_ends 0 (s.timed t)
    refine ⟨(s.timed t).warmStart 0, ?_, ⟨_, hphase⟩, hchart⟩
    rw [exec_warmRstN, State.clocked_of_running (s := s.timed t) hclk, State.warmReset_of_run (s := s.timed t) hph hst]

end Sys2Proof.Machine
end

section
/-! SUPPORT. What every command keeps: one case for each row of the table. -/

namespace Sys2Proof.Machine

/-- Commands whose meaning keeps every stable property: those without an effect on the registers, but for the three that change the counters
or the management queue themselves. -/
def KeepsStable : Instr → Prop
  | .mgRstN .. | .mgRecordOut .. | .cntClear .. => False
  | c => PlainCommand c

/-- The property is one that the command keeps: any stable property, or `Fits`. -/
def KeptBy (c : Instr) (M : State → Prop) : Prop := ¬ KeepsStable c → ∃ p q, M = Fits p q

/-- A command that need not keep every stable property keeps `Fits`. -/
theorem KeptBy.of_fits {c : Instr} {M : State → Prop} {s u : State} (hM : KeptBy c M) (h : ∀ p q, Keeps (Fits p q) s → Keeps (Fits p q) u)
    (hs : Keeps M s) (hc : ¬ KeepsStable c := by exact id) : Keeps M u := by
  obtain ⟨p, q, rfl⟩ := hM hc
  exact h p q hs

/-- What a command keeps. -/
theorem keeps_exec {M : State → Prop} {s u : State} (c : Instr) (hM : KeptBy c M) (hs : Keeps M s) (hu : exec c s = .next u) : Keeps M u :=
  match c with
  | .coldResetAssert .. => hM.of_fits (fun _ _ h => keeps_execColdResetAssert _ h hu) hs
  | .coldResetRelease .. => hM.of_fits (fun _ _ h => keeps_execColdResetRelease _ _ h hu) hs
  | .repairWord .. => keeps_execRepairWord _ _ hs hu
  | .repairDone .. => keeps_execRepairDone _ hs hu
  | .warmRstN .. => hM.of_fits (fun _ _ h => keeps_execWarmRstN _ h hu) hs
  | .warmRst .. => hM.of_fits (fun _ _ h => keeps_execWarmRst _ _ _ h hu) hs
  | .mgRstN .. => hM.of_fits (fun _ _ h => keeps_execMgRstN _ h hu) hs
  | .clusterDisable .. => keeps_execClusterDisable _ _ _ hs hu
  | .clusterEnable _ p _ => keeps_execClusterEnable _ p _ hs hu
  | .clkLost .. => hM.of_fits (fun _ _ h => keeps_execClkLost _ _ h hu) hs
  | .clkLostRepeat .. => hM.of_fits (fun _ _ h => keeps_execClkLostRepeat _ h hu) hs
  | .pwrGrantChange .. => hM.of_fits (fun _ _ h => keeps_execPwrGrantChange _ _ _ h hu) hs
  | .intentLeadExpiry .. => hM.of_fits (fun _ _ h => keeps_execIntentLeadExpiry _ h hu) hs
  | .currentRampDone .. => hM.of_fits (fun _ _ h => keeps_execCurrentRampDone _ _ h hu) hs
  | .sramWipeDone .. => hM.of_fits (fun _ _ h => keeps_execSramWipeDone _ _ h hu) hs
  | .drainDone .. => hM.of_fits (fun _ _ h => keeps_execDrainDone _ h hu) hs
  | .fnEnable .. => hM.of_fits (fun _ _ h => keeps_execFnEnable _ _ _ h hu) hs
  | .fnDisable .. => hM.of_fits (fun _ _ h => keeps_execFnDisable _ _ _ h hu) hs
  | .fnReset .. => hM.of_fits (fun _ _ h => keeps_execFnReset _ _ _ h hu) hs
  | .shutDownCompletes .. => hM.of_fits (fun _ _ h => keeps_execShutDownCompletes _ _ h hu) hs
  | .queueEnable .. => keeps_execQueueEnable _ _ _ _ hs hu
  | .queueDisable .. => keeps_execQueueDisable _ _ _ _ hs hu
  | .qbaseWrite .. => keeps_execQbaseWrite _ _ _ _ _ hs hu
  | .cbaseWrite .. => keeps_execCbaseWrite _ _ _ _ _ hs hu
  | .qtailWrite .. => keeps_execQtailWrite _ _ _ _ hs hu
  | .cheadWrite .. => keeps_execCheadWrite _ _ _ _ hs hu
  | .openStream .. => hM.of_fits (fun _ _ h => keeps_execOpenStream _ _ _ h hu) hs
  | .closeStream .. => hM.of_fits (fun _ _ h => keeps_execCloseStream _ _ _ h hu) hs
  | .descriptorFetch .. => keeps_execDescriptorFetch _ _ _ _ hs hu
  | .contextFetchDone .. => keeps_execContextFetchDone _ _ _ _ hs hu
  | .expand .. => keeps_execExpand _ _ hs hu
  | .compress .. => keeps_execCompress _ _ hs hu
  | .resume .. => keeps_execResume _ _ hs hu
  | .exportTiles .. => keeps_execExportTiles _ _ hs hu
  | .reduce .. => keeps_execReduce _ _ hs hu
  | .scatterAcc .. => keeps_execScatterAcc _ _ hs hu
  | .merge .. => keeps_execMerge _ _ hs hu
  | .collectiveSend .. => keeps_execCollectiveSend _ _ hs hu
  | .collectiveRecv .. => keeps_execCollectiveRecv _ _ hs hu
  | .migrate .. => keeps_execMigrate _ _ hs hu
  | .scrub .. => keeps_execScrub _ _ hs hu
  | .fenceStreams .. => keeps_execFenceStreams _ _ hs hu
  | .fenceBarrier .. => keeps_execFenceBarrier _ _ hs hu
  | .wipeStreamData .. => keeps_execWipeStreamData _ _ hs hu
  | .wipeCore .. => keeps_execWipeCore _ _ hs hu
  | .wipeIdleSram .. => keeps_execWipeIdleSram _ _ hs hu
  | .testLbist .. => keeps_execTestLbist _ _ hs hu
  | .testMbist .. => keeps_execTestMbist _ _ hs hu
  | .testMbistShared .. => keeps_execTestMbistShared _ _ hs hu
  | .ferryNow .. => keeps_execFerryNow _ _ hs hu
  | .loadPackage .. => keeps_execLoadPackage _ _ _ _ hs hu
  | .lifecycle .. => keeps_execLifecycle _ _ hs hu
  | .descriptorCompletion .. => keeps_execDescriptorCompletion _ _ hs hu
  | .memoryReadResponse .. => keeps_execMemoryReadResponse _ _ _ _ _ hs hu
  | .memoryWriteResponse .. => hM.of_fits (fun _ _ h => keeps_execMemoryWriteResponse _ _ _ _ _ h hu) hs
  | .readRestart .. => keeps_execReadRestart _ _ hs hu
  | .tileDecodeDone .. => keeps_execTileDecodeDone _ _ _ _ hs hu
  | .deliveryBeat .. => keeps_execDeliveryBeat _ _ _ hs hu
  | .portStall .. => keeps_execPortStall _ _ hs hu
  | .intakeBeat .. => keeps_execIntakeBeat _ _ _ _ _ hs hu
  | .intakeStall .. => keeps_execIntakeStall _ _ hs hu
  | .tileCodeDone .. => keeps_execTileCodeDone _ _ _ _ hs hu
  | .checkerOutcome .. => keeps_execCheckerOutcome _ _ _ _ hs hu
  | .thirdEvaluation .. => keeps_execThirdEvaluation _ _ _ _ hs hu
  | .allocationRequest .. => keeps_execAllocationRequest _ _ hs hu
  | .tileCommit .. => keeps_execTileCommit _ _ _ hs hu
  | .dieRingCommit .. => keeps_execDieRingCommit _ _ _ hs hu
  | .dieRingSectorRequest .. => keeps_execDieRingSectorRequest _ _ _ hs hu
  | .dieRingInvalidate .. => keeps_execDieRingInvalidate _ _ _ hs hu
  | .remoteWaitRetry .. => keeps_execRemoteWaitRetry _ _ hs hu
  | .epochBoundary .. => keeps_execEpochBoundary _ hs hu
  | .accumulatorAdd .. => keeps_execAccumulatorAdd _ _ _ _ hs hu
  | .recomputeDone .. => keeps_execRecomputeDone _ _ _ hs hu
  | .accumulatorDrain .. => keeps_execAccumulatorDrain _ _ _ hs hu
  | .atollUpdate .. => keeps_execAtollUpdate _ _ _ hs hu
  | .atollDrain .. => keeps_execAtollDrain _ _ hs hu
  | .mergeWalk .. => keeps_execMergeWalk _ _ _ hs hu
  | .chunk .. => keeps_execChunk _ _ _ _ _ _ hs hu
  | .ack .. => keeps_execAck _ _ _ _ _ hs hu
  | .nack .. => keeps_execNack _ _ _ _ _ hs hu
  | .notice .. => keeps_execNotice _ _ _ _ _ hs hu
  | .chunkSend .. => keeps_execChunkSend _ _ _ hs hu
  | .noSpaceResend .. => keeps_execNoSpaceResend _ _ _ hs hu
  | .recvTimeout .. => keeps_execRecvTimeout _ _ hs hu
  | .sendTimeout .. => keeps_execSendTimeout _ _ _ hs hu
  | .collProjection .. => keeps_execCollProjection _ _ hs hu
  | .rateMeasure .. => keeps_execRateMeasure _ _ hs hu
  | .chHold .. => keeps_execChHold _ _ _ hs hu
  | .chRelease .. => keeps_execChRelease _ _ _ hs hu
  | .chDead .. => keeps_execChDead _ _ _ hs hu
  | .thermNormal .. => hM.of_fits (fun _ _ h => keeps_execThermNormal _ _ _ h hu) hs
  | .thermWarn .. => hM.of_fits (fun _ _ h => keeps_execThermWarn _ _ _ h hu) hs
  | .thermCrit .. => hM.of_fits (fun _ _ h => keeps_execThermCrit _ _ _ h hu) hs
  | .holdLong .. => keeps_execHoldLong _ _ hs hu
  | .mapOut .. => hM.of_fits (fun _ _ h => keeps_execMapOut _ _ _ _ h hu) hs
  | .mapIn .. => hM.of_fits (fun _ _ h => keeps_execMapIn _ _ _ h hu) hs
  | .causewayTile .. => keeps_execCausewayTile _ _ _ hs hu
  | .causewaySpace .. => keeps_execCausewaySpace _ hs hu
  | .chartStart .. => keeps_execChartStart _ _ _ hs hu
  | .chartData .. => keeps_execChartData _ _ _ hs hu
  | .chartFinish .. => keeps_execChartFinish _ _ _ hs hu
  | .chartAbort .. => keeps_execChartAbort _ _ _ hs hu
  | .chartValidationDone .. => hM.of_fits (fun _ _ h => keeps_execChartValidationDone _ _ _ _ h hu) hs
  | .updateSwitch .. => keeps_execUpdateSwitch _ hs hu
  | .errAckWrite _ p _ _ => keeps_execErrAckWrite _ p _ _ hs hu
  | .svcAckWrite _ p _ _ => keeps_execSvcAckWrite _ p _ _ hs hu
  | .svcRepeat .. => keeps_execSvcRepeat _ hs hu
  | .spillFull .. => keeps_execSpillFull _ _ hs hu
  | .roleWait .. => keeps_execRoleWait _ _ hs hu
  | .ceWindowExpiry .. => keeps_execCeWindowExpiry _ hs hu
  | .mgRecordOut .. => hM.of_fits (fun _ _ h => keeps_execMgRecordOut _ _ h hu) hs
  | .ferryTimer .. => keeps_execFerryTimer _ hs hu
  | .coreTestStart .. => keeps_execCoreTestStart _ hs hu
  | .lbistDone .. => keeps_execLbistDone _ _ hs hu
  | .mbistDone .. => keeps_execMbistDone _ _ hs hu
  | .scanDone .. => keeps_execScanDone _ _ hs hu
  | .ppResponse .. => keeps_execPpResponse _ _ _ _ hs hu
  | .testAccess .. => keeps_execTestAccess _ _ _ _ hs hu
  | .cntClear .. => hM.of_fits (fun _ _ h => keeps_execCntClear _ _ _ h hu) hs
  | .ctxdbgBankWrite .. => hM.of_fits (fun _ _ h => keeps_execCtxdbgBankWrite _ _ _ h hu) hs
  | .ctxdbgSnapshot .. => hM.of_fits (fun _ _ h => keeps_execCtxdbgSnapshot _ _ _ h hu) hs
  | .loRegisterRead .. => hM.of_fits (fun _ _ h => keeps_execLoRegisterRead _ _ _ _ _ h hu) hs
  | .irqStatClear .. => keeps_execIrqStatClear _ _ _ _ hs hu
  | .cqPendClear .. => hM.of_fits (fun _ _ h => keeps_execCqPendClear _ _ _ _ _ h hu) hs
  | .registerWrite .. => hM.of_fits (fun _ _ h => keeps_execRegisterWrite _ _ _ _ _ _ h hu) hs
  | .clockReturn .. => hM.of_fits (fun _ _ h => keeps_execClockReturn _ _ h hu) hs
  | .supplyLoss .. => hM.of_fits (fun _ _ h => keeps_execSupplyLoss _ h hu) hs
  | .dieRingContribution .. => keeps_execDieRingContribution _ _ _ _ _ _ hs hu
  | .dieRingIdentCheck .. => keeps_execDieRingIdentCheck _ _ _ hs hu
  | .dieRingSectorRelease .. => keeps_execDieRingSectorRelease _ _ _ _ _ _ hs hu
  | .dieRingResponse .. => keeps_execDieRingResponse _ _ _ _ hs hu

/-- Settles O2: what a step carries out keeps `Fits` for the rest of the queue, by the cases of `keeps_exec`. -/
theorem stepKeepsFits : Obligations.StepKeepsFits := by
  intro p c q s t hs hu
  have hrest : Fits p q { s with pending := q } := ⟨hs.params, rfl, hs.counters, hs.err⟩
  have hstep : step s = exec c { s with pending := q } := by simp only [step, hs.pending]
  exact (keeps_exec c (fun _ => ⟨p, q, rfl⟩) (keeps_fits hrest) (hstep ▸ hu)).here

/-! ### What the commands without an effect on the registers keep -/

/-- A state has the registers and the inputs of s, and no MAP_OUT waits. -/
structure SameRegisters (s t : State) : Prop where
  regs : t.regs = s.regs
  lc : t.lc = s.lc
  lcInvalid : t.lcInvalid = s.lcInvalid
  grant : t.power.grant = s.power.grant
  therm : t.therm = s.therm
  clkRec : t.clkRec = s.clkRec
  cwChannel : t.cwChannel = s.cwChannel
  params : t.params = s.params
  pending : t.pending = s.pending
  mapWait : t.mapWait = none

/-- An update that leaves what `SameRegisters` is about. -/
theorem SameRegisters.of_same {s t u : State} (h : SameRegisters s t)
    (e : (u.params, u.pending, u.regs, u.lc, u.lcInvalid, u.power.grant, u.therm, u.clkRec, u.cwChannel, u.mapWait) =
      (t.params, t.pending, t.regs, t.lc, t.lcInvalid, t.power.grant, t.therm, t.clkRec, t.cwChannel, t.mapWait)) : SameRegisters s u := by
  simp only [Prod.mk.injEq] at e
  obtain ⟨hparams, hpending, hregs, hlc, hinv, hgrant, htherm, hclk, hcw, hmap⟩ := e
  exact ⟨hregs.trans h.regs, hlc.trans h.lc, hinv.trans h.lcInvalid, hgrant.trans h.grant, htherm.trans h.therm, hclk.trans h.clkRec,
    hcw.trans h.cwChannel, hparams.trans h.params, hpending.trans h.pending, hmap.trans h.mapWait⟩

/-- The thermal state of each group is read from the list of groups alone. -/
theorem State.therm_congr {s t : State} (h : t.therms = s.therms) : t.therm = s.therm := by
  funext g
  unfold State.therm
  rw [h]

/-- Without a MAP_OUT that waits there is none to be tried again. -/
theorem State.mapAgain_of_none {s : State} (h : s.mapWait = none) : s.mapAgain = s := by
  unfold State.mapAgain
  rw [h]

theorem sameRegisters_stable (s : State) : Stable (SameRegisters s) where
  upd t u e h := h.of_same (by simp only [Prod.mk.injEq] at e ⊢; tauto)
  err _ _ _ _ _ h := h.of_same rfl
  bump _ _ _ h := h.of_same rfl
  report t n h := h.of_same (by
    simp [State.therm_congr (t := t.report n) (s := t)])
  noMap _ h := h.of_same (by rw [h.mapWait]; rfl)
  mapped t h := by rwa [State.mapAgain_of_none h.mapWait]

/-! The three commands that change the counters or the management queue themselves. -/

theorem sameRegisters_mgReset {s t : State} (h : SameRegisters s t) : SameRegisters s t.mgReset := by
  unfold State.mgReset
  split
  · exact h.of_same rfl
  · exact h

theorem sameRegisters_recordOut {s t : State} (h : SameRegisters s t) : SameRegisters s t.recordOut := by
  unfold State.recordOut
  split
  · exact h
  · split
    · exact h.of_same rfl
    · exact h

theorem sameRegisters_cntClear {s t : State} (w : Word) (h : SameRegisters s t) : SameRegisters s (t.cntClear w) := by
  unfold State.cntClear
  split
  · exact h.of_same rfl
  · exact h

/-- A plain command keeps the registers: the three that change the counters or the management queue themselves, and the others as
`keeps_exec` says. -/
theorem sameRegisters_exec {c : Instr} {s t : State} (hc : PlainCommand c) (hmap : s.mapWait = none) (ht : exec c s = .next t) :
    SameRegisters s t := by
  have hs : SameRegisters s s := ⟨rfl, rfl, rfl, rfl, rfl, rfl, rfl, rfl, rfl, hmap⟩
  have hall (h : KeepsStable c) : SameRegisters s t :=
    (keeps_exec c (fun n => absurd h n) ⟨sameRegisters_stable s, hs⟩ ht).here
  have htimed (time : Time) : Keeps (SameRegisters s) (s.timed time) := keeps_timed time ⟨sameRegisters_stable s, hs⟩
  cases c with
  | mgRstN time =>
    injection ht with ht
    subst ht
    exact (sameRegisters_mgReset (htimed time).here)
  | mgRecordOut time par =>
    injection ht with ht
    subst ht
    exact (keeps_crossing _ _ _ _ (fun u hu => ⟨hu.stable, sameRegisters_recordOut hu.here⟩) (htimed time)).here
  | cntClear time w par =>
    injection ht with ht
    subst ht
    exact (keeps_register _ _ (fun u hu => keeps_whenOpen _ (fun v hv => ⟨hv.stable, sameRegisters_cntClear w hv.here⟩) hu) (htimed time)).here
  | _ => exact hall hc

/-- Settles O60: a plain command keeps `SameRegisters`. -/
theorem plainCommandsKeepRegisters : Obligations.PlainCommandsKeepRegisters := by
  intro c s t hc hmap ht
  have h := sameRegisters_exec hc hmap ht
  exact ⟨h.regs, h.lc, h.lcInvalid, h.grant, h.therm, h.clkRec, h.cwChannel, h.params, h.pending⟩

end Sys2Proof.Machine
end

section
/-! SUPPORT. When a command is taken: what the conditions on clocks, ports, phases and the cluster come to when they hold. -/

namespace Sys2Proof.Machine

@[simp] theorem State.timed_clksLost (s : State) (t : Time) (l : List Clk) : (s.timed t).clksLost l = s.clksLost l := rfl

@[simp] theorem State.timed_reached (s : State) (t : Time) : (s.timed t).reached = s.reached := rfl

@[simp] theorem State.timed_portsUp (s : State) (t : Time) : (s.timed t).portsUp = s.portsUp := rfl

@[simp] theorem State.timed_working (s : State) (t : Time) : (s.timed t).working = s.working := rfl

/-- What crosses the domains of clocks that all run, without a parity error, takes place. -/
theorem State.crossing_of_running {l : List Clk} {u : UnitId × Nat} {f : State → State} {s : State} (h : s.clksLost l = false) :
    s.crossing l u none f = f s := State.clocked_of_running h

theorem State.reached_iff {s : State} : s.reached = true ↔ s.regsOpen = true ∧ s.clksLost [.hclk, .eclk] = false := by
  simp [State.reached]

/-- A register access that reaches the registers takes place. -/
theorem State.register_of_reached {f : State → State} {s : State} (h : s.reached = true) : s.register none f = f s :=
  State.crossing_of_running (State.reached_iff.mp h).2

theorem State.whenOpen_of_reached {f : State → State} {s : State} (h : s.reached = true) : s.whenOpen f = f s :=
  if_pos (State.reached_iff.mp h).1

/-- A write that reaches the registers and that the ports take. -/
theorem State.register_whenOpen {f : State → State} {s : State} (h : s.reached = true) : s.register none (State.whenOpen f) = f s := by
  rw [State.register_of_reached h, State.whenOpen_of_reached h]

theorem State.whenPowered_of_powered {f : State → State} {s : State} (h : s.powered = true) : s.whenPowered f = f s := if_pos h

theorem State.atWork_of_working {f : State → State} {s : State} (h : s.working = true) : s.atWork f = f s := if_pos h

/-- A cluster that works has its ECLK. -/
theorem State.eclk_of_working {s : State} (h : s.working = true) : s.clksLost [.eclk] = false := by
  simp only [State.working, Bool.and_eq_true, Bool.not_eq_true'] at h
  simp [State.clksLost, h.2]

/-- What a memory port in service returns to a step of a cluster whose ECLK runs is used. -/
theorem State.fromMemory_of_up {f : State → State} {s : State} (hp : s.portsUp = true) (hc : s.clksLost [.eclk] = false) :
    s.fromMemory none f = f s := by
  rw [State.fromMemory, if_pos hp, State.crossing_of_running hc]

theorem State.fromMemory_atWork {f : State → State} {s : State} (hp : s.portsUp = true) (hw : s.working = true) :
    s.fromMemory none (fun s => s.atWork f) = f s := by
  rw [State.fromMemory_of_up hp (State.eclk_of_working hw), State.atWork_of_working hw]

/-- In a running phase with the clocks of the ports, an access reaches the registers. -/
theorem State.reached_of_run {s : State} (hph : s.phase = .run) (hc : s.clksLost [.hclk, .eclk] = false) : s.reached = true := by
  simp [State.reached, State.regsOpen, hph, hc]

/-! ### Steps, the machine after reset, stops -/

/-- Settles O1: by the definition of a step. -/
theorem stepRunsFrontCommand : Obligations.StepRunsFrontCommand := by
  intro c q s hq
  simp only [step, hq]

/-- Settles O3: the one record after reset has REC_SEQ 0, and the next one is 1. -/
theorem resetFits : Obligations.ResetFits := by
  refine ⟨rfl, rfl, by simp [State.reset, State.cold], by simp [State.reset], by simp [State.reset], fun i r hr => ?_⟩
  obtain ⟨rfl, rfl⟩ : i = 0 ∧ r = Rec.noChart0 := by
    rcases i with _ | i
    · exact ⟨rfl, (Option.some.inj hr).symm⟩
    · cases hr
  rfl

/-- Settles O4: every arm but the two answers of memory is a next state. -/
theorem onlyMemoryAnswersStop : Obligations.OnlyMemoryAnswersStop := by
  intro c s
  cases c with
  | memoryReadResponse => trivial
  | memoryWriteResponse => trivial
  | _ => exact ⟨_, rfl⟩

/-- Settles O5: an answer whose clocks run is looked up among the outstanding requests of its port; what it then meets decides. -/
theorem unmatchedAnswersStop : Obligations.UnmatchedAnswersStop := by
  intro t port tag img hw e par s
  have hreq : (s.timed t).req? port tag = s.req? port tag := rfl
  refine ⟨?_, ?_⟩
  · show execMemoryReadResponse t port tag img hw s = _ ↔ _
    simp only [execMemoryReadResponse, hreq, State.timed_clksLost]
    cases hc : s.clksLost [memClk port, .eclk] with
    | true => simp
    | false =>
      cases s.req? port tag with
      | none => simp
      | some r => by_cases hk : r.kind = .read <;> simp [hk]
  · show execMemoryWriteResponse t port tag e par s = _ ↔ _
    simp only [execMemoryWriteResponse, hreq, State.timed_clksLost]
    cases hc : s.clksLost [memClk port, .eclk] with
    | true => simp
    | false =>
      cases s.req? port tag with
      | none => simp
      | some r => by_cases hk : r.kind = .read <;> simp [hk]

end Sys2Proof.Machine
end

section
/-! SUPPORT. Cold and warm resets: what their steps leave (13_clocks_power_lifecycle R493 to R496, R509; Tables 13-3, 13-4). -/

namespace Sys2Proof.Machine

/-! ### Cold reset and loss of the supply -/

/-- Settles O6: both leave the block as a cold reset does. -/
theorem coldResetAndSupplyLoss : Obligations.ColdResetAndSupplyLoss := by
  intro t s
  refine ⟨⟨(s.timed t).coldAssert, rfl, ?_⟩, ⟨(s.timed t).supplyLoss, rfl, ?_⟩⟩
  · and_intros <;> rfl
  · and_intros <;> rfl

theorem State.coldRelease_of_low {s : State} (h : s.phase = .coldLow) (lcIn : Nat) : s.coldRelease lcIn = s.coldAgain .repair lcIn :=
  if_pos h

/-- A valid word in the repair step, whose spare is free or is not. -/
theorem State.repairWord_of_repair {s : State} {w : Word} (h : s.phase = .repair) (hw : bit w.toNat 31 = true) :
    s.repairWord w = if s.spareFree w then { s with test := { s.test with spares := s.test.spares ++ [spareOf w] } }
      else { s with test := { s.test with repairBad := s.test.repairBad ++ [w] } } := by
  simp [State.repairWord, h, hw]

/-- The end of a cold reset with a valid LC_IN and no bad repair word is the NO_CHART record. -/
theorem State.coldEnd_of_good {s : State} (hlc : s.lcInvalid = false) (hbad : s.test.repairBad = []) :
    s.coldEnd = { ({ s with phase := .run } : State).noChart with
      test := { ({ s with phase := .run } : State).noChart.test with repairBad := [] } } := by
  simp [State.coldEnd, hlc, hbad, forAll_nil]

theorem exec_sramWipeDone {t : Time} {sc : Scope} {s : State} (h : s.clksLost [.eclk] = false) :
    exec (.sramWipeDone t sc) s = .next ((s.timed t).wipeOf sc).settle :=
  congrArg (fun u : State => Host.Outcome.next u.settle) (State.clocked_of_running (s := s.timed t) h)

theorem exec_currentRampDone {t : Time} {sc : Scope} {s : State} (h : s.clksLost [.eclk] = false) :
    exec (.currentRampDone t sc) s = .next ((s.timed t).rampOf sc).settle :=
  congrArg (fun u : State => Host.Outcome.next u.settle) (State.clocked_of_running (s := s.timed t) h)

/-- Settles O7: each step by its phase. -/
theorem coldResetSteps : Obligations.ColdResetSteps := by
  intro t s
  refine ⟨fun lcIn hph => ?_, fun w hph hw => ?_, fun hph => ?_, fun hph hclk hlc hbad hheld => ?_⟩
  · refine ⟨_, congrArg Host.Outcome.next (State.coldRelease_of_low (s := s.timed t) hph lcIn.toNat), rfl, rfl, rfl, fun h => ?_, fun h => ?_⟩
    · simp [State.coldAgain, State.cold, Nat.not_le.mpr h]
    · simp [State.coldAgain, State.cold, h]
  · refine ⟨_, congrArg Host.Outcome.next (State.repairWord_of_repair (s := s.timed t) hph hw), ?_⟩
    have hfree : (s.timed t).spareFree w = s.spareFree w := rfl
    cases h : s.spareFree w <;> simp [hfree, h]
  · exact congrArg Host.Outcome.next (if_pos hph : (s.timed t).repairDone = _)
  · have hend : (s.timed t).wipeOf .cold = (s.timed t).coldEnd := if_pos hph
    refine ⟨_, (exec_sramWipeDone hclk).trans (by rw [hend, State.coldEnd_of_good (s := s.timed t) hlc hbad]), ?_, ?_, ?_⟩
    · simp [State.noChart]
    · simp [State.noChart, hheld]
    · exact sent_report { s with time := t, phase := .run } _

/-! ### Warm reset -/

/-- The registers are those of s, and no MAP_OUT waits. -/
def RegistersOf (s t : State) : Prop := t.regs = s.regs ∧ t.mapWait = none

theorem registersOf_stable (s : State) : Stable (RegistersOf s) where
  upd t u e h := by
    simp only [Prod.mk.injEq] at e
    exact ⟨e.2.2.2.2.1.trans h.1, e.2.2.2.2.2.2.2.2.2.2.2.trans h.2⟩
  err _ _ _ _ _ h := h
  bump _ _ _ h := h
  report t n h := by simpa [RegistersOf] using h
  noMap _ h := ⟨h.1, rfl⟩
  mapped t h := by rwa [State.mapAgain_of_none h.2]

theorem RegistersOf.keeps {s t : State} (h : RegistersOf s t) : Keeps (RegistersOf s) t := ⟨registersOf_stable s, h⟩

@[simp] theorem State.causewayUnlock_regs (s : State) : s.causewayUnlock.regs = s.regs := by
  unfold State.causewayUnlock
  split <;> simp

/-- The end of the Causeway ends a MAP_OUT that waits, too. -/
theorem State.causewayStops_registersOf (s : State) : RegistersOf s s.causewayStops := by
  unfold State.causewayStops
  split
  · exact ⟨rfl, rfl⟩
  · exact ⟨State.causewayUnlock_regs s, rfl⟩

theorem State.workEnds_registersOf (s : State) : RegistersOf s s.workEnds := (keeps_refuseRemote s.causewayStops_registersOf.keeps).here

theorem State.warmStart_regs (src : Nat) (s : State) : (s.warmStart src).regs = s.regs := by
  have h0 : Keeps (RegistersOf s) s.unissueCommits.workEnds := (State.workEnds_registersOf s.unissueCommits).keeps
  have h1 := keeps_rampTo (wipeCurrent s.params.hardening) h0
  have h2 (l : List WJob) := keeps_forAll (l := l) (fun w t ht => keeps_tileEnds w ht) h1
  have h3 (l : List WJob) (k : List Spill) := keeps_forAll (l := k) (fun x t ht => keeps_spillDrop x ht) (h2 l)
  exact (h3 _ _).here.1

/-- A warm reset that begins leaves no work, no Chart load and no drain, and a cluster that is ON. -/
structure WarmBegun (s : State) (src : Nat) (u : State) : Prop where
  phase : ∃ n, u.phase = .warm .quiesce src n
  streams : u.streams = []
  rjobs : u.rjobs = []
  wjobs : u.wjobs = []
  accs : u.accs = []
  atoll : u.atoll = []
  groups : u.groups = []
  colls : u.colls = []
  cluster : u.cluster = Fn.isOn
  load : u.chart.load = .none
  drain : u.chart.drain = none
  regs : u.regs = s.regs

theorem State.warmStart_begun (src : Nat) (s : State) : WarmBegun s src (s.warmStart src) :=
  ⟨⟨_, rfl⟩, rfl, rfl, rfl, rfl, rfl, rfl, rfl, rfl, rfl, rfl, s.warmStart_regs src⟩

/-- A request that finds the cluster ON or OFF in operation, from either port or the pin. -/
theorem State.clocked_warmReset {s : State} (hclk : s.clksLost [.hclk, .eclk] = false) (hph : s.phase = .run)
    (hst : s.cluster.st = .on ∨ s.cluster.st = .off) (k : Nat) : s.clocked [.hclk, .eclk] (State.warmReset k) = s.warmStart k := by
  rw [State.clocked_of_running hclk, State.warmReset_of_run hph hst]

/-- The first ramp of a warm reset ends once its lead is over (R506). -/
theorem State.warmRamped_rampWipe {s : State} {src n : Nat} (hph : s.phase = .warm .rampWipe src n) (hl : s.power.leadOver = true) :
    s.warmRamped = { s.rampEnds with phase := .warm .wipe src n } := by
  simp [State.warmRamped, hph, hl]

/-- The last ramp of a warm reset ends once its lead is over. -/
theorem State.warmRamped_rampHeld {s : State} {src n : Nat} (hph : s.phase = .warm .rampHeld src n) (hl : s.power.leadOver = true) :
    s.warmRamped = s.warmEnd src n := by
  simp [State.warmRamped, hph, hl]

theorem State.warmWiped_wipe {s : State} {src n : Nat} (hph : s.phase = .warm .wipe src n) :
    s.warmWiped = { s.sramCleared with phase := .warm .rampHeld src n }.rampTo (heldCurrent s.params.hardening) := by
  simp [State.warmWiped, hph]

theorem State.report_counters_length (s : State) (n : Note) : (s.report n).counters.length = s.counters.length := by
  unfold State.report
  dsimp only
  split
  · simp [State.bump, State.bumpN]
  · rfl

theorem State.report_regs (s : State) (n : Note) : (s.report n).regs = s.regs := by simp

theorem State.report_head (s : State) (n : Note) : (s.report n).err.head = s.err.head + 1 := by
  rw [State.report_err, ErrState.place_head]

/-- The end of a warm reset: the registers of a reset but SCRATCH, the counters, and two records. -/
theorem State.warmEnd_after (src n : Nat) (s : State) :
    (s.warmEnd src n).phase = .run ∧
      (s.warmEnd src n).regs = { Regs.reset s.params.hardening with scratch := s.regs.scratch } ∧
      (s.warmEnd src n).counters.length = s.counters.length ∧ (s.warmEnd src n).err.head = s.err.head + 2 ∧
      (s.warmEnd src n).chart.held = true := by
  unfold State.warmEnd State.noChart
  refine ⟨by simp; rfl, (State.report_regs ..).trans (State.report_regs ..), by simp only [State.report_counters_length], ?_,
    by simp; rfl⟩
  simp only [State.report_head]
  rw [BitVec.add_assoc]
  rfl

/-- Settles O8: the start, the first ramp, the wipe and the last ramp of a warm reset. -/
theorem warmResetSteps : Obligations.WarmResetSteps := by
  intro t s
  refine ⟨fun p hclk hph hst => ⟨?_, ?_⟩, fun src n hph hclk hl => ?_, fun src n hph hclk => ?_, fun src n hph hclk hl => ?_⟩
  · obtain h := (s.timed t).warmStart_begun 0
    refine ⟨_, (exec_warmRstN t s).trans (by rw [State.clocked_warmReset (s := s.timed t) hclk hph hst]), h.phase, h.streams, h.rjobs,
      h.wjobs, h.accs, h.atoll, h.groups, h.colls, h.cluster, h.load, h.drain, h.regs⟩
  · obtain h := (s.timed t).warmStart_begun (portCode p)
    exact ⟨_, (exec_warmRst t p s).trans (by rw [State.clocked_warmReset (s := s.timed t) hclk hph hst]), h.phase, h.streams, h.rjobs,
      h.wjobs, h.load, h.drain, h.regs⟩
  · refine ⟨_, exec_currentRampDone hclk, ?_⟩
    have h : (s.timed t).rampOf .warm = _ := State.warmRamped_rampWipe (s := s.timed t) hph hl
    rw [h]
    exact ⟨rfl, rfl, rfl⟩
  · refine ⟨_, exec_sramWipeDone hclk, ?_⟩
    have h : (s.timed t).wipeOf .warm = _ := State.warmWiped_wipe (s := s.timed t) hph
    rw [h]
    exact ⟨rfl, rfl, rfl, rfl⟩
  · refine ⟨_, exec_currentRampDone hclk, ?_⟩
    have h : (s.timed t).rampOf .warm = _ := State.warmRamped_rampHeld (s := s.timed t) hph hl
    rw [h]
    exact State.warmEnd_after src n (s.timed t)

end Sys2Proof.Machine
end

section
/-! SUPPORT. Cores, ports, the whole cluster and the governor: their commands and their stages (05_streams_and_order Table 5-29;
13_clocks_power_lifecycle R499 to R501, R506, R507). -/

namespace Sys2Proof.Machine

/-! ### Outcomes of commands -/

/-- A command brings about what it computes. -/
theorem settles_of_eq {c : Instr} {s u v : State} {P : State → Prop} (he : exec c s = .next u.settle) (hu : u = v) (hp : P v) :
    Settles c s P := ⟨u, he, hu ▸ hp⟩

theorem runs_of_eq {c : Instr} {s u v : State} {P : State → Prop} (he : exec c s = .next u) (hu : u = v) (hp : P v) : Runs c s P :=
  ⟨u, he, hu ▸ hp⟩

/-! ### PWR_GRANT and the lead -/

theorem exec_pwrGrantChange {t : Time} {level : Bool} {s : State} (h : s.clksLost [.eclk] = false) :
    exec (.pwrGrantChange t level none) s = .next ((s.timed t).grantChange level).settle :=
  congrArg (fun u : State => Host.Outcome.next u.settle) (State.crossing_of_running (s := s.timed t) h)

theorem exec_intentLeadExpiry {t : Time} {s : State} (h : s.clksLost [.eclk] = false) :
    exec (.intentLeadExpiry t) s = .next (s.timed t).leadExpires.settle :=
  congrArg (fun u : State => Host.Outcome.next u.settle) (State.clocked_of_running (s := s.timed t) h)

/-- The governor after a change of PWR_GRANT: the lead is over when the grant is honoured and given (R507). -/
theorem State.grantChange_eq (level : Bool) (s : State) : s.grantChange level =
    { s with power := if (s.chartVal Chart.grantEn false && level) = true then { s.power with grant := level, leadOver := true }
      else { s.power with grant := level } } := by
  unfold State.grantChange State.granting
  dsimp only
  split
  · next h => rw [if_pos (show (s.chartVal Chart.grantEn false && level) = true from h)]
  · next h => rw [if_neg (show ¬(s.chartVal Chart.grantEn false && level) = true from h)]

/-- The lead of an announced step is over when INTENT_LEAD_NS have passed (R506). -/
theorem State.leadExpires_due {s : State} {up : Bool} {target : Nat} {since : Time} (h : s.power.intent = some (up, target, since))
    (hle : since + s.intentLead ≤ s.time) : s.leadExpires = { s with power := { s.power with leadOver := true } } := by
  simp [State.leadExpires, h, hle]

theorem State.leadExpires_early {s : State} {up : Bool} {target : Nat} {since : Time} (h : s.power.intent = some (up, target, since))
    (hlt : s.time < since + s.intentLead) : s.leadExpires = s := by
  simp [State.leadExpires, h, Nat.not_le.mpr hlt]

/-- Settles O12. -/
theorem grantAndLead : Obligations.GrantAndLead := by
  intro t s
  refine ⟨fun level hclk => ?_, fun up target since hi hclk => ⟨fun hle => ?_, fun hlt => ?_⟩⟩
  · refine ⟨_, (exec_pwrGrantChange hclk).trans (by rw [State.grantChange_eq]), ?_⟩
    have hen : (s.timed t).chartVal Chart.grantEn false = s.chartVal Chart.grantEn false := rfl
    rw [hen]
    refine ⟨?_, fun he hl => by simp [he, hl], fun h => ?_, rfl, rfl⟩
    · dsimp only
      split <;> rfl
    · obtain h | h := h <;> simp [h]
  · rw [exec_intentLeadExpiry hclk, State.leadExpires_due (s := s.timed t) hi hle]
    rfl
  · rw [exec_intentLeadExpiry hclk, State.leadExpires_early (s := s.timed t) hi hlt]
    rfl

/-! ### The state of a function -/

/-- A core or port that has a state has the one that was set last. -/
theorem State.fn?_setFn {s : State} {f : FnId} {x y : Fn} (h : s.fn? f = some x) (hf : ∀ n, f ≠ .stream n) : (s.setFn f y).fn? f = some y := by
  cases f with
  | core c => simp [State.fn?, State.setFn, State.core, State.updCore]
  | port k i =>
    cases k with
    | memory => simp [State.fn?, State.setFn]
    | delivery => simp [State.fn?, State.setFn, State.updDport]
    | intake =>
      by_cases hi : i.val < 4
      · simp [State.fn?, State.setFn, hi]
      · simp [State.fn?, hi] at h
    | link =>
      by_cases hi : i.val < 2
      · simp [State.fn?, State.setFn, hi]
      · simp [State.fn?, hi] at h
  | stream n => exact absurd rfl (hf n)
  | cluster => rfl

/-- The state of a core or port alone is set. -/
theorem State.setFn_regs (s : State) (f : FnId) (y : Fn) : (s.setFn f y).regs = s.regs := by
  cases f with
  | port k i => 
    cases k with
    | memory => rfl
    | delivery => rfl
    | intake => unfold State.setFn; dsimp only; split <;> rfl
    | link => unfold State.setFn; dsimp only; split <;> rfl
  | _ => rfl

theorem State.fn?_timed (s : State) (t : Time) (f : FnId) : (s.timed t).fn? f = s.fn? f := by
  cases f with
  | port k i => cases k <;> rfl
  | _ => rfl

theorem State.fn?_fnResult (s : State) (r : Nat) (f : FnId) : (s.fnResult r).fn? f = s.fn? f := by
  cases f with
  | port k i => cases k <;> rfl
  | _ => rfl

/-! ### The stages of a shut-down -/

/-- Settles O13: the ramp, the wipe and the completion of a core or port by its own row of Table 5-29. -/
theorem shutDownStages : Obligations.ShutDownStages := by
  intro t f x s hx htest hstream hcluster
  have hx' : (s.timed t).fn? f = some x := by rw [← hx]; exact State.fn?_timed s t f
  have htest' : (s.timed t).inTest f = false := htest
  refine ⟨fun hst hclk => settles_of_eq (exec_currentRampDone hclk) ?_ (State.fn?_setFn hx' hstream),
    fun hst hclk => settles_of_eq (exec_sramWipeDone hclk) ?_ (State.fn?_setFn hx' hstream),
    fun hst hclk => settles_of_eq (exec_shutDownCompletes hclk) ?_ (State.fn?_setFn hx' hstream)⟩
  · simp [State.rampOf, State.rampDone, State.fnRamped, hx', htest', hst, hcluster]
  · simp [State.wipeOf, State.wipeDone, State.fnWiped, hx', htest', hst, hcluster]
  · cases f with
    | stream n => exact absurd rfl (hstream n)
    | cluster => exact absurd rfl hcluster
    | core c => simp [State.shutDownDone, hx', htest', hst, Fn.completed, Fn.isOn, Fn.isOff]
    | port k i => simp [State.shutDownDone, hx', htest', hst, Fn.completed, Fn.isOn, Fn.isOff]

/-! ### The commands for cores and ports -/

theorem exec_fnEnable {t : Time} {w : Word} {s : State} (h : s.reached = true) :
    exec (.fnEnable t w none) s = .next ((s.timed t).fnCmd 1 w).settle :=
  congrArg (fun u : State => Host.Outcome.next u.settle) (State.register_of_reached (s := s.timed t) h)

theorem exec_fnDisable {t : Time} {w : Word} {s : State} (h : s.reached = true) :
    exec (.fnDisable t w none) s = .next ((s.timed t).fnCmd 2 w).settle :=
  congrArg (fun u : State => Host.Outcome.next u.settle) (State.register_of_reached (s := s.timed t) h)

theorem exec_fnReset {t : Time} {w : Word} {s : State} (h : s.reached = true) :
    exec (.fnReset t w none) s = .next ((s.timed t).fnCmd 3 w).settle :=
  congrArg (fun u : State => Host.Outcome.next u.settle) (State.register_of_reached (s := s.timed t) h)

/-- A command of its own row that is refused stores its code. -/
theorem State.fnCmd_refused {s : State} {op r : Nat} {w : Word} (h : s.reached = true) (hop : bits w.toNat 1 0 = op)
    (hr : s.fnRefused w = some r) : s.fnCmd op w = s.fnResult r := by
  simp [State.fnCmd, (State.reached_iff.mp h).1, hop, hr]

/-- A command of its own row that reaches a function which no test holds acts on its state (Table 5-29). -/
theorem State.fnCmd_acts {s : State} {op : Nat} {w : Word} {f : FnId} {x : Fn} (h : s.reached = true) (hop : bits w.toNat 1 0 = op)
    (hr : s.fnRefused w = none) (hf : f = fnOfSel s.selected.1 s.selected.2) (htest : s.heldForTest f = none) (hx : s.fn? f = some x) :
    let y := if op = 1 then x.enabled else if op = 2 then x.disabled (firstStage f) else (x.disabled (firstStage f)).enabled
    s.fnCmd op w = (s.setFn f y).fnResult (if op ≠ 2 ∧ y.st = .pendingOn then 1 else 0) := by
  subst hf
  simp [State.fnCmd, (State.reached_iff.mp h).1, hop, hr, State.fnAct, htest, hx]

/-- Settles O15. -/
theorem functionCommandsRefused : Obligations.FunctionCommandsRefused := by
  intro t w r s h hr
  refine ⟨fun hop => ?_, fun hop => ?_, fun hop => ?_⟩
  · rw [exec_fnEnable h, State.fnCmd_refused (s := s.timed t) h hop hr]; rfl
  · rw [exec_fnDisable h, State.fnCmd_refused (s := s.timed t) h hop hr]; rfl
  · rw [exec_fnReset h, State.fnCmd_refused (s := s.timed t) h hop hr]; rfl

/-- The selected function is a core or a port. -/
theorem fnOfSel_ne_stream (k i n : Nat) : fnOfSel k i ≠ .stream n := by
  unfold fnOfSel
  split <;> simp

/-- Settles O14: the states of Table 5-29 one by one. -/
theorem functionCommands : Obligations.FunctionCommands := by
  intro t w s h hr htest x hx
  have hx' : (s.timed t).fn? (fnOfSel s.selected.1 s.selected.2) = some x := by rw [← hx]; exact State.fn?_timed s t _
  have hset (y : Fn) (r : Nat) : (((s.timed t).setFn _ y).fnResult r).fn? _ = some y :=
    (State.fn?_fnResult _ r _).trans (State.fn?_setFn hx' (fnOfSel_ne_stream _ _))
  have hacts (op : Nat) (hop : bits w.toNat 1 0 = op) := State.fnCmd_acts (s := s.timed t) h hop hr rfl htest hx'
  obtain ⟨st, stage⟩ := x
  refine ⟨fun hop => settles_of_eq (exec_fnEnable h) (hacts 1 hop) ⟨(hset _ _).trans ?_, ?_⟩,
    fun hop => settles_of_eq (exec_fnDisable h) (hacts 2 hop) ⟨?_, ?_, ?_, rfl⟩,
    fun hop => settles_of_eq (exec_fnReset h) (hacts 3 hop) ⟨?_, ?_, ?_⟩⟩
  · cases st <;> rfl
  · cases st <;> rfl
  · rintro rfl; exact hset _ _
  · rintro rfl; exact hset _ _
  · rintro (rfl | rfl) <;> exact hset _ _
  · rintro rfl; exact ⟨hset _ _, rfl⟩
  · rintro rfl; exact ⟨hset _ _, rfl⟩
  · rintro (rfl | rfl) <;> exact ⟨hset _ _, rfl⟩

/-! ### The whole cluster -/

/-- What closes a stream in a drain changes the streams alone. -/
theorem State.drainStream_eq (n : Nat) (s : State) : ∃ l, s.drainStream n = { s with streams := l } := by
  unfold State.drainStream
  split
  · exact ⟨s.streams, rfl⟩
  · split
    · exact ⟨_, rfl⟩
    · exact ⟨_, rfl⟩
    · exact ⟨s.streams, rfl⟩

/-- A drain that begins changes the streams and its own mark alone. -/
theorem State.startDrain_eq (why : DrainFor) (s : State) :
    ∃ l, s.startDrain why = { s with streams := l, chart := { s.chart with drain := some why } } := by
  unfold State.startDrain forAll
  refine keeps_foldl (R := fun u : State => ∃ l, u = { s with streams := l, chart := { s.chart with drain := some why } }) ?_ ⟨s.streams, rfl⟩
  rintro u x ⟨l, rfl⟩
  exact State.drainStream_eq x.num _

theorem exec_clusterDisable {t : Time} {p : Port} {s : State} (h : s.reached = true) :
    exec (.clusterDisable t p none) s = .next ((s.timed t).clusterOff (portCode p)).settle :=
  congrArg (fun u : State => Host.Outcome.next u.settle) (State.register_whenOpen (s := s.timed t) h)

theorem exec_clusterEnable {t : Time} {p : Port} {s : State} (h : s.reached = true) :
    exec (.clusterEnable t p none) s = .next (s.timed t).clusterOn.settle :=
  congrArg (fun u : State => Host.Outcome.next u.settle) (State.register_whenOpen (s := s.timed t) h)

theorem exec_drainDone {t : Time} {s : State} (h : s.clksLost [.eclk] = false) :
    exec (.drainDone t) s = .next (s.timed t).drainDone.settle :=
  congrArg (fun u : State => Host.Outcome.next u.settle) (State.clocked_of_running (s := s.timed t) h)

/-- A disable of a cluster that is ON begins its drain, or waits for the end of a life-cycle change. -/
theorem State.clusterOff_of_on {s : State} (hph : s.phase = .run) (hst : s.cluster.st = .on) (src : Nat) :
    s.clusterOff src = if s.inLife then { s with cluster := ⟨.shutting, .before⟩, offWait := some src }
      else ({ s with cluster := ⟨.shutting, .before⟩ } : State).startDrain (.disable src) := by
  simp [State.clusterOff, hph, hst]

theorem State.inLife_of_run {s : State} (hph : s.phase = .run) (h : ∀ n k, s.chart.drain ≠ some (.life n k)) : s.inLife = false := by
  unfold State.inLife
  split
  · next hp => rw [hph] at hp; cases hp
  · next hd => exact absurd hd (h _ _)
  · rfl

theorem State.clusterOn_of_off {s : State} (hph : s.phase = .run) (hst : s.cluster.st = .off) : s.clusterOn =
    ({ s.rampTo (heldCurrent s.params.hardening) with cluster := Fn.isOn, chart := s.chart.inHeld 0x7C } : State).noChart := by
  simp [State.clusterOn, hph, hst]

theorem State.clusterOn_of_shutting {s : State} (hph : s.phase = .run) (hst : s.cluster.st = .shutting) : s.clusterOn =
    { s with cluster := { s.cluster with st := .pendingOn } } := by
  simp [State.clusterOn, hph, hst]

/-- The drain of a failed UPDATE ends in HELD (12_chart R481). -/
theorem State.drainDone_of_failed {s : State} {r : Nat} (h : s.chart.drain = some (.updateFailed r)) (ho : s.drainOver = true) :
    s.drainDone = (s.rampTo (wipeCurrent s.params.hardening)).enterHeld r := by
  simp [State.drainDone, h, ho]

/-- No queue is enabled in HELD. -/
theorem State.enterHeld_enable (r : Nat) (s : State) (q : Fin 64) : ((s.enterHeld r).queue q).enable = false := by
  simp [State.enterHeld, State.queue, Queue.held]

/-- Settles O16. -/
theorem clusterOnAndOff : Obligations.ClusterOnAndOff := by
  intro t p s hph hclk
  have h := State.reached_of_run hph hclk
  refine ⟨fun hst hlife => ?_, fun hst hlife => ?_, fun hst => ?_, fun hst => ?_, fun r hd ho heclk => ?_⟩
  · have hno : (s.timed t).inLife = false := State.inLife_of_run hph hlife
    obtain ⟨l, hl⟩ := State.startDrain_eq (.disable (portCode p)) ({ s.timed t with cluster := ⟨.shutting, .before⟩ } : State)
    have hoff := State.clusterOff_of_on (s := s.timed t) hph hst (portCode p)
    rw [hno, if_neg Bool.false_ne_true, hl] at hoff
    exact settles_of_eq (exec_clusterDisable h) hoff ⟨rfl, rfl, rfl⟩
  · rw [exec_clusterDisable h, State.clusterOff_of_on (s := s.timed t) hph hst, show (s.timed t).inLife = true from hlife]
    rfl
  · refine settles_of_eq (exec_clusterEnable h) (State.clusterOn_of_off (s := s.timed t) hph hst) ⟨?_, ?_, ?_, ?_⟩
    · simp [State.noChart]
    · simp [State.noChart, ChartSt.inHeld]
    · simp [State.noChart, ChartSt.inHeld]
    · exact sent_report ({ (s.timed t).rampTo (heldCurrent s.params.hardening) with
        cluster := Fn.isOn, chart := s.chart.inHeld 0x7C } : State) _
  · exact settles_of_eq (exec_clusterEnable h) (State.clusterOn_of_shutting (s := s.timed t) hph hst) rfl
  · exact settles_of_eq (exec_drainDone heclk) (State.drainDone_of_failed (s := s.timed t) hd ho)
      ⟨rfl, rfl, rfl, rfl, State.enterHeld_enable r _⟩

end Sys2Proof.Machine
end

section
/-! SUPPORT. Lost clocks: the bits of DJ_CLK_STAT and their records, and what meets a lost domain or a parity error at a crossing
(13_clocks_power_lifecycle R490, R491). -/

namespace Sys2Proof.Machine

/-- What meets a lost domain has no effect. -/
theorem State.clocked_of_lost {l : List Clk} {f : State → State} {s : State} (h : s.clksLost l = true) : s.clocked l f = s := if_pos h

theorem State.crossing_of_lost {l : List Clk} {u : UnitId × Nat} {par : Option Nat} {f : State → State} {s : State}
    (h : s.clksLost l = true) : s.crossing l u par f = s := State.clocked_of_lost h

theorem State.fromMemory_of_lost {par : Option Nat} {f : State → State} {s : State} (h : s.clksLost [.eclk] = true) :
    s.fromMemory par f = s := by
  rw [State.fromMemory, State.crossing_of_lost h, ite_self]

/-- What meets a parity error at its crossing is not used: the error alone is reported. -/
theorem State.crossing_of_parity {l : List Clk} {u : UnitId × Nat} {path : Nat} {f : State → State} {s : State}
    (hp : s.powered = true) (h : s.clksLost l = false) : s.crossing l u (some path) f = s.busParity u.1 u.2 path :=
  (State.clocked_of_running h).trans (State.whenPowered_of_powered hp)

theorem State.clkLost_new {s : State} {c : Clk} (hu : s.clkUsed c = true) (hb : s.regs.clkStat &&& clkBit c = 0) :
    s.clkLost c = ({ s with regs := { s.regs with clkStat := s.regs.clkStat ||| clkBit c } } : State).clkRecord false := by
  simp [State.clkLost, hu, hb]

/-- The loss of a clock that is not used, or that is lost already, changes nothing. -/
theorem State.clkLost_none {s : State} {c : Clk} (h : s.clkUsed c = false ∨ s.regs.clkStat &&& clkBit c ≠ 0) : s.clkLost c = s := by
  unfold State.clkLost
  split
  · rfl
  · next hu => rw [if_pos (h.resolve_left (by simpa using hu))]

theorem State.clkRepeat_due {s : State} (h : s.regs.clkStat ≠ 0) (hle : s.clkRec + s.svcAfter s.clkRec ≤ s.time) :
    s.clkRepeat = s.clkRecord true := if_pos ⟨h, hle⟩

theorem State.clkRepeat_none {s : State} (h : s.regs.clkStat = 0 ∨ s.time < s.clkRec + s.svcAfter s.clkRec) : s.clkRepeat = s :=
  if_neg fun ⟨h1, h2⟩ => h.elim h1 (Nat.not_lt.mpr h2)

/-- The CLK_LOST record. -/
theorem State.clkRecord_after (again : Bool) (s : State) :
    (s.clkRecord again).regs = s.regs ∧ Sent s (s.clkRecord again) 0x84 .corrected ∧ (s.clkRecord again).clkRec = s.time :=
  ⟨State.report_regs _ _, sent_report s _, rfl⟩

theorem exec_clkLost {t : Time} {c : Clk} {s : State} (h : s.powered = true) : exec (.clkLost t c) s = .next ((s.timed t).clkLost c) :=
  congrArg Host.Outcome.next (State.whenPowered_of_powered (s := s.timed t) h)

theorem exec_clkLostRepeat {t : Time} {s : State} (h : s.powered = true) : exec (.clkLostRepeat t) s = .next (s.timed t).clkRepeat :=
  congrArg Host.Outcome.next (State.whenPowered_of_powered (s := s.timed t) h)

theorem exec_clockReturn {t : Time} {c : Clk} {s : State} (h : s.powered = true) :
    exec (.clockReturn t c) s = .next ((s.timed t).clkReturn c) :=
  congrArg Host.Outcome.next (State.whenPowered_of_powered (s := s.timed t) h)

/-- Settles O11: the records by `clkRecord_after`; what meets a lost domain or a parity error by the two cases of a crossing. -/
theorem lostClocks : Obligations.LostClocks := by
  intro t c s hp
  have hsettle {u v : State} (h : u = v) : (Host.Outcome.next u.settle : Host.Outcome State Fault Refusal) = .next v.settle := by rw [h]
  have hlost {l : List Clk} {u : UnitId × Nat} {par : Option Nat} {f : State → State} (h : s.clksLost l = true) :
      (s.timed t).crossing l u par f = { s with time := t } := State.crossing_of_lost (s := s.timed t) h
  have hparity {l : List Clk} {u : UnitId × Nat} {path : Nat} {f : State → State} (h : s.clksLost l = false) :
      (s.timed t).crossing l u (some path) f = ({ s with time := t } : State).busParity u.1 u.2 path :=
    State.crossing_of_parity (s := s.timed t) hp h
  refine ⟨fun hu hb => ?_, fun h => ?_, fun h hle => ?_, fun h => ?_, exec_clockReturn hp, fun par w q ev level img h => ⟨fun he => ?_, ?_⟩,
    fun port hw h => hsettle (State.clocked_of_lost (s := s.timed t) h), fun port tag img hw h => if_pos h,
    fun port rank man payload => ⟨fun h par => hsettle (hlost h), fun h path => hsettle (hparity h)⟩,
    fun w ev path h => ⟨hsettle (hparity h), hsettle (hparity h)⟩⟩
  · exact runs_of_eq (exec_clkLost hp) (State.clkLost_new (s := s.timed t) hu hb)
      (State.clkRecord_after false ({ s.timed t with regs := { s.regs with clkStat := s.regs.clkStat ||| clkBit c } } : State))
  · rw [exec_clkLost hp, State.clkLost_none (s := s.timed t) h]; rfl
  · exact runs_of_eq (exec_clkLostRepeat hp) (State.clkRepeat_due (s := s.timed t) h hle) (State.clkRecord_after true (s.timed t))
  · rw [exec_clkLostRepeat hp, State.clkRepeat_none (s := s.timed t) h]; rfl
  · exact ⟨hsettle (hlost he), hsettle (State.fromMemory_of_lost (s := s.timed t) he)⟩
  · exact ⟨hsettle (hlost h), congrArg Host.Outcome.next (hlost h), hsettle (hlost h)⟩

end Sys2Proof.Machine
end

section
/-! SUPPORT. What memory requests, the allocator and spill space leave alone: requests, free lists and spaces are kept apart from the work
that they serve (10_memory_channels R374 to R390; 01_five_levels R32 to R35). -/

namespace Sys2Proof.Machine

/-- A state without its memory requests, allocation state, spill space, ring messages and counters, and without the model's own counters. -/
def State.offMemory (s : State) : State :=
  { s with
    counters := [], reqs := [], holdq := [], pools := [], lost := [], lagoon := [], asks := [], ring := [], freeCtr := 0, nextId := 0 }

/-- From s to t only memory requests, allocation state, spill space, ring messages and counters have changed. -/
def SameWork (s t : State) : Prop := t.offMemory = s.offMemory

theorem SameWork.refl (s : State) : SameWork s s := rfl

theorem SameWork.trans {s t u : State} (h : SameWork s t) (k : SameWork t u) : SameWork s u := Eq.trans k h

theorem SameWork.forAll {α : Type} {f : α → State → State} (hf : ∀ a t, SameWork t (f a t)) (l : List α) (s : State) :
    SameWork s (forAll l f s) :=
  keeps_foldl (R := SameWork s) (fun t a h => h.trans (hf a t)) (SameWork.refl s)

theorem SameWork.whenB {f : State → State} (hf : ∀ t, SameWork t (f t)) (b : Bool) (s : State) : SameWork s (whenB b f s) := by
  cases b
  · exact SameWork.refl s
  · exact hf s

section
variable {s t : State} (h : SameWork s t)
include h

/-- A field that is not among them is the same. -/
theorem SameWork.field {α : Type} (f : State → α) : f t.offMemory = f s.offMemory := congrArg f h

theorem SameWork.streams : t.streams = s.streams := h.field State.streams
theorem SameWork.queues : t.queues = s.queues := h.field State.queues
theorem SameWork.rjobs : t.rjobs = s.rjobs := h.field State.rjobs
theorem SameWork.wjobs : t.wjobs = s.wjobs := h.field State.wjobs
theorem SameWork.accs : t.accs = s.accs := h.field State.accs
theorem SameWork.groups : t.groups = s.groups := h.field State.groups
theorem SameWork.colls : t.colls = s.colls := h.field State.colls
theorem SameWork.commits : t.commits = s.commits := h.field State.commits
theorem SameWork.dports : t.dports = s.dports := h.field State.dports
theorem SameWork.lports : t.lports = s.lports := h.field State.lports
theorem SameWork.cores : t.cores = s.cores := h.field State.cores
theorem SameWork.regs : t.regs = s.regs := h.field State.regs
theorem SameWork.err : t.err = s.err := h.field State.err
theorem SameWork.chart : t.chart = s.chart := h.field State.chart
theorem SameWork.test : t.test = s.test := h.field State.test
theorem SameWork.dirCache : t.dirCache = s.dirCache := h.field State.dirCache
theorem SameWork.phase : t.phase = s.phase := h.field State.phase
theorem SameWork.cluster : t.cluster = s.cluster := h.field State.cluster
theorem SameWork.time : t.time = s.time := h.field State.time
theorem SameWork.params : t.params = s.params := h.field State.params
theorem SameWork.causeway : t.causeway = s.causeway := h.field State.causeway
theorem SameWork.chans : t.chans = s.chans := h.field State.chans
theorem SameWork.remoteWaits : t.remoteWaits = s.remoteWaits := h.field State.remoteWaits
theorem SameWork.lc : t.lc = s.lc := h.field State.lc

theorem SameWork.stream? (n : Nat) : t.stream? n = s.stream? n := by rw [State.stream?, h.streams]; rfl

theorem SameWork.rjob? (id : Nat) : t.rjob? id = s.rjob? id := by rw [State.rjob?, h.rjobs]; rfl

theorem SameWork.wjob? (id : Nat) : t.wjob? id = s.wjob? id := by rw [State.wjob?, h.wjobs]; rfl

theorem SameWork.acc? (id : Nat) : t.acc? id = s.acc? id := by rw [State.acc?, h.accs]; rfl

theorem SameWork.run? (n : Nat) (seq : Word) : t.run? n seq = s.run? n seq := by rw [State.run?, h.stream?]; rfl

theorem SameWork.queue (q : Fin 64) : t.queue q = s.queue q := by rw [State.queue, h.queues]; rfl

theorem SameWork.core (c : Fin 16) : t.core c = s.core c := by rw [State.core, h.cores]; rfl

end

/-! ### Requests -/

theorem sameWork_bumpN (c : Ctr) (n : Nat) (s : State) : SameWork s (s.bumpN c n) := rfl

theorem sameWork_chosen (s : State) : SameWork s s.chosen := rfl

theorem sameWork_choseN (n : Nat) (s : State) : SameWork s (s.choseN n) := rfl

theorem sameWork_numbered (s : State) : SameWork s s.numbered := rfl

theorem sameWork_sendRing (m : RingMsg) (s : State) : SameWork s (s.sendRing m) := by
  unfold State.sendRing
  split <;> rfl

theorem sameWork_issue (r : MemReq) (s : State) : SameWork s (s.issue r) := by
  unfold State.issue
  split
  · dsimp only
    split <;> rfl
  · split <;> rfl

theorem sameWork_readSpan (addr n : Nat) (why : Nat → Purpose) (s : State) : SameWork s (s.readSpan addr n why) :=
  (sameWork_choseN _ s).trans (SameWork.forAll (fun _ t => sameWork_issue _ t) _ _)

theorem sameWork_writeSpan (addr : Nat) (data : List Byte) (why : Purpose) (s : State) : SameWork s (s.writeSpan addr data why) :=
  (sameWork_choseN _ s).trans (SameWork.forAll (fun _ t => sameWork_issue _ t) _ _)

theorem sameWork_write16 (addr : Nat) (data : List Byte) (why : Purpose) (s : State) : SameWork s (s.write16 addr data why) :=
  (sameWork_chosen s).trans (sameWork_issue _ _)

theorem sameWork_dropReqs (p : Purpose → Bool) (s : State) : SameWork s (s.dropReqs p) := rfl

/-! ### The allocator -/

theorem sameWork_updPool (id : Nat) (f : PoolSt → PoolSt) (s : State) : SameWork s (s.updPool id f) := rfl

theorem sameWork_found (pool a n : Nat) (s : State) : SameWork s (s.found pool a n) := rfl

theorem sameWork_writeMap (pool a n : Nat) (why : Purpose) (s : State) : SameWork s (s.writeMap pool a n why) := by
  unfold State.writeMap
  split
  · exact SameWork.forAll (fun _ t => sameWork_writeSpan _ _ _ t) _ _
  · rfl

theorem sameWork_discardSectors (pool a n : Nat) (s : State) : SameWork s (s.discardSectors pool a n) := by
  unfold State.discardSectors
  split
  · rfl
  · exact (sameWork_updPool _ _ s).trans ((sameWork_found ..).trans (sameWork_writeMap ..))

theorem sameWork_releaseSectors (pool a n : Nat) (s : State) : SameWork s (s.releaseSectors pool a n) := by
  unfold State.releaseSectors
  split
  · exact SameWork.forAll (fun _ t => (sameWork_updPool _ _ t).trans ((sameWork_found ..).trans (sameWork_writeMap ..))) _ _
  · rfl

theorem sameWork_sendRelease (pool a n : Nat) (discard : Bool) (s : State) : SameWork s (s.sendRelease pool a n discard) := by
  unfold State.sendRelease
  split
  · split
    · exact sameWork_discardSectors ..
    · exact sameWork_releaseSectors ..
  · exact sameWork_sendRing ..

theorem sameWork_ask (o : AskOf) (r : RemoteRequest) (s : State) : SameWork s (s.ask o r) :=
  (sameWork_sendRing _ s.numbered).trans rfl

/-! ### Spill space -/

theorem sameWork_updSpill (id : Nat) (f : Spill → Spill) (s : State) : SameWork s (s.updSpill id f) := rfl

theorem sameWork_spillSpaceFor (moving : Bool) (o : SpillOf) (n : Nat) (s : State) : SameWork s (s.spillSpaceFor moving o n).1 := by
  unfold State.spillSpaceFor
  dsimp only
  split
  · split
    · exact SameWork.trans (t := { s with nextId := s.nextId + 1, pools := _, lagoon := _ }) rfl (sameWork_writeMap ..)
    · rfl
  · split
    · split <;> rfl
    · exact SameWork.trans (t := { s with nextId := s.nextId + 1, lagoon := _ }) rfl (sameWork_ask ..)
  · rfl

theorem sameWork_spillSpace (o : SpillOf) (n : Nat) (s : State) : SameWork s (s.spillSpace o n).1 := sameWork_spillSpaceFor false o n s

theorem sameWork_spillGo (id : Nat) (s : State) : SameWork s (s.spillGo id) := by
  unfold State.spillGo
  split
  · rfl
  · dsimp only
    split
    · rfl
    · next x _ _ =>
      generalize hw : forAll x.dirty _ _ = s1
      have h : SameWork s s1 := by
        rw [← hw]
        exact (sameWork_updSpill ..).trans (SameWork.forAll (fun d t => (sameWork_updSpill ..).trans (sameWork_writeSpan ..)) _ _)
      split
      · exact h
      · exact h.trans ((sameWork_updSpill ..).trans (sameWork_readSpan ..))

theorem sameWork_spillStore (o : SpillOf) (off n : Nat) (s : State) : SameWork s (s.spillStore o off n) := by
  unfold State.spillStore
  split
  · rfl
  · exact (sameWork_updSpill _ _ s).trans (sameWork_spillGo ..)

theorem sameWork_spillWipe (x : Spill) (s : State) : SameWork s (s.spillWipe x) := (sameWork_updSpill _ _ s).trans (sameWork_spillGo ..)

theorem sameWork_spillLoad (o : SpillOf) (s : State) : SameWork s (s.spillLoad o) := by
  unfold State.spillLoad
  split
  · rfl
  · split
    · rfl
    · exact (sameWork_updSpill _ _ s).trans (sameWork_spillGo ..)

theorem sameWork_spillDrop (x : Spill) (s : State) : SameWork s (s.spillDrop x) := by
  unfold State.spillDrop
  dsimp only
  split
  · rfl
  · exact SameWork.trans (t := State.dropReqs (Purpose.ofSpill x.id) { s with lagoon := _, asks := _ }) rfl (sameWork_sendRelease ..)

end Sys2Proof.Machine
end

section
/-! SUPPORT. Queue registers, OPEN and CLOSE (05_streams_and_order Tables 5-1 to 5-9, 5-29). -/

namespace Sys2Proof.Machine

/-! ### Queue registers -/

theorem State.onBit_of {w : Word} {i : Nat} {v : Bool} {f : State → State} {s : State} (h : bit w.toNat i = v) : s.onBit w i v f = f s := by
  simp [State.onBit, h]

theorem State.onOp_of {w : Word} {op : Nat} {f : State → State} {s : State} (h : bits w.toNat 1 0 = op) : s.onOp w op f = f s := if_pos h

/-- ENABLE of a queue that is disabled, while a Chart is applied: it is refused with BAD_CFG or carried out. -/
theorem State.qctlWrite_enable {q : Fin 64} {w : Word} {s : State} (hc : s.chart.applied.isSome = true) (hb : bit w.toNat 0 = true)
    (he : (s.queue q).enable = false) : s.qctlWrite q w =
      if (s.queue q).badFor (bits w.toNat 6 2) then
        s.setQueue q { s.queue q with fmtD3 := bit w.toNat 1, log2 := bits w.toNat 6 2, badCfg := true }
      else s.setQueue q { s.queue q with fmtD3 := bit w.toNat 1, log2 := bits w.toNat 6 2, enable := true, badCfg := false } := by
  simp [State.qctlWrite, Option.isNone_iff_eq_none, Option.isSome_iff_ne_none.mp hc, hb, he]

theorem State.qctlWrite_disable {q : Fin 64} {w : Word} {s : State} (hc : s.chart.applied.isSome = true) (hb : bit w.toNat 0 = false) :
    s.qctlWrite q w = s.setQueue q { s.queue q with fmtD3 := bit w.toNat 1, log2 := bits w.toNat 6 2, enable := false } := by
  simp [State.qctlWrite, Option.isNone_iff_eq_none, Option.isSome_iff_ne_none.mp hc, hb]

/-- Settles O17: each register by its own write. -/
theorem queueRegisterWrites : Obligations.QueueRegisterWrites := by
  intro t q w s h
  have hwrite (f : State → State) : (Host.Outcome.next ((s.timed t).register none (State.whenOpen f)) : Host.Outcome State Fault Refusal) =
      .next (f (s.timed t)) := congrArg Host.Outcome.next (State.register_whenOpen (s := s.timed t) h)
  refine ⟨fun hb hc he => ⟨fun hgood => ?_, fun hbad => ?_⟩, fun hb hc => ?_, hwrite _, hwrite _, hwrite _, hwrite _, hwrite _, hwrite _⟩
  · refine (hwrite _).trans (congrArg Host.Outcome.next ?_)
    rw [State.onBit_of hb, State.qctlWrite_enable (s := s.timed t) hc hb he]
    exact if_neg (fun hbad => Bool.false_ne_true (hgood.symm.trans hbad))
  · refine (hwrite _).trans (congrArg Host.Outcome.next ?_)
    rw [State.onBit_of hb, State.qctlWrite_enable (s := s.timed t) hc hb he]
    exact if_pos hbad
  · refine (hwrite _).trans (congrArg Host.Outcome.next ?_)
    rw [State.onBit_of hb, State.qctlWrite_disable (s := s.timed t) hc hb]
    rfl

/-! ### OPEN -/

theorem exec_openStream {t : Time} {w : Word} {s : State} (h : s.reached = true) (hop : bits w.toNat 1 0 = 1) :
    exec (.openStream t w none) s = .next ((s.timed t).openCmd w).settle := by
  refine congrArg (fun u : State => Host.Outcome.next u.settle) ((State.register_whenOpen (s := s.timed t) h).trans ?_)
  rw [State.onOp_of hop]
  exact if_pos hop

theorem State.openCmd_noWork {w : Word} {s : State} (h : s.noWork = true) : s.openCmd w = s.sctl 5 := if_pos h

theorem State.openCmd_badArgs {w : Word} {s : State} (h : s.noWork = false) (hb : badArgs s.regs.sctlArg0 s.regs.sctlArg2 w = true) :
    s.openCmd w = s.sctl 4 := by
  simp [State.openCmd, h, hb]

/-- Settles O19. -/
theorem openStreamRefused : Obligations.OpenStreamRefused := by
  intro t w s h hop
  refine ⟨fun hn => ?_, fun hn hb => ?_⟩
  · rw [exec_openStream h hop, State.openCmd_noWork (s := s.timed t) hn]
    rfl
  · rw [exec_openStream h hop, State.openCmd_badArgs (s := s.timed t) hn hb]
    rfl

/-- A stream without the place of its context and its stall. -/
def Stream.unplaced (x : Stream) : Stream := { x with slot := none, sharedCtx := false, stallSpill := none }

/-- From s to t contexts and stalls alone have changed of the streams. -/
def ContextsMove (s t : State) : Prop := t.streams.map Stream.unplaced = s.streams.map Stream.unplaced

theorem ContextsMove.trans {s t u : State} (h : ContextsMove s t) (k : ContextsMove t u) : ContextsMove s u := Eq.trans k h

theorem SameWork.contextsMove {s t : State} (h : SameWork s t) : ContextsMove s t := congrArg (List.map Stream.unplaced) h.streams

theorem map_updFirst_same {α β : Type} {g : α → β} {p : α → Bool} {f : α → α} (h : ∀ x, g (f x) = g x) (l : List α) :
    (updFirst p f l).map g = l.map g := by
  induction l with
  | nil => rfl
  | cons a l ih =>
    unfold updFirst
    split
    · simp [h]
    · simp [ih]

theorem contextsMove_updStream (n : Nat) {f : Stream → Stream} (h : ∀ x, (f x).unplaced = x.unplaced) (s : State) :
    ContextsMove s (s.updStream n f) := map_updFirst_same h s.streams

/-- A stream that has moved its context is the same but for that. -/
theorem ContextsMove.stream? {s t : State} (h : ContextsMove s t) {n : Nat} {x : Stream} (hx : s.stream? n = some x) :
    ∃ y, t.stream? n = some y ∧ y.unplaced = x.unplaced := by
  have hfind (l : List Stream) : (l.map Stream.unplaced).find? (fun x => x.num == n) = (l.find? fun x => x.num == n).map Stream.unplaced := by
    rw [List.find?_map]
    rfl
  have hxy := (hfind t.streams).symm.trans ((congrArg _ h).trans (hfind s.streams))
  rw [show s.streams.find? (fun x => x.num == n) = some x from hx] at hxy
  exact Option.map_eq_some_iff.mp hxy

theorem contextsMove_spillStall (n : Nat) (staging : Bool) (s : State) : ContextsMove s (s.spillStall n staging) := by
  unfold State.spillStall
  dsimp only
  split
  · rfl
  · refine (contextsMove_updStream n (f := fun x => { x with stallSpill := some (s.spillPool staging, s.time) }) (fun _ => rfl) s).trans ?_
    unfold State.spillRec
    exact congrArg (List.map Stream.unplaced) (by simp)

theorem contextsMove_parkContext (n m : Nat) (s : State) : ContextsMove s (s.parkContext n m).1 := by
  have h := (sameWork_spillSpace (.context m) 1 s).contextsMove
  unfold State.parkContext
  split
  · next t ht => rw [ht] at h; exact h.trans (contextsMove_spillStall n false t)
  · next t ht =>
    rw [ht] at h
    exact h.trans ((contextsMove_updStream m (f := fun y => { y with slot := none }) (fun _ => rfl) t).trans
      (sameWork_spillStore (.context m) 0 1 _).contextsMove)

theorem contextsMove_parkFor (n : Nat) (q : Fin 64) (s : State) : ContextsMove s (s.parkFor n q).1 := by
  unfold State.parkFor
  split
  · rfl
  · exact contextsMove_parkContext ..

theorem contextsMove_getSlot (n : Nat) (q : Fin 64) (s : State) : ContextsMove s (s.getSlot n q).1 := by
  unfold State.getSlot
  split
  · rfl
  · exact contextsMove_parkFor n q s

theorem contextsMove_slotFound (n : Nat) (k : Nat × Bool) (s : State) : ContextsMove s (s.slotFound n k) := by
  have h : ContextsMove s ((s.updStream n fun y => { y with slot := some k.1, sharedCtx := k.2 }).spillFound n) :=
    (contextsMove_updStream n (f := fun y => { y with slot := some k.1, sharedCtx := k.2 }) (fun _ => rfl) s).trans
      (contextsMove_updStream n (f := fun y => { y with stallSpill := none }) (fun _ => rfl) _)
  unfold State.slotFound
  dsimp only
  split
  · exact h.trans (sameWork_spillDrop ..).contextsMove
  · exact h

theorem find?_insertStream {x : Stream} {l : List Stream} (h : l.find? (fun y => y.num == x.num) = none) :
    (insertStream x l).find? (fun y => y.num == x.num) = some x := by
  induction l with
  | nil => simp [insertStream]
  | cons a l ih =>
    cases ha : a.num == x.num with
    | true => simp [ha] at h
    | false =>
      simp only [List.find?_cons, ha] at h
      unfold insertStream
      split
      · simp
      · simp only [List.find?_cons, ha, ih h]

/-- The queue that ARG0 of an OPEN names. -/
def queueOfArg (a0 : Word) : Fin 64 := ⟨bits a0.toNat 21 16, by unfold bits; exact Nat.mod_lt _ (by decide)⟩

/-- A stream number that is free and put in state ON is the stream of those arguments, wherever its context lies. -/
theorem State.stream?_bindStream {s : State} {a0 : Word} (h : s.stream? (bits a0.toNat 15 0) = none) (a1 a2 : Word) :
    ∃ y, (s.bindStream a0 a1 a2).stream? (bits a0.toNat 15 0) = some y ∧
      y.unplaced = (Stream.opened a0 a1 a2 (BitVec.extractLsb' 0 16 s.lfsrNext.lfsr) none false s.time).unplaced := by
  have hnew := find?_insertStream (x := Stream.opened a0 a1 a2 (BitVec.extractLsb' 0 16 s.lfsrNext.lfsr) none false s.time) h
  unfold State.bindStream
  dsimp only
  generalize hs1 : ({ s.lfsrNext with streams := _ } : State) = s1
  have hs : s1.stream? (bits a0.toNat 15 0) = some (Stream.opened a0 a1 a2 (BitVec.extractLsb' 0 16 s.lfsrNext.lfsr) none false s.time) := by
    rw [← hs1]
    exact hnew
  have hget := contextsMove_getSlot (bits a0.toNat 15 0) (queueOfArg a0) s1
  rw [show (⟨bits a0.toNat 21 16, _⟩ : Fin 64) = queueOfArg a0 from rfl]
  split
  · next u k hu => rw [hu] at hget; exact (hget.trans (contextsMove_slotFound ..)).stream? hs
  · next u hu => rw [hu] at hget; exact (hget.trans (contextsMove_parkContext ..)).stream? hs

section
variable {w : Word} {s : State} (h : s.noWork = false) (hb : badArgs s.regs.sctlArg0 s.regs.sctlArg2 w = false) {q : Fin 64}
  (hq : q.val = bits s.regs.sctlArg0.toNat 21 16)
include h hb

include hq in
theorem State.openCmd_pinned (hx : s.stream? (bits s.regs.sctlArg0.toNat 15 0) = none) (hp : bit s.regs.sctlArg2.toNat 1 = true)
    (ha : s.allPinned q = true) : s.openCmd w = s.sctl 5 := by
  obtain rfl : q = queueOfArg s.regs.sctlArg0 := Fin.ext hq
  simp [State.openCmd, h, hb, hx, hp, show s.allPinned ⟨bits s.regs.sctlArg0.toNat 21 16, _⟩ = true from ha]

include hq in
theorem State.openCmd_off (hx : s.stream? (bits s.regs.sctlArg0.toNat 15 0) = none)
    (hp : bit s.regs.sctlArg2.toNat 1 = false ∨ s.allPinned q = false) :
    s.openCmd w = (s.bindStream s.regs.sctlArg0 s.regs.sctlArg1 s.regs.sctlArg2).sctl 0 := by
  obtain rfl : q = queueOfArg s.regs.sctlArg0 := Fin.ext hq
  obtain hp | hp := hp
  · simp [State.openCmd, h, hb, hx, hp]
  · simp [State.openCmd, h, hb, hx, show s.allPinned ⟨bits s.regs.sctlArg0.toNat 21 16, _⟩ = false from hp]

theorem State.openCmd_shutting {x : Stream} (hx : s.stream? (bits s.regs.sctlArg0.toNat 15 0) = some x) (hst : x.fn.st = .shutting) :
    s.openCmd w = (s.updStream (bits s.regs.sctlArg0.toNat 15 0) fun y => { y with
      fn := { y.fn with st := .pendingOn }
      latched := some (s.regs.sctlArg0, s.regs.sctlArg1, s.regs.sctlArg2) }).sctl 1 := by
  simp [State.openCmd, h, hb, hx, hst]

theorem State.openCmd_on {x : Stream} (hx : s.stream? (bits s.regs.sctlArg0.toNat 15 0) = some x) (hst : x.fn.st = .on) :
    s.openCmd w = s.sctl 2 := by
  simp [State.openCmd, h, hb, hx, hst]

end

/-- Settles O18: the four cases of OPEN; a stream that is put in state ON by `stream?_bindStream`. -/
theorem openStream : Obligations.OpenStream := by
  rintro t w s h hop hn hb _ rfl
  refine ⟨fun q hq hx hp ha => ?_, fun q hq hx hp => ?_, fun x hx hst => ?_, fun x hx hst => ?_⟩
  · rw [exec_openStream h hop, State.openCmd_pinned (s := s.timed t) hn hb hq hx hp ha]
    rfl
  · obtain ⟨y, hy, hsame⟩ := State.stream?_bindStream (s := s.timed t) hx s.regs.sctlArg1 s.regs.sctlArg2
    refine settles_of_eq (exec_openStream h hop) (State.openCmd_off (s := s.timed t) hn hb hq hx hp) ⟨rfl, y, hy, ?_⟩
    have hfield {α : Type} (f : Stream → α) := congrArg f hsame
    exact ⟨hfield Stream.fn, hfield Stream.runs, hfield Stream.expectSeq, hfield Stream.weight,
      (hfield Stream.queue).trans (Fin.ext hq.symm), hfield Stream.pin, hfield Stream.deadline, hfield Stream.windowUs,
      hfield Stream.lateness, hfield Stream.lastCmpl⟩
  · exact settles_of_eq (exec_openStream h hop) (State.openCmd_shutting (s := s.timed t) hn hb hx hst)
      ⟨rfl, _, stream?_updStream (s := s.timed t) hx rfl, rfl, rfl, rfl⟩
  · rw [exec_openStream h hop, State.openCmd_on (s := s.timed t) hn hb hx hst]
    rfl

/-! ### CLOSE -/

theorem length_updFirst {α : Type} (p : α → Bool) (f : α → α) (l : List α) : (updFirst p f l).length = l.length := by
  induction l with
  | nil => rfl
  | cons a l ih =>
    unfold updFirst
    split
    · rfl
    · simp [ih]

/-- A stream after one of its runs has changed. -/
theorem State.stream?_updRun {s : State} {n : Nat} {x : Stream} (hx : s.stream? n = some x) (seq : Word) (f : Run → Run) :
    (s.updRun n seq f).stream? n = some { x with runs := updFirst (Run.named seq) f x.runs } :=
  stream?_updStream (f := fun x => { x with runs := updFirst (Run.named seq) f x.runs }) hx rfl

/-- The FENCE of a barrier member that leaves is marked; no run leaves its stream. -/
theorem State.stream?_breakMember {s : State} {n : Nat} {x : Stream} (hx : s.stream? n = some x) :
    ∃ y, (s.breakMember n).stream? n = some y ∧ y.fn = x.fn ∧ y.runs.length = x.runs.length := by
  unfold State.breakMember
  split
  · exact ⟨x, hx, rfl, rfl⟩
  · split
    · exact ⟨_, State.stream?_updRun hx _ _, rfl, length_updFirst ..⟩
    · exact ⟨x, hx, rfl, rfl⟩

/-- CLOSE of a stream in state ON: its shut-down begins, with its descriptors. -/
theorem State.stream?_closeNow {s : State} {n : Nat} {x : Stream} (hx : s.stream? n = some x) :
    ∃ y, (s.closeNow n).stream? n = some y ∧ y.fn = ⟨.shutting, .before⟩ ∧ y.runs.length = x.runs.length :=
  State.stream?_breakMember (stream?_updStream (f := fun y => { y with fn := ⟨.shutting, .before⟩ }) hx rfl)

/-- A stream that has been released is OFF, and no read, write or collective of it is left. -/
theorem State.releaseStream_gone (x : Stream) (s : State) :
    (s.releaseStream x).stream? x.num = none ∧ (∀ w ∈ (s.releaseStream x).wjobs, w.stream ≠ x.num) ∧
      (∀ j ∈ (s.releaseStream x).rjobs, j.stream ≠ x.num) ∧ ∀ c ∈ (s.releaseStream x).colls, c.stream ≠ x.num := by
  unfold State.releaseStream State.dropStream
  refine ⟨?_, fun w hw => ?_, fun j hj => ?_, fun c hc => ?_⟩
  · simp [State.stream?]
  · simpa using (List.mem_filter.mp hw).2
  · simpa using (List.mem_filter.mp hj).2
  · simpa using (List.mem_filter.mp hc).2

/-- Descriptors whose reopening was discarded join their queues, and nothing else changes. -/
theorem State.refuse_eq (l : List (Fin 64 × BitVec 512)) (s : State) : ∃ q, s.refuse l = { s with queues := q } := by
  unfold State.refuse forAll
  refine keeps_foldl (R := fun u : State => ∃ q, u = { s with queues := q }) ?_ ⟨s.queues, rfl⟩
  rintro u x ⟨q, rfl⟩
  exact ⟨_, rfl⟩

theorem exec_closeStream {t : Time} {w : Word} {s : State} (h : s.reached = true) (hop : bits w.toNat 1 0 = 2) :
    exec (.closeStream t w none) s = .next (s.timed t).closeCmd.settle := by
  refine congrArg (fun u : State => Host.Outcome.next u.settle) ((State.register_whenOpen (s := s.timed t) h).trans ?_)
  rw [State.onOp_of hop]
  simp [State.sctlCmd, hop]

theorem State.closeCmd_off {s : State} (hx : s.stream? (bits s.regs.sctlArg0.toNat 15 0) = none) : s.closeCmd = s.sctl 3 := by
  simp [State.closeCmd, hx]

theorem State.closeCmd_on {s : State} {x : Stream} (hx : s.stream? (bits s.regs.sctlArg0.toNat 15 0) = some x) (hst : x.fn.st = .on) :
    s.closeCmd = (s.closeNow (bits s.regs.sctlArg0.toNat 15 0)).sctl 0 := by
  simp [State.closeCmd, hx, hst]

theorem State.closeCmd_pendingOn {s : State} {x : Stream} (hx : s.stream? (bits s.regs.sctlArg0.toNat 15 0) = some x)
    (hst : x.fn.st = .pendingOn) : s.closeCmd = (s.updStream (bits s.regs.sctlArg0.toNat 15 0) Stream.unlatch).sctl 0 := by
  simp [State.closeCmd, hx, hst]

/-- The end of the shut-down of a stream without a latched reopening. -/
theorem State.shutDownDone_stream {s : State} {m : Nat} {x : Stream} (hx : s.stream? m = some x) (hf : x.fn = ⟨.shutting, .wiped⟩) :
    s.shutDownDone (.stream m) = (s.releaseStream x).refuse x.refused := by
  simp [State.shutDownDone, State.fn?, State.inTest, State.streamOff, hx, hf]

theorem State.stream?_num {s : State} {n : Nat} {x : Stream} (hx : s.stream? n = some x) : x.num = n := by
  simpa using List.find?_some hx

/-- Settles O20: the states of CLOSE, and the stream that is released. -/
theorem closeStream : Obligations.CloseStream := by
  rintro t w s h hop _ rfl
  refine ⟨fun hx => ?_, fun x hx hst => ?_, fun x hx hst => ?_, fun m x hx hf hclk => ?_⟩
  · rw [exec_closeStream h hop, State.closeCmd_off (s := s.timed t) hx]
    rfl
  · exact settles_of_eq (exec_closeStream h hop) (State.closeCmd_on (s := s.timed t) hx hst) ⟨rfl, State.stream?_closeNow (s := s.timed t) hx⟩
  · exact settles_of_eq (exec_closeStream h hop) (State.closeCmd_pendingOn (s := s.timed t) hx hst)
      ⟨rfl, _, stream?_updStream (s := s.timed t) hx rfl, rfl, rfl, rfl⟩
  · obtain ⟨q, hq⟩ := State.refuse_eq x.refused ((s.timed t).releaseStream x)
    have hgone := State.releaseStream_gone x (s.timed t)
    rw [State.stream?_num hx] at hgone
    exact settles_of_eq (exec_shutDownCompletes hclk) ((State.shutDownDone_stream (s := s.timed t) hx hf).trans hq) hgone

end Sys2Proof.Machine
end

section
/-! SUPPORT. Records, too, leave the work alone; a fetched descriptor and a parked context (05_streams_and_order Tables 5-22, 5-25, R166). -/

namespace Sys2Proof.Machine

/-! ### Records -/

/-- From s to t only what `SameWork` is about and the error state have changed. -/
def SameButErr (s t : State) : Prop := SameWork { s with err := t.err } t

theorem SameWork.sameButErr {s t : State} (h : SameWork s t) : SameButErr s t := by
  have herr := h.err
  unfold SameButErr
  rw [herr]
  exact h

theorem SameButErr.trans {s t u : State} (h : SameButErr s t) (k : SameButErr t u) : SameButErr s u := by
  have h' : SameWork { s with err := u.err } { t with err := u.err } := by
    have h'' : ({ t.offMemory with err := u.err } : State) = { ({ s with err := t.err } : State).offMemory with err := u.err } :=
      congrArg (fun v : State => ({ v with err := u.err } : State)) h
    exact h''
  exact h'.trans k

theorem SameButErr.refl (s : State) : SameButErr s s := SameWork.refl s

theorem sameButErr_report (n : Note) (s : State) : SameButErr s (s.report n) := by
  unfold State.report
  dsimp only
  split <;> rfl

theorem sameButErr_workReport (n : Nat) (seq : Word) (x : Note) (s : State) : SameButErr s (s.workReport n seq x) := by
  unfold State.workReport
  split <;> exact sameButErr_report _ s

section
variable {s t : State} (h : SameButErr s t)
include h

/-- A field that is not among them is the same. -/
theorem SameButErr.field {α : Type} (f : State → α) (hf : ∀ (v : State) (e : ErrState), f { v with err := e } = f v := by exact fun _ _ => rfl) :
    f t.offMemory = f s.offMemory := (SameWork.field h f).trans (hf s.offMemory t.err)

theorem SameButErr.streams : t.streams = s.streams := h.field State.streams
theorem SameButErr.queues : t.queues = s.queues := h.field State.queues
theorem SameButErr.rjobs : t.rjobs = s.rjobs := h.field State.rjobs
theorem SameButErr.wjobs : t.wjobs = s.wjobs := h.field State.wjobs
theorem SameButErr.accs : t.accs = s.accs := h.field State.accs
theorem SameButErr.groups : t.groups = s.groups := h.field State.groups
theorem SameButErr.colls : t.colls = s.colls := h.field State.colls
theorem SameButErr.dports : t.dports = s.dports := h.field State.dports
theorem SameButErr.cores : t.cores = s.cores := h.field State.cores
theorem SameButErr.regs : t.regs = s.regs := h.field State.regs
theorem SameButErr.chart : t.chart = s.chart := h.field State.chart
theorem SameButErr.test : t.test = s.test := h.field State.test

theorem SameButErr.stream? (n : Nat) : t.stream? n = s.stream? n := by rw [State.stream?, h.streams]; rfl

theorem SameButErr.run? (n : Nat) (seq : Word) : t.run? n seq = s.run? n seq := by rw [State.run?, h.stream?]; rfl

theorem SameButErr.queue (q : Fin 64) : t.queue q = s.queue q := by rw [State.queue, h.queues]; rfl

theorem SameButErr.core (c : Fin 16) : t.core c = s.core c := by rw [State.core, h.cores]; rfl

theorem SameButErr.contextsMove : ContextsMove s t := congrArg (List.map Stream.unplaced) h.streams

end

/-! ### Fetching -/

/-- The fate of a forwarding RECV is known: nothing but collectives and records changes. -/
theorem State.pairUp_after (n : Nat) (recv : Run) (seq : Word) (ok : Bool) (s : State) :
    ∃ c, SameButErr { s with colls := c } (s.pairUp n recv seq ok) := by
  unfold State.pairUp
  dsimp only
  split
  · exact ⟨_, SameButErr.refl _⟩
  · exact ⟨_, sameButErr_workReport _ _ _ _⟩

theorem State.followFails_after (q : Fin 64) (d : BitVec 512) (s : State) : ∃ c, SameButErr { s with colls := c } (s.followFails q d) := by
  unfold State.followFails
  split
  · exact ⟨s.colls, SameButErr.refl _⟩
  · split
    · exact ⟨s.colls, SameButErr.refl _⟩
    · split
      · split
        · exact State.pairUp_after ..
        · exact ⟨s.colls, SameButErr.refl _⟩
      · exact ⟨s.colls, SameButErr.refl _⟩

theorem State.queue_setQueue (s : State) (q : Fin 64) (x : Queue) : (s.setQueue q x).queue q = x := by
  simp [State.queue]

/-- A descriptor that fails step 1, 2 or 3 waits in its queue, whose head moves on; the rest stands. -/
theorem State.failEarly_queue (q : Fin 64) (d : BitVec 512) (code : Nat) (s : State) :
    ((s.failEarly q d code).queue q).early = (s.queue q).early ++ [(d, code)] ∧
      ((s.failEarly q d code).queue q).qhead = ((s.queue q).qhead + 1) % 2 ^ ((s.queue q).log2 + 1) := by
  simp [State.failEarly, State.queueFlows, State.queue_setQueue]

/-- The next descriptor of a queue is examined; a poisoned sector of its entry counts, and a free choice may be used (log 89). -/
theorem State.fetch_next {q : Fin 64} {img : Image} {s : State} (hw : s.takeWaiting q img = none) (hwait : (s.queue q).wait = none)
    (hmay : s.mayFetch q = true) (hheld : s.spanHeld (s.queue q).headAddr (s.queue q).entryBytes = false) :
    ∃ c f, s.fetch q img = ({ s with counters := c, freeCtr := f } : State).examine q (s.headDesc q img) img := by
  simp only [State.fetch, hw, hwait, hmay, hheld, Bool.not_true, Bool.or_false, Bool.false_eq_true, if_false]
  split
  · exact ⟨s.counters, s.freeCtr, rfl⟩
  · exact ⟨_, _, rfl⟩

/-- An entry on a held channel is not read yet (R390). -/
theorem State.fetch_held {q : Fin 64} {img : Image} {s : State} (hw : s.takeWaiting q img = none) (hwait : (s.queue q).wait = none)
    (hheld : s.spanHeld (s.queue q).headAddr (s.queue q).entryBytes = true) : s.fetch q img = s := by
  simp [State.fetch, hw, hwait, hheld]

theorem State.takeWaiting_timed {q : Fin 64} {img : Image} {s : State} (t : Time) (h : s.takeWaiting q img = none) :
    (s.timed t).takeWaiting q img = none := by
  unfold State.takeWaiting at h ⊢
  have hfind : (s.timed t).streams.find? (fun x => x.queue == q && decide (x.runs.length < 8) &&
      x.todo.head?.any fun d => !(dSeq d == x.expectSeq && (s.timed t).namedHeld img d)) =
    s.streams.find? (fun x => x.queue == q && decide (x.runs.length < 8) &&
      x.todo.head?.any fun d => !(dSeq d == x.expectSeq && s.namedHeld img d)) := rfl
  rw [hfind]
  split at h
  · rfl
  · split at h
    · rfl
    · cases h

theorem exec_descriptorFetch {t : Time} {q : Fin 64} {img : Image} {s : State} (hw : s.working = true) (hp : s.portsUp = true) :
    exec (.descriptorFetch t q img none) s = .next ((s.timed t).fetch q img).settle :=
  congrArg (fun u : State => Host.Outcome.next u.settle) (State.fromMemory_atWork (s := s.timed t) hp hw)

/-- The three checks that precede a descriptor's stream: the code of the first that fails. -/
def State.EarlyFault (s : State) (q : Fin 64) (d : BitVec 512) (code : Nat) : Prop :=
  code = 0x10 ∧ s.kindBad (s.queue q).fmtD3 (dKind d) = true ∨
    s.kindBad (s.queue q).fmtD3 (dKind d) = false ∧ (code = 0x11 ∧ s.handleBad (dHandle d) = true ∨
      s.handleBad (dHandle d) = false ∧ code = 0x12 ∧ s.stream? (dStream d) = none)

/-- A descriptor that fails one of them waits for its completion record; the forwarding RECV before it may learn of it. -/
theorem State.examine_fails {s : State} {q : Fin 64} {d : BitVec 512} {code : Nat} (img : Image) (h : s.EarlyFault q d code) :
    ∃ c, SameButErr { s.failEarly q d code with colls := c } (s.examine q d img) := by
  unfold State.examine
  obtain ⟨rfl, hk⟩ | ⟨hk, ⟨rfl, hh⟩ | ⟨hh, rfl, hx⟩⟩ := h
  · rw [if_pos hk]
    exact State.followFails_after ..
  · simp only [hk, hh, Bool.false_eq_true, if_false, if_true]
    exact ⟨_, SameButErr.refl _⟩
  · simp only [hk, hh, hx, Bool.false_eq_true, if_false]
    exact ⟨_, SameButErr.refl _⟩

/-- A descriptor whose stream has room and a context, and whose records can be read, is accepted. -/
theorem State.examine_accepts {s : State} {q : Fin 64} {d : BitVec 512} {x : Stream} (img : Image)
    (hk : s.kindBad (s.queue q).fmtD3 (dKind d) = false) (hh : s.handleBad (dHandle d) = false) (hx : s.stream? (dStream d) = some x)
    (hq : x.queue = q) (hst : x.fn.st = .on) (hroom : x.held < 8) (htodo : x.todo = []) (hslot : x.slot.isSome = true)
    (hheld : dSeq d = x.expectSeq → s.namedHeld img d = false) : s.examine q d img = (s.queueFlows q).accept x.num q d img := by
  have hnamed : ¬(dSeq d = x.expectSeq ∧ s.namedHeld img d = true) := fun ⟨h1, h2⟩ => by simp [hheld h1] at h2
  have hslot' : x.slot.isNone = false := by simpa [Option.isSome_iff_ne_none] using hslot
  simp only [State.examine, hk, hh, hx, hq, hst, hslot', htodo, Nat.not_le.mpr hroom, Bool.false_eq_true, if_false, ne_eq, not_true,
    false_or, hnamed, reduceCtorEq, false_and]

/-- The run that a descriptor becomes in stream x, and its status after steps 4 to 8. -/
def State.acceptedRun (s : State) (x : Stream) (q : Fin 64) (d : BitVec 512) (img : Image) : Run :=
  let named := if dSeq d == x.expectSeq then s.readNamed img d else ⟨0, 0, 0, [], false, false, false, false, false, 0⟩
  let status := if dSeq d == x.expectSeq then s.laterChecks x (s.queue q).fmtD3 d named else 0x13
  let r := Run.fetched d q status named
  { (if (dKind d == 0x20 || dKind d == 0x21) && status == 0 then { r with started := true, total := r.units } else r) with order := s.nextId }

theorem State.acceptedRun_fields (s : State) (x : Stream) (q : Fin 64) (d : BitVec 512) (img : Image) :
    (s.acceptedRun x q d img).desc = d ∧ (s.acceptedRun x q d img).queue = q ∧
      (dSeq d ≠ x.expectSeq → (s.acceptedRun x q d img).status = 0x13) := by
  unfold State.acceptedRun
  dsimp only
  generalize (if dSeq d == x.expectSeq then s.readNamed img d else _) = named
  generalize hstatus : (if dSeq d == x.expectSeq then _ else 0x13) = status
  have hbad : dSeq d ≠ x.expectSeq → status = 0x13 := fun h => by simpa [h] using hstatus.symm
  split <;> exact ⟨rfl, rfl, hbad⟩

/-- A stream with one more fetched descriptor; the expected SEQ counts when it is that of the descriptor. -/
def Stream.joined (x : Stream) (r : Run) (same : Bool) : Stream :=
  { x with expectSeq := if same then x.expectSeq + 1 else x.expectSeq, runs := x.runs ++ [r] }

/-- A descriptor that passed steps 1 to 3: its stream has its run, and the queues stand. -/
theorem State.accept_after {s : State} {n : Nat} {x : Stream} (q : Fin 64) (d : BitVec 512) (img : Image) (hx : s.stream? n = some x) :
    (s.accept n q d img).queues = s.queues ∧
      (s.accept n q d img).stream? n = some (x.joined (s.acceptedRun x q d img) (dSeq d == x.expectSeq)) := by
  have hjoin : ∀ (v : State) (r : Run), v.stream? n = some x →
      (v.updStream n fun y => { y with
        expectSeq := if dSeq d == x.expectSeq then y.expectSeq + 1 else y.expectSeq
        runs := y.runs ++ [r] }).stream? n = some (x.joined r (dSeq d == x.expectSeq)) := fun v r hv =>
    stream?_updStream (s := v) (f := fun y => { y with
      expectSeq := if dSeq d == x.expectSeq then y.expectSeq + 1 else y.expectSeq
      runs := y.runs ++ [r] }) hv rfl
  have hpair : ∀ (v : State) (ok : Bool), let w := (match s.openPair x with
      | some p => v.pairUp n p (dSeq d) ok
      | none => v)
      w.queues = v.queues ∧ w.stream? n = v.stream? n := fun v ok => by
    dsimp only
    split
    · obtain ⟨c, hc⟩ := State.pairUp_after n _ (dSeq d) ok v
      exact ⟨hc.queues, hc.stream? n⟩
    · exact ⟨rfl, rfl⟩
  have hcoll : ∀ (v : State) (b : Bool) (l : List Coll),
      (if b then { v with colls := l } else v).queues = v.queues ∧ (if b then { v with colls := l } else v).stream? n = v.stream? n := fun v b l => by
    cases b <;> exact ⟨rfl, rfl⟩
  unfold State.accept
  rw [hx]
  exact ⟨(hcoll _ _ _).1.trans (hpair _ _).1, (hcoll _ _ _).2.trans ((hpair _ _).2.trans (hjoin _ _ hx))⟩

/-- An accepted descriptor joins its stream at its end: the expected SEQ counts up, or the status is BAD_SEQ. -/
theorem State.accept_joins {s : State} {n : Nat} {x : Stream} (q : Fin 64) (d : BitVec 512) (img : Image) (hx : s.stream? n = some x) :
    ∃ y r, (s.accept n q d img).stream? n = some y ∧ y.runs.length = x.runs.length + 1 ∧
      y.runs.getLast? = some r ∧ r.desc = d ∧ r.queue = q ∧ (dSeq d = x.expectSeq → y.expectSeq = x.expectSeq + 1) ∧
      (dSeq d ≠ x.expectSeq → y.expectSeq = x.expectSeq ∧ r.status = 0x13) := by
  obtain ⟨hdesc, hqueue, hstatus⟩ := s.acceptedRun_fields x q d img
  refine ⟨_, _, (State.accept_after q d img hx).2, ?_, ?_, hdesc, hqueue, fun h => ?_, fun h => ⟨?_, hstatus h⟩⟩
  · simp [Stream.joined]
  · simp [Stream.joined]
  · simp [Stream.joined, h]
  · simp [Stream.joined, h]

/-- Settles O21: the entry is examined in the order of Table 5-22. -/
theorem descriptorFetch : Obligations.DescriptorFetch := by
  unfold Obligations.DescriptorFetch
  intro t q img d s hw hp htw hwait hmay hd
  have htw' := State.takeWaiting_timed t htw
  refine ⟨fun hheld => ?_, fun hheld => ?_⟩
  · rw [exec_descriptorFetch hw hp, State.fetch_held htw' hwait hheld]
    rfl
  obtain ⟨c, f, hfetch⟩ := State.fetch_next (s := s.timed t) htw' hwait hmay hheld
  generalize hv : ({ s.timed t with counters := c, freeCtr := f } : State) = v at hfetch
  have hd' : (s.timed t).headDesc q img = d := hd.symm
  rw [hd'] at hfetch
  refine ⟨fun code hcode => ?_, fun x hk hh hx hq hst hroom htodo hslot hnamed => ?_⟩
  · obtain ⟨cl, hsame⟩ := State.examine_fails (s := v) img (by rw [← hv]; exact hcode)
    have hearly := State.failEarly_queue q d code v
    refine settles_of_eq (exec_descriptorFetch hw hp) hfetch ?_
    rw [hsame.queue, hsame.streams, hsame.rjobs, hsame.wjobs]
    subst hv
    exact ⟨hearly.1, hearly.2, rfl, rfl, rfl⟩
  · have hacc := State.examine_accepts (s := v) (x := x) img (by rw [← hv]; exact hk) (by rw [← hv]; exact hh)
      (by rw [← hv]; exact hx) hq hst hroom htodo hslot (by rw [← hv]; exact hnamed)
    have hnum : x.num = dStream d := State.stream?_num hx
    rw [hnum] at hacc
    have hx' : (v.queueFlows q).stream? (dStream d) = some x := by subst hv; exact hx
    refine settles_of_eq (exec_descriptorFetch hw hp) (hfetch.trans hacc) ⟨?_, State.accept_joins q d img hx'⟩
    rw [State.queue, (State.accept_after q d img hx').1]
    subst hv
    exact congrArg Queue.qhead (State.queue_setQueue _ q _)

/-! ### A parked context that is back -/

theorem exec_contextFetchDone {t : Time} {q : Fin 64} {img : Image} {s : State} (hw : s.working = true) (hp : s.portsUp = true) :
    exec (.contextFetchDone t q img none) s = .next ((s.timed t).contextBack q img).settle :=
  congrArg (fun u : State => Host.Outcome.next u.settle) (State.fromMemory_atWork (s := s.timed t) hp hw)

/-- The stream holds context k. -/
def State.Holds (s : State) (n k : Nat) (shared : Bool) : Prop :=
  ∃ y, s.stream? n = some y ∧ y.slot = some k ∧ y.sharedCtx = shared

theorem State.Holds.of_streams {s t : State} {n k : Nat} {shared : Bool} (h : s.Holds n k shared) (hs : t.streams = s.streams) :
    t.Holds n k shared := by
  unfold State.Holds State.stream? at *
  rw [hs]
  exact h

theorem State.slotFound_holds {s : State} {n : Nat} {x : Stream} (k : Nat) (shared : Bool) (hx : s.stream? n = some x) :
    (s.slotFound n (k, shared)).Holds n k shared := by
  have h : ((s.updStream n fun y => { y with slot := some k, sharedCtx := shared }).spillFound n).Holds n k shared :=
    ⟨_, stream?_updStream (f := fun y => { y with stallSpill := none })
      (stream?_updStream (f := fun y => { y with slot := some k, sharedCtx := shared }) hx rfl) rfl, rfl, rfl⟩
  unfold State.slotFound
  dsimp only
  split
  · exact h.of_streams (sameWork_spillDrop _ _).streams
  · exact h

/-- The examination of a descriptor leaves its stream the context that it holds. -/
theorem State.examine_holds {s : State} {q : Fin 64} {d : BitVec 512} {k : Nat} {shared : Bool} (img : Image)
    (h : s.Holds (dStream d) k shared) : (s.examine q d img).Holds (dStream d) k shared := by
  obtain ⟨x, hx, hslot, hshared⟩ := h
  have hnum := State.stream?_num hx
  have hhere : s.Holds (dStream d) k shared := ⟨x, hx, hslot, hshared⟩
  have hfail : ∀ code, ((s.failEarly q d code).followFails q d).Holds (dStream d) k shared := fun code => by
    obtain ⟨c, hc⟩ := State.followFails_after q d (s.failEarly q d code)
    exact hhere.of_streams hc.streams
  have hupd : ∀ f : Stream → Stream, (f x).num = x.num → (f x).slot = x.slot → (f x).sharedCtx = x.sharedCtx →
      ((s.queueFlows q).updStream x.num f).Holds (dStream d) k shared := fun f h1 h2 h3 => by
    rw [hnum]
    exact ⟨f x, stream?_updStream (s := s.queueFlows q) hx h1, h2.trans hslot, h3.trans hshared⟩
  unfold State.examine
  simp only [hx, hslot, Option.isNone_some, Bool.false_eq_true, if_false]
  split
  · exact hfail 0x10
  split
  · exact hhere.of_streams rfl
  split
  · split
    · exact hhere.of_streams rfl
    · exact hupd (fun y => { y with waiting := y.waiting ++ [d] }) rfl rfl rfl
  split
  · exact hfail 0x12
  split
  · exact hhere.of_streams rfl
  split
  · exact hupd (fun y => { y with todo := y.todo ++ [d] }) rfl rfl rfl
  · rw [hnum]
    exact ⟨_, (State.accept_after (s := s.queueFlows q) q d img hx).2, hslot, hshared⟩

/-- A copy that has not come from memory: the descriptor goes on waiting. -/
theorem State.contextBack_waits {s : State} {q : Fin 64} {d : BitVec 512} {z : Spill} (img : Image)
    (hwait : (s.queue q).wait = some (.parked, d)) (hz : (s.lagoon.find? fun x => x.of_ == .context (dStream d)) = some z)
    (hcame : z.came = false) : s.contextBack q img = s.spillLoad (.context (dStream d)) := by
  simp [State.contextBack, hwait, hz, hcame]

/-- A copy that has come without poison: the stream takes the context that is had, and the descriptor is examined. -/
theorem State.contextBack_comes {s v : State} {q : Fin 64} {d : BitVec 512} {k : Nat × Bool} (img : Image)
    (hwait : (s.queue q).wait = some (.parked, d))
    (hz : ∀ z, (s.lagoon.find? fun x => x.of_ == .context (dStream d)) = some z → z.came = true ∧ z.poison = none)
    (hget : s.getSlot (dStream d) q = (v, some k)) : s.contextBack q img = (v.slotFound (dStream d) k).examine q d img := by
  unfold State.contextBack
  simp only [hwait, hget]
  cases hfind : s.lagoon.find? fun x => x.of_ == .context (dStream d) with
  | none => rfl
  | some z =>
    obtain ⟨hcame, hpoison⟩ := hz z hfind
    simp [hcame, hpoison]

/-- Settles O22. -/
theorem contextFetchDone : Obligations.ContextFetchDone := by
  unfold Obligations.ContextFetchDone
  intro t q img d s hw hp hwait
  refine ⟨fun z hz hcame => ?_, fun x v k shared hz hx hget => ?_⟩
  · refine settles_of_eq (exec_contextFetchDone hw hp) (State.contextBack_waits (s := s.timed t) img hwait hz hcame) ?_
    rw [(sameWork_spillLoad _ _).queue]
    exact hwait
  · have hmove : ContextsMove (s.timed t) v := by
      have h := contextsMove_getSlot (dStream d) q (s.timed t)
      have hv : (s.timed t).getSlot (dStream d) q = (v, some (k, shared)) := hget
      rwa [hv] at h
    obtain ⟨y, hy, -⟩ := hmove.stream? (n := dStream d) (x := x) hx
    exact settles_of_eq (exec_contextFetchDone hw hp) (State.contextBack_comes (s := s.timed t) img hwait hz hget)
      (State.examine_holds img (State.slotFound_holds k shared hy))

end Sys2Proof.Machine
end

section
/-! SUPPORT. Completion records (05_streams_and_order Table 5-23, R158, R180, R547). -/

namespace Sys2Proof.Machine

/-! ### Requests -/

theorem State.issue_asked (r : MemReq) (s : State) : Asked s (s.issue r) r.kind r.addr r.data r.purpose := by
  unfold State.issue
  split
  · dsimp only
    split <;> exact ⟨{ r with tag := unissuedTag }, .inr ⟨rfl, rfl⟩, rfl, rfl, rfl, rfl⟩
  · split
    · next tag _ => exact ⟨{ r with tag := tag }, .inl ⟨rfl, rfl⟩, rfl, rfl, rfl, rfl⟩
    · exact ⟨{ r with tag := unissuedTag }, .inr ⟨rfl, rfl⟩, rfl, rfl, rfl, rfl⟩

/-- A WRITE16 is one request. -/
theorem State.write16_asked (addr : Nat) (data : List Byte) (why : Purpose) (s : State) :
    Asked s (s.write16 addr data why) .write16 addr data why :=
  State.issue_asked (newReq (s.portFor 0) .write16 addr 1 data why) s.chosen

/-- Only the requests of the two states matter. -/
theorem Asked.congr {s t s' t' : State} {k : ReqKind} {a : Nat} {d : List Byte} {p : Purpose} (h : Asked s t k a d p)
    (h1 : s'.reqs = s.reqs) (h2 : s'.holdq = s.holdq) (h3 : t'.reqs = t.reqs) (h4 : t'.holdq = t.holdq) : Asked s' t' k a d p := by
  unfold Asked at *
  rwa [h1, h2, h3, h4]

/-! ### The first half -/

/-- The upper half of a record is asked for at its slot; its ring moves on. -/
theorem State.writeCmpl_after (q : Fin 64) (src : CmplOf) (c : Cmpl) (bar : Option (Nat × Word)) (s : State) :
    SameWork (s.setQueue q (s.queue q).recorded) (s.writeCmpl q src c bar) ∧
      (let a := (s.queue q).cbase + 32 * ((s.queue q).ctail % 2 ^ (s.queue q).clog2)
        let b := c.bytes (s.queue q).phase s.time
        Asked s (s.writeCmpl q src c bar) .write16 (a + 16) (b.drop 16)
          (.cmpl src a (b.take 16) (if c.irq || (s.queue q).irqAll then some q else none) ⟨c.seq, bar⟩)) :=
  ⟨sameWork_write16 .., (State.write16_asked _ _ _ (s.setQueue q (s.queue q).recorded)).congr rfl rfl rfl rfl⟩

theorem State.queue_writeCmpl (q : Fin 64) (src : CmplOf) (c : Cmpl) (bar : Option (Nat × Word)) (s : State) :
    (s.writeCmpl q src c bar).queue q = (s.queue q).recorded :=
  ((State.writeCmpl_after q src c bar s).1.queue q).trans (State.queue_setQueue ..)

theorem State.stream?_writeCmpl (q : Fin 64) (src : CmplOf) (c : Cmpl) (bar : Option (Nat × Word)) (s : State) (n : Nat) :
    (s.writeCmpl q src c bar).stream? n = s.stream? n :=
  (State.writeCmpl_after q src c bar s).1.stream? n

theorem State.regs_writeCmpl (q : Fin 64) (src : CmplOf) (c : Cmpl) (bar : Option (Nat × Word)) (s : State) :
    (s.writeCmpl q src c bar).regs = s.regs :=
  (State.writeCmpl_after q src c bar s).1.regs

theorem exec_descriptorCompletion {t : Time} {src : CmplOf} {s : State} (h : s.clksLost [.eclk] = false) :
    exec (.descriptorCompletion t src) s = .next ((s.timed t).complete src).settle :=
  congrArg (fun u : State => Host.Outcome.next u.settle) (State.clocked_of_running (s := s.timed t) h)

/-- The record of the oldest descriptor that failed step 1, 2 or 3. -/
theorem State.earlyCmpl_room {s : State} {q : Fin 64} {d : BitVec 512} {code : Nat} {rest : List (BitVec 512 × Nat)}
    (he : (s.queue q).early = (d, code) :: rest) (hr : (s.queue q).ringFull = false) :
    s.earlyCmpl q = (s.setQueue q { s.queue q with early := rest }).writeCmpl q (.early q)
        { handle := dHandle d, seq := dSeq d, status := code, kind := dKind d, quality := 0,
          late := dDeadline d != 0 && decide (dDeadline d < s.time), replay := false, catchup := false, inBytes := 0,
          outCount := 0, errTiles := 0, irq := dIrq d } none := by
  simp [State.earlyCmpl, he, hr]

/-! ### The stream of a record -/

/-- The FENCE of a barrier member that leaves is marked: of the state, streams and barriers alone change, of the stream its runs. -/
theorem State.breakMember_after (n : Nat) (s : State) :
    (∃ l b, s.breakMember n = { s with streams := l, barriers := b }) ∧
      ∀ x, s.stream? n = some x → ∃ rs, (s.breakMember n).stream? n = some { x with runs := rs } ∧ rs.length = x.runs.length := by
  unfold State.breakMember
  split
  · exact ⟨⟨s.streams, s.barriers, rfl⟩, fun x hx => ⟨x.runs, hx, rfl⟩⟩
  · split
    · exact ⟨⟨_, _, rfl⟩, fun x hx => ⟨_, State.stream?_updRun hx _ _, length_updFirst ..⟩⟩
    · exact ⟨⟨s.streams, s.barriers, rfl⟩, fun x hx => ⟨x.runs, hx, rfl⟩⟩

/-- A stream that reaches the limit of R330 is closed: streams, barriers and collectives alone change, and no run leaves its stream. -/
theorem State.limitCloses_after (n : Nat) (s : State) :
    (∃ l b c, s.limitCloses n = { s with streams := l, barriers := b, colls := c }) ∧
      ∀ x, s.stream? n = some x → ∃ y, (s.limitCloses n).stream? n = some y ∧ y.runs.length = x.runs.length ∧ y.lastCmpl = x.lastCmpl := by
  have hgive : ∀ (v : State) (y : Stream) (c : List Coll), v.stream? n = some y →
      ∃ z, ({ (v.updStream n fun y => { y with
        runs := y.runs.map Run.givenUp
        todo := []
        refused := y.refused ++ y.todo.map fun d => (y.queue, d) }) with colls := c } : State).stream? n = some z ∧
        z.runs.length = y.runs.length ∧ z.lastCmpl = y.lastCmpl := fun v y c hy =>
    ⟨_, stream?_updStream (f := fun y => { y with
        runs := y.runs.map Run.givenUp
        todo := []
        refused := y.refused ++ y.todo.map fun d => (y.queue, d) }) hy rfl, by simp, rfl⟩
  unfold State.limitCloses
  split
  · obtain ⟨⟨l, b, hb⟩, hs⟩ := State.breakMember_after n (s.updStream n fun y => { y with fn := ⟨.shutting, .before⟩ })
    have hclose : s.closeNow n = { s with streams := l, barriers := b } := hb
    refine ⟨?_, fun x hx => ?_⟩
    · dsimp only
      rw [hclose]
      exact ⟨_, _, _, rfl⟩
    · obtain ⟨rs, hrs, hlen⟩ := hs _ (stream?_updStream (f := fun y => { y with fn := ⟨.shutting, .before⟩ }) hx rfl)
      obtain ⟨z, hz, hzl, hzt⟩ := hgive _ _ ((s.closeNow n).colls.filter fun c => c.stream != n) hrs
      exact ⟨z, hz, hzl.trans hlen, hzt⟩
  · exact ⟨⟨_, s.barriers, _, rfl⟩, fun x hx => hgive s x _ hx⟩

/-- The record of the head descriptor of a stream, whose turn it is: streams, barriers and collectives change with the first half of the
record, and the stream has one run fewer. -/
theorem State.streamCmpl_turn {s : State} {n : Nat} {x : Stream} {r : Run} {rs : List Run} (hx : s.stream? n = some x) (hr : x.runs = r :: rs)
    (hcan : s.canComplete x r = true) (hfull : (s.queue r.queue).ringFull = false) (hturn : s.barrierTurn n r = true) :
    let v := s.writeCmpl r.queue (.stream n) (r.cmpl s.time)
      (if r.kind == 0x40 && dBarrier r.desc && r.status == 0 && !r.flags.fenceBroken then some (dBgroup r.desc, dBepoch r.desc) else none)
    (∃ l b c, s.streamCmpl n = { v with streams := l, barriers := b, colls := c }) ∧
      ∃ y, (s.streamCmpl n).stream? n = some y ∧ (r.flags.countLimit = false → y.runs = rs) ∧
        y.runs.length = rs.length ∧ y.lastCmpl = s.time := by
  dsimp only
  unfold State.streamCmpl
  simp only [hx, hr, hcan, hfull, hturn, Bool.not_true, Bool.or_false, Bool.false_eq_true, if_false]
  generalize hv : State.writeCmpl r.queue _ _ _ s = v
  have hvx : v.stream? n = some x := by rw [← hv]; exact (State.stream?_writeCmpl ..).trans hx
  have hrec : (v.updStream n fun y => y.recorded r s.time).stream? n = some (x.recorded r s.time) :=
    stream?_updStream (f := fun y => y.recorded r s.time) hvx rfl
  have hruns : (x.recorded r s.time).runs = rs := by simp [Stream.recorded, hr]
  cases hlimit : r.flags.countLimit
  · simp only [Bool.false_eq_true, if_false]
    exact ⟨⟨_, v.barriers, _, rfl⟩, _, hrec, fun _ => hruns, congrArg List.length hruns, rfl⟩
  · simp only [if_true]
    obtain ⟨⟨l, b, c, he⟩, hs⟩ := State.limitCloses_after n (v.updStream n fun y => y.recorded r s.time)
    obtain ⟨y, hy, hlen, hlast⟩ := hs _ hrec
    rw [he] at hy ⊢
    exact ⟨⟨l, b, _, rfl⟩, y, hy, nofun, hlen.trans (congrArg List.length hruns), hlast⟩

/-! ### The halves are acknowledged -/

/-- The answer to a write of a running port whose tag belongs to a write. -/
theorem exec_memoryWriteResponse {t : Time} {port : Fin 8} {tag : Nat} {err : Bool} {r : MemReq} {s : State}
    (hr : s.req? port tag = some r) (hk : r.kind ≠ .read) (hc : s.clksLost [memClk port, .eclk] = false) :
    exec (.memoryWriteResponse t port tag err none) s = .next (((s.timed t).dropReq r).writeAnswer r err).settle := by
  have h1 : (s.timed t).clksLost [memClk port, .eclk] = false := hc
  have h2 : (s.timed t).req? port tag = some r := hr
  show execMemoryWriteResponse t port tag err none s = _
  simp only [execMemoryWriteResponse, h1, h2, hk, Bool.false_eq_true, if_false]
  rfl

theorem State.recordEnds_regs (src : CmplOf) (f : CmplDone) (s : State) : (s.recordEnds src f).regs = s.regs := by
  unfold State.recordEnds
  split
  · rfl
  · dsimp only
    split <;> rfl

theorem State.stream?_recordEnds {s : State} {n : Nat} {x : Stream} (f : CmplDone) (hx : s.stream? n = some x) :
    ∃ y, (s.recordEnds (.stream n) f).stream? n = some y ∧ y.lastSeq = some f.seq := by
  have h : (s.updStream n fun y => { y with lastSeq := some f.seq }).stream? n = some { x with lastSeq := some f.seq } :=
    stream?_updStream (f := fun y => { y with lastSeq := some f.seq }) hx rfl
  unfold State.recordEnds
  dsimp only
  split <;> exact ⟨_, h, rfl⟩

theorem State.stream?_raiseCq (irq : Option (Fin 64)) (s : State) (n : Nat) : (s.raiseCq irq).stream? n = s.stream? n := by
  cases irq <;> rfl

/-- Settles O23. -/
theorem descriptorCompletion : Obligations.DescriptorCompletion := by
  unfold Obligations.DescriptorCompletion
  intro t s
  refine ⟨fun q d code rest he hfull hc => ?_, fun n x r rs hx hr hcan hfull hturn hc => ?_, fun port tag a src rest irq f r hreq hk hp hc => ?_⟩
  · refine settles_of_eq (exec_descriptorCompletion hc) (State.earlyCmpl_room (s := s.timed t) he hfull) ?_
    have hq := State.queue_setQueue (s.timed t) q { s.queue q with early := rest }
    have hafter := State.writeCmpl_after q (.early q)
      { handle := dHandle d, seq := dSeq d, status := code, kind := dKind d, quality := 0,
        late := dDeadline d != 0 && decide (dDeadline d < t), replay := false, catchup := false, inBytes := 0,
        outCount := 0, errTiles := 0, irq := dIrq d } none ((s.timed t).setQueue q { s.queue q with early := rest })
    refine ⟨?_, ?_, ?_, ?_⟩
    · exact (congrArg Queue.early (State.queue_writeCmpl ..)).trans (congrArg Queue.early hq)
    · exact (congrArg Queue.ctail (State.queue_writeCmpl ..)).trans ((congrArg (fun z : Queue => z.recorded.ctail) hq).trans rfl)
    · exact State.regs_writeCmpl ..
    · rw [hq] at hafter
      exact hafter.2.congr rfl rfl rfl rfl
  · obtain ⟨⟨l, b, c, he⟩, hy⟩ := State.streamCmpl_turn (s := s.timed t) hx hr hcan hfull hturn
    have hq := State.queue_writeCmpl r.queue (.stream n) (r.cmpl t)
      (if r.kind == 0x40 && dBarrier r.desc && r.status == 0 && !r.flags.fenceBroken then some (dBgroup r.desc, dBepoch r.desc) else none) (s.timed t)
    have hafter := State.writeCmpl_after r.queue (.stream n) (r.cmpl t)
      (if r.kind == 0x40 && dBarrier r.desc && r.status == 0 && !r.flags.fenceBroken then some (dBgroup r.desc, dBepoch r.desc) else none) (s.timed t)
    rw [he] at hy
    exact settles_of_eq (exec_descriptorCompletion hc) he
      ⟨congrArg Queue.ctail hq, hy, hafter.1.regs, hafter.2.congr rfl rfl rfl rfl⟩
  · have hdone : ((s.timed t).dropReq r).writeAnswer r false = ((s.timed t).dropReq r).cmplHalf src a rest irq f := by
      simp [State.writeAnswer, State.writeAcked, hp]
    refine settles_of_eq (exec_memoryWriteResponse hreq hk hc) hdone ⟨fun hrest => ?_, fun hrest => ?_⟩
    · rw [State.cmplHalf, if_neg hrest]
      exact ⟨(sameWork_write16 ..).regs, (State.write16_asked a rest _ ((s.timed t).dropReq r)).congr rfl rfl rfl rfl⟩
    · rw [State.cmplHalf, if_pos hrest]
      refine ⟨?_, ?_⟩
      · rintro q rfl
        exact State.recordEnds_regs ..
      · rintro n x rfl hx
        exact State.stream?_recordEnds f ((State.stream?_raiseCq ..).trans hx)

end Sys2Proof.Machine
end

section
/-! SUPPORT. The start of a descriptor, FENCE, WIPE and TEST descriptors at the head of a stream (05_streams_and_order R174, R181, R184 to R187;
14_field_test R524, R525). -/

namespace Sys2Proof.Machine

/-! ### The head of a stream -/

theorem State.headRun_of_stream? {s : State} {n : Nat} {x : Stream} (hx : s.stream? n = some x) : s.headRun n = x.runs.head? := by
  simp [State.headRun, hx]

theorem State.stream?_of_headRun {s : State} {n : Nat} {r : Run} (hr : s.headRun n = some r) :
    ∃ x rs, s.stream? n = some x ∧ x.runs = r :: rs := by
  obtain ⟨x, hx, hr⟩ := Option.bind_eq_some_iff.mp hr
  obtain ⟨rs, hrs⟩ := List.head?_eq_some_iff.mp hr
  exact ⟨x, rs, hx, hrs⟩

/-- The head descriptor is the one that its SEQ names, unless its SEQ was bad. -/
theorem State.run?_of_headRun {s : State} {n : Nat} {r : Run} (hr : s.headRun n = some r) (hin : r.inSeq = true) : s.run? n r.seq = some r := by
  obtain ⟨x, rs, hx, hrs⟩ := State.stream?_of_headRun hr
  have hname : Run.named r.seq r = true := by simp [Run.named, Run.seq, hin, dSeq]
  simp [State.run?, hx, hrs, hname]

theorem State.headRun_updRun {s : State} {n : Nat} {r : Run} (hr : s.headRun n = some r) (hin : r.inSeq = true) (f : Run → Run) :
    (s.updRun n r.seq f).headRun n = some (f r) := by
  obtain ⟨x, rs, hx, hrs⟩ := State.stream?_of_headRun hr
  have hname : Run.named r.seq r = true := by simp [Run.named, Run.seq, hin, dSeq]
  rw [State.headRun_of_stream? (State.stream?_updRun hx r.seq f), hrs]
  simp [updFirst, hname]

theorem State.headRun_headEnds {s : State} {n : Nat} {r : Run} (hr : s.headRun n = some r) :
    (s.updStream n Stream.headEnds).headRun n = some { r with finished := true } := by
  obtain ⟨x, rs, hx, hrs⟩ := State.stream?_of_headRun hr
  have hends : x.headEnds = { x with runs := { r with finished := true } :: rs } := by simp [Stream.headEnds, hrs]
  rw [State.headRun_of_stream? (stream?_updStream hx (by rw [hends])), hends]
  rfl

/-! ### Stop records go -/

/-- A stream without its stop record. -/
def Stream.offStop (x : Stream) : Stream := { x with stop := none, beat := 0 }

/-- From s to t streams have lost stop records, and write jobs have gone, and nothing else has changed. -/
def StopsGo (s t : State) : Prop :=
  (∃ w l, t = { s with wjobs := w, streams := l }) ∧ t.streams.map Stream.offStop = s.streams.map Stream.offStop

theorem StopsGo.refl (s : State) : StopsGo s s := ⟨⟨s.wjobs, s.streams, rfl⟩, rfl⟩

theorem StopsGo.trans {s t u : State} (h : StopsGo s t) (k : StopsGo t u) : StopsGo s u := by
  obtain ⟨⟨w, l, rfl⟩, h⟩ := h
  obtain ⟨⟨w', l', rfl⟩, k⟩ := k
  exact ⟨⟨w', l', rfl⟩, k.trans h⟩

theorem stopsGo_discardStop (n : Nat) (s : State) : StopsGo s (s.discardStop n) := by
  unfold State.discardStop
  split
  · exact StopsGo.refl s
  · split
    · exact StopsGo.refl s
    · exact ⟨⟨_, _, rfl⟩, map_updFirst_same (f := fun y => { y with stop := none, beat := 0 }) (fun _ => rfl) s.streams⟩

theorem StopsGo.forAll {α : Type} {f : α → State → State} (hf : ∀ a t, StopsGo t (f a t)) (l : List α) (s : State) : StopsGo s (forAll l f s) :=
  keeps_foldl (R := StopsGo s) (fun t a h => h.trans (hf a t)) (StopsGo.refl s)

/-- A stream keeps all but its stop record. -/
theorem StopsGo.stream? {s t : State} (h : StopsGo s t) {n : Nat} {x : Stream} (hx : s.stream? n = some x) :
    ∃ y, t.stream? n = some y ∧ y.offStop = x.offStop := by
  have hfind (l : List Stream) : (l.map Stream.offStop).find? (fun x => x.num == n) = (l.find? fun x => x.num == n).map Stream.offStop := by
    rw [List.find?_map]
    rfl
  have hxy := (hfind t.streams).symm.trans ((congrArg _ h.2).trans (hfind s.streams))
  rw [show s.streams.find? (fun x => x.num == n) = some x from hx] at hxy
  exact Option.map_eq_some_iff.mp hxy

theorem StopsGo.headRun {s t : State} (h : StopsGo s t) {n : Nat} {r : Run} (hr : s.headRun n = some r) : t.headRun n = some r := by
  obtain ⟨x, rs, hx, hrs⟩ := State.stream?_of_headRun hr
  obtain ⟨y, hy, hyx⟩ := h.stream? hx
  have hruns : y.offStop.runs = x.offStop.runs := congrArg Stream.runs hyx
  change y.runs = x.runs at hruns
  rw [State.headRun_of_stream? hy, hruns, hrs]
  rfl

theorem StopsGo.run? {s t : State} (h : StopsGo s t) {n : Nat} {q : Word} {r : Run} (hr : s.run? n q = some r) : t.run? n q = some r := by
  obtain ⟨x, hx, hr⟩ := Option.bind_eq_some_iff.mp hr
  obtain ⟨y, hy, hyx⟩ := h.stream? hx
  have hruns : y.offStop.runs = x.offStop.runs := congrArg Stream.runs hyx
  change y.runs = x.runs at hruns
  unfold State.run?
  rw [hy, Option.bind_some, hruns]
  exact hr

/-! ### The start of a descriptor -/

/-- A run that has started. -/
def Run.starts (r : Run) : Run := { r with started := true, total := r.units }

theorem State.startRun_fresh {s : State} {n : Nat} {r : Run} (h : r.started = false) :
    s.startRun n r = (s.discardStop n).updRun n r.seq Run.starts := by
  rw [State.startRun, h]
  rfl

theorem State.startRun_started {s : State} {n : Nat} {r : Run} (h : r.started = true) (hk : r.kind ≠ 0x20 ∧ r.kind ≠ 0x21) :
    s.startRun n r = s := by
  simp [State.startRun, h, hk.1, hk.2]

/-- The start of a descriptor changes streams and write jobs alone. -/
theorem State.startRun_after (n : Nat) (r : Run) (s : State) : ∃ w l, s.startRun n r = { s with wjobs := w, streams := l } := by
  obtain ⟨⟨w, l, h⟩, -⟩ := stopsGo_discardStop n s
  unfold State.startRun
  rw [h]
  split
  · split
    · exact ⟨w, l, rfl⟩
    · exact ⟨s.wjobs, s.streams, rfl⟩
  · exact ⟨w, _, rfl⟩

theorem State.headRun_startRun {s : State} {n : Nat} {r : Run} (hr : s.headRun n = some r) (hin : r.inSeq = true) (h : r.started = false) :
    (s.startRun n r).headRun n = some r.starts := by
  rw [State.startRun_fresh h]
  exact State.headRun_updRun ((stopsGo_discardStop n s).headRun hr) hin _

theorem State.run?_startRun {s : State} {n : Nat} {r : Run} (hr : s.run? n r.seq = some r) (h : r.started = false) :
    (s.startRun n r).run? n r.seq = some r.starts := by
  rw [State.startRun_fresh h]
  exact run?_updRun ((stopsGo_discardStop n s).run? hr) rfl rfl

/-! ### FENCE -/

theorem exec_fenceStreams {t : Time} {n : Nat} {s : State} (hw : s.working = true) :
    exec (.fenceStreams t n) s = .next ((s.timed t).fenceStreams n).settle :=
  congrArg (fun u : State => Host.Outcome.next u.settle) (State.atWork_of_working (s := s.timed t) hw)

/-- How the names of a FENCE stand; those that have been met before stay so. -/
def State.fenceNames (s : State) (r : Run) : List (Nat × Bool × Bool) :=
  (dFenceList r.desc).zipIdx.map fun h => (h.2, if r.sub.testBit h.2 then (true, false) else s.fenceOne h.1)

/-- A FENCE whose names have been examined. -/
def Run.fenced (r : Run) (names : List (Nat × Bool × Bool)) : Run :=
  { r with
    sub := (names.filter fun x => x.2.1).foldl (fun m x => m ||| 2 ^ x.1) 0
    finished := (names.any fun x => x.2.2) || names.all fun x => x.2.1
    flags := if names.any fun x => x.2.2 then { r.flags with fenceBroken := true } else r.flags }

/-- A started FENCE at the head of its stream is examined. -/
theorem State.headRun_fenceStreams {s : State} {n : Nat} {r : Run} (hr : s.headRun n = some r) (hk : r.kind = 0x40)
    (hb : dBarrier r.desc = false) (hs : r.started = true) (hf : r.finished = false) (hin : r.inSeq = true) :
    (s.fenceStreams n).headRun n = some (r.fenced (s.fenceNames r)) := by
  have h : s.fenceStreams n = s.fenceCheck n r := by
    simp [State.fenceStreams, hr, hk, hb, hf, State.startRun_started hs (by simp [hk])]
  rw [h]
  exact State.headRun_updRun hr hin _

theorem List.exists_zipIdx_of_mem {α : Type} {l : List α} {a : α} (h : a ∈ l) : ∃ i, (a, i) ∈ l.zipIdx := by
  obtain ⟨i, hi, rfl⟩ := List.mem_iff_getElem.mp h
  exact ⟨i, List.mem_zipIdx_iff_getElem?.mpr (by simp [hi])⟩

/-- Settles O30: a FENCE ends when one name is broken or all are met. -/
theorem fenceStreams : Obligations.FenceStreams := by
  unfold Obligations.FenceStreams
  intro t n r s hw hr hk hb hs hf hin
  have hhead := State.headRun_fenceStreams (s := s.timed t) hr hk hb hs hf hin
  have hmem : ∀ x ∈ s.fenceNames r, ∃ h ∈ dFenceList r.desc, ∃ i, x = (i, if r.sub.testBit i then (true, false) else s.fenceOne h) := by
    intro x hx
    obtain ⟨⟨h, i⟩, hi, rfl⟩ := List.mem_map.mp hx
    exact ⟨h, (List.mem_zipIdx' hi).2 ▸ List.getElem_mem _, i, rfl⟩
  have hname : r.sub = 0 → ∀ h ∈ dFenceList r.desc, ∃ i, (i, s.fenceOne h) ∈ s.fenceNames r := by
    intro hsub h hh
    obtain ⟨i, hi⟩ := List.exists_zipIdx_of_mem hh
    exact ⟨i, List.mem_map.mpr ⟨(h, i), hi, by simp [hsub]⟩⟩
  refine ⟨fun hmet => ?_, fun hsub hbroken => ?_, fun hsub hwhole hunmet => ?_⟩
  · refine settles_of_eq (exec_fenceStreams hw) rfl ⟨_, hhead, ?_⟩
    have hall : (s.fenceNames r).all (fun x => x.2.1) = true := by
      refine List.all_eq_true.mpr fun x hx => ?_
      obtain ⟨h, hh, i, rfl⟩ := hmem x hx
      dsimp only
      split
      · rfl
      · exact hmet h hh
    exact Bool.or_eq_true_iff.mpr (.inr hall)
  · obtain ⟨h, hh, hbr⟩ := hbroken
    obtain ⟨i, hi⟩ := hname hsub h hh
    have hany : (s.fenceNames r).any (fun x => x.2.2) = true := List.any_eq_true.mpr ⟨_, hi, hbr⟩
    refine settles_of_eq (exec_fenceStreams hw) rfl ⟨_, hhead, Bool.or_eq_true_iff.mpr (.inl hany), ?_⟩
    exact congrArg RunFlags.fenceBroken (if_pos hany)
  · have hany : (s.fenceNames r).any (fun x => x.2.2) = false := by
      refine List.any_eq_false.mpr fun x hx => ?_
      obtain ⟨h, hh, i, rfl⟩ := hmem x hx
      simp [hsub, hwhole h hh]
    obtain ⟨h, hh, hun⟩ := hunmet
    obtain ⟨i, hi⟩ := hname hsub h hh
    have hall : (s.fenceNames r).all (fun x => x.2.1) = false := List.all_eq_false.mpr ⟨_, hi, by simp [hun]⟩
    refine settles_of_eq (exec_fenceStreams hw) rfl ⟨_, hhead, Bool.or_eq_false_iff.mpr ⟨hany, hall⟩, ?_⟩
    exact if_neg (by rw [show (s.timed t).fenceNames r = s.fenceNames r from rfl, hany]; simp)

/-! ### Barriers -/

theorem exec_fenceBarrier {t : Time} {n : Nat} {s : State} (hw : s.working = true) :
    exec (.fenceBarrier t n) s = .next ((s.timed t).fenceBarrier n).settle :=
  congrArg (fun u : State => Host.Outcome.next u.settle) (State.atWork_of_working (s := s.timed t) hw)

section
variable {s : State} {n : Nat} {x : Stream} {r : Run} {rs : List Run} (hx : s.stream? n = some x) (hr : x.runs = r :: rs)
  (hon : x.fn.st = .on) (hk : r.kind = 0x40) (hb : dBarrier r.desc = true) (hs : r.started = false) (hf : r.finished = false)
include hx hr hon hk hb hs hf

/-- A member whose group has no barrier that is open, nor one with its epoch, joins. -/
theorem State.fenceBarrier_joins (hnone : ∀ b ∈ s.barriers, b.group ≠ dBgroup r.desc) : s.fenceBarrier n = s.joinBarrier n r := by
  have h1 : (s.barriers.find? fun b => b.group == dBgroup r.desc && b.epoch == dBepoch r.desc) = none :=
    List.find?_eq_none.mpr fun b hb' => by simp [hnone b hb']
  have h2 : (s.barriers.any fun b => b.group == dBgroup r.desc && !b.isDone) = false :=
    List.any_eq_false.mpr fun b hb' => by simp [hnone b hb']
  simp [State.fenceBarrier, State.headRun, hx, hr, hk, hb, hs, hf, hon, h1, h2]

/-- A member joins the open barrier with its group, epoch and count. -/
theorem State.fenceBarrier_fits {b : Barrier}
    (hfind : (s.barriers.find? fun b => b.group == dBgroup r.desc && b.epoch == dBepoch r.desc) = some b) (hopen : b.isDone = false)
    (hcount : b.count = dBcount r.desc) : s.fenceBarrier n = s.joinBarrier n r := by
  simp [State.fenceBarrier, State.headRun, hx, hr, hk, hb, hs, hf, hon, hfind, hopen, hcount]

theorem State.fenceBarrier_misfit {b : Barrier}
    (hfind : (s.barriers.find? fun b => b.group == dBgroup r.desc && b.epoch == dBepoch r.desc) = some b)
    (hbad : b.isDone = true ∨ b.count ≠ dBcount r.desc) :
    s.fenceBarrier n = s.updRun n r.seq fun y => { y with status := 0x19, finished := true } := by
  simp [State.fenceBarrier, State.headRun, hx, hr, hk, hb, hs, hf, hon, hfind, hbad]

end

theorem Stream.headEnds_num (x : Stream) : x.headEnds.num = x.num := by
  unfold Stream.headEnds
  split <;> rfl

theorem State.stream?_map {s : State} {f : Stream → Stream} (hf : ∀ x, (f x).num = x.num) (n : Nat) :
    ({ s with streams := s.streams.map f } : State).stream? n = (s.stream? n).map f := by
  have h : (fun x : Stream => x.num == n) ∘ f = fun x => x.num == n := funext fun x => by simp [hf]
  simp only [State.stream?, List.find?_map, h]

/-- The streams of a list whose head descriptors finish. -/
def Stream.endsIn (l : List Nat) (x : Stream) : Stream := if l.contains x.num then x.headEnds else x

theorem State.stream?_ends (s : State) (l : List Nat) (m : Nat) :
    ({ s with streams := s.streams.map (Stream.endsIn l) } : State).stream? m = (s.stream? m).map (Stream.endsIn l) :=
  State.stream?_map (fun x => by unfold Stream.endsIn; split <;> simp [Stream.headEnds_num]) m

theorem Stream.headEnds_runs {x : Stream} {r : Run} {rs : List Run} (h : x.runs = r :: rs) : x.headEnds.runs = { r with finished := true } :: rs := by
  simp [Stream.headEnds, h]

/-- The head descriptors of the streams of a list finish. -/
theorem State.headRun_ends {s : State} {l : List Nat} {m : Nat} {r : Run} (hm : m ∈ l) (hr : s.headRun m = some r) :
    ({ s with streams := s.streams.map (Stream.endsIn l) } : State).headRun m = some { r with finished := true } := by
  obtain ⟨x, rs, hx, hrs⟩ := State.stream?_of_headRun hr
  have hends : x.endsIn l = x.headEnds := if_pos (by simpa [State.stream?_num hx] using hm)
  rw [State.headRun_of_stream? ((State.stream?_ends s l m).trans (congrArg (Option.map _) hx)), hends, Stream.headEnds_runs hrs]
  rfl

/-- A stream without a descriptor stays so. -/
theorem State.headRun_ends_none {s : State} {l : List Nat} {m : Nat} (hr : s.headRun m = none) :
    ({ s with streams := s.streams.map (Stream.endsIn l) } : State).headRun m = none := by
  unfold State.headRun at hr ⊢
  rw [State.stream?_ends]
  cases hx : s.stream? m with
  | none => rfl
  | some x =>
    rw [hx] at hr
    have hruns : x.runs = [] := by simpa using hr
    have hends : x.headEnds = x := by simp [Stream.headEnds, hruns]
    have hin : x.endsIn l = x := by unfold Stream.endsIn; split <;> simp [hends]
    simp [hin, hruns]

/-- The barrier that a member joins. -/
def State.instanceOf (s : State) (d : BitVec 512) : Barrier :=
  (s.barriers.find? fun b => b.group == dBgroup d && b.epoch == dBepoch d).getD ⟨dBgroup d, dBepoch d, dBcount d, [], false⟩

/-- A member that is not the last leaves its barrier open, and waits in it. -/
theorem State.joinBarrier_open {s : State} {n : Nat} {r : Run} (hr : s.headRun n = some r) (hin : r.inSeq = true) (hs : r.started = false)
    (hopen : (s.instanceOf r.desc).members.length + 1 < (s.instanceOf r.desc).count) :
    { s.instanceOf r.desc with members := (s.instanceOf r.desc).members ++ [n], isDone := false } ∈ (s.joinBarrier n r).barriers ∧
      (s.joinBarrier n r).headRun n = some r.starts := by
  have hfull : decide ((s.instanceOf r.desc).count ≤ ((s.instanceOf r.desc).members ++ [n]).length) = false := by simpa using hopen
  unfold State.joinBarrier
  simp only [← State.instanceOf.eq_def, hfull, Bool.not_false, if_true]
  exact ⟨mem_upsert, State.headRun_startRun hr hin hs⟩

/-- The last member of a barrier finishes all of them. -/
theorem State.joinBarrier_full {s : State} {n : Nat} {r : Run}
    (hfull : (s.instanceOf r.desc).count ≤ (s.instanceOf r.desc).members.length + 1) :
    ∃ v b, v = s.startRun n r ∧ s.joinBarrier n r =
      { v with barriers := b, streams := v.streams.map (Stream.endsIn ((s.instanceOf r.desc).members ++ [n])) } := by
  have hfull : decide ((s.instanceOf r.desc).count ≤ ((s.instanceOf r.desc).members ++ [n]).length) = true := by simpa using hfull
  unfold State.joinBarrier
  simp only [← State.instanceOf.eq_def, hfull, Bool.not_true, Bool.false_eq_true, if_false]
  exact ⟨_, _, rfl, rfl⟩

theorem State.joinBarrier_finishes {s : State} {n m : Nat} {r y : Run}
    (hfull : (s.instanceOf r.desc).count ≤ (s.instanceOf r.desc).members.length + 1) (hm : m ∈ (s.instanceOf r.desc).members ++ [n])
    (hy : (s.joinBarrier n r).headRun m = some y) : y.finished = true := by
  obtain ⟨v, b, -, he⟩ := State.joinBarrier_full (n := n) hfull
  rw [he] at hy
  cases hr : v.headRun m with
  | none =>
    have h := (State.headRun_ends_none (s := { v with barriers := b }) (l := (s.instanceOf r.desc).members ++ [n]) hr).symm.trans hy
    cases h
  | some z =>
    have h := (State.headRun_ends (s := { v with barriers := b }) hm hr).symm.trans hy
    cases h
    rfl

/-- Settles O31. -/
theorem fenceBarrier : Obligations.FenceBarrier := by
  unfold Obligations.FenceBarrier
  intro t n x r rs s hw hx hr hon hk hb hs hf hin
  have hhead : (s.timed t).headRun n = some r := (State.headRun_of_stream? hx).trans (by rw [hr]; rfl)
  have hnew : (∀ b ∈ s.barriers, b.group ≠ dBgroup r.desc) →
      (s.timed t).instanceOf r.desc = ⟨dBgroup r.desc, dBepoch r.desc, dBcount r.desc, [], false⟩ := fun hnone => by
    have h : (s.barriers.find? fun b => b.group == dBgroup r.desc && b.epoch == dBepoch r.desc) = none :=
      List.find?_eq_none.mpr fun b hb' => by simp [hnone b hb']
    exact congrArg (fun o : Option Barrier => o.getD _) h
  refine ⟨fun hnone hcount => ?_, fun hnone hcount => ?_, fun b hfind hopen hcount hfull => ?_, fun b hfind hbad => ?_⟩
  · have hjoin := State.joinBarrier_open hhead hin hs (by rw [hnew hnone]; exact hcount)
    rw [hnew hnone] at hjoin
    exact settles_of_eq (exec_fenceBarrier hw) (State.fenceBarrier_joins (s := s.timed t) hx hr hon hk hb hs hf hnone)
      ⟨⟨_, hjoin.1, rfl, rfl, rfl, rfl, rfl⟩, _, hjoin.2, rfl, hf⟩
  · obtain ⟨v, b, hv, he⟩ := State.joinBarrier_full (s := s.timed t) (n := n) (r := r) (by rw [hnew hnone]; exact hcount)
    have hstart : ({ v with barriers := b } : State).headRun n = some r.starts := by
      rw [hv]
      exact State.headRun_startRun hhead hin hs
    exact settles_of_eq (exec_fenceBarrier hw) ((State.fenceBarrier_joins (s := s.timed t) hx hr hon hk hb hs hf hnone).trans he)
      ⟨_, State.headRun_ends (by simp) hstart, rfl⟩
  · have hinst : (s.timed t).instanceOf r.desc = b := congrArg (fun o : Option Barrier => o.getD _) hfind
    refine settles_of_eq (exec_fenceBarrier hw) (State.fenceBarrier_fits (s := s.timed t) hx hr hon hk hb hs hf hfind hopen hcount) ?_
    exact fun m hm y hy => State.joinBarrier_finishes (by rw [hinst]; exact hfull) (by rw [hinst]; exact hm) hy
  · exact settles_of_eq (exec_fenceBarrier hw) (State.fenceBarrier_misfit (s := s.timed t) hx hr hon hk hb hs hf hfind hbad)
      ⟨_, State.headRun_updRun hhead hin _, rfl, rfl⟩

end Sys2Proof.Machine
end

section
/-! SUPPORT. WIPE and TEST descriptors (05_streams_and_order R174; 14_field_test R524, R525, R529). -/

namespace Sys2Proof.Machine

/-! ### WIPE -/

theorem State.wipeRun_spec {s : State} {n scope : Nat} {r : Run} (h : s.wipeRun n scope = some r) :
    s.headRun n = some r ∧ r.started = false ∧ r.finished = false := by
  unfold State.wipeRun at h
  split at h
  · next r' hr =>
    split at h
    · next hc =>
      cases h
      exact ⟨hr, by simpa using hc.2.2.2.1, by simpa using hc.2.2.2.2⟩
    · cases h
  · cases h

theorem State.core_startRun (n : Nat) (r : Run) (c : Fin 16) (s : State) : (s.startRun n r).core c = s.core c := by
  obtain ⟨w, l, h⟩ := State.startRun_after n r s
  rw [h]
  rfl

/-- SCOPE CORE of a core that is ON: it goes, to come back. -/
theorem State.wipeCore_on {s : State} {n : Nat} {r : Run} (hr : s.wipeRun n 1 = some r) (hc : dCore r.desc < s.params.cores)
    (hon : (s.core (coreOf (dCore r.desc))).fn.st = .on) :
    s.wipeCore n = ((s.startRun n r).updCore (coreOf (dCore r.desc)) fun k => { k with fn := ⟨.pendingOn, .ramp⟩ }).updRun n r.seq
      fun y => { y with sub := 2 } := by
  simp [State.wipeCore, hr, Nat.not_le.mpr hc, hon]

theorem State.wipeCore_off {s : State} {n : Nat} {r : Run} (hr : s.wipeRun n 1 = some r) (hc : dCore r.desc < s.params.cores)
    (hoff : (s.core (coreOf (dCore r.desc))).fn.st = .off) :
    s.wipeCore n = (s.startRun n r).updRun n r.seq fun y => { y with sub := 1 } := by
  simp [State.wipeCore, hr, Nat.not_le.mpr hc, hoff]

theorem State.wipeStream_run {s : State} {n : Nat} {r : Run} (hr : s.wipeRun n 0 = some r) :
    s.wipeStream n = (s.startRun n r).updStream n Stream.headEnds := by
  simp [State.wipeStream, hr]

/-- SCOPE IDLE_SRAM: but for stop records, early chunks and the directory cache, the state is that of the started WIPE. -/
theorem State.wipeIdle_run {s : State} {n : Nat} {r : Run} (hr : s.wipeRun n 2 = some r) :
    ∃ v p, StopsGo (s.startRun n r) v ∧ s.wipeIdle n = ({ v with dirCache := [], lports := p } : State).updStream n Stream.headEnds := by
  have hgo := StopsGo.forAll (fun (x : Stream) s => stopsGo_discardStop x.num s) (s.startRun n r).idleStops (s.startRun n r)
  unfold State.wipeIdle
  rw [hr]
  exact ⟨_, _, hgo, rfl⟩

theorem State.core_updCore (s : State) (c : Fin 16) (f : Core → Core) : (s.updCore c f).core c = f (s.core c) := by
  simp [State.updCore, State.core]

/-- Settles O32. -/
theorem wipes : Obligations.Wipes := by
  unfold Obligations.Wipes
  intro t n r s hin
  refine ⟨fun h => ?_, fun h => ?_, fun h hc _ hon => ?_, fun h hc _ hoff => ?_⟩
  all_goals
    obtain ⟨hr, hs, hf⟩ := State.wipeRun_spec h
    have hstart := State.headRun_startRun (s := s.timed t) hr hin hs
  · exact settles_of_eq rfl (State.wipeStream_run (s := s.timed t) h) ⟨_, State.headRun_headEnds hstart, rfl, rfl⟩
  · obtain ⟨v, p, hv, he⟩ := State.wipeIdle_run (s := s.timed t) h
    exact settles_of_eq rfl he ⟨rfl, _, State.headRun_headEnds (s := { v with dirCache := [], lports := p }) (hv.headRun hstart), rfl, rfl⟩
  · refine settles_of_eq rfl (State.wipeCore_on (s := s.timed t) h hc hon) ⟨?_, _, State.headRun_updRun (r := r.starts) ?_ hin _, rfl, hf⟩
    · exact congrArg Core.fn (State.core_updCore ((s.timed t).startRun n r) (coreOf (dCore r.desc)) fun k => { k with fn := ⟨.pendingOn, .ramp⟩ })
    · exact hstart
  · exact settles_of_eq rfl (State.wipeCore_off (s := s.timed t) h hc hoff)
      ⟨_, State.headRun_updRun (r := r.starts) hstart hin _, rfl, hf, rfl⟩

/-! ### TEST descriptors -/

theorem mem_queueTest (x : CoreTest) (l : List CoreTest) : x ∈ queueTest x l := by
  induction l with
  | nil => exact List.mem_singleton.mpr rfl
  | cons y ys ih =>
    have hcases : queueTest x (y :: ys) = x :: y :: ys ∨ queueTest x (y :: ys) = y :: queueTest x ys := by
      rw [queueTest]
      exact ite_eq_or_eq (_ ∨ _) _ _
    obtain h | h := hcases <;> rw [h]
    · exact List.mem_cons_self
    · exact List.mem_cons_of_mem _ ih

/-- A state with the tests of a list in line. -/
def State.lined (s : State) (l : List CoreTest) : State := { s with test := { s.test with waiting := l } }

/-- The test that a TEST descriptor asks for. -/
def testOf (n op : Nat) (shared : Bool) (r : Run) : CoreTest :=
  { (if shared then CoreTest.new 16 2 false true false n else CoreTest.new (dCore r.desc) 2 (op != 1) (op != 0) (op == 2) n) with
    order := r.order }

section
variable {s : State} {n op : Nat} {shared : Bool} {r : Run} (hr : s.headRun n = some r) (hk : r.kind = 0x42) (hop : dOp r.desc = op)
  (hcore : (dCore r.desc == 255) = shared) (hs : r.started = false) (hf : r.finished = false)
include hr hk hop hcore hs hf

/-- A TEST descriptor at the head of its stream puts its test in line. -/
theorem State.askTest_joins (halone : shared = true → s.aloneFor n = true) :
    s.askTest n op shared = ((s.startRun n r).lined (queueTest (testOf n op shared r) s.test.waiting)).coreTestStart := by
  have htest : (s.startRun n r).test = s.test := by
    obtain ⟨w, l, h⟩ := State.startRun_after n r s
    rw [h]
  have hgo : (shared && !s.aloneFor n) = false := by
    cases shared with
    | false => rfl
    | true => simp [halone rfl]
  simp only [State.askTest, hr, hk, hop, hcore, hs, hf, hgo, ne_eq, not_true, Bool.false_eq_true, or_self, if_false, State.lined, htest]
  rfl

/-- The shared MBIST of a stream that is not alone is refused. -/
theorem State.askTest_notAlone (hsh : shared = true) (halone : s.aloneFor n = false) :
    s.askTest n op shared = s.updStream n Stream.testRefused := by
  subst hsh
  simp [State.askTest, hr, hk, hop, hcore, hs, hf, halone]

end

/-- While a test runs, no other starts. -/
theorem State.coreTestStart_running {s : State} {y : CoreTest} (h : s.test.running = some y) : s.coreTestStart = s := by
  unfold State.coreTestStart State.startTest
  simp only [h]
  split <;> rfl

theorem State.coreTestStart_first {s : State} {x : CoreTest} {l : List CoreTest} (hph : s.phase = .run) (h1 : s.test.running = none)
    (h2 : s.test.waiting = x :: l) {k : Fin 16} (hk : x.core = k.val) (he : s.eligibleCore k = true) (hready : s.testReady x k = true) :
    s.coreTestStart = s.beginTest x k := by
  have hlt : x.core < 16 := hk ▸ k.isLt
  have hfin : (⟨x.core, hlt⟩ : Fin 16) = k := Fin.ext hk
  simp [State.coreTestStart, State.testsRun, State.startTest, hph, h1, h2, hlt, hfin, State.startOn, he, hready]

theorem State.coreTestStart_shared {s : State} {x : CoreTest} {l : List CoreTest} (hph : s.phase = .run) (h1 : s.test.running = none)
    (h2 : s.test.waiting = x :: l) (hx : x.core = 16) (halone : s.aloneFor x.stream = true) :
    s.coreTestStart = { s with test := { s.test with running := some { x with part := 1 }, waiting := l } } := by
  simp [State.coreTestStart, State.testsRun, State.startTest, hph, h1, h2, hx, halone]

/-- Numbers and held descriptors of the streams. -/
def State.heldCounts (s : State) : List (Nat × Nat) := s.streams.map fun x => (x.num, x.held)

theorem State.aloneFor_congr {s t : State} (h : t.heldCounts = s.heldCounts) (hq : t.queues = s.queues) (n : Nat) : t.aloneFor n = s.aloneFor n := by
  have hall (u : State) : u.streams.all (fun x => x.num == n && decide (x.held ≤ 1)) = u.heldCounts.all fun p => p.1 == n && decide (p.2 ≤ 1) := by
    rw [State.heldCounts, List.all_map]
    rfl
  simp only [State.aloneFor, hall, h, hq]

theorem StopsGo.heldCounts {s t : State} (h : StopsGo s t) : t.heldCounts = s.heldCounts := by
  have hcounts (u : State) : u.heldCounts = (u.streams.map Stream.offStop).map fun x => (x.num, x.held) := by
    rw [List.map_map]
    rfl
  rw [hcounts, hcounts, h.2]

theorem State.heldCounts_updRun (n : Nat) (q : Word) (f : Run → Run) (s : State) : (s.updRun n q f).heldCounts = s.heldCounts :=
  map_updFirst_same (g := fun x : Stream => (x.num, x.held)) (f := fun x : Stream => { x with runs := updFirst (Run.named q) f x.runs })
    (fun x => by simp [Stream.held, length_updFirst]) s.streams

theorem State.aloneFor_startRun {s : State} {n : Nat} {r : Run} (h : r.started = false) (m : Nat) : (s.startRun n r).aloneFor m = s.aloneFor m := by
  obtain ⟨w, l, heq⟩ := State.startRun_after n r s
  refine State.aloneFor_congr ?_ (by rw [heq]) m
  rw [State.startRun_fresh h, State.heldCounts_updRun]
  exact (stopsGo_discardStop n s).heldCounts

/-- The TEST descriptor at the head of a stream is refused. -/
theorem State.headRun_testRefused {s : State} {n : Nat} {r : Run} (hr : s.headRun n = some r) (hk : r.kind = 0x42) :
    (s.updStream n Stream.testRefused).headRun n = some { r with status := 0x14, finished := true } := by
  obtain ⟨x, rs, hx, hrs⟩ := State.stream?_of_headRun hr
  have href : x.testRefused = { x with runs := { r with status := 0x14, finished := true } :: rs } := by simp [Stream.testRefused, hrs, hk]
  rw [State.headRun_of_stream? (stream?_updStream hx (by rw [href])), href]
  rfl

theorem State.phase_of_working {s : State} (h : s.working = true) : s.phase = .run := by
  simp only [State.working, Bool.and_eq_true, beq_iff_eq] at h
  grind

/-- The four commands of the tests of R524 and R525. -/
theorem exec_askTest {t : Time} {n : Nat} {s : State} (hw : s.working = true) :
    exec (.testLbist t n) s = .next ((s.timed t).askTest n 0 false).settle ∧
      exec (.testMbist t n) s = .next ((s.timed t).askTest n 1 false).settle ∧
      exec (.ferryNow t n) s = .next ((s.timed t).askTest n 2 false).settle ∧
      exec (.testMbistShared t n) s = .next ((s.timed t).askTest n 1 true).settle :=
  ⟨congrArg (fun u : State => Host.Outcome.next u.settle) (State.atWork_of_working (s := s.timed t) hw),
    congrArg (fun u : State => Host.Outcome.next u.settle) (State.atWork_of_working (s := s.timed t) hw),
    congrArg (fun u : State => Host.Outcome.next u.settle) (State.atWork_of_working (s := s.timed t) hw),
    congrArg (fun u : State => Host.Outcome.next u.settle) (State.atWork_of_working (s := s.timed t) hw)⟩

section
variable {s : State} {n op : Nat} {shared : Bool} {r : Run} (hr : s.headRun n = some r) (hk : r.kind = 0x42) (hop : dOp r.desc = op)
  (hcore : (dCore r.desc == 255) = shared) (hs : r.started = false) (hf : r.finished = false) (hin : r.inSeq = true)
  (halone : shared = true → s.aloneFor n = true)
include hr hk hop hcore hs hf hin halone

/-- While another test runs, the descriptor waits with its test in line. -/
theorem State.askTest_waits {y : CoreTest} (hy : s.test.running = some y) :
    (s.askTest n op shared).test.running = some y ∧ testOf n op shared r ∈ (s.askTest n op shared).test.waiting ∧
      (s.askTest n op shared).headRun n = some r.starts := by
  have hhead := State.headRun_startRun hr hin hs
  have hrun : (s.startRun n r).test.running = some y := by
    obtain ⟨w, l, h⟩ := State.startRun_after n r s
    rw [h]
    exact hy
  rw [State.askTest_joins hr hk hop hcore hs hf halone, State.coreTestStart_running
    (s := (s.startRun n r).lined (queueTest (testOf n op shared r) s.test.waiting)) hrun]
  exact ⟨hrun, mem_queueTest .., hhead⟩

/-- When no test runs and none waits, the test of an eligible core that is ready takes that core down and runs. -/
theorem State.askTest_starts {k : Fin 16} (hph : s.phase = .run) (hnone : s.test.running = none) (hempty : s.test.waiting = [])
    (hcore' : (testOf n op shared r).core = k.val) (he : s.eligibleCore k = true) (hready : s.testReady (testOf n op shared r) k = true) :
    (s.askTest n op shared).test.running =
        some { testOf n op shared r with man := if s.test.pkgValid then some s.test.pkgManifest else none } ∧
      (s.askTest n op shared).test.waiting = [] ∧
      ((s.askTest n op shared).core k).fn = ⟨if (s.core k).keepOff then .shutting else .pendingOn, .before⟩ ∧
      (s.askTest n op shared).headRun n = some r.starts := by
  have hhead := State.headRun_startRun hr hin hs
  have hwait : queueTest (testOf n op shared r) s.test.waiting = [testOf n op shared r] := by
    rw [hempty]
    rfl
  rw [State.askTest_joins hr hk hop hcore hs hf halone, hwait]
  obtain ⟨w, l, h⟩ := State.startRun_after n r s
  rw [h] at hhead ⊢
  rw [State.coreTestStart_first (s := ({ s with wjobs := w, streams := l } : State).lined [testOf n op shared r]) hph hnone rfl hcore' he hready]
  refine ⟨?_, rfl, congrArg Core.fn (State.core_updCore ..), hhead⟩
  simp only [State.beginTest, State.updCore, ← hcore']
  rfl

end

/-- Settles O33. -/
theorem testsWait : Obligations.TestsWait := by
  unfold Obligations.TestsWait
  intro t n r s hw hr hk hs hf hin
  have hph : (s.timed t).phase = .run := State.phase_of_working hw
  obtain ⟨hl, hm, hfe, hsh⟩ := exec_askTest (t := t) (n := n) hw
  refine ⟨fun c x hc hne => ?_, fun hop hcore => ⟨fun y halone hy => ?_, fun halone hnone hempty => ?_, fun halone => ?_⟩⟩
  · obtain ⟨op, hexec, hop, hx⟩ : ∃ op, exec c s = .next ((s.timed t).askTest n op false).settle ∧ dOp r.desc = op ∧ x = testOf n op false r := by
      obtain ⟨rfl, hop, rfl⟩ | ⟨rfl, hop, rfl⟩ | ⟨rfl, hop, rfl⟩ := hc
      · exact ⟨0, hl, hop, rfl⟩
      · exact ⟨1, hm, hop, rfl⟩
      · exact ⟨2, hfe, hop, rfl⟩
    subst hx
    have hcore : (dCore r.desc == 255) = false := by simpa using hne
    refine ⟨fun y hy => ?_, fun k hnone hempty hk' he hready => ?_⟩
    · obtain ⟨h1, h2, h3⟩ := State.askTest_waits (s := s.timed t) hr hk hop hcore hs hf hin nofun hy
      exact ⟨_, hexec, h1, h2, _, h3, rfl, hf⟩
    · obtain ⟨h1, h2, h3, h4⟩ := State.askTest_starts (s := s.timed t) hr hk hop hcore hs hf hin nofun hph hnone hempty hk' he hready
      exact ⟨_, hexec, h1, h2, h3, _, h4, rfl, hf⟩
  · obtain ⟨h1, h2, h3⟩ := State.askTest_waits (s := s.timed t) hr hk hop (beq_iff_eq.mpr hcore) hs hf hin (fun _ => halone) hy
    exact ⟨_, hsh, h1, h2, _, h3, rfl, hf⟩
  · have hask := State.askTest_joins (s := s.timed t) hr hk hop (beq_iff_eq.mpr hcore) hs hf (fun _ => halone)
    have hhead := State.headRun_startRun (s := s.timed t) hr hin hs
    have halone' := (State.aloneFor_startRun (s := s.timed t) (n := n) hs n).trans halone
    have hwait : queueTest (testOf n 1 true r) (s.timed t).test.waiting = [testOf n 1 true r] := by
      rw [show (s.timed t).test.waiting = [] from hempty]
      rfl
    rw [hwait] at hask
    obtain ⟨w, l, h⟩ := State.startRun_after n r (s.timed t)
    rw [h] at hhead halone' hask
    exact settles_of_eq hsh (hask.trans (State.coreTestStart_shared hph hnone rfl rfl halone')) ⟨rfl, rfl, _, hhead, rfl, hf⟩
  · exact settles_of_eq hsh (State.askTest_notAlone (s := s.timed t) hr hk hop (beq_iff_eq.mpr hcore) hs hf rfl halone)
      ⟨rfl, _, State.headRun_testRefused hr hk, rfl, rfl⟩

/-! ### LOAD_PACKAGE -/

theorem exec_loadPackage {t : Time} {n : Nat} {img : Image} {s : State} (hw : s.working = true) (hp : s.portsUp = true) :
    exec (.loadPackage t n img none) s = .next ((s.timed t).loadPackage n img).settle :=
  congrArg (fun u : State => Host.Outcome.next u.settle) (State.fromMemory_atWork (s := s.timed t) hp hw)

/-- The pattern port reads no package for a descriptor, and what was valid stays valid. -/
def State.PackageStands (s t : State) : Prop := (∀ p, t.test.pkg = some p → p.stream = none) ∧ t.test.pkgValid = s.test.pkgValid

/-- Where the pattern port is free, a SCAN part may take it; records and queues do not change. -/
theorem State.scanReads_after {s : State} (h : s.test.pkg = none) :
    s.PackageStands s.scanReads ∧ s.scanReads.err = s.err := by
  unfold State.scanReads
  split
  · split
    · exact ⟨⟨fun p hp => by cases hp; rfl, rfl⟩, rfl⟩
    · exact ⟨⟨fun p hp => (by rw [h] at hp; cases hp), rfl⟩, rfl⟩
  · exact ⟨⟨fun p hp => (by rw [h] at hp; cases hp), rfl⟩, rfl⟩

theorem State.packageDecoded_after (pkg : List Byte) (s : State) : ∃ c f, s.packageDecoded pkg = { s with cores := c, freeCtr := f } := by
  unfold State.packageDecoded
  dsimp only
  split
  · split
    · exact ⟨s.cores, s.freeCtr, rfl⟩
    · exact ⟨_, _, rfl⟩
  · exact ⟨s.cores, s.freeCtr, rfl⟩

/-- A package without bytes breaks the first condition. -/
theorem packageFails_empty (hardening : Nat) (m : List Byte) (err : Bool) : packageFails hardening m [] err = some 1 := by
  have h : (byteBits (slice [] 0 64) 31 0 == 0x4B504A44) = false := by decide
  simp only [packageFails, packageConds, h, Bool.and_false, Bool.false_and, List.findIdx?_cons, Bool.not_false, if_true, Option.map_some]

/-- An empty package is rejected with one record. -/
theorem State.packageRead_empty (n : Nat) (m : List Byte) (s : State) :
    s.PackageStands (s.packageRead n m [] false) ∧ Sent s (s.packageRead n m [] false) 0x95 .corrected := by
  have hscan := State.scanReads_after (s := { s with test := { s.test with pkg := none } }) rfl
  obtain ⟨c, f, hdec⟩ := State.packageDecoded_after [] (State.scanReads { s with test := { s.test with pkg := none } })
  unfold State.packageRead
  simp only [packageFails_empty]
  rw [hdec]
  generalize State.scanReads { s with test := { s.test with pkg := none } } = v at hscan
  refine ⟨?_, ?_⟩
  · simpa [State.PackageStands, State.testIrq] using hscan.1
  · have h := sent_report { v with cores := c, freeCtr := f } { reason := 0x95, sev := .corrected, detailA := 1, detailB := manId m }
    have hs : Sent s (({ v with cores := c, freeCtr := f } : State).report _) 0x95 .corrected := sent_congr hscan.2 rfl h
    exact hs

/-- A manifest on a held channel is not read yet. -/
theorem State.loadPackage_held {s : State} {n : Nat} {img : Image} {r : Run} (hr : s.headRun n = some r)
    (hheld : s.spanHeld (dArgB r.desc) 128 = true) : s.loadPackage n img = s := by
  simp [State.loadPackage, hr, hheld]

section
variable {s : State} {n : Nat} {img : Image} {r : Run} (hr : s.headRun n = some r) (hk : r.kind = 0x42) (hop : dOp r.desc = 3)
  (hs : r.started = false) (hf : r.finished = false) (hfree : s.test.pkg = none)
include hr hk hop hs hf hfree

/-- The bytes of a manifest that can be read decide. -/
theorem State.loadPackage_reads (hheld : s.spanHeld (dArgB r.desc) 128 = false) (hbad : s.spanBad img (dArgB r.desc) 128 = false) :
    ∃ v k, v = (s.startRun n r).bumpN .memPoison k ∧ s.loadPackage n img =
      (if byteBits (imgRead img (dArgB r.desc) 128) 31 0 ≠ 0x4D504A44 ∨ manLength (imgRead img (dArgB r.desc) 128) = 0 then
        v.packageRead n (imgRead img (dArgB r.desc) 128) [] false
      else { v with test := { v.test with pkg := some (PkgLoad.new (some n) (imgRead img (dArgB r.desc) 128)) } }) := by
  refine ⟨_, s.spanLost img (dArgB r.desc) 128, rfl, ?_⟩
  simp only [State.loadPackage, hr, hk, hop, hs, hf, hfree, hheld, hbad, ne_eq, not_true, Bool.false_eq_true, or_self, if_false,
    Option.isSome_none]

end

/-- Settles O34. -/
theorem loadPackage : Obligations.LoadPackage := by
  unfold Obligations.LoadPackage
  intro t n img r s hw hp hr hk hop hs hf hin hfree
  refine ⟨fun hheld => ?_, fun hheld hbad => ?_⟩
  · rw [exec_loadPackage hw hp, State.loadPackage_held (s := s.timed t) hr hheld]
    rfl
  obtain ⟨v, k, hv, he⟩ := State.loadPackage_reads (s := s.timed t) (img := img) hr hk hop hs hf hfree hheld hbad
  have hhead := State.headRun_startRun (s := s.timed t) hr hin hs
  obtain ⟨w, l, hstart⟩ := State.startRun_after n r (s.timed t)
  rw [hstart] at hhead hv
  refine ⟨fun hmark hlen => ?_, fun hno => ?_⟩
  · rw [if_neg (by simp [hmark, hlen])] at he
    subst hv
    exact settles_of_eq (exec_loadPackage hw hp) he ⟨rfl, rfl, _, hhead, rfl⟩
  · rw [if_pos hno] at he
    obtain ⟨⟨hpkg, hvalid⟩, hsent⟩ := v.packageRead_empty n (imgRead img (dArgB r.desc) 128)
    subst hv
    exact settles_of_eq (exec_loadPackage hw hp) he ⟨hpkg, hvalid, sent_congr rfl rfl hsent⟩

end Sys2Proof.Machine
end

section
/-! SUPPORT. A life-cycle change (13_clocks_power_lifecycle Table 13-10, R513). -/

namespace Sys2Proof.Machine

/-! ### The work that ends -/

/-- From s to t messages have been sent, and nothing else has changed. -/
def RingSends (s t : State) : Prop := ∃ r, t = { s with ring := r }

theorem RingSends.refl (s : State) : RingSends s s := ⟨s.ring, rfl⟩

theorem RingSends.trans {s t u : State} (h : RingSends s t) (k : RingSends t u) : RingSends s u := by
  obtain ⟨r, rfl⟩ := h
  exact k

theorem RingSends.forAll {α : Type} {f : α → State → State} (hf : ∀ a t, RingSends t (f a t)) (l : List α) (s : State) :
    RingSends s (forAll l f s) :=
  keeps_foldl (R := RingSends s) (fun t a h => h.trans (hf a t)) (RingSends.refl s)

theorem ringSends_sendRing (m : RingMsg) (s : State) : RingSends s (s.sendRing m) := by
  unfold State.sendRing
  split
  · exact RingSends.refl s
  · exact ⟨_, rfl⟩

theorem ringSends_causewayUnlock (s : State) : RingSends s s.causewayUnlock := by
  unfold State.causewayUnlock
  split
  · exact ringSends_sendRing ..
  · exact RingSends.refl s

/-- Requests of other clusters are answered by messages alone. -/
theorem ringSends_refuseRemote (s : State) : RingSends s s.refuseRemote := by
  unfold State.refuseRemote
  refine RingSends.trans (RingSends.forAll (fun c t => ?_) _ s) (RingSends.forAll (fun r t => ringSends_sendRing ..) _ _)
  split
  · exact ringSends_sendRing ..
  · exact RingSends.refl t

/-- The end of the work outside SRAM: the Causeway, a MAP_OUT that waits, messages and the marks of channels alone change. -/
theorem State.workEnds_after (s : State) : ∃ k m r c, s.workEnds = { s with causeway := k, mapWait := m, ring := r, chans := c } := by
  unfold State.workEnds
  obtain ⟨r, h⟩ := ringSends_refuseRemote s.causewayStops
  rw [h]
  unfold State.causewayStops
  split
  · exact ⟨s.causeway, none, r, s.chans, rfl⟩
  · obtain ⟨r', h'⟩ := ringSends_causewayUnlock s
    rw [h']
    exact ⟨none, none, r, _, rfl⟩

/-! ### Streams that a drain closes -/

theorem find?_updFirst_of_ne {α : Type} {p q : α → Bool} {f : α → α} (hp : ∀ x, p x = true → q x = false) (hf : ∀ x, q (f x) = q x) (l : List α) :
    (updFirst p f l).find? q = l.find? q := by
  induction l with
  | nil => rfl
  | cons a l ih =>
    unfold updFirst
    by_cases ha : p a = true
    · rw [if_pos ha, List.find?_cons_of_neg (by simp [hf, hp a ha]), List.find?_cons_of_neg (by simp [hp a ha])]
    · rw [if_neg ha]
      simp only [List.find?_cons, ih]

theorem State.stream?_updStream_other {s : State} {n m : Nat} {f : Stream → Stream} (h : m ≠ n) (hf : ∀ x, (f x).num = x.num) :
    (s.updStream n f).stream? m = s.stream? m :=
  find?_updFirst_of_ne (p := fun x : Stream => x.num == n) (q := fun x : Stream => x.num == m)
    (fun x hx => by simpa [show x.num = n by simpa using hx] using h.symm) (fun x => by simp [hf]) s.streams

/-- A change that leaves numbers and runs leaves every head descriptor. -/
theorem State.headRun_updStream {s : State} {n : Nat} {f : Stream → Stream} (hf : ∀ x, (f x).num = x.num ∧ (f x).runs = x.runs) (m : Nat) :
    (s.updStream n f).headRun m = s.headRun m := by
  have hhead (u : State) : u.headRun m = ((u.streams.map fun x => (x.num, x.runs)).find? fun p => p.1 == m).bind fun p => p.2.head? := by
    rw [List.find?_map, Option.bind_map]
    rfl
  rw [hhead, hhead]
  exact congrArg (fun l : List (Nat × List Run) => (l.find? fun p => p.1 == m).bind fun p => p.2.head?)
    (map_updFirst_same (g := fun x : Stream => (x.num, x.runs)) (f := f) (fun x => by simp [hf x]) s.streams)

theorem State.headRun_drainStream (k m : Nat) (s : State) : (s.drainStream k).headRun m = s.headRun m := by
  unfold State.drainStream
  split
  · rfl
  · split
    · exact State.headRun_updStream (f := fun y => { y with fn := ⟨.shutting, .before⟩ }) (fun _ => ⟨rfl, rfl⟩) m
    · exact State.headRun_updStream (f := Stream.unlatch) (fun _ => ⟨rfl, rfl⟩) m
    · rfl

/-- A stream that is open neither now nor again. -/
def State.Closed (s : State) (m : Nat) : Prop := ∀ y, s.stream? m = some y → y.fn.st = .off ∨ y.fn.st = .shutting

theorem State.drainStream_closes (m : Nat) (s : State) : (s.drainStream m).Closed m := by
  intro y hy
  unfold State.drainStream at hy
  split at hy
  · next hx => rw [hx] at hy; cases hy
  · next x hx =>
    split at hy
    · rw [stream?_updStream (f := fun y => { y with fn := ⟨.shutting, .before⟩ }) hx rfl] at hy
      cases hy
      exact .inr rfl
    · rw [stream?_updStream (f := Stream.unlatch) hx rfl] at hy
      cases hy
      exact .inr rfl
    · next h1 h2 =>
      rw [hx] at hy
      cases hy
      cases hst : y.fn.st with
      | off => exact .inl rfl
      | shutting => exact .inr rfl
      | on => exact absurd hst h1
      | pendingOn => exact absurd hst h2

theorem State.Closed.drainStream {s : State} {m : Nat} (h : s.Closed m) (k : Nat) : (s.drainStream k).Closed m := by
  by_cases hk : m = k
  · exact hk ▸ State.drainStream_closes k s
  · intro y hy
    refine h y ?_
    rw [← hy]
    unfold State.drainStream
    split
    · rfl
    · split
      · exact (State.stream?_updStream_other (f := fun y => { y with fn := ⟨.shutting, .before⟩ }) hk fun _ => rfl).symm
      · exact (State.stream?_updStream_other (f := Stream.unlatch) hk fun _ => rfl).symm
      · rfl

theorem State.Closed.drainStreams {m : Nat} (l : List Stream) {s : State} (h : s.Closed m) : (forAll l (fun x s => s.drainStream x.num) s).Closed m :=
  keeps_foldl (R := fun u : State => u.Closed m) (fun _ x h => h.drainStream x.num) h

theorem State.drainStreams_close {m : Nat} {l : List Stream} {x : Stream} (hx : x ∈ l) (hm : x.num = m) (s : State) :
    (forAll l (fun x s => s.drainStream x.num) s).Closed m := by
  induction l generalizing s with
  | nil => cases hx
  | cons a l ih =>
    rw [forAll_cons]
    obtain rfl | hx := List.mem_cons.mp hx
    · exact State.Closed.drainStreams l (hm ▸ State.drainStream_closes x.num s)
    · exact ih hx _

/-- A drain for a life-cycle change closes every stream but that of the change. -/
theorem State.startDrain_life_closes {n m target : Nat} (h : m ≠ n) (s : State) : (s.startDrain (.life n target)).Closed m := by
  unfold State.startDrain
  cases hx : s.stream? m with
  | none =>
    refine State.Closed.drainStreams _ fun y hy => ?_
    have : s.stream? m = some y := hy
    rw [hx] at this
    cases this
  | some x =>
    have hnum := State.stream?_num hx
    refine State.drainStreams_close (x := x) (List.mem_filter.mpr ⟨List.mem_of_find?_eq_some hx, ?_⟩) hnum _
    simpa [hnum] using h

theorem State.headRun_startDrain (why : DrainFor) (m : Nat) (s : State) : (s.startDrain why).headRun m = s.headRun m := by
  unfold State.startDrain
  exact keeps_foldl (R := fun u : State => u.headRun m = s.headRun m) (fun u x h => (State.headRun_drainStream x.num m u).trans h) rfl

/-! ### LIFECYCLE -/

theorem exec_lifecycle {t : Time} {n : Nat} {s : State} (hw : s.working = true) :
    exec (.lifecycle t n) s = .next ((s.timed t).lifecycle n).settle :=
  congrArg (fun u : State => Host.Outcome.next u.settle) (State.atWork_of_working (s := s.timed t) hw)

theorem State.lifecycle_head {s : State} {n : Nat} {r : Run} (hr : s.headRun n = some r) (hk : r.kind = 0x43) (hs : r.started = false)
    (hf : r.finished = false) (hph : s.phase = .run) :
    ∃ o, s.lifecycle n = { s.startRun n r with offWait := o }.startDrain (.life n (dTarget r.desc)) := by
  unfold State.lifecycle
  rw [hr]
  dsimp only
  rw [if_neg (by simp [hk, hs, hf, hph])]
  exact ⟨_, rfl⟩

/-- The end of the wipe of a life-cycle change. -/
theorem State.wipeOf_life {s : State} {n target : Nat} (hph : s.phase = .life .wipe n target) : s.wipeOf .life = s.lifeWiped n target := by
  simp [State.wipeOf, State.wipeDone, hph]

/-- Settles O35. -/
theorem lifeCycleChange : Obligations.LifeCycleChange := by
  unfold Obligations.LifeCycleChange
  intro t n r s
  refine ⟨fun hw hr hk hs hf hin => ?_, fun target hph hc => ?_⟩
  · have hph : (s.timed t).phase = .run := State.phase_of_working hw
    obtain ⟨o, he⟩ := State.lifecycle_head (s := s.timed t) hr hk hs hf hph
    obtain ⟨w, l, hstart⟩ := State.startRun_after n r (s.timed t)
    have hhead := State.headRun_startRun (s := s.timed t) hr hin hs
    rw [hstart] at he hhead
    generalize hv : ({ ({ s.timed t with wjobs := w, streams := l } : State) with offWait := o } : State) = v at he
    obtain ⟨l', hd⟩ := State.startDrain_eq (.life n (dTarget r.desc)) v
    refine settles_of_eq (exec_lifecycle hw) he ⟨?_, ?_, fun m y hm => State.startDrain_life_closes hm v y, r.starts, ?_, rfl⟩
    · rw [hd]
    · rw [hd, ← hv]
      rfl
    · rw [State.headRun_startDrain, ← hv]
      exact hhead
  · refine settles_of_eq (exec_sramWipeDone hc) (State.wipeOf_life (s := s.timed t) hph) ?_
    obtain ⟨k, m, ring, c, he⟩ := State.workEnds_after (s.timed t)
    unfold State.lifeWiped
    rw [he]
    refine ⟨by simp, by simp [State.sramCleared], by simp, ?_, by simp [State.sramCleared], by simp [State.sramCleared]⟩
    exact sent_report { ({ s.timed t with causeway := k, mapWait := m, ring := ring, chans := c } : State).sramCleared with
      streams := s.streams.filter fun x => x.num == n, phase := .life .wiped n target, lc := target } _

end Sys2Proof.Machine
end

section
/-! SUPPORT. Descriptors that read stored tiles, and memory sources (05_streams_and_order Tables 5-12 to 5-14, 5-20; 06_expansion R211, R214;
07_compression R261, R262, R275 to R277). -/

namespace Sys2Proof.Machine

/-! ### The run that may start units -/

/-- The run that starts units is of the kind, has not finished and stops at no limit. -/
theorem readyRun_spec {k : Nat → Bool} {l : List Run} {r : Run} (h : readyRun k l = some r) :
    k r.kind = true ∧ r.finished = false ∧ r.flags.countLimit = false := by
  induction l with
  | nil => cases h
  | cons a l ih =>
    unfold readyRun at h
    split at h
    · exact ih h
    · next hfin =>
      split at h
      · cases h
      · next hlim =>
        split at h
        · next hk =>
          cases h
          exact ⟨by simp only [Bool.and_eq_true] at hk; exact hk.1, by simpa using hfin, by simpa using hlim⟩
        · split at h
          · exact ih h
          · cases h

theorem State.frontRun_spec {s : State} {n : Nat} {k : Nat → Bool} {r : Run} (h : s.frontRun n k = some r) :
    k r.kind = true ∧ r.finished = false ∧ r.flags.countLimit = false := by
  obtain ⟨x, -, h⟩ := Option.bind_eq_some_iff.mp h
  exact readyRun_spec h

/-- A run after its start: as it stands when it has started, else begun. -/
def Run.atWork (r : Run) : Run := if r.started then r else r.starts

theorem Run.atWork_fields (r : Run) :
    r.atWork.started = true ∧ r.atWork.issued = r.issued ∧ r.atWork.desc = r.desc ∧ r.atWork.doneUnits = r.doneUnits ∧
      r.atWork.flags = r.flags ∧ r.atWork.rec1 = r.rec1 ∧ r.atWork.inSeq = r.inSeq ∧
      r.atWork.total = if r.started then r.total else r.units := by
  cases h : r.started <;> simp [Run.atWork, Run.starts, h]

theorem State.run?_atWork {s : State} {n : Nat} {r : Run} (hr : s.run? n r.seq = some r) (hk : r.kind ≠ 0x20 ∧ r.kind ≠ 0x21) :
    (s.startRun n r).run? n r.seq = some r.atWork := by
  cases h : r.started with
  | true => rw [State.startRun_started h hk, hr, Run.atWork, if_pos h]
  | false => rw [State.run?_startRun hr h, Run.atWork, h]; rfl

/-! ### Reads that join -/

/-- What a read job is for. -/
def RJob.what (j : RJob) : Nat × Word × Nat × Use × Nat × BitVec 1024 × Nat := (j.stream, j.seq, j.unit, j.use, j.recAddr, j.trec, j.tile)

/-- From s to t reads for the work of a list have joined; but for requests, free lists and counters nothing else has changed. -/
def ReadsJoin (l : List (Nat × Word × Nat × Use × Nat × BitVec 1024 × Nat)) (s t : State) : Prop :=
  SameWork { s with rjobs := t.rjobs } t ∧ t.rjobs.map RJob.what = s.rjobs.map RJob.what ++ l

theorem ReadsJoin.trans {l m : List (Nat × Word × Nat × Use × Nat × BitVec 1024 × Nat)} {s t u : State} (h : ReadsJoin l s t)
    (k : ReadsJoin m t u) : ReadsJoin (l ++ m) s u := by
  refine ⟨?_, by rw [k.2, h.2, List.append_assoc]⟩
  have h' : ({ t.offMemory with rjobs := u.rjobs } : State) = { ({ s with rjobs := t.rjobs } : State).offMemory with rjobs := u.rjobs } :=
    congrArg (fun v : State => ({ v with rjobs := u.rjobs } : State)) h.1
  exact SameWork.trans (t := { t with rjobs := u.rjobs }) h' k.1

theorem SameWork.readsJoin {s t : State} (h : SameWork s t) : ReadsJoin [] s t := by
  have hr := h.rjobs
  refine ⟨?_, by rw [hr]; simp⟩
  rw [hr]
  exact h

section
variable {l : List (Nat × Word × Nat × Use × Nat × BitVec 1024 × Nat)} {s t : State} (h : ReadsJoin l s t)
include h

theorem ReadsJoin.streams : t.streams = s.streams := h.1.streams
theorem ReadsJoin.accs : t.accs = s.accs := h.1.accs
theorem ReadsJoin.groups : t.groups = s.groups := h.1.groups
theorem ReadsJoin.colls : t.colls = s.colls := h.1.colls
theorem ReadsJoin.stream? (n : Nat) : t.stream? n = s.stream? n := h.1.stream? n
theorem ReadsJoin.run? (n : Nat) (q : Word) : t.run? n q = s.run? n q := h.1.run? n q

/-- Each of them is there. -/
theorem ReadsJoin.mem {w : Nat × Word × Nat × Use × Nat × BitVec 1024 × Nat} (hw : w ∈ l) : ∃ j ∈ t.rjobs, j.what = w :=
  List.mem_map.mp (h.2 ▸ List.mem_append_right _ hw)

end

/-- Reads of other work stay. -/
theorem readsJoin_updR (id : Nat) {f : RJob → RJob} (hf : ∀ j, (f j).what = j.what) (s : State) : ReadsJoin [] s (s.updR id f) :=
  ⟨SameWork.refl _, by rw [List.append_nil]; exact map_updFirst_same hf s.rjobs⟩

theorem readsJoin_readPresence (id : Nat) (trec : BitVec 1024) (tile : Nat) (s : State) : ReadsJoin [] s (s.readPresence id trec tile) := by
  unfold State.readPresence
  split
  · exact (SameWork.refl s).readsJoin
  · next j _ =>
    have h := readsJoin_updR id (f := fun x => { x with stage := .presence, alone := s.wordAhead j.stream j.seq j.recAddr tile }) (fun _ => rfl) s
    dsimp only
    split
    · exact h
    · exact h.trans (sameWork_readSpan ..).readsJoin

/-- A tile's reading starts. -/
theorem readsJoin_startRead (n : Nat) (seq : Word) (unit : Nat) (use : Use) (recAddr : Nat) (trec : BitVec 1024) (tile : Nat) (s : State) :
    ReadsJoin [(n, seq, unit, use, recAddr, trec, tile)] s (s.startRead n seq unit use recAddr trec tile) := by
  have h : ∀ j : RJob, j.what = (n, seq, unit, use, recAddr, trec, tile) →
      ReadsJoin [(n, seq, unit, use, recAddr, trec, tile)] s { s.numbered with rjobs := s.rjobs ++ [j] } := fun j hj =>
    ⟨rfl, by simp [hj]⟩
  unfold State.startRead
  dsimp only
  split
  · exact h _ rfl
  · exact (h _ rfl).trans (readsJoin_readPresence ..)

theorem readsJoin_forAll {α : Type} {g : α → Nat × Word × Nat × Use × Nat × BitVec 1024 × Nat} {f : α → State → State}
    (hf : ∀ a t, ReadsJoin [g a] t (f a t)) (l : List α) (s : State) : ReadsJoin (l.map g) s (forAll l f s) := by
  induction l generalizing s with
  | nil => exact (SameWork.refl s).readsJoin
  | cons a l ih => exact (hf a s).trans (ih (f a s))

/-! ### The next stored tile -/

/-- A tile is issued: its stream's run has its CATCHUP flag when the stream is late. -/
theorem State.run?_issuedNow {s : State} {n : Nat} {q : Word} {r : Run} (hr : s.run? n q = some r) :
    ∃ f, (s.issuedNow n q).run? n q = some { r with flags := f } := by
  unfold State.issuedNow
  split
  · next x _ =>
    cases x.catchup
    · exact ⟨r.flags, hr⟩
    · exact ⟨r.flags.caught, run?_updRun (f := fun r => { r with flags := r.flags.caught }) hr rfl rfl⟩
  · exact ⟨r.flags, hr⟩

/-- One unit more of a run is issued. -/
def State.issuesOne (n : Nat) (r : Run) (use : Use) (s : State) : State :=
  ((s.updRun n r.seq fun y => { y with issued := y.issued + 1 }).issuedNow n r.seq).startRead n r.seq r.issued use
    (dTensor r.desc) r.rec1 (dFirst r.desc + r.issued)

theorem State.issuesOne_after {s : State} {n : Nat} {r : Run} (use : Use) (hr : s.run? n r.seq = some r) :
    (∃ j ∈ (s.issuesOne n r use).rjobs, j.what = (n, r.seq, r.issued, use, dTensor r.desc, r.rec1, dFirst r.desc + r.issued)) ∧
      ∃ f, (s.issuesOne n r use).run? n r.seq = some { r with issued := r.issued + 1, flags := f } := by
  obtain ⟨f, hf⟩ := State.run?_issuedNow (run?_updRun (f := fun y => { y with issued := y.issued + 1 }) hr rfl rfl)
  have hread := readsJoin_startRead n r.seq r.issued use (dTensor r.desc) r.rec1 (dFirst r.desc + r.issued)
    ((s.updRun n r.seq fun y => { y with issued := y.issued + 1 }).issuedNow n r.seq)
  exact ⟨hread.mem (List.mem_singleton.mpr rfl), f, (hread.run? n r.seq).trans hf⟩

/-- The commands of the descriptors that read stored tiles. -/
theorem State.readNext_issues {s : State} {n k : Nat} {r : Run} (use : Use) (hw : s.working = true) (hf : s.frontRun n (· == k) = some r)
    (hk : k ≠ 0x20 ∧ k ≠ 0x21) (hr : s.run? n r.seq = some r) (hport : s.portOpen r.desc = true)
    (hleft : r.issued < if r.started then r.total else r.units) (hahead : r.issued < r.doneUnits + 64) :
    s.readNext n k use = (s.startRun n r).issuesOne n r.atWork use := by
  have hkind : r.kind = k := by simpa using (State.frontRun_spec hf).1
  have hrun := State.run?_atWork hr (by rw [hkind]; exact hk)
  obtain ⟨-, hissued, hdesc, hdone, -, hrec, -, htotal⟩ := r.atWork_fields
  have hgo : r.atWork.issued < r.atWork.total ∧ r.atWork.issued < r.atWork.doneUnits + readAhead := by
    rw [hissued, hdone, htotal]
    exact ⟨hleft, hahead⟩
  unfold State.readNext
  simp only [hf, hw, hport, hrun, Bool.not_true, Bool.false_eq_true, or_self, if_false]
  rw [if_pos hgo]
  rfl

theorem State.exportGo_issues {s : State} {n : Nat} {r : Run} (hf : s.frontRun n (· == 4) = some r) (hr : s.run? n r.seq = some r)
    (hleft : r.issued < if r.started then r.total else r.units) (hspace : r.flags.spaceStop = false) (hahead : r.issued < r.doneUnits + 64) :
    s.exportGo n = (s.startRun n r).issuesOne n r.atWork .exportT := by
  have hkind : r.kind = 4 := by simpa using (State.frontRun_spec hf).1
  have hrun := State.run?_atWork hr (by simp [hkind])
  obtain ⟨-, hissued, hdesc, hdone, hflags, hrec, -, htotal⟩ := r.atWork_fields
  have hgo : r.atWork.issued < r.atWork.total ∧ (!r.atWork.flags.spaceStop) = true := by
    rw [hissued, htotal, hflags, hspace]
    exact ⟨hleft, rfl⟩
  have hnear : ¬(r.atWork.issued < r.atWork.total ∧ (!r.atWork.flags.spaceStop) = true ∧ r.atWork.doneUnits + readAhead ≤ r.atWork.issued) := by
    rw [hissued, hdone]
    exact fun h => Nat.not_le.mpr hahead h.2.2
  unfold State.exportGo
  simp only [hf, hrun]
  rw [if_neg hnear, if_pos hgo]
  rfl

/-- Settles O24. -/
theorem storedTileReads : Obligations.StoredTileReads := by
  unfold Obligations.StoredTileReads
  intro t n k c use r s hw hf hr hleft hc
  have hk : k ≠ 0x20 ∧ k ≠ 0x21 := by
    obtain ⟨-, rfl, -⟩ | ⟨-, rfl, -⟩ | ⟨-, rfl, -⟩ | ⟨-, rfl, -⟩ := hc <;> decide
  have hexec : exec c s = .next (((s.timed t).startRun n r).issuesOne n r.atWork use).settle := by
    obtain ⟨rfl, rfl, rfl, hport, hahead⟩ | ⟨rfl, rfl, rfl, hport, hahead⟩ | ⟨rfl, rfl, rfl, hport, hahead⟩ | ⟨rfl, rfl, rfl, hspace, hahead⟩ := hc
    · rw [← State.readNext_issues (s := s.timed t) _ hw hf hk hr hport hleft hahead]; rfl
    · rw [← State.readNext_issues (s := s.timed t) _ hw hf hk hr hport hleft hahead]; rfl
    · rw [← State.readNext_issues (s := s.timed t) _ hw hf hk hr hport hleft hahead]; rfl
    · rw [← State.exportGo_issues (s := s.timed t) hf hr hleft hspace hahead]
      exact congrArg (fun u : State => Host.Outcome.next u.settle) (if_pos (show (s.timed t).working = true from hw))
  have hkind : r.kind = k := by simpa using (State.frontRun_spec hf).1
  obtain ⟨hstarted, hissued, hdesc, -, -, hrec, -, -⟩ := r.atWork_fields
  have hseq : r.atWork.seq = r.seq := congrArg dSeq hdesc
  have hrun := State.run?_atWork (s := s.timed t) hr (by rw [hkind]; exact hk)
  rw [← hseq] at hrun
  obtain ⟨⟨j, hj, hwhat⟩, f, hy⟩ := State.issuesOne_after use hrun
  simp only [RJob.what, Prod.mk.injEq, hseq, hissued, hdesc, hrec] at hwhat
  rw [hseq] at hy
  obtain ⟨h1, h2, h3, h4, h5, h6, h7⟩ := hwhat
  exact ⟨_, hexec, ⟨j, hj, h1, h2, h3, h4, h5, h6, h7⟩, _, hy, hstarted, by rw [hissued], hdesc⟩

/-! ### The next tile of a memory source -/

theorem ContextsMove.run? {s t : State} (h : ContextsMove s t) {n : Nat} {q : Word} {r : Run} (hr : s.run? n q = some r) : t.run? n q = some r := by
  obtain ⟨x, hx, hr⟩ := Option.bind_eq_some_iff.mp hr
  obtain ⟨y, hy, hyx⟩ := h.stream? hx
  have hruns : y.unplaced.runs = x.unplaced.runs := congrArg Stream.runs hyx
  change y.runs = x.runs at hruns
  unfold State.run?
  rw [hy, Option.bind_some, hruns]
  exact hr

theorem sameWork_makeRoomFor (o : SpillOf) (n tiles : Nat) (s : State) : SameWork s (s.makeRoomFor o n tiles).1 := by
  have h := sameWork_spillSpace o (ceilDiv n 64) s
  unfold State.makeRoomFor
  split
  · exact SameWork.refl s
  · split
    · next t ht => rw [ht] at h; exact h.trans (sameWork_bumpN ..)
    · next t ht => rw [ht] at h; exact h

theorem contextsMove_spillFound (n : Nat) (s : State) : ContextsMove s (s.spillFound n) :=
  contextsMove_updStream n (f := fun x => { x with stallSpill := none }) (fun _ => rfl) s

/-- Room for an image, or none: the streams are the same but for their stalls. -/
theorem contextsMove_roomFor (n : Nat) (s : State) : ContextsMove s (s.roomFor n).1 := by
  have h := (sameWork_makeRoomFor (.image s.nextId) 4096 1 s.numbered).contextsMove
  unfold State.roomFor
  split
  · next t ht => rw [ht] at h; exact ContextsMove.trans (t := t) h (contextsMove_spillFound n t)
  · next t ht => rw [ht] at h; exact ContextsMove.trans (t := t) h (contextsMove_spillStall n true t)

/-- The write job of the next tile of a memory source. -/
def sourceJob (id n : Nat) (r : Run) : WJob :=
  WJob.new id n r.seq r.issued (.memory (dSrcAddr r.desc + 4096 * (r.tileOf r.issued - r.baseTile))) (dTensor r.desc) r.rec1
    (r.tileOf r.issued) (.source 64)

theorem State.sourceNext_room {s v : State} {n id : Nat} {r : Run} (hleft : r.issued < r.total) (hacc : s.accepted n r.seq < 32)
    (hroom : s.roomFor n = (v, some id)) (hr : s.run? n r.seq = some r) :
    sourceJob id n r ∈ (s.sourceNext n r).wjobs ∧ (s.sourceNext n r).run? n r.seq = some { r with issued := r.issued + 1 } := by
  have hv : v.run? n r.seq = some r := by
    have h := contextsMove_roomFor n s
    rw [hroom] at h
    exact h.run? hr
  have hgo : s.sourceNext n r = ((v.addW (sourceJob id n r)).updRun n r.seq fun y => { y with issued := y.issued + 1 }).readSource id
      (dSrcAddr r.desc + 4096 * (r.tileOf r.issued - r.baseTile)) := by
    unfold State.sourceNext
    rw [if_pos ⟨hleft, hacc⟩, hroom]
    rfl
  have hsame : SameWork ((v.addW (sourceJob id n r)).updRun n r.seq fun y => { y with issued := y.issued + 1 }) (s.sourceNext n r) := by
    rw [hgo]
    exact sameWork_readSpan ..
  refine ⟨?_, (hsame.run? n r.seq).trans ?_⟩
  · rw [hsame.wjobs]
    exact List.mem_append_right _ (List.mem_singleton.mpr rfl)
  · exact run?_updRun (s := v.addW _) (f := fun y => { y with issued := y.issued + 1 }) hv rfl rfl

/-- Whether or not a tile is read, the run is the same but for what it has issued. -/
theorem State.run?_sourceGo {s : State} {n : Nat} {q : Word} {r : Run} (hr : s.run? n q = some r) (hq : r.seq = q) :
    ∃ i, (s.sourceGo n q).run? n q = some { r with issued := i } := by
  subst hq
  unfold State.sourceGo
  rw [hr]
  dsimp only
  split
  · by_cases hgo : r.issued < r.total ∧ s.accepted n r.seq < 32
    · cases hroom : s.roomFor n with
      | mk v o =>
        cases o with
        | none =>
          have h := contextsMove_roomFor n s
          unfold State.sourceNext
          rw [if_pos hgo, hroom]
          rw [hroom] at h
          exact ⟨r.issued, h.run? hr⟩
        | some id => exact ⟨_, (State.sourceNext_room hgo.1 hgo.2 hroom hr).2⟩
    · rw [State.sourceNext, if_neg hgo]
      exact ⟨r.issued, hr⟩
  · exact ⟨r.issued, hr⟩

theorem exec_compress {t : Time} {n : Nat} {r : Run} {s : State} (hw : s.working = true) (hf : s.frontRun n (· == 2) = some r) :
    exec (.compress t n) s = .next (((s.timed t).startRun n r).sourceGo n r.seq).settle := by
  refine congrArg (fun u : State => Host.Outcome.next u.settle) (?_ : (s.timed t).compressGo n = _)
  unfold State.compressGo
  simp only [show (s.timed t).frontRun n (· == 2) = some r from hf, show (s.timed t).working = true from hw, if_true]

theorem exec_resume {t : Time} {n : Nat} {r : Run} {s : State} (hw : s.working = true) (hf : s.frontRun n (· == 3) = some r) :
    exec (.resume t n) s = .next (((s.timed t).startResume n r).sourceGo n r.seq).settle := by
  refine congrArg (fun u : State => Host.Outcome.next u.settle) (?_ : (s.timed t).resumeGo n = _)
  unfold State.resumeGo
  simp only [show (s.timed t).frontRun n (· == 3) = some r from hf, show (s.timed t).working = true from hw, if_true]

/-- Settles O25. -/
theorem sourceTileReads : Obligations.SourceTileReads := by
  unfold Obligations.SourceTileReads
  intro t n c k r s hw hf hr hc
  refine ⟨fun v id hstarted hfin hsrc hleft hacc hroom => ?_, fun hk hstarted => ?_⟩
  · have hexec : exec c s = .next ((s.timed t).sourceGo n r.seq).settle := by
      obtain ⟨rfl, rfl⟩ | ⟨rfl, rfl⟩ := hc
      · have hkind : r.kind = 2 := by simpa using (State.frontRun_spec hf).1
        rw [exec_compress hw hf, State.startRun_started hstarted (by simp [hkind])]
      · rw [exec_resume hw hf, State.startResume, if_pos hstarted]
    have hgo : (s.timed t).sourceGo n r.seq = (s.timed t).sourceNext n r := by
      unfold State.sourceGo
      rw [show (s.timed t).run? n r.seq = some r from hr]
      exact if_pos ⟨hstarted, by simp [hfin], hsrc⟩
    obtain ⟨hw', hy⟩ := State.sourceNext_room (s := s.timed t) hleft hacc hroom hr
    exact settles_of_eq hexec hgo ⟨⟨_, hw', rfl, rfl, rfl, rfl, rfl, rfl⟩, _, hy, rfl, rfl⟩
  · obtain ⟨rfl, -⟩ | ⟨rfl, rfl⟩ := hc
    · subst hk
      obtain ⟨i, hi⟩ := State.run?_sourceGo (State.run?_startRun (s := s.timed t) hr hstarted) rfl
      exact settles_of_eq (exec_compress hw hf) rfl ⟨_, hi, rfl, rfl⟩
    · cases hk

/-! ### RESUME -/

section
variable {s : State} {n : Nat} {r : Run} {x : Stream} {rs : List Run} (hx : s.stream? n = some x) (hr : x.runs = r :: rs)
  (hs : r.started = false) (hin : r.inSeq = true) (hopen : s.recordOpen n = false)
include hx hr hs hin hopen

/-- A RESUME whose tiles lie past the tensor of its record. -/
theorem State.startResume_past (hpast : x.stop.any (StopRec.past r.desc r.rec1) = true) :
    s.startResume n r = s.updRun n r.seq fun y => { y with status := 0x14, finished := true } := by
  simp [State.startResume, hs, hx, hr, hopen, Run.named, hin, Run.seq, dSeq, hpast]

/-- A RESUME that names the stop record takes it over. -/
theorem State.startResume_takes {p : StopRec} (hpast : x.stop.any (StopRec.past r.desc r.rec1) = false) (hp : x.stop = some p)
    (h1 : p.seq = BitVec.ofNat 32 (dFirst r.desc)) (h2 : p.recAddr = dTensor r.desc) (h3 : p.source = dSource r.desc)
    (h4 : p.srcAddr = dSrcAddr r.desc) :
    ∃ k, (s.startResume n r).run? n r.seq = some { r with started := true, total := p.remaining, issued := k, cont := some p } := by
  have hrun : s.run? n r.seq = some r := State.run?_of_headRun ((State.headRun_of_stream? hx).trans (by rw [hr]; rfl)) hin
  have hnamed : (x.runs.head?.any (Run.named r.seq)) = true := by simp [hr, Run.named, hin, Run.seq, dSeq]
  have hpast' : p.past r.desc r.rec1 = false := by simpa [hp] using hpast
  obtain ⟨y, hy, hyr⟩ := Option.bind_eq_some_iff.mp (run?_updRun (f := fun y => { y with
    started := true, total := p.remaining
    issued := (s.wjobs.filter fun w => w.stream == n && w.seq == p.seq && x.retains w).length, cont := some p }) hrun rfl rfl)
  have hstop := stream?_updStream (f := fun y => { y with stop := none }) hy rfl
  unfold State.startResume
  simp only [hs, hx, hnamed, hopen, hp, Option.any_some, hpast', ← h1, h2, h3, h4, beq_self_eq_true, Bool.and_self, Bool.not_true,
    Bool.false_eq_true, or_self, if_false]
  refine ⟨(s.wjobs.filter fun w => w.stream == n && w.seq == p.seq && x.retains w).length, ?_⟩
  unfold State.run?
  exact (congrArg (fun o : Option Stream => o.bind fun x => x.runs.find? (Run.named r.seq)) hstop).trans hyr

/-- One that names none, or another, is refused. -/
theorem State.startResume_refused (hpast : x.stop.any (StopRec.past r.desc r.rec1) = false)
    (hno : ∀ p, x.stop = some p → p.seq ≠ BitVec.ofNat 32 (dFirst r.desc) ∨ p.recAddr ≠ dTensor r.desc ∨ p.source ≠ dSource r.desc ∨
      p.srcAddr ≠ dSrcAddr r.desc) :
    s.startResume n r = s.updRun n r.seq fun y => { y with status := 0x18, finished := true } := by
  have hnamed : (x.runs.head?.any (Run.named r.seq)) = true := by simp [hr, Run.named, hin, Run.seq, dSeq]
  have hbad : (x.stop.any fun p => p.seq == BitVec.ofNat 32 (dFirst r.desc) && p.recAddr == dTensor r.desc && p.source == dSource r.desc &&
      p.srcAddr == dSrcAddr r.desc) = false := by
    cases hp : x.stop with
    | none => rfl
    | some p =>
      have h := hno p hp
      simp only [Option.any_some, Bool.and_eq_false_iff, beq_eq_false_iff_ne]
      tauto
  unfold State.startResume
  simp only [hs, hx, hnamed, hopen, hpast, hbad, Bool.not_true, Bool.false_eq_true, or_self, if_false]

end

/-- A RESUME at the head of its stream is the run that may start units. -/
theorem State.frontRun_head {s : State} {n : Nat} {x : Stream} {r : Run} {rs : List Run} (k : Nat) (hx : s.stream? n = some x)
    (hr : x.runs = r :: rs) (hk : r.kind = k) (hs : r.started = false) (hf : r.finished = false) (hlim : r.flags.countLimit = false) :
    s.frontRun n (· == k) = some r := by
  simp [State.frontRun, hx, hr, readyRun, hk, hs, hf, hlim]

/-- A finished run reads nothing more. -/
theorem State.sourceGo_finished {s : State} {n : Nat} {q : Word} {r : Run} (hr : s.run? n q = some r) (hf : r.finished = true) :
    s.sourceGo n q = s := by
  simp [State.sourceGo, hr, hf]

/-- Settles O26. -/
theorem resumeStarts : Obligations.ResumeStarts := by
  unfold Obligations.ResumeStarts
  intro t n r x rs s hw hx hr hk hs hf hin hlim hopen
  have hexec := exec_resume (t := t) hw (State.frontRun_head 3 hx hr hk hs hf hlim)
  have hrun : (s.timed t).run? n r.seq = some r :=
    State.run?_of_headRun ((State.headRun_of_stream? (s := s.timed t) hx).trans (by rw [hr]; rfl)) hin
  have hends : ∀ code, ((s.timed t).updRun n r.seq fun y => { y with status := code, finished := true }).run? n r.seq =
      some { r with status := code, finished := true } := fun code => run?_updRun hrun rfl rfl
  refine ⟨fun hpast => ?_, fun hpast p hp h1 h2 h3 h4 => ?_, fun hpast hno => ?_⟩
  · rw [State.startResume_past (s := s.timed t) hx hr hs hin hopen hpast, State.sourceGo_finished (hends 0x14) rfl] at hexec
    exact ⟨_, hexec, _, hends 0x14, rfl, rfl⟩
  · obtain ⟨k, hk⟩ := State.startResume_takes (s := s.timed t) hx hr hs hin hopen hpast hp h1 h2 h3 h4
    obtain ⟨i, hi⟩ := State.run?_sourceGo hk rfl
    exact ⟨_, hexec, _, hi, rfl, rfl, rfl⟩
  · rw [State.startResume_refused (s := s.timed t) hx hr hs hin hopen hpast hno, State.sourceGo_finished (hends 0x18) rfl] at hexec
    exact ⟨_, hexec, _, hends 0x18, rfl, rfl⟩

end Sys2Proof.Machine
end

section
/-! SUPPORT. REDUCE and the collectives take their next unit (05_streams_and_order Tables 5-15, 5-18; 08_accumulation R290, R292;
09_collectives R339 to R341). -/

namespace Sys2Proof.Machine

/-! ### The run that a command works on -/

theorem State.workRun_kind {s : State} {n kind : Nat} {left : Run → Bool} {r : Run} (h : s.workRun n kind left = some r) : r.kind = kind := by
  unfold State.workRun at h
  split at h
  · next r' hr =>
    cases h
    obtain ⟨x, -, hf⟩ := Option.bind_eq_some_iff.mp hr
    have := List.find?_some hf
    simp only [Bool.and_eq_true, beq_iff_eq] at this
    exact this.1.1.1
  · simpa using (State.frontRun_spec h).1

/-- A command goes on with a started run. -/
theorem State.goOn_started {s : State} {n kind : Nat} {left : Run → Bool} {go : Run → State → State} {r : Run} (hw : s.working = true)
    (h : s.workRun n kind left = some r) (hs : r.started = true) (hk : kind ≠ 0x20 ∧ kind ≠ 0x21) (hr : s.run? n r.seq = some r)
    (hport : s.portOpen r.desc = true) : s.goOn n kind left go = go r s := by
  have hkind := State.workRun_kind h
  unfold State.goOn
  simp only [h, hw, hport, Bool.not_true, Bool.false_eq_true, or_self, if_false,
    State.startRun_started hs (by rw [hkind]; exact hk), hr]

/-! ### Units -/

/-- A unit that is taken changes arbitration alone. -/
theorem State.unitTaken_after (res n : Nat) (seq : Word) (again : Bool) (s : State) :
    ∃ a c, s.unitTaken res n seq again = { s with arbs := a, counters := c } := by
  unfold State.unitTaken
  split
  · exact ⟨s.arbs, s.counters, rfl⟩
  · next a forced _ => cases forced <;> exact ⟨_, _, rfl⟩

theorem State.mem_unitWait (res n kind : Nat) (s : State) : UnitWait.mk res n kind ∈ (s.unitWait res n kind).unitWaits := by
  unfold State.unitWait
  dsimp only
  split
  · next h => simpa using h
  · simp

theorem State.unitWait_accs (res n kind : Nat) (s : State) : (s.unitWait res n kind).accs = s.accs := by
  unfold State.unitWait
  dsimp only
  split <;> rfl

/-! ### Accumulator tiles of a REDUCE -/

/-- An item of a list whose first match changes is there, or changed. -/
theorem mem_updFirst {α : Type} {p : α → Bool} {f : α → α} {x : α} {l : List α} (h : x ∈ l) : ∃ y ∈ updFirst p f l, y = x ∨ y = f x := by
  induction l with
  | nil => cases h
  | cons a l ih =>
    unfold updFirst
    obtain rfl | h := List.mem_cons.mp h
    · split
      · exact ⟨f x, List.mem_cons_self, .inr rfl⟩
      · exact ⟨x, List.mem_cons_self, .inl rfl⟩
    · split
      · exact ⟨x, List.mem_cons_of_mem _ h, .inl rfl⟩
      · obtain ⟨y, hy, he⟩ := ih h
        exact ⟨y, List.mem_cons_of_mem _ hy, he⟩

/-- The tiles of an addend or a preload are read. -/
theorem readsJoin_readParts (a : AccTile) (nd : Nat) (use : Nat → Use) (recAddr : Nat) (trec : BitVec 1024) (first : Nat) (s : State) :
    ReadsJoin ((List.range (a.nacc / recN trec)).map fun p =>
      (a.stream, a.seq, a.unit, use p, recAddr, trec, first + a.unit * nd / recN trec + p)) s (s.readParts a nd use recAddr trec first) :=
  readsJoin_forAll (fun _ _ => readsJoin_startRead ..) _ s

/-- The accumulator tile that a REDUCE forms next. -/
def nextAcc (id n : Nat) (r : Run) (c : Fin 16) : AccTile :=
  AccTile.new id n r.seq r.issued c (recType r.rec1) r.isInteger r.nAcc
    ((List.range (r.nAcc / recN r.rec1)).map fun i => dFirst r.desc + r.issued + i) r.addends.length

/-- A preload leaves the run, and of the accumulator tile what is not the preload. -/
theorem State.readPreload_after (a : AccTile) (nd recAddr : Nat) (trec : BitVec 1024) (first : Nat) {s : State} (ha : a ∈ s.accs) (m : Nat) (q : Word) :
    (s.readPreload a nd recAddr trec first).run? m q = s.run? m q ∧
      ∃ b ∈ (s.readPreload a nd recAddr trec first).accs, ∃ p l, b = { a with preload := p, preloaded := l } := by
  have hread := readsJoin_readParts a nd (Use.preload a.id) recAddr trec first
    (s.updA a.id fun x => { x with preload := some (Addend.new 0 (recType trec) (a.nacc / recN trec)), preloaded := false })
  refine ⟨hread.run? m q, ?_⟩
  obtain ⟨b, hb, he⟩ := mem_updFirst (p := fun x : AccTile => x.id == a.id)
    (f := fun x => { x with preload := some (Addend.new 0 (recType trec) (a.nacc / recN trec)), preloaded := false }) ha
  refine ⟨b, hread.accs.symm ▸ hb, ?_⟩
  obtain rfl | rfl := he
  · exact ⟨b.preload, b.preloaded, rfl⟩
  · exact ⟨_, _, rfl⟩

theorem State.issuedNow_accs (n : Nat) (q : Word) (s : State) : (s.issuedNow n q).accs = s.accs := by
  unfold State.issuedNow
  split
  · next x _ => cases x.catchup <;> rfl
  · rfl

/-- The next accumulator tile starts on a core. -/
theorem State.reduceOn_after {s : State} {n : Nat} {r : Run} {c : Fin 16} (hr : s.run? n r.seq = some r) (hc : s.reduceCore r = some c) :
    (∃ a ∈ (s.reduceOn n r).accs, ∃ p l, a = { nextAcc s.nextId n r c with preload := p, preloaded := l }) ∧
      ∃ f, (s.reduceOn n r).run? n r.seq = some { r with issued := r.issued + r.nAcc / recN r.rec1, flags := f } := by
  obtain ⟨f, hf⟩ := State.run?_issuedNow (s := (s.chosen.addAcc (nextAcc s.nextId n r c)).updRun n r.seq fun x =>
      { x with issued := x.issued + r.nAcc / recN r.rec1 })
    (run?_updRun (s := s.chosen.addAcc _) (f := fun x => { x with issued := x.issued + r.nAcc / recN r.rec1 }) hr rfl rfl)
  have hacc : nextAcc s.nextId n r c ∈ (((s.chosen.addAcc (nextAcc s.nextId n r c)).updRun n r.seq fun x =>
      { x with issued := x.issued + r.nAcc / recN r.rec1 }).issuedNow n r.seq).accs := by
    rw [State.issuedNow_accs]
    exact List.mem_append_right _ (List.mem_singleton.mpr rfl)
  have hpre : ∀ a b rec first, (∃ x ∈ (State.readPreload (nextAcc s.nextId n r c) a b rec first
      (((s.chosen.addAcc (nextAcc s.nextId n r c)).updRun n r.seq fun x =>
        { x with issued := x.issued + r.nAcc / recN r.rec1 }).issuedNow n r.seq)).accs, ∃ p l, x = { nextAcc s.nextId n r c with preload := p, preloaded := l }) ∧
      ∃ f, (State.readPreload (nextAcc s.nextId n r c) a b rec first
        (((s.chosen.addAcc (nextAcc s.nextId n r c)).updRun n r.seq fun x =>
          { x with issued := x.issued + r.nAcc / recN r.rec1 }).issuedNow n r.seq)).run? n r.seq =
        some { r with issued := r.issued + r.nAcc / recN r.rec1, flags := f } := fun a b rec first => by
    have h := State.readPreload_after (nextAcc s.nextId n r c) a b rec first hacc n r.seq
    exact ⟨h.2, f, h.1.trans hf⟩
  unfold State.reduceOn
  rw [hc]
  dsimp only
  split
  · exact hpre ..
  · exact hpre ..
  · exact ⟨⟨_, hacc, none, true, rfl⟩, f, hf⟩

theorem exec_reduce {t : Time} {n : Nat} {r : Run} {s : State} (hw : s.working = true) (h : s.workRun n 0x10 (s.addendsLeft n) = some r)
    (hs : r.started = true) (hr : s.run? n r.seq = some r) (hport : s.portOpen r.desc = true) :
    exec (.reduce t n) s = .next ((s.timed t).reduceGo n r).settle :=
  congrArg (fun u : State => Host.Outcome.next u.settle)
    (State.goOn_started (s := s.timed t) (go := State.reduceGo n) hw h hs (by decide) hr hport)

theorem State.reduceGo_next {s : State} {n : Nat} {r : Run} {a : AccTile} 
    (ha : (s.accs.find? fun a => a.stream == n && a.seq == r.seq && !a.failed && decide (a.held.length < a.want)) = some a) :
    s.reduceGo n r = s.reduceNext a r := by
  unfold State.reduceGo
  rw [ha]

theorem State.reduceGo_start {s : State} {n : Nat} {r : Run}
    (ha : (s.accs.find? fun a => a.stream == n && a.seq == r.seq && !a.failed && decide (a.held.length < a.want)) = none)
    (hleft : r.issued < r.total) : s.reduceGo n r = s.reduceStart n r := by
  unfold State.reduceGo
  rw [ha]
  exact if_pos hleft

/-- Settles O27. -/
theorem reduceGoesOn : Obligations.ReduceGoesOn := by
  unfold Obligations.ReduceGoesOn
  intro t n r s hw h hs hr hport
  have hexec := exec_reduce (t := t) hw h hs hr hport
  refine ⟨fun hnone hleft => ⟨fun c hopen hc => ?_, fun hno => ?_⟩, fun a x hid ha hx => ?_⟩
  · obtain ⟨ar, ct, htaken⟩ := State.unitTaken_after resReduce n r.seq false (s.timed t)
    have hstart : (s.timed t).reduceStart n r = ({ s.timed t with arbs := ar, counters := ct } : State).reduceOn n r := by
      unfold State.reduceStart
      rw [if_pos ⟨hopen, by rw [show (s.timed t).reduceCore r = some c from hc]; rfl⟩, htaken]
    obtain ⟨⟨a, ha, p, l, hae⟩, f, hy⟩ := State.reduceOn_after (s := { s.timed t with arbs := ar, counters := ct }) hr hc
    exact settles_of_eq hexec ((State.reduceGo_start (s := s.timed t) hnone hleft).trans hstart)
      ⟨⟨a, ha, by rw [hae]; exact ⟨rfl, rfl, rfl, rfl, rfl, rfl⟩⟩, _, hy, rfl⟩
  · have hwait : (s.timed t).reduceStart n r = (s.timed t).unitWait resReduce n 0x10 := by
      unfold State.reduceStart
      refine if_neg fun hc => ?_
      obtain hno | hno := hno
      · exact Bool.false_ne_true (hno.symm.trans hc.1)
      · have := hc.2
        rw [show (s.timed t).reduceCore r = none from hno] at this
        cases this
    exact settles_of_eq hexec ((State.reduceGo_start (s := s.timed t) hnone hleft).trans hwait) ⟨State.mem_unitWait .., State.unitWait_accs ..⟩
  · have hb := acc?_updA (s := s.timed t) (f := fun y => { y with held := y.held ++ [Addend.new a.held.length (recType x.2.1) (a.nacc / recN x.2.1)] })
      hid rfl
    have hnext : (s.timed t).reduceNext a r = ((s.timed t).updA a.id fun y => { y with
        held := y.held ++ [Addend.new a.held.length (recType x.2.1) (a.nacc / recN x.2.1)] }).readParts a
          (recN r.rec1) (Use.addend a.id a.held.length) x.1 x.2.1 x.2.2 := by
      unfold State.reduceNext
      dsimp only
      rw [hx]
    have hread := readsJoin_readParts a (recN r.rec1) (Use.addend a.id a.held.length) x.1 x.2.1 x.2.2 ((s.timed t).updA a.id fun y => { y with
        held := y.held ++ [Addend.new a.held.length (recType x.2.1) (a.nacc / recN x.2.1)] })
    have hmem := List.mem_of_find?_eq_some hb
    rw [← hread.accs] at hmem
    exact settles_of_eq hexec ((State.reduceGo_next (s := s.timed t) ha).trans hnext) ⟨_, hmem, rfl, by simp⟩

/-! ### Collectives -/

theorem State.discardStop_none {s : State} {n : Nat} (h : (s.stream? n).bind Stream.stop = none) : s.discardStop n = s := by
  unfold State.discardStop
  split
  · rfl
  · next x hx =>
    rw [hx] at h
    exact if_pos (by simpa using h)

theorem State.startRun_coll {s : State} {n : Nat} {r : Run} (hs : r.started = true) (hk : r.kind = 0x20 ∨ r.kind = 0x21)
    (h : (s.stream? n).bind Stream.stop = none) : s.startRun n r = s := by
  unfold State.startRun
  rw [if_pos hs, if_pos hk, State.discardStop_none h]

theorem exec_collectiveSend {t : Time} {n : Nat} {r : Run} {s : State} (hw : s.working = true) (hf : s.frontRun n (· == 0x20) = some r)
    (hs : r.started = true) (h : (s.stream? n).bind Stream.stop = none) :
    exec (.collectiveSend t n) s = .next ((s.timed t).sendGo n).settle := by
  have hk : r.kind = 0x20 := by simpa using (State.frontRun_spec hf).1
  refine congrArg (fun u : State => Host.Outcome.next u.settle) (?_ : (s.timed t).sendCmd n = _)
  unfold State.sendCmd
  simp only [show (s.timed t).working = true from hw, show (s.timed t).frontRun n (· == 0x20) = some r from hf, Bool.not_true,
    Bool.false_eq_true, if_false, State.startRun_coll (s := s.timed t) hs (.inl hk) h]

theorem exec_collectiveRecv {t : Time} {n : Nat} {r : Run} {s : State} (hw : s.working = true) (hf : s.frontRun n (· == 0x21) = some r)
    (hs : r.started = true) (h : (s.stream? n).bind Stream.stop = none) :
    exec (.collectiveRecv t n) s = .next ((s.timed t).recvGo n).settle := by
  have hk : r.kind = 0x21 := by simpa using (State.frontRun_spec hf).1
  refine congrArg (fun u : State => Host.Outcome.next u.settle) (?_ : (s.timed t).recvCmd n = _)
  unfold State.recvCmd
  simp only [show (s.timed t).working = true from hw, show (s.timed t).frontRun n (· == 0x21) = some r from hf, Bool.not_true,
    Bool.false_eq_true, if_false, State.startRun_coll (s := s.timed t) hs (.inr hk) h]

theorem State.issuedNow_colls (n : Nat) (q : Word) (s : State) : (s.issuedNow n q).colls = s.colls := by
  unfold State.issuedNow
  split
  · next x _ => cases x.catchup <;> rfl
  · rfl

/-- The reads of the next chunk of a lone SEND. -/
def State.chunkReads (n : Nat) (r : Run) (k : Nat) (s : State) : State :=
  forAll (List.range (chunkStored r.rec1 k)) (fun i s =>
    s.startRead n r.seq r.issued (.send k i) (dTensor r.desc) r.rec1 (16 * perLogical r.rec1 * k + i)) s

theorem State.sendGo_begins {s : State} {n : Nat} {r : Run} {c : Coll} (hf : s.frontRun n (· == 0x20) = some r) (hc : s.coll? n r.seq = some c)
    (hstop : (s.stream? n).bind Stream.stop = none) (h1 : c.paired = none) (h2 : r.flags.parked = false) (h3 : c.staged < 8)
    (h4 : r.issued < r.total) :
    s.sendGo n = ((s.beginChunk n r.seq (dFirst r.desc + r.issued)).issuedNow n r.seq).chunkReads n r (dFirst r.desc + r.issued) := by
  unfold State.sendGo
  simp only [hf, hc, h1, h2, Nat.not_le.mpr h3, Nat.not_le.mpr h4, Option.isSome_none, Bool.false_eq_true, or_self, if_false,
    State.discardStop_none hstop]
  rfl

/-- The next logical tile of a RECV has been taken. -/
theorem State.recvNext_after {s : State} {n : Nat} {r : Run} (stored : Nat) (hr : s.run? n r.seq = some r) :
    (s.recvNext n r stored).wjobs = s.wjobs ∧ (s.recvNext n r stored).accs = s.accs ∧
      ∃ f, (s.recvNext n r stored).run? n r.seq = some { r with sub := r.sub + 1, issued := r.issued + stored, flags := f } := by
  refine ⟨?_, State.issuedNow_accs .., State.run?_issuedNow (run?_updRun (f := fun x => { x with sub := x.sub + 1, issued := x.issued + stored }) hr rfl rfl)⟩
  unfold State.recvNext State.issuedNow
  split
  · next x _ => cases x.catchup <;> rfl
  · rfl

section
variable {s : State} {n : Nat} {r : Run} {c : Coll} {k : RecvChunk} (hf : s.frontRun n (· == 0x21) = some r) (hc : s.coll? n r.seq = some c)
  (hstop : (s.stream? n).bind Stream.stop = none) (hk : (c.recv.find? fun k => k.chunk == dFirst r.desc + r.sub / 16) = some k)
  (hfail : k.failed = false) (hplace : s.inPlace (.received n k.chunk) = true)
include hf hc hstop hk hfail hplace

/-- A tile of a narrow, unspoilt chunk of a RECV without ACCUMULATE is committed as it came. -/
theorem State.recvGo_copies (h1 : dAccum r.desc = false) (h2 : k.wide = false) (h3 : k.spoilt = false) :
    ∃ x stored, s.recvGo n = (s.commitWire n r (16 * (dFirst r.desc + r.sub / 16) + r.sub % 16) x).recvNext n r stored := by
  have hchunk : k.chunk = dFirst r.desc + r.sub / 16 := by simpa using List.find?_some hk
  rw [hchunk] at hplace
  unfold State.recvGo
  simp only [hf, hc, hk, hfail, hplace, h1, h2, h3, Bool.not_true, Bool.not_false, Bool.and_self, Bool.false_eq_true, if_false, if_true,
    State.discardStop_none hstop]
  exact ⟨_, _, rfl⟩

omit hstop in
/-- Another tile is added. -/
theorem State.recvGo_sums (h : dAccum r.desc = true ∨ k.wide = true ∨ k.spoilt = true) :
    ∃ stored, s.recvGo n = s.recvSum n r k (r.sub % 16) stored := by
  have hchunk : k.chunk = dFirst r.desc + r.sub / 16 := by simpa using List.find?_some hk
  rw [hchunk] at hplace
  have hno : (!dAccum r.desc && !k.wide && !k.spoilt) = false := by
    obtain h | h | h := h <;> simp [h]
  unfold State.recvGo
  simp only [hf, hc, hk, hfail, hplace, hno, Bool.not_true, Bool.false_eq_true, if_false]
  exact ⟨_, rfl⟩

end

/-- A tile of a received chunk becomes an accumulator tile on its core; the runs stand. -/
theorem State.sumWire_after (n : Nat) (r : Run) (k : RecvChunk) (i : Nat) (core : Fin 16) (s : State) :
    (∃ a ∈ (s.sumWire n r k i core).accs, a.stream = n ∧ a.seq = r.seq ∧ a.unit = r.issued ∧ a.core = core ∧ a.chunk = some (k.chunk, i)) ∧
      ∀ m q, (s.sumWire n r k i core).run? m q = s.run? m q := by
  have hlast : ∀ a : AccTile, a ∈ (s.addAcc a).accs := fun a => List.mem_append_right _ (List.mem_singleton.mpr rfl)
  unfold State.sumWire
  dsimp only
  split
  · exact ⟨⟨_, hlast _, rfl, rfl, rfl, rfl, rfl⟩, fun _ _ => rfl⟩
  · have hread := fun (v : State) (a : AccTile) (m first : Nat) => readsJoin_forAll (fun d t => readsJoin_startRead n r.seq r.issued (.preload a.id d)
      (dTensor r.desc) r.rec1 (first + d) t) (List.range m) v
    exact ⟨⟨_, (hread _ _ _ _).accs.symm ▸ hlast _, rfl, rfl, rfl, rfl, rfl⟩, fun m q => (hread _ _ _ _).run? m q⟩

/-- Settles O29. -/
theorem collectivesGoOn : Obligations.CollectivesGoOn := by
  unfold Obligations.CollectivesGoOn
  intro t n r c s hw hr hc hs hstop
  refine ⟨fun hf h1 h2 h3 h4 => ?_, fun k hf hk hfail hplace => ⟨fun ha hwide hspoilt => ?_, fun core hsum hopen hcore => ?_⟩⟩
  · refine settles_of_eq (exec_collectiveSend hw hf hs hstop) (State.sendGo_begins (s := s.timed t) hf hc hstop h1 h2 h3 h4) ?_
    have hread := readsJoin_forAll (fun i v => readsJoin_startRead n r.seq r.issued (.send (dFirst r.desc + r.issued) i) (dTensor r.desc) r.rec1
      (16 * perLogical r.rec1 * (dFirst r.desc + r.issued) + i) v) (List.range (chunkStored r.rec1 (dFirst r.desc + r.issued)))
      (((s.timed t).beginChunk n r.seq (dFirst r.desc + r.issued)).issuedNow n r.seq)
    refine ⟨⟨{ c with send := c.send ++ [SendChunk.new (dFirst r.desc + r.issued)] }, ?_, rfl⟩, fun i hi => ?_, ?_⟩
    · have h : ((s.timed t).updColl n r.seq fun x => { x with send := x.send ++ [SendChunk.new (dFirst r.desc + r.issued)] }).coll? n r.seq =
          some { c with send := c.send ++ [SendChunk.new (dFirst r.desc + r.issued)] } := coll?_updColl (s := s.timed t)
            (f := fun x => { x with send := x.send ++ [SendChunk.new (dFirst r.desc + r.issued)] }) hc rfl rfl
      rw [← h]
      unfold State.coll?
      rw [show State.colls (State.chunkReads n r _ _) = _ from hread.colls, State.issuedNow_colls]
      rfl
    · obtain ⟨j, hj, hwhat⟩ := hread.mem (List.mem_map.mpr ⟨i, List.mem_range.mpr hi, rfl⟩)
      simp only [RJob.what, Prod.mk.injEq] at hwhat
      obtain ⟨h1, h2, -, h4, -, -, h7⟩ := hwhat
      exact ⟨j, hj, h1, h2, h4, h7⟩
    · obtain ⟨f, hrun⟩ := State.run?_issuedNow (s := (s.timed t).beginChunk n r.seq (dFirst r.desc + r.issued))
        (run?_updRun (s := (s.timed t).updColl n r.seq _) (f := fun r => { r with issued := r.issued + 1 }) hr rfl rfl)
      exact ⟨_, (hread.run? n r.seq).trans hrun, rfl⟩
  · obtain ⟨x, stored, he⟩ := State.recvGo_copies (s := s.timed t) hf hc hstop hk hfail hplace ha hwide hspoilt
    obtain ⟨h1, -, f, hy⟩ := State.recvNext_after (s := (s.timed t).commitWire n r (16 * (dFirst r.desc + r.sub / 16) + r.sub % 16) x) stored hr
    refine settles_of_eq (exec_collectiveRecv hw hf hs hstop) he ⟨?_, _, hy, rfl⟩
    rw [h1]
    exact ⟨_, List.mem_append_right _ (List.mem_singleton.mpr rfl), rfl, rfl, rfl, rfl, rfl⟩
  · obtain ⟨stored, he⟩ := State.recvGo_sums (s := s.timed t) hf hc hk hfail hplace hsum
    obtain ⟨ar, ct, htaken⟩ := State.unitTaken_after resReduce n r.seq false (s.timed t)
    have hgo : (s.timed t).recvSum n r k (r.sub % 16) stored =
        ((({ s.timed t with arbs := ar, counters := ct } : State).chosen.sumWire n r k (r.sub % 16) core).recvNext n r stored) := by
      unfold State.recvSum
      rw [if_pos (show (s.timed t).unitOpen resReduce n = true from hopen), show (s.timed t).recvCore r k = some core from hcore]
      simp only [State.discardStop_none (s := s.timed t) hstop, htaken]
    obtain ⟨hacc, hrun⟩ := State.sumWire_after n r k (r.sub % 16) core ({ s.timed t with arbs := ar, counters := ct } : State).chosen
    obtain ⟨-, h2, f, hy⟩ := State.recvNext_after stored ((hrun n r.seq).trans hr)
    refine settles_of_eq (exec_collectiveRecv hw hf hs hstop) (he.trans hgo) ⟨?_, _, hy, rfl⟩
    rw [h2]
    exact hacc

end Sys2Proof.Machine
end

section
/-! SUPPORT. MERGE: the next group, and a step of the walker (05_streams_and_order Table 5-17; 06_expansion R234 to R241). -/

namespace Sys2Proof.Machine

/-! ### The next group -/

theorem exec_merge {t : Time} {n : Nat} {r : Run} {s : State} (hw : s.working = true) (h : s.workRun n 0x12 (s.blocksLeft n) = some r)
    (hs : r.started = true) (hr : s.run? n r.seq = some r) (hport : s.portOpen r.desc = true) :
    exec (.merge t n) s = .next ((s.timed t).mergeGo n r).settle :=
  congrArg (fun u : State => Host.Outcome.next u.settle)
    (State.goOn_started (s := s.timed t) (go := State.mergeGo n) hw h hs (by decide) hr hport)

/-- The group that a MERGE forms next. -/
def nextGroup (id n : Nat) (r : Run) (x : Stream) (c : Fin 16) : MGroup :=
  { id := id, stream := n, seq := r.seq, num := r.issued, row := (r.nextGroup x).1, first := (r.nextGroup x).2.1, mg := (r.nextGroup x).2.2,
    core := c, tiles := [], started := 0, paths := 0, walked := 0, left := [], dense := [], entries := [],
    half := runsTwo (x.rowCodes r.rec1 (r.nextGroup x).1), slab := 0, matched := 0, failed := false, ended := false, avoid := none, away := false }

/-- A group without what it has begun. -/
def MGroup.idle (g : MGroup) : MGroup := { g with started := 0, paths := 0, dense := [] }

theorem readsJoin_readBlock (g : MGroup) (r : Run) (kb : Nat) (s : State) : ∃ l, ReadsJoin l s (s.readBlock g r kb) :=
  ⟨_, (readsJoin_startRead ..).trans (readsJoin_startRead ..)⟩

/-- A K block that starts leaves the runs, and of the groups what is not about blocks. -/
theorem State.startBlock_after (g : MGroup) (r : Run) (x : Stream) (kb : Nat) (s : State) :
    (s.startBlock g r x kb).groups.map MGroup.idle = s.groups.map MGroup.idle ∧ ∀ m q, (s.startBlock g r x kb).run? m q = s.run? m q := by
  have hupd : ∀ (v : State) (f : MGroup → MGroup), (∀ y, (f y).idle = y.idle) → (v.updGroup g.id f).groups.map MGroup.idle = v.groups.map MGroup.idle :=
    fun v f hf => map_updFirst_same hf v.groups
  have hpath : (s.choosePath g r x kb).groups.map MGroup.idle = s.groups.map MGroup.idle ∧ ∀ m q, (s.choosePath g r x kb).run? m q = s.run? m q := by
    unfold State.choosePath
    split
    · exact ⟨rfl, fun _ _ => rfl⟩
    · exact ⟨hupd _ _ fun _ => rfl, fun _ _ => rfl⟩
  obtain ⟨l, hread⟩ := readsJoin_readBlock g r kb ((s.choosePath g r x kb).updGroup g.id fun y => { y with started := kb + 1 })
  refine ⟨?_, fun m q => (hread.run? m q).trans (hpath.2 m q)⟩
  have hgroups : (s.startBlock g r x kb).groups = ((s.choosePath g r x kb).updGroup g.id fun y => { y with started := kb + 1 }).groups := hread.groups
  rw [hgroups]
  exact (hupd _ (fun y => { y with started := kb + 1 }) fun _ => rfl).trans hpath.1

theorem State.issuedNow_groups (n : Nat) (q : Word) (s : State) : (s.issuedNow n q).groups = s.groups := by
  unfold State.issuedNow
  split
  · next x _ => cases x.catchup <;> rfl
  · rfl

theorem State.run?_congr {s t : State} (h : t.streams = s.streams) (n : Nat) (q : Word) : t.run? n q = s.run? n q := by
  simp only [State.run?, State.stream?, h]

/-- A group and its unit at its delivery port. -/
def State.withGroup (g : MGroup) (p : Fin 8) (s : State) : State :=
  ({ s.chosen.numbered with groups := s.groups ++ [g] } : State).addUnit p (groupUnit (s.nextId + 1) g false)

/-- A run whose next group has been formed. -/
def Run.grouped (r : Run) (x : Stream) (y : Run) : Run :=
  { y with
    issued := y.issued + 1, cursor := r.nextGroup x
    total := if (({ y with issued := y.issued + 1, cursor := r.nextGroup x } : Run).groupsLeft x) then y.total else y.issued + 1 }

theorem State.startGroup_eq {s : State} {n : Nat} {r : Run} {x : Stream} {c : Fin 16} (hc : s.groupCore r x = some c) :
    s.startGroup n r x = (((s.withGroup (nextGroup s.nextId n r x c) (dportOf (dMergePort r.desc))).updRun n r.seq (r.grouped x)).issuedNow n
      r.seq).startBlock (nextGroup s.nextId n r x c) r x 0 := by
  unfold State.startGroup
  rw [hc]
  rfl

/-- The next group of rows is formed on a core. -/
theorem State.startGroup_after {s : State} {n : Nat} {r : Run} {x : Stream} {c : Fin 16} (hr : s.run? n r.seq = some r)
    (hc : s.groupCore r x = some c) :
    (∃ g ∈ (s.startGroup n r x).groups, g.idle = (nextGroup s.nextId n r x c).idle) ∧
      ∃ y, (s.startGroup n r x).run? n r.seq = some y ∧ y.issued = r.issued + 1 := by
  generalize hg : nextGroup s.nextId n r x c = g
  have hstreams : (s.withGroup g (dportOf (dMergePort r.desc))).streams = s.streams := by
    simp [State.withGroup, State.addUnit, State.updDport]
  have hw : (s.withGroup g (dportOf (dMergePort r.desc))).run? n r.seq = some r := (State.run?_congr hstreams n r.seq).trans hr
  have hv : ((s.withGroup g (dportOf (dMergePort r.desc))).updRun n r.seq (r.grouped x)).run? n r.seq = some (r.grouped x r) :=
    run?_updRun (f := r.grouped x) hw rfl rfl
  obtain ⟨f, hf⟩ := State.run?_issuedNow hv
  obtain ⟨hblock, hruns⟩ := State.startBlock_after g r x 0
    (((s.withGroup g (dportOf (dMergePort r.desc))).updRun n r.seq (r.grouped x)).issuedNow n r.seq)
  rw [State.startGroup_eq hc, hg]
  refine ⟨List.mem_map.mp ?_, _, (hruns n r.seq).trans hf, rfl⟩
  rw [hblock, State.issuedNow_groups]
  have hgroups : (s.withGroup g (dportOf (dMergePort r.desc))).groups = s.groups ++ [g] := by
    simp [State.withGroup, State.addUnit, State.updDport]
  exact List.mem_map.mpr ⟨g, hgroups ▸ List.mem_append_right _ (List.mem_singleton.mpr rfl), rfl⟩

theorem State.mergeGo_starts {s : State} {n : Nat} {r : Run} {x : Stream} {c : Fin 16} (hx : s.stream? n = some x) (hroom : s.blockRoom n r.seq = true)
    (hno : s.blockGroup n r = none) (hleft : r.groupsLeft x = true) (hport : s.groupPort r = true) (hopen : s.unitOpen resMerge n = true)
    (hc : s.groupCore r x = some c) : s.mergeGo n r = (s.unitTaken resMerge n r.seq false).startGroup n r x := by
  unfold State.mergeGo State.groupStart
  simp only [hx, hroom, hno, hleft, hport, hopen, hc, Bool.not_true, Bool.false_eq_true, or_self, if_false, if_true, Option.isSome_some, and_self]

/-! ### The walker -/

theorem exec_mergeWalk {t : Time} {id : Nat} {g : MGroup} {s : State} (h : s.clksLost [.eclk] = false)
    (hg : (s.groups.find? fun x => x.id == id) = some g) : exec (.mergeWalk t id []) s = .next ((s.timed t).mergeWalk id).settle := by
  refine congrArg (fun u : State => Host.Outcome.next u.settle) ((State.clocked_of_running (s := s.timed t) h).trans ?_)
  unfold State.walkCmd
  rw [show (s.timed t).groups.find? (fun g => g.id == id) = some g from hg]
  rfl

/-- What the walker has done in a group. -/
def MGroup.walk (g : MGroup) : Nat × Bool × Fin 16 × Nat := (g.walked, g.failed, g.core, g.matched)

theorem State.group_updGroup {s : State} {id : Nat} {g : MGroup} {f : MGroup → MGroup} (hg : (s.groups.find? fun x => x.id == id) = some g)
    (hf : (f g).id = g.id) : ((s.updGroup id f).groups.find? fun x => x.id == id) = some (f g) :=
  find?_updFirst hg (by rw [hf]; exact List.find?_some (p := fun a : MGroup => a.id == id) hg)

/-- Slabs that are formed leave what the walker has done. -/
theorem formSlabs_walk (r : Run) (port : Fin 8) (fuel id : Nat) {s : State} {g : MGroup} (hg : (s.groups.find? fun x => x.id == id) = some g) :
    ∃ h, ((formSlabs r port fuel id s).groups.find? fun x => x.id == id) = some h ∧ h.walk = g.walk := by
  induction fuel generalizing s g with
  | zero => exact ⟨g, hg, rfl⟩
  | succ fuel ih =>
    unfold formSlabs
    simp only [hg]
    split
    · exact ⟨g, hg, rfl⟩
    · have hh := State.group_updGroup hg (f := fun y => { y with
        entries := y.entries.drop 32, slab := y.slab + 1
        ended := g.allWalked (mergeKt r.rec1) && decide (g.entries.length ≤ 32) }) rfl
      exact ih (g := { g with
        entries := g.entries.drop 32, slab := g.slab + 1
        ended := g.allWalked (mergeKt r.rec1) && decide (g.entries.length ≤ 32) }) hh

/-- With no read of the block on an engine, nothing streams. -/
theorem State.streamBlock_idle {s : State} {g : MGroup} (h : ∀ j ∈ s.rjobs, g.reads false g.walked j = false ∧ g.reads true g.walked j = false) :
    s.streamBlock g = s := by
  have hno (w : Bool) : (s.rjobs.find? fun j => g.reads w g.walked j && j.placed) = none :=
    List.find?_eq_none.mpr fun j hj => by cases w <;> simp [h j hj]
  unfold State.streamBlock
  dsimp only
  split
  · rfl
  · simp only [forAll_cons, forAll_nil, hno]

/-- The walker takes the mask of the next K block. -/
theorem State.mergeWalk_block {s : State} {id : Nat} {g : MGroup} {r : Run} {a w : Dec × List Byte}
    (hg : (s.groups.find? fun x => x.id == id) = some g) (hr : s.run? g.stream g.seq = some r) (hcore : s.coreWorks g.core = true)
    (haway : g.away = false) (hleft : g.left = []) (hkt : g.walked < mergeKt r.rec1) (ha : g.tile false g.walked = some a)
    (hw : g.tile true g.walked = some w) (hreads : ∀ j ∈ s.rjobs, g.reads false g.walked j = false ∧ g.reads true g.walked j = false) :
    ∃ h, ((s.mergeWalk id).groups.find? fun x => x.id == id) = some h ∧ h.walked = g.walked + 1 ∧
      h.failed = (g.failed || a.1.isErr || w.1.isErr) ∧ h.core = g.core ∧
      (a.1.isErr = false → w.1.isErr = false → h.matched = g.matched + min (min 32 (g.maskOf (recType r.rec1) a w).1.length) g.laneRoom) := by
  have hstream : (if s.coreWorks g.core ∧ !g.away ∧ g.left = [] then s.streamBlock g else s) = s := by
    rw [State.streamBlock_idle hreads, ite_self]
  have hslab : ∀ (v : State) (k : MGroup), (v.groups.find? fun x => x.id == id) = some g → k.id = g.id → ∀ f,
      ∃ h, ((formSlabs r (dportOf (dMergePort r.desc)) 9 id ((v.updGroup id fun _ => k).bumpN .mergeMatched f)).groups.find? fun x => x.id == id) =
        some h ∧ h.walk = k.walk := fun v k hv hk f =>
    formSlabs_walk r _ 9 id (s := (v.updGroup id fun _ => k).bumpN .mergeMatched f) (State.group_updGroup (f := fun _ => k) hv hk)
  unfold State.mergeWalk
  simp only [hg]
  rw [hstream]
  simp only [hg, hr, hcore, haway, hleft, Nat.not_le.mpr hkt, ha, hw, Bool.not_true, Bool.false_eq_true, or_self, if_false, ne_eq, not_true]
  have hst (b c : Bool) : ((State.bump .mergeWalked (whenB b (State.bump .predMiss) (whenB c State.chosen s))).groups.find? fun x => x.id == id) =
      some g := by
    cases b <;> cases c <;> exact hg
  cases hbad : (a.1.isErr || w.1.isErr)
  · have hok := Bool.or_eq_false_iff.mp hbad
    simp only [ha, hw, Bool.false_eq_true, if_false, Option.getD_some]
    refine (hslab _ _ (hst _ _) ?_ _).imp fun h hh => ⟨hh.1, ?_⟩
    · rfl
    have hwalk := hh.2
    simp only [MGroup.walk, MGroup.move, Prod.mk.injEq] at hwalk
    obtain ⟨h1, h2, h3, h4⟩ := hwalk
    exact ⟨h1, by rw [h2, hok.1, hok.2]; simp, h3, fun _ _ => h4⟩
  · simp only [if_true]
    refine (hslab _ _ (hst _ _) ?_ _).imp fun h hh => ⟨hh.1, ?_⟩
    · rfl
    have hwalk := hh.2
    simp only [MGroup.walk, MGroup.move, Prod.mk.injEq] at hwalk
    obtain ⟨h1, h2, h3, -⟩ := hwalk
    refine ⟨h1, by rw [h2, Bool.or_assoc, hbad], h3, fun h5 h6 => ?_⟩
    rw [h5, h6] at hbad
    cases hbad

/-- Settles O28. -/
theorem mergeGroups : Obligations.MergeGroups := by
  unfold Obligations.MergeGroups
  refine ⟨fun t n r x c s hw h hs hr hx hport hroom hno hleft hgp hopen hc => ?_,
    fun t id g r a w s hg hr hcore haway hleft hkt ha hw hclk hreads => ?_⟩
  · obtain ⟨ar, ct, htaken⟩ := State.unitTaken_after resMerge n r.seq false (s.timed t)
    have hgo := State.mergeGo_starts (s := s.timed t) hx hroom hno hleft hgp hopen hc
    rw [htaken] at hgo
    obtain ⟨⟨g, hg, hidle⟩, y, hy, hissued⟩ := State.startGroup_after (s := { s.timed t with arbs := ar, counters := ct }) hr hc
    refine settles_of_eq (exec_merge hw h hs hr hport) hgo ⟨⟨g, hg, ?_⟩, y, hy, hissued⟩
    have hfield {α : Type} (f : MGroup → α) (_ : ∀ k, f k.idle = f k) := congrArg f hidle
    refine ⟨hfield MGroup.stream fun _ => rfl, hfield MGroup.seq fun _ => rfl, hfield MGroup.num fun _ => rfl, hfield MGroup.core fun _ => rfl, ?_⟩
    exact hfield (fun k => (k.row, k.first, k.mg)) fun _ => rfl
  · exact settles_of_eq (exec_mergeWalk hclk hg) rfl (State.mergeWalk_block (s := s.timed t) hg hr hcore haway hleft hkt ha hw hreads)

end Sys2Proof.Machine
end

section
/-! SUPPORT. Answers of memory to reads and payload writes (06_expansion R211 to R213; 07_compression Table 7-3; 05_streams_and_order R191). -/

namespace Sys2Proof.Machine

/-! ### Streams that keep their descriptors -/

/-- The number of a stream and what it has fetched. -/
def Stream.program (x : Stream) : Nat × List (Bool × BitVec 512) := (x.num, x.runs.map fun r => (r.inSeq, r.desc))

/-- From s to t only what `SameButErr` is about and the streams have changed, and those keep the descriptors that they have fetched. -/
def ProgramsStay (s t : State) : Prop :=
  SameButErr { s with streams := t.streams } t ∧ t.streams.map Stream.program = s.streams.map Stream.program

theorem SameButErr.programsStay {s t : State} (h : SameButErr s t) : ProgramsStay s t := by
  have hs := h.streams
  change t.streams = s.streams at hs
  refine ⟨?_, by rw [hs]⟩
  rw [hs]
  exact h

theorem SameWork.programsStay {s t : State} (h : SameWork s t) : ProgramsStay s t := h.sameButErr.programsStay

theorem ProgramsStay.refl (s : State) : ProgramsStay s s := (SameWork.refl s).programsStay

theorem ProgramsStay.trans {s t u : State} (h : ProgramsStay s t) (k : ProgramsStay t u) : ProgramsStay s u := by
  refine ⟨SameButErr.trans (t := { t with streams := u.streams }) ?_ k.1, k.2.trans h.2⟩
  have h' : ({ t.offMemory with streams := u.streams } : State) =
      { ({ ({ s with streams := t.streams } : State) with err := t.err } : State).offMemory with streams := u.streams } :=
    congrArg (fun v : State => ({ v with streams := u.streams } : State)) h.1
  exact h'

section
variable {s t : State} (h : ProgramsStay s t)
include h

theorem ProgramsStay.rjobs : t.rjobs = s.rjobs := h.1.rjobs
theorem ProgramsStay.wjobs : t.wjobs = s.wjobs := h.1.wjobs
theorem ProgramsStay.accs : t.accs = s.accs := h.1.accs
theorem ProgramsStay.colls : t.colls = s.colls := h.1.colls
theorem ProgramsStay.dports : t.dports = s.dports := h.1.dports
theorem ProgramsStay.cores : t.cores = s.cores := h.1.cores
theorem ProgramsStay.chart : t.chart = s.chart := h.1.chart
theorem ProgramsStay.core (c : Fin 16) : t.core c = s.core c := h.1.core c

theorem ProgramsStay.rjob? (id : Nat) : t.rjob? id = s.rjob? id := by rw [State.rjob?, h.rjobs]; rfl

theorem ProgramsStay.wjob? (id : Nat) : t.wjob? id = s.wjob? id := by rw [State.wjob?, h.wjobs]; rfl

/-- A run is still there, with its descriptor. -/
theorem ProgramsStay.run? {n : Nat} {q : Word} {r : Run} (hr : s.run? n q = some r) : ∃ r', t.run? n q = some r' ∧ r'.desc = r.desc := by
  obtain ⟨x, hx, hr⟩ := Option.bind_eq_some_iff.mp hr
  have hfind (l : List Stream) : (l.map Stream.program).find? (fun x => x.1 == n) = (l.find? fun x => x.num == n).map Stream.program := by
    rw [List.find?_map]
    rfl
  have hxy := (hfind t.streams).symm.trans ((congrArg _ h.2).trans (hfind s.streams))
  rw [show s.streams.find? (fun x => x.num == n) = some x from hx] at hxy
  obtain ⟨y, hy, hyx⟩ := Option.map_eq_some_iff.mp hxy
  have hruns (l : List Run) : (l.map fun r => (r.inSeq, r.desc)).find? (fun p => p.1 && BitVec.extractLsb' 64 32 p.2 == q) =
      (l.find? (Run.named q)).map fun r => (r.inSeq, r.desc) := by
    rw [List.find?_map]
    rfl
  have hrr := (hruns y.runs).symm.trans ((congrArg _ (congrArg Prod.snd hyx)).trans (hruns x.runs))
  rw [hr] at hrr
  obtain ⟨r', hr', hrd⟩ := Option.map_eq_some_iff.mp hrr
  exact ⟨r', Option.bind_eq_some_iff.mpr ⟨y, hy, hr'⟩, congrArg Prod.snd hrd⟩

end

theorem programsStay_updStream (n : Nat) {f : Stream → Stream} (hf : ∀ x, (f x).program = x.program) (s : State) :
    ProgramsStay s (s.updStream n f) := ⟨SameButErr.refl _, map_updFirst_same hf s.streams⟩

theorem programsStay_updRun (n : Nat) (q : Word) {f : Run → Run} (hf : ∀ r, (f r).inSeq = r.inSeq ∧ (f r).desc = r.desc) (s : State) :
    ProgramsStay s (s.updRun n q f) :=
  programsStay_updStream n (f := fun x => { x with runs := updFirst (Run.named q) f x.runs }) (fun x => by
    refine Prod.ext rfl ?_
    exact map_updFirst_same (g := fun r : Run => (r.inSeq, r.desc)) (fun r => Prod.ext (hf r).1 (hf r).2) x.runs) s

theorem programsStay_flagRun (n : Nat) (q : Word) (f : RunFlags → RunFlags) (s : State) : ProgramsStay s (s.flagRun n q f) :=
  programsStay_updRun n q (f := fun r => { r with flags := f r.flags }) (fun _ => ⟨rfl, rfl⟩) s

theorem programsStay_recordDensity (n : Nat) (r : BitVec 1024) (tile code : Nat) (s : State) :
    ProgramsStay s (s.recordDensity n r tile code) := by
  have hhist : ∀ (v : State) (g : Stream → List History), ProgramsStay v (v.updStream n fun y => { y with hist := g y }) :=
    fun v g => programsStay_updStream n (f := fun y => { y with hist := g y }) (fun _ => rfl) v
  unfold State.recordDensity
  dsimp only
  split
  · exact ProgramsStay.refl s
  · split
    · exact ProgramsStay.refl s
    · split
      · exact (hhist s _).trans (sameWork_spillStore ..).programsStay
      · next x _ _ _ =>
        have hspace := sameWork_spillSpace (.history n (recLayerKey r) (tile / 1024)) 64 s
        split
        · next v hv => rw [hv] at hspace; exact hspace.programsStay.trans (hhist v _)
        · next v hv =>
          rw [hv] at hspace
          exact hspace.programsStay.trans ((hhist v _).trans (sameWork_spillStore ..).programsStay)

theorem programsStay_zeroDensity (j : RJob) (d : Dec) (s : State) : ProgramsStay s (s.zeroDensity j d) := by
  unfold State.zeroDensity
  split
  · exact programsStay_recordDensity ..
  · exact programsStay_recordDensity ..
  · exact programsStay_recordDensity ..
  · exact ProgramsStay.refl s

/-! ### A tile for delivery -/

theorem State.addUnit_port (p : Fin 8) (u : DUnit) (s : State) : (s.addUnit p u).dports[p].units = s.dports[p].units ++ [u] := by
  simp [State.addUnit, State.updDport, State.numbered]

/-- A unit of a read job's tile, decoded, with or without POISON. -/
def DUnit.tells (j : RJob) (poison : Bool) (v : DUnit) : Prop :=
  v.stream = j.stream ∧ v.seq = j.seq ∧ v.unit = j.unit ∧ v.decoded = true ∧ v.poison = poison

theorem State.addUnit_tells {p : Fin 8} {u : DUnit} {j : RJob} {b : Bool} (h : u.tells j b) (s : State) :
    ∃ v ∈ (s.addUnit p u).dports[p].units, v.tells j b :=
  ⟨u, by rw [State.addUnit_port]; exact List.mem_append_right _ (List.mem_singleton.mpr rfl), h⟩

/-- A tile that no unit of its port stands for yet becomes one; the cores stand. -/
theorem State.deliverRead_tells {s : State} {j : RJob} {r : Run} {d : Dec}
    (h : d = .zero ∨ ∀ v ∈ s.dports[dportOf (dDport r.desc)].units, v.job ≠ some j.id) :
    (∃ v ∈ (s.deliverRead j r d).dports[dportOf (dDport r.desc)].units, v.tells j d.isErr) ∧ (s.deliverRead j r d).cores = s.cores := by
  have hknown : d = .zero ∨ (s.dports[dportOf (dDport r.desc)].units.any fun u => u.job == some j.id && !u.again) = false :=
    h.imp_right fun h => List.any_eq_false.mpr fun v hv => by simp [h v hv]
  cases d with
  | zero => exact ⟨State.addUnit_tells (by exact ⟨rfl, rfl, rfl, rfl, rfl⟩) s, rfl⟩
  | ok img =>
    obtain hz | hknown := hknown
    · cases hz
    unfold State.deliverRead
    dsimp only
    rw [hknown]
    exact ⟨State.addUnit_tells (by exact ⟨rfl, rfl, rfl, rfl, rfl⟩) s, rfl⟩
  | err a b c =>
    obtain hz | hknown := hknown
    · cases hz
    unfold State.deliverRead
    dsimp only
    rw [hknown]
    have hdrop : ∀ (e : Bool) (v : State), (whenB e (State.dropR j.id) v).dports = v.dports ∧ (whenB e (State.dropR j.id) v).cores = v.cores :=
      fun e v => by cases e <;> exact ⟨rfl, rfl⟩
    simp only [Bool.false_eq_true, if_false, (hdrop _ _).1, (hdrop _ _).2]
    exact ⟨State.addUnit_tells (by exact ⟨rfl, rfl, rfl, rfl, rfl⟩) s, rfl⟩

/-- The outcome of a read for delivery goes to its port. -/
theorem State.readEnds_delivers {s : State} {j : RJob} {x : Run} {d : Dec} (hu : j.use = .deliver) (hx : s.run? j.stream j.seq = some x) :
    ∃ r v, r.desc = x.desc ∧ ProgramsStay s v ∧ s.readEnds j d = v.deliverRead j r d := by
  have hstay := programsStay_zeroDensity j d s
  obtain ⟨r, hr, hd⟩ := hstay.run? hx
  refine ⟨r, _, hd, hstay, ?_⟩
  unfold State.readEnds
  simp only [hr, hu]

/-! ### Answers to reads -/

theorem exec_memoryReadResponse {t : Time} {port : Fin 8} {tag : Nat} {img : Image} {r : MemReq} {s : State}
    (hr : s.req? port tag = some r) (hk : r.kind = .read) (hc : s.clksLost [memClk port, .eclk] = false) :
    exec (.memoryReadResponse t port tag img []) s = .next (((s.timed t).dropReq r).readAnswer r img false []).settle := by
  refine (if_neg (show ¬ (s.timed t).clksLost [memClk port, .eclk] = true from fun h => Bool.false_ne_true (hc.symm.trans h))).trans ?_
  simp only [show (s.timed t).req? port tag = some r from hr]
  exact if_pos hk

/-- What a read brings counts for its group and among poisoned sectors, and goes to the work that it is for. -/
theorem State.readAnswer_counts (r : MemReq) (img : Image) (dead : Bool) (f : List (Nat × Nat × Bool)) (s : State) :
    ∃ th ct, s.readAnswer r img dead f = ({ s with therms := th, counters := ct } : State).readData r img dead f := by
  have hbytes : ∃ th, s.readBytes r.addr r.sectors = { s with therms := th } := by
    unfold State.readBytes
    split
    · split
      · exact ⟨s.therms, rfl⟩
      · exact ⟨_, rfl⟩
    · exact ⟨s.therms, rfl⟩
  obtain ⟨th, hth⟩ := hbytes
  unfold State.readAnswer
  rw [hth]
  dsimp only
  cases poisonedSectors img r.addr r.sectors != 0
  · exact ⟨th, s.counters, rfl⟩
  · exact ⟨th, _, rfl⟩

/-- A presence word whose bit is 0 ends the reading of its tile. -/
theorem State.gotPresence_absent {s : State} {id word : Nat} {j : RJob} (hj : s.rjob? id = some j) (hbit : word.testBit (j.tile % 64) = false) :
    ∃ v, ProgramsStay s v ∧ s.gotPresence id word false = v.readEnds j .zero := by
  unfold State.gotPresence
  simp only [hj, Bool.false_eq_true, if_false, State.presenceIs, hbit]
  refine ⟨_, ?_, rfl⟩
  cases !j.alone
  · exact ProgramsStay.refl s
  · exact programsStay_updRun j.stream j.seq (f := fun r => { r with words := (presenceAddr j.trec j.tile, word) :: r.words.take 127 })
      (fun _ => ⟨rfl, rfl⟩) s

theorem RJob.id_of_sectors (img : Image) (base addr : Nat) (g : Nat → Option (Nat × Fin 8)) (l : List Nat) (j : RJob) :
    (l.foldl (fun j i => j.sector img base addr i (g i)) j).id = j.id := by
  induction l generalizing j with
  | nil => rfl
  | cons i l ih =>
    refine (ih _).trans ?_
    unfold RJob.sector
    dsimp only
    split
    · split <;> rfl
    · rfl

/-- Sectors of a payload that come in time, with more to come. -/
theorem State.gotPayload_more {s : State} {id base addr n m : Nat} {port : Fin 8} {img : Image} {dead : Bool} {j : RJob}
    (hj : s.rjob? id = some j) (hst : j.stage = .payload m) (hn : n < m) (hlate : s.readLate j = false) :
    ∃ k ∈ (s.gotPayload id base addr n port img dead).rjobs, k.id = id ∧ k.stage = .payload (m - n) := by
  have hid : j.id = id := by simpa using List.find?_some hj
  have hleft : m - n ≠ 0 := Nat.sub_ne_zero_of_lt hn
  unfold State.gotPayload
  simp only [hj, hst, hlate, Bool.false_eq_true, if_false, hleft, ne_eq, not_false_eq_true, if_true]
  generalize hk : ({ List.foldl _ j _ with stage := _ } : RJob) = k
  have hkid : k.id = j.id := by
    rw [← hk]
    exact RJob.id_of_sectors img base addr _ (List.range n) j
  have hfind : (s.updR id fun _ => k).rjob? id = some k := rjob?_updR (f := fun _ => k) hj hkid
  exact ⟨k, List.mem_of_find?_eq_some hfind, hkid.trans hid, by rw [← hk]⟩

/-- Settles O36. -/
theorem memoryAnswers : Obligations.MemoryAnswers := by
  unfold Obligations.MemoryAnswers
  intro t port tag img r s hreq hclk
  refine ⟨fun id j hk hp hj hpoison hbit huse x hx => ?_, fun id base j m hk hp hj hst hm hlate => ?_, fun id i w hk hp hw => ⟨?_, ?_⟩⟩
  · obtain ⟨th, ct, he⟩ := ((s.timed t).dropReq r).readAnswer_counts r img false []
    refine settles_of_eq (exec_memoryReadResponse hreq hk hclk) he ?_
    generalize hv : ({ (s.timed t).dropReq r with therms := th, counters := ct } : State) = v
    have hvj : v.rjob? id = some j := by rw [← hv]; exact hj
    have hid : j.id = id := by simpa using List.find?_some hj
    have hdata : v.readData r img false [] = v.gotPresence id (imgNat img (presenceAddr j.trec j.tile) 8) false := by
      simp only [State.readData, hp, State.presenceOf, hvj, hpoison]
    obtain ⟨z, hz, hgot⟩ := State.gotPresence_absent hvj hbit
    obtain ⟨y, hy, hyd⟩ := hz.run? (n := j.stream) (q := j.seq) (r := x) (by rw [← hv]; exact hx)
    obtain ⟨q, u, hq, -, hends⟩ := State.readEnds_delivers (d := .zero) huse hy
    rw [hdata, hgot, hends]
    refine ⟨fun k hk => ?_, ?_⟩
    · have hne := (List.mem_filter.mp hk).2
      simpa [hid] using hne
    · have htell := (State.deliverRead_tells (s := u) (j := j) (r := q) (d := .zero) (.inl rfl)).1
      simp only [hq.trans hyd] at htell
      exact htell
  · obtain ⟨th, ct, he⟩ := ((s.timed t).dropReq r).readAnswer_counts r img false []
    refine settles_of_eq (exec_memoryReadResponse hreq hk hclk) he ?_
    simp only [State.readData, hp]
    exact State.gotPayload_more (s := { (s.timed t).dropReq r with therms := th, counters := ct }) hj hst hm hlate
  · refine settles_of_eq (exec_memoryWriteResponse hreq hk hclk) (?_ : _ = ((s.timed t).dropReq r).updPart id i Part.acked) ?_
    · simp [State.writeAnswer, State.writeAcked, hp]
    · exact ⟨_, wjob?_updW (s := (s.timed t).dropReq r) (f := fun w => { w with parts := w.parts.modify i Part.acked }) hw rfl, rfl⟩
  · refine settles_of_eq (exec_memoryWriteResponse hreq hk hclk) (?_ : _ = ((s.timed t).dropReq r).issue r) ?_
    · simp [State.writeAnswer, State.writeErr, hp]
    · refine ⟨(sameWork_issue r _).wjobs, ?_⟩
      obtain ⟨z, hz, -, ha, hd, hw⟩ := State.issue_asked r ((s.timed t).dropReq r)
      refine ⟨z, ?_, ha, hd, hw⟩
      obtain ⟨h1, h2⟩ | ⟨h1, h2⟩ := hz <;> simp [h1, h2]

/-! ### A read that starts over -/

/-- A span of one sector is one request. -/
theorem State.readSpan_one_asked (addr : Nat) (why : Nat → Purpose) (s : State) :
    Asked s (s.readSpan addr 1 why) .read addr [] (why addr) :=
  (State.issue_asked (newReq (s.portFor 0) .read addr _ [] (why addr)) (s.choseN 1)).congr rfl rfl rfl rfl

/-- Settles O37. -/
theorem readRestart : Obligations.ReadRestart := by
  unfold Obligations.ReadRestart
  intro t id m j s hj hst hlate hhome hclk
  have hown : (recHomeDie j.trec == s.die) = false := by simpa using hhome
  generalize hv : (((s.timed t).dropReqs (Purpose.ofRead id)).bump .readRestart).updR id (fun x =>
    { x with stage := .entry, buf := [], bad := none, noFill := false }) = v
  have hvj : v.rjob? id = some { j with stage := .entry, buf := [], bad := none, noFill := false } := by
    rw [← hv]
    exact rjob?_updR (s := ((s.timed t).dropReqs (Purpose.ofRead id)).bump .readRestart)
      (f := fun x => { x with stage := .entry, buf := [], bad := none, noFill := false }) hj rfl
  have he : (s.timed t).restartRead id = v.readSpan (entryAddr j.trec j.tile / 64 * 64) 1 fun _ => .entry id := by
    have hl : (s.timed t).readLate j = true := decide_eq_true hlate
    unfold State.restartRead
    simp only [show (s.timed t).rjob? id = some j from hj, hst, hl, if_true]
    unfold State.wantEntry
    simp only [show (((s.timed t).dropReqs (Purpose.ofRead id)).bump .readRestart).rjob? id = some j from hj, hv,
      show (recHomeDie j.trec == (((s.timed t).dropReqs (Purpose.ofRead id)).bump .readRestart).die) = false from hown,
      Bool.false_eq_true, if_false]
    rfl
  refine settles_of_eq (congrArg (fun u : State => Host.Outcome.next u.settle) (State.clocked_of_running (s := s.timed t) hclk)) he ⟨?_, ?_⟩
  · rw [(sameWork_readSpan ..).rjob?]
    exact ⟨_, hvj, rfl, rfl, rfl⟩
  · obtain ⟨z, hz, hk, -, -, hw⟩ := State.readSpan_one_asked (entryAddr j.trec j.tile / 64 * 64) (fun _ => .entry id) v
    refine ⟨z, ?_, hk, hw⟩
    obtain ⟨h1, h2⟩ | ⟨h1, h2⟩ := hz <;> simp [h1, h2]

end Sys2Proof.Machine
end

section
/-! SUPPORT. Engines, delivery and intake ports, checkers (06_expansion R106 to R223; 07_compression R256 to R271; 11_integrity Table 11-3). -/

namespace Sys2Proof.Machine

/-! ### A tile that has been decoded -/

theorem exec_tileDecodeDone {t : Time} {c : Fin 16} {e : Fin 8} {j : RJob} {s : State} (h : s.clksLost [.eclk] = false)
    (hj : s.readOn c e = some j) : exec (.tileDecodeDone t c e []) s = .next (((s.timed t).decodedOn c 1).decodeEnds j).settle := by
  refine congrArg (fun u : State => Host.Outcome.next u.settle) ((State.clocked_of_running (s := s.timed t) h).trans ?_)
  change (match (s.timed t).readOn c e with | none => s.timed t | some j => ((s.timed t).decodedOn c 1).decodeEnds j) = _
  rw [show (s.timed t).readOn c e = some j from hj]

theorem programsStay_readFails {j : RJob} (hu : j.use = .deliver) (reason a b : Nat) (corrupt : Bool) (s : State) :
    ProgramsStay s (s.readFails j reason a b corrupt) := by
  unfold State.readFails
  rw [hu]
  exact (sameButErr_workReport ..).programsStay.trans (programsStay_flagRun ..)

/-- The records and the density of a decoded tile leave the descriptors; its outcome goes where the tile was read for. -/
theorem State.decodeEnds_after {j : RJob} (hu : j.use = .deliver) (s : State) :
    ∃ v, ProgramsStay s v ∧ s.decodeEnds j = v.readEnds j (s.decodeOf j) := by
  unfold State.decodeEnds
  dsimp only
  refine ⟨_, ?_, rfl⟩
  split
  · exact programsStay_readFails hu ..
  · split
    · exact programsStay_recordDensity ..
    · exact ProgramsStay.refl s
  · exact ProgramsStay.refl s

/-! ### A tile that has been coded -/

theorem exec_tileCodeDone {t : Time} {c : Fin 16} {e : Fin 8} {w : WJob} {s : State} (h : s.clksLost [.eclk] = false)
    (hw : s.codeOn c e = some w) : exec (.tileCodeDone t c e []) s = .next (((s.timed t).codeEnds w c []).afterCode w).settle := by
  refine congrArg (fun u : State => Host.Outcome.next u.settle) ((State.clocked_of_running (s := s.timed t) h).trans ?_)
  change (match (s.timed t).codeOn c e with | none => s.timed t | some w => ((s.timed t).codeEnds w c []).afterCode w) = _
  rw [show (s.timed t).codeOn c e = some w from hw]

theorem programsStay_unloadedRec (w : WJob) (kind id : Nat) (s : State) : ProgramsStay s (s.unloadedRec w kind id) := by
  unfold State.unloadedRec
  split
  · exact ProgramsStay.refl s
  · split
    · exact ProgramsStay.refl s
    · exact (sameButErr_workReport ..).programsStay.trans
        (programsStay_updRun _ _ (f := fun x => { x with unloaded := x.unloaded ++ [(kind, id)] }) (fun _ => ⟨rfl, rfl⟩) _)

theorem programsStay_whenB {f : State → State} (hf : ∀ s, ProgramsStay s (f s)) (b : Bool) (s : State) : ProgramsStay s (whenB b f s) := by
  cases b
  · exact ProgramsStay.refl s
  · exact hf s

theorem programsStay_codePart (w : WJob) (recAddr : Nat) (r : BitVec 1024) (tile : Nat) (img : List Byte) (quality : Nat) (s : State) :
    ProgramsStay s (s.codePart w recAddr r tile img quality).1 := by
  unfold State.codePart
  dsimp only
  split
  · exact ProgramsStay.refl s
  · exact ((programsStay_whenB (programsStay_unloadedRec w 0 _) _ s).trans (programsStay_whenB (programsStay_unloadedRec w 1 _) _ _)).trans
      (sameWork_chosen _).programsStay

/-- A fold that extends a list by one item at each step, and keeps the descriptors. -/
theorem programsStay_foldl {α β : Type} {g : State → α → State × β} (hg : ∀ s a, ProgramsStay s (g s a).1) (l : List α) (p : State × List β) :
    ProgramsStay p.1 (l.foldl (fun q a => ((g q.1 a).1, q.2 ++ [(g q.1 a).2])) p).1 ∧
      (l.foldl (fun q a => ((g q.1 a).1, q.2 ++ [(g q.1 a).2])) p).2.length = p.2.length + l.length := by
  induction l generalizing p with
  | nil => exact ⟨ProgramsStay.refl _, rfl⟩
  | cons a l ih =>
    obtain ⟨h1, h2⟩ := ih ((g p.1 a).1, p.2 ++ [(g p.1 a).2])
    refine ⟨(hg p.1 a).trans h1, h2.trans ?_⟩
    simp only [List.length_append, List.length_cons, List.length_nil]
    omega

/-- The parts of a tile: one for itself and one for each residual tile. -/
theorem State.codeParts_after (w : WJob) (r : BitVec 1024) (s : State) :
    ProgramsStay s (s.codeParts w r).1 ∧ (s.codeParts w r).2.length = w.carry.length + 1 := by
  obtain ⟨h1, h2⟩ := programsStay_foldl (g := fun v (c : Nat × Option (List Byte)) =>
    v.codePart w (recResidual w.trec) r (carryTiles (recType w.trec) * w.tile + c.1) (c.2.getD []) 0) (fun v c => programsStay_codePart ..) w.carry
    ((s.codePart w w.recAddr w.trec w.tile w.data w.quality0).1, [(s.codePart w w.recAddr w.trec w.tile w.data w.quality0).2])
  exact ⟨(programsStay_codePart w w.recAddr w.trec w.tile w.data w.quality0 s).trans h1, h2.trans (Nat.add_comm ..)⟩

theorem programsStay_noChecker (w : WJob) (s : State) : ProgramsStay s (s.noChecker w) := by
  have h : ∀ n, ProgramsStay s ((s.bump .verifySkip).updRun w.stream w.seq fun r => { r with unverified := n }) := fun n =>
    (sameWork_bumpN .verifySkip 1 s).programsStay.trans (programsStay_updRun _ _ (f := fun r => { r with unverified := n }) (fun _ => ⟨rfl, rfl⟩) _)
  unfold State.noChecker
  dsimp only
  split
  · exact (h _).trans (sameButErr_workReport ..).programsStay
  · exact h _

theorem programsStay_selectPart (w : WJob) (p : Part) (s : State) : ProgramsStay s (s.selectPart w p).1 := by
  have h : ∀ b : Bool, ProgramsStay s (if b then s.updStream w.stream fun y => (y.sampleNext (recShift p.trec)).1 else s) := fun b => by
    cases b
    · exact ProgramsStay.refl s
    · exact programsStay_updStream w.stream (f := fun y => (y.sampleNext (recShift p.trec)).1) (fun _ => rfl) s
  have h1 := h (decide (recVerify p.trec = 1))
  simp only [decide_eq_true_eq] at h1
  unfold State.selectPart
  dsimp only
  split
  · exact ProgramsStay.refl s
  · generalize (if recVerify p.trec = 1 then _ else s) = s1 at h1 ⊢
    split
    · exact h1
    · split
      · exact h1.trans (sameWork_bumpN .verifySkip 1 _).programsStay
      · split
        · exact h1.trans (programsStay_noChecker ..)
        · exact h1

theorem State.selectParts_after (w : WJob) (l : List Part) (s : State) :
    ProgramsStay s (s.selectParts w l).1 ∧ (s.selectParts w l).2.length = l.length := by
  obtain ⟨h1, h2⟩ := programsStay_foldl (g := fun v p => v.selectPart w p) (fun v p => programsStay_selectPart w p v) l (s, [])
  exact ⟨h1, h2.trans (Nat.zero_add _)⟩

/-- The coded tile waits for space with its parts. -/
theorem State.codeEnds_after {s : State} {w : WJob} {r : Run} (c : Fin 16) (faulty : List (Nat × List Byte)) (hr : s.run? w.stream w.seq = some r)
    (hw : s.wjob? w.id = some w) :
    ∃ l, (s.codeEnds w c faulty).wjob? w.id = some { w with coder := c, parts := l, stage := .space } ∧ l.length = w.carry.length + 1 := by
  unfold State.codeEnds
  simp only [hr]
  obtain ⟨hparts, hlen⟩ := s.codeParts_after { w with coder := c } r.resRec
  have hsel := fun l => ((s.codeParts { w with coder := c } r.resRec).1).selectParts_after { w with coder := c } l
  refine ⟨_, wjob?_updW (f := fun x => { x with coder := c, parts := _, stage := .space }) ?_ rfl, ?_⟩
  · exact ((hparts.trans (hsel _).1).wjob? w.id).trans hw
  · refine ((hsel _).2.trans ?_).trans hlen
    simp

theorem State.afterCode_of_tile {w : WJob} (h : ∀ k, w.src ≠ .received k) (s : State) : s.afterCode w = s := by
  unfold State.afterCode
  split
  · next k hk => exact absurd hk (h k)
  · rfl

/-- Settles O38. -/
theorem enginesFinish : Obligations.EnginesFinish := by
  unfold Obligations.EnginesFinish
  intro t c e s hclk
  refine ⟨fun j x hj hu hx hk hno => ?_, fun w x hcode hw hx hsrc => ?_⟩
  · obtain ⟨v, hv, he⟩ := State.decodeEnds_after (s := (s.timed t).decodedOn c 1) hu
    obtain ⟨y, hy, hyd⟩ := hv.run? (n := j.stream) (q := j.seq) (r := x) hx
    obtain ⟨q, z, hq, hz, hends⟩ := State.readEnds_delivers (d := s.decodeOf j) hu hy
    have hstay := hv.trans hz
    refine settles_of_eq (exec_tileDecodeDone hclk hj) (he.trans hends) ?_
    have hno' : ∀ u ∈ z.dports[dportOf (dDport q.desc)].units, u.job ≠ some j.id := by
      simp only [hstay.dports, hq.trans hyd]
      exact hno
    obtain ⟨htell, hcores⟩ := State.deliverRead_tells (d := s.decodeOf j) (.inr hno')
    simp only [hq.trans hyd] at htell
    refine ⟨?_, ?_⟩
    · rw [State.core, hcores, hstay.cores]
      exact congrArg Core.decN (State.core_updCore ..)
    · obtain ⟨u, hu, h1, h2, h3, h4, h5⟩ := htell
      exact ⟨u, hu, h1, h2, h3, h4, by rw [h5]⟩
  · obtain ⟨l, hl, hlen⟩ := State.codeEnds_after (s := s.timed t) c [] hx hw
    exact settles_of_eq (exec_tileCodeDone hclk hcode) (State.afterCode_of_tile hsrc _) ⟨_, hl, rfl, rfl, hlen, rfl⟩

/-! ### Delivery beats -/

theorem exec_deliveryBeat {t : Time} {port : Fin 8} {s : State} (h : s.clksLost [.dclk, .eclk] = false) :
    exec (.deliveryBeat t port []) s = .next ((s.timed t).beatOut port false).settle :=
  congrArg (fun u : State => Host.Outcome.next u.settle) (State.clocked_of_running (s := s.timed t) h)

/-- A port whose beat has passed. -/
def DPort.passed (id : Nat) (beat : BitVec 128 × List Byte × List Byte) (q : DPort) : DPort :=
  { q with
    bus := none, stall := none, last := some beat
    units := updWhere (fun x => x.id == id) (fun x => { x with next := x.next + 1 }) q.units }

theorem State.beatOut_passes {s : State} {port : Fin 8} {id : Nat} {beat : BitVec 128 × List Byte × List Byte} {v : DUnit}
    (hb : s.dports[port].bus = some (id, beat)) (hv : (s.dports[port].units.find? fun x => x.id == id) = some v) :
    s.beatOut port false = if metaLast beat.1 then (s.updDport port (DPort.passed id beat)).unitLeaves port v
      else s.updDport port (DPort.passed id beat) := by
  unfold State.beatOut
  simp only [hb, hv, Bool.false_and, Bool.false_eq_true, if_false]
  rfl

theorem State.dport_updDport (s : State) (p : Fin 8) (f : DPort → DPort) : (s.updDport p f).dports[p] = f s.dports[p] := by
  simp [State.updDport]

theorem find?_updWhere_id {id : Nat} {f : DUnit → DUnit} (hf : ∀ u, (f u).id = u.id) {l : List DUnit} {v : DUnit}
    (h : (l.find? fun x => x.id == id) = some v) :
    ((updWhere (fun x => x.id == id) f l).find? fun x => x.id == id) = some (f v) := by
  have hid := List.find?_some h
  have hcomp : ((fun x : DUnit => x.id == id) ∘ fun x => if (x.id == id) = true then f x else x) = fun x => x.id == id := by
    funext x
    by_cases hx : (x.id == id) = true <;> simp_all
  rw [updWhere, List.find?_map, hcomp, h]
  exact congrArg some (if_pos hid)

/-- A unit whose tail beat has passed leaves its port and counts in its descriptor. -/
theorem State.unitLeaves_after {s : State} {port : Fin 8} {v : DUnit} {x : Run} (ha : v.again = false) (hx : s.run? v.stream v.seq = some x)
    (hk : x.kind = 1) :
    (s.unitLeaves port v).dports = (s.updDport port fun p => { p with units := p.units.filter fun y => y.id != v.id }).dports ∧
      ∃ y, (s.unitLeaves port v).run? v.stream v.seq = some y ∧ y.outCount = x.outCount + 1 ∧ y.errTiles = x.errTiles + b2n v.poison := by
  have hdrop : ∀ (o : Option Nat) (u : State), (match o with | some j => u.dropR j | none => u).dports = u.dports ∧
      (match o with | some j => u.dropR j | none => u).streams = u.streams := fun o u => by cases o <;> exact ⟨rfl, rfl⟩
  have hwhen : ∀ (b : Bool) (u : State), SameWork u (whenB b (State.bump .structDemote) u) := fun b u =>
    SameWork.whenB (fun u => sameWork_bumpN .structDemote 1 u) b u
  have hrun : (s.updDport port fun p => { p with units := p.units.filter fun y => y.id != v.id }).run? v.stream v.seq = some x := hx
  have hm : (x.kind == 0x12) = false := by rw [hk]; decide
  unfold State.unitLeaves
  simp only [ha, Bool.false_eq_true, if_false, hrun, hm]
  refine ⟨?_, ?_⟩
  · exact (hwhen _ _).dports.trans (hdrop v.job _).1
  · have h2 := (State.run?_congr (hdrop v.job (s.updDport port fun p => { p with units := p.units.filter fun y => y.id != v.id })).2
      v.stream v.seq).trans hrun
    have h3 := run?_updRun (f := fun y : Run => { y with
        outCount := y.outCount + 1
        errTiles := y.errTiles + b2n v.poison
        quality := if v.poison || false then y.quality else worstQuality y.quality v.quality }) h2 rfl rfl
    have h4 := ((hwhen (!false && !v.poison && v.beats.any fun b => metaDemoted b.1) _).run? v.stream v.seq).trans h3
    exact ⟨_, run?_updRun (f := fun r => { r with doneUnits := r.doneUnits + 1, inBytes := r.inBytes + 4096 }) h4 rfl rfl, rfl, rfl⟩

theorem State.portStall_first {s : State} {port : Fin 8} {id : Nat} {beat : BitVec 128 × List Byte × List Byte} {v : DUnit}
    (hb : s.dports[port].bus = some (id, beat)) (hv : (s.dports[port].units.find? fun x => x.id == id) = some v)
    (hnone : s.dports[port].stall = none) (hlate : s.dports[port].since + 1000000 ≤ s.time) :
    s.portStall port = (s.updDport port fun q => { q with stall := some s.time }).workReport v.stream v.seq
      { reason := 0x40, sev := .corrected, rep := false, unit := .deliveryPort, unitIndex := port.val } := by
  have hdue : s.stallDue s.dports[port].since none = true := decide_eq_true hlate
  unfold State.portStall
  simp only [hb, hnone, hdue, if_true, hv]
  rfl

/-- A record about a descriptor's work is one record. -/
theorem sent_workReport (n : Nat) (q : Word) (x : Note) (s : State) : Sent s (s.workReport n q x) x.reason x.sev := by
  unfold State.workReport
  split
  · exact sent_report s { x with handle := _, seq := q }
  · exact sent_report s { x with handle := _, seq := q, group := _, step := _ }

/-- Settles O39. -/
theorem deliveryBeats : Obligations.DeliveryBeats := by
  unfold Obligations.DeliveryBeats
  intro t port id beat v s hclk hb hv
  have hpass := State.beatOut_passes (s := s.timed t) hb hv
  have hid : v.id = id := by simpa using List.find?_some hv
  refine ⟨fun hlast => ?_, fun hlast ha x hx hk => ?_, fun hnone hlate => ?_⟩
  · rw [hlast] at hpass
    refine settles_of_eq (exec_deliveryBeat hclk) hpass ?_
    simp only [Bool.false_eq_true, if_false, State.dport_updDport]
    exact ⟨rfl, rfl, rfl, find?_updWhere_id (f := fun x => { x with next := x.next + 1 }) (fun _ => rfl) hv⟩
  · rw [hlast, if_pos rfl] at hpass
    obtain ⟨hports, hrun⟩ := State.unitLeaves_after (s := (s.timed t).updDport port (DPort.passed id beat)) (port := port) ha hx hk
    refine settles_of_eq (exec_deliveryBeat hclk) hpass ?_
    simp only [hports, State.dport_updDport]
    refine ⟨rfl, rfl, fun y hy => ?_, hrun⟩
    have hne := (List.mem_filter.mp hy).2
    simpa [hid] using hne
  · have hstall := State.portStall_first (s := s.timed t) hb hv hnone hlate
    refine runs_of_eq (congrArg Host.Outcome.next (State.clocked_of_running (s := s.timed t) hclk)) hstall ?_
    have hports := (sameButErr_workReport v.stream v.seq
      { reason := 0x40, sev := .corrected, rep := false, unit := .deliveryPort, unitIndex := port.val }
      ((s.timed t).updDport port fun q => { q with stall := some t })).dports
    refine ⟨sent_congr (by rfl) rfl (sent_workReport v.stream v.seq
      { reason := 0x40, sev := .corrected, rep := false, unit := .deliveryPort, unitIndex := port.val }
      ((s.timed t).updDport port fun q => { q with stall := some t })), ?_⟩
    have hdport : (((s.timed t).updDport port fun q => { q with stall := some t }).workReport v.stream v.seq
      { reason := 0x40, sev := .corrected, rep := false, unit := .deliveryPort, unitIndex := port.val }).dports[port] =
        { s.dports[port] with stall := some t } :=
      (congrArg (fun l : Vector DPort 8 => l[port]) hports).trans (State.dport_updDport ..)
    exact ⟨congrArg DPort.stall hdport, (congrArg DPort.bus hdport).trans rfl⟩

end Sys2Proof.Machine
end

section
/-! SUPPORT. Intake beats, and what checkers decide (07_compression R257 to R259, R268; 11_integrity R426, Table 11-3). -/

namespace Sys2Proof.Machine

/-! ### Intake beats -/

theorem exec_intakeBeat {t : Time} {port : Fin 4} {side : Word} {data : List Byte} {s : State} (h : s.clksLost [.dclk, .eclk] = false) :
    exec (.intakeBeat t port side data []) s = .next ((s.timed t).intakeBeat port side data []).settle :=
  congrArg (fun u : State => Host.Outcome.next u.settle) (State.clocked_of_running (s := s.timed t) h)

/-- A write job that a beat has joined. -/
def WJob.takes (side : Word) (data : List Byte) (w : WJob) : WJob :=
  { w with data := w.data ++ slice data 0 512, fail := if ipErr side then some 0x42 else w.fail }

/-- A stream that has taken k beats of its tile. -/
def Stream.beats (k : Nat) (x : Stream) : Stream := { x with beat := k }

/-- The expected beat of a tile in progress, not its last, joins it. -/
def State.beatAdded (port : Fin 4) (side : Word) (data : List Byte) (w : WJob) (k : Nat) (s : State) : State :=
  ((((s.updStream (ipStream side) fun y => { y with discard := false }).beatPasses port).updW w.id (WJob.takes side data)).updStream
    (ipStream side) (Stream.beats (k + 1)))

theorem State.intakeBeat_joins {s : State} {port : Fin 4} {side : Word} {x : Stream} {w : WJob} (data : List Byte)
    (hx : s.stream? (ipStream side) = some x) (hready : s.beatReady port (ipStream side) = true) (hd : x.discard = false)
    (hw : s.partTile (ipStream side) = some w) (hbeat : ipBeat side = x.beat) (hlast : x.beat < 7) :
    s.intakeBeat port side data [] = s.beatAdded port side data w x.beat := by
  have hstop : s.stopHolds (ipStream side) = false := by simp [State.stopHolds, hw]
  have hx1 : (s.updStream (ipStream side) fun y => { y with discard := false }).stream? (ipStream side) = some { x with discard := false } :=
    stream?_updStream (f := fun y => { y with discard := false }) hx rfl
  have hw1 : (s.updStream (ipStream side) fun y => { y with discard := false }).partTile (ipStream side) = some w := hw
  have hjoin : ∀ v : State, v.partTile (ipStream side) = some w → v.stream? (ipStream side) = some { x with discard := false } →
      v.beatJoins port (ipStream side) side data [] =
        (v.updW w.id (WJob.takes side data)).updStream (ipStream side) (Stream.beats (x.beat + 1)) := fun v hv hvx => by
    unfold State.beatJoins
    simp only [hv, hvx, Option.map_some, Option.getD_some, hlast, if_true]
    rfl
  unfold State.intakeBeat
  simp only [hready, hstop, Bool.not_true, Bool.false_eq_true, if_false]
  unfold State.beatTaken
  simp only [hx, hd, Bool.false_and, Bool.false_eq_true, if_false, hw1, hbeat, if_true]
  exact hjoin _ hw1 hx1

theorem State.intakeStall_first {s : State} {port : Fin 4} {side : Word} {since : Time} (hw : s.iports[port].wait = some (side, since))
    (hnone : s.iports[port].stall = none) (hlate : since + 1000000 ≤ s.time) :
    s.intakeStall port = (s.updIport port fun q => { q with stall := some s.time }).report
      { reason := 0x41, sev := .corrected, rep := false, unit := .intakePort, unitIndex := port.val } := by
  have hdue : s.stallDue since none = true := decide_eq_true hlate
  unfold State.intakeStall
  simp only [hw, hnone, hdue, if_true]
  rfl

theorem State.iport_updIport (s : State) (p : Fin 4) (f : IPort → IPort) : (s.updIport p f).iports[p] = f s.iports[p] := by
  simp [State.updIport]

/-- Settles O40. -/
theorem intakeBeats : Obligations.IntakeBeats := by
  unfold Obligations.IntakeBeats
  intro t port s hclk
  refine ⟨fun side data x w hx hready hd hpart hw hbeat hlast => ?_, fun side since hw hnone hlate => ?_⟩
  · refine settles_of_eq (exec_intakeBeat hclk) (State.intakeBeat_joins (s := s.timed t) data hx hready hd hpart hbeat hlast) ⟨?_, ?_, ?_⟩
    · refine ⟨_, wjob?_updW (s := ((s.timed t).updStream _ _).beatPasses port) (f := WJob.takes side data) hw rfl, rfl, fun he => ?_⟩
      exact if_pos he
    · exact ⟨_, stream?_updStream (f := Stream.beats (x.beat + 1))
        (stream?_updStream (s := s.timed t) (f := fun y => { y with discard := false }) hx rfl) rfl, rfl⟩
    · exact congrArg IPort.wait (State.iport_updIport ((s.timed t).updStream (ipStream side) fun y => { y with discard := false }) port
        fun p => { p with wait := none, stall := none })
  · refine runs_of_eq (congrArg Host.Outcome.next (State.clocked_of_running (s := s.timed t) hclk))
      (State.intakeStall_first (s := s.timed t) hw hnone hlate) ?_
    have hport := State.iport_updIport (s.timed t) port fun q => { q with stall := some t }
    have hsame : ∀ (v : State) n, (v.report n).iports = v.iports := fun v n => by simp
    refine ⟨sent_congr (s := (s.timed t).updIport port fun q => { q with stall := some t }) rfl rfl (sent_report _ _), ?_, ?_⟩
    · exact (congrArg (fun l : Vector IPort 4 => l[port].stall) (hsame _ _)).trans (congrArg IPort.stall hport)
    · exact (congrArg (fun l : Vector IPort 4 => l[port].wait) (hsame _ _)).trans ((congrArg IPort.wait hport).trans rfl)

/-! ### Checkers -/

theorem exec_checkerOutcome {t : Time} {c : Fin 16} {y : Option Seen} {s : State} (h : s.clksLost [.eclk] = false) :
    exec (.checkerOutcome t c y []) s = .next ((s.timed t).checkSeen c y).settle :=
  congrArg (fun u : State => Host.Outcome.next u.settle) (State.clocked_of_running (s := s.timed t) h)

theorem exec_thirdEvaluation {t : Time} {c : Fin 16} {y : Option Seen} {s : State} (h : s.clksLost [.eclk] = false) :
    exec (.thirdEvaluation t c y []) s = .next ((s.timed t).thirdSeen c y).settle :=
  congrArg (fun u : State => Host.Outcome.next u.settle) (State.clocked_of_running (s := s.timed t) h)

theorem State.checkSeen_passes {s : State} {c : Fin 16} {w : WJob} {i : Nat} {p : Part} {y : Seen} (h : s.checkedBy c = some (w, i, p))
    (hp : seenPasses p y = true) :
    s.checkSeen c (some y) = (((s.bump .verifyDone).checkedOn c 1).updPart w.id i fun q => { q with verify := .passed }) := by
  unfold State.checkSeen State.checkerEnds
  simp only [h, Option.getD_some, hp, if_true]

theorem State.thirdSeen_passes {s : State} {c b : Fin 16} {w : WJob} {i : Nat} {p : Part} {x y : Seen} (h : s.thirdBy c = some (w, i, p, b, x))
    (hp : seenPasses p y = true) :
    s.thirdSeen c (some y) = ((((s.checkedOn c 1).settleRec w p 0x06 .corrected b (w.coder.val + 256 * b.val + 65536 * c.val)
      (seenDetail p x)).updPart w.id i fun q => { q with verify := .passed }).coreFault b) := by
  unfold State.thirdSeen State.thirdEnds
  simp only [h, Option.getD_some, hp, if_true]

theorem State.thirdSeen_agrees {s : State} {c b : Fin 16} {w : WJob} {i : Nat} {p : Part} {y : Seen} (h : s.thirdBy c = some (w, i, p, b, y))
    (hp : seenPasses p y = false) :
    s.thirdSeen c (some y) = ((((s.checkedOn c 1).settleRec w p 0x07 .corrected w.coder (w.coder.val + 256 * b.val + 65536 * c.val)
      (seenDetail p y)).storeRaw w i p).coreFault w.coder) := by
  unfold State.thirdSeen State.thirdEnds
  simp only [h, Option.getD_some, hp, Bool.false_eq_true, if_false, if_true]

/-- The newest record is still logged after one more. -/
theorem ErrState.mem_place {e : ErrState} {r x : Rec} (h : e.log.getLast? = some x) : x ∈ (e.place r).1.log := by
  have hlog : ∀ r', x ∈ ErrState.logged e.log r' := fun r' => by
    unfold ErrState.logged
    split
    · exact List.mem_append_left _ (List.mem_of_getLast? h)
    · next hfull =>
      have hdrop : (e.log.drop 1).getLast? = some x := by
        rw [List.getLast?_drop, if_neg (by omega)]
        exact h
      exact List.mem_append_left _ (List.mem_of_getLast? hdrop)
  unfold ErrState.place
  dsimp only
  split
  · exact hlog _
  · split
    · exact hlog _
    · split <;> exact hlog _

/-- A fault of a core leaves the write jobs, and the newest record logged. -/
theorem State.coreFault_after (c : Fin 16) (s : State) :
    (s.coreFault c).wjobs = s.wjobs ∧ ∀ x, s.err.log.getLast? = some x → x ∈ (s.coreFault c).err.log := by
  unfold State.coreFault
  dsimp only
  split
  · exact ⟨rfl, fun x hx => List.mem_of_getLast? hx⟩
  · refine ⟨by simp, fun x hx => ?_⟩
    simp only [State.report_err]
    exact ErrState.mem_place hx

/-- The record of a settlement stands last in the log. -/
theorem sent_settleRec (w : WJob) (p : Part) (reason : Nat) (sev : Sev) (core : Fin 16) (a b : Nat) (s : State) :
    Sent s (s.settleRec w p reason sev core a b) reason sev :=
  sent_congr (s := s.bump .verifySettle) (by simp) rfl (sent_workReport w.stream w.seq _ (s.bump .verifySettle))

theorem State.wjob?_settleRec (w : WJob) (p : Part) (reason : Nat) (sev : Sev) (core : Fin 16) (a b : Nat) (s : State) (id : Nat) :
    (s.settleRec w p reason sev core a b).wjob? id = s.wjob? id :=
  ((sameWork_bumpN .verifySettle 1 s).programsStay.trans (sameButErr_workReport ..).programsStay).wjob? id

/-- Sectors that no entry names go back: the work is the same. -/
theorem sameWork_dropPlaces (l : List Part) (s : State) : SameWork s (s.dropPlaces l) :=
  SameWork.forAll (fun p t => by
    split
    · split
      · rfl
      · exact sameWork_sendRelease ..
    · rfl) l s

/-- A part whose payload is discarded is stored RAW. -/
theorem State.storeRaw_after {s : State} {w : WJob} (i : Nat) (p : Part) (hw : s.wjob? w.id = some w) :
    (s.storeRaw w i p).err = s.err ∧ ∃ v, (s.storeRaw w i p).wjob? w.id = some v ∧ v.stage = w.stage.again ∧
      ∀ q, v.parts[i]? = some q → q.state = 2 ∧ q.payload = q.img := by
  generalize hv : (((s.dropPlaces [p]).forgetAsk w.id).dropReqs fun q => match q with
    | .partWrite x y => x == w.id && y == i
    | _ => false) = v
  have hsame := sameWork_dropPlaces [p] s
  have hvw : v.wjob? w.id = some w := by
    rw [← hv]
    exact (hsame.wjob? w.id).trans hw
  have herr : v.err = s.err := by
    rw [← hv]
    exact hsame.err
  have hstore : s.storeRaw w i p = (v.updPart w.id i fun q => { q with state := 2, payload := q.img, place := none, acks := 0, verify := .settled }).updW
      w.id fun x => { x with stage := x.stage.again, waitedSpace := false } := by
    rw [← hv]
    rfl
  rw [hstore]
  refine ⟨herr, _, wjob?_updW (f := fun x => { x with stage := x.stage.again, waitedSpace := false })
    (wjob?_updW (f := fun w => { w with parts := w.parts.modify i fun q =>
      { q with state := 2, payload := q.img, place := none, acks := 0, verify := .settled } }) hvw rfl) rfl, rfl, fun q hq => ?_⟩
  rw [List.getElem?_modify_eq] at hq
  obtain ⟨q0, -, rfl⟩ := Option.map_eq_some_iff.mp hq
  exact ⟨rfl, rfl⟩

/-- Settles O41. -/
theorem checkerOutcomes : Obligations.CheckerOutcomes := by
  unfold Obligations.CheckerOutcomes
  intro t c w i p y s hw hclk
  refine ⟨fun h hp => ?_, fun b x h hp => ?_, fun b h hp => ?_⟩
  · refine settles_of_eq (exec_checkerOutcome hclk) (State.checkSeen_passes (s := s.timed t) h hp) ⟨?_, ?_, rfl⟩
    · exact ⟨_, wjob?_updW (s := ((s.timed t).bump .verifyDone).checkedOn c 1)
        (f := fun w => { w with parts := w.parts.modify i fun q => { q with verify := .passed } }) hw rfl, rfl⟩
    · exact congrArg Core.chkN (State.core_updCore ((s.timed t).bump .verifyDone) c fun k => { k with chkN := k.chkN + 1 })
  · refine settles_of_eq (exec_thirdEvaluation hclk) (State.thirdSeen_passes (s := s.timed t) h hp) ?_
    obtain ⟨-, r, hlast, hreason, -, hseq⟩ := sent_settleRec w p 0x06 .corrected b (w.coder.val + 256 * b.val + 65536 * c.val) (seenDetail p x)
      ((s.timed t).checkedOn c 1)
    have hjob := (State.wjob?_settleRec w p 0x06 .corrected b (w.coder.val + 256 * b.val + 65536 * c.val) (seenDetail p x)
      ((s.timed t).checkedOn c 1) w.id).trans hw
    generalize ((s.timed t).checkedOn c 1).settleRec w p 0x06 .corrected b (w.coder.val + 256 * b.val + 65536 * c.val) (seenDetail p x) = v at *
    obtain ⟨hjobs, hmem⟩ := (v.updPart w.id i fun q => { q with verify := .passed }).coreFault_after b
    refine ⟨⟨{ w with parts := w.parts.modify i fun q => { q with verify := .passed } }, ?_, rfl⟩, r, hmem r hlast, hreason, hseq⟩
    rw [State.wjob?, hjobs]
    exact wjob?_updW (f := fun w => { w with parts := w.parts.modify i fun q => { q with verify := .passed } }) hjob rfl
  · refine settles_of_eq (exec_thirdEvaluation hclk) (State.thirdSeen_agrees (s := s.timed t) h hp) ?_
    obtain ⟨-, r, hlast, hreason, -, hseq⟩ := sent_settleRec w p 0x07 .corrected w.coder (w.coder.val + 256 * b.val + 65536 * c.val)
      (seenDetail p y) ((s.timed t).checkedOn c 1)
    have hjob := (State.wjob?_settleRec w p 0x07 .corrected w.coder (w.coder.val + 256 * b.val + 65536 * c.val) (seenDetail p y)
      ((s.timed t).checkedOn c 1) w.id).trans hw
    generalize ((s.timed t).checkedOn c 1).settleRec w p 0x07 .corrected w.coder (w.coder.val + 256 * b.val + 65536 * c.val) (seenDetail p y) = v at *
    obtain ⟨herr, z, hz, hstage, hpart⟩ := State.storeRaw_after i p hjob
    obtain ⟨hjobs, hmem⟩ := (v.storeRaw w i p).coreFault_after w.coder
    refine ⟨⟨z, ?_, hstage, hpart⟩, r, hmem r (by rw [herr]; exact hlast), hreason, hseq⟩
    rw [State.wjob?, hjobs]
    exact hz

end Sys2Proof.Machine
end

section
/-! SUPPORT. The allocator's answers to the request of a tile (07_compression R272 to R277; 10_memory_channels R382 to R385). -/

namespace Sys2Proof.Machine

theorem exec_allocationRequest {t : Time} {id : Nat} {w : WJob} {s : State} (h : s.clksLost [.eclk] = false) (hw : s.wjob? id = some w)
    (hturn : s.requestTurn w = true) (hstream : w.stream ≠ causewayStream) :
    exec (.allocationRequest t id) s = .next ((s.timed t).serveRequest id).settle := by
  refine congrArg (fun u : State => Host.Outcome.next u.settle) ((State.clocked_of_running (s := s.timed t) h).trans ?_)
  unfold State.allocCmd
  simp only [show (s.timed t).wjob? id = some w from hw, show (s.timed t).requestTurn w = true from hturn, Bool.true_and, bne_iff_ne, ne_eq,
    hstream, not_false_eq_true, if_true]

/-! ### Granted, or waiting -/

theorem State.takeGrant_pools (pool : Nat) (runs free : List (Nat × Nat)) (skew : Nat) (why : Purpose) (s : State) :
    (s.takeGrant pool runs free skew why).pools =
      (s.updPool pool fun q => { q with free := free, used := runs.foldl (fun l r => insertRun r l) q.used }).pools :=
  keeps_foldl (R := fun u : State => u.pools = (s.updPool pool fun q => { q with
    free := free, used := runs.foldl (fun l r => insertRun r l) q.used }).pools)
    (fun _ _ h => (State.writeMap_pools ..).trans h) rfl

theorem sameWork_takeGrant (pool : Nat) (runs free : List (Nat × Nat)) (skew : Nat) (why : Purpose) (s : State) :
    SameWork s (s.takeGrant pool runs free skew why) :=
  SameWork.trans (t := (s.updPool pool _).bumpN .allocSkew skew) rfl
    (SameWork.forAll (fun (r : Nat × Nat) u => sameWork_writeMap pool r.1 r.2 why u) _ _)

/-- A request that finds sectors: the tile writes their map bits, and they leave the free list. -/
theorem State.serveRequest_granted {s : State} {id pool : Nat} {sizes : List (Nat × Nat)} {w : WJob} {p : Pool} {ps : PoolSt} {starts : List Nat}
    {free : List (Nat × Nat)} {skew : Nat} (hw : s.wjob? id = some w) (hreq : w.request = some (pool, sizes)) (hp : s.pool? pool = some p)
    (hps : s.poolSt? pool = some ps) (hal : s.tryAlloc p ps w.recAddr w.tile sizes = .granted starts free skew) :
    (∃ v, (s.serveRequest id).wjob? id = some v ∧ v.stage = .mapping (mapWrites (grantRuns starts sizes))) ∧
      ∃ q, (s.serveRequest id).poolSt? pool = some q ∧ q.free = free ∧
        q.used = (grantRuns starts sizes).foldl (fun l r => insertRun r l) ps.used := by
  unfold State.serveRequest
  simp only [hw, hreq, hp, hps, hal]
  refine ⟨?_, ?_⟩
  · rw [(sameWork_takeGrant ..).wjob?]
    exact ⟨_, wjob?_updW (s := s.updPool pool (PoolSt.unwait id))
      (f := fun x => { (x.placed pool (List.zipWith (fun z r => (z.1, r.1, r.2)) sizes (grantRuns starts sizes))) with
        stage := .mapping (mapWrites (grantRuns starts sizes)), waitedSpace := false }) hw rfl, rfl⟩
  · rw [State.poolSt?_congr (State.takeGrant_pools ..)]
    exact ⟨_, poolSt?_updPool (f := fun q => { q with free := free, used := (grantRuns starts sizes).foldl (fun l r => insertRun r l) q.used })
      (poolSt?_updPool (s := s) (f := PoolSt.unwait id) hps rfl) rfl, rfl, rfl⟩

/-- A pool at which a job waits. -/
def PoolSt.awaited (id : Nat) (p : PoolSt) : PoolSt := if p.waiting.contains id then p else { p with waiting := p.waiting ++ [id] }

theorem PoolSt.awaited_spec (id : Nat) (p : PoolSt) : (p.awaited id).id = p.id ∧ (p.awaited id).free = p.free ∧ id ∈ (p.awaited id).waiting := by
  unfold PoolSt.awaited
  split
  · next h => exact ⟨rfl, rfl, List.contains_iff_mem.mp h⟩
  · exact ⟨rfl, rfl, List.mem_append_right _ (List.mem_singleton.mpr rfl)⟩

theorem State.serveRequest_waits {s : State} {id pool : Nat} {sizes : List (Nat × Nat)} {w : WJob} {p : Pool} {ps : PoolSt}
    (hw : s.wjob? id = some w) (hreq : w.request = some (pool, sizes)) (hp : s.pool? pool = some p) (hps : s.poolSt? pool = some ps)
    (hal : s.tryAlloc p ps w.recAddr w.tile sizes = .waits) :
    (∃ v, (s.serveRequest id).wjob? id = some v ∧ v.stage = .spaceWait) ∧
      ∃ q, (s.serveRequest id).poolSt? pool = some q ∧ id ∈ q.waiting ∧ q.free = ps.free := by
  have hbump : ∀ b : Bool, SameWork s (whenB b (State.bump .allocWait) s) ∧ (whenB b (State.bump .allocWait) s).pools = s.pools := fun b => by
    cases b <;> exact ⟨rfl, rfl⟩
  obtain ⟨hid, hfree, hmem⟩ := ps.awaited_spec id
  unfold State.serveRequest
  simp only [hw, hreq, hp, hps, hal, State.allocWait]
  refine ⟨⟨_, wjob?_updW (f := fun x => { x with stage := .spaceWait, waitedSpace := true }) (((hbump _).1.wjob? id).trans hw) rfl, rfl⟩,
    _, poolSt?_updPool (f := PoolSt.awaited id) ((State.poolSt?_congr (hbump _).2 pool).trans hps) hid, hmem, hfree⟩

/-! ### A SPACE_STOP -/

theorem State.stream?_congr {s t : State} (h : t.streams = s.streams) (n : Nat) : t.stream? n = s.stream? n := by
  simp only [State.stream?, h]

/-- A pool that a job does not wait for. -/
def State.NotAwaited (pool id : Nat) (s : State) : Prop := ∃ q, s.poolSt? pool = some q ∧ id ∉ q.waiting

/-- From s to t the streams are the same, and no job begins to wait for a pool. -/
def WaitsShrink (s t : State) : Prop := t.streams = s.streams ∧ ∀ pool id, s.NotAwaited pool id → t.NotAwaited pool id

theorem waitsShrink_of_same {s t : State} (hs : t.streams = s.streams) (hp : t.pools = s.pools) : WaitsShrink s t :=
  ⟨hs, fun pool _ ⟨q, hq, hno⟩ => ⟨q, (State.poolSt?_congr hp pool).trans hq, hno⟩⟩

theorem WaitsShrink.refl (s : State) : WaitsShrink s s := waitsShrink_of_same rfl rfl

theorem WaitsShrink.trans {s t u : State} (h : WaitsShrink s t) (k : WaitsShrink t u) : WaitsShrink s u :=
  ⟨k.1.trans h.1, fun pool id hs => k.2 pool id (h.2 pool id hs)⟩

theorem WaitsShrink.forAll {α : Type} {f : α → State → State} (hf : ∀ a t, WaitsShrink t (f a t)) (l : List α) (s : State) :
    WaitsShrink s (forAll l f s) :=
  keeps_foldl (R := WaitsShrink s) (fun t a h => h.trans (hf a t)) (WaitsShrink.refl s)

theorem waitsShrink_updPool (pool : Nat) {f : PoolSt → PoolSt} (hid : ∀ p, (f p).id = p.id) (hw : ∀ p, (f p).waiting = p.waiting) (s : State) :
    WaitsShrink s (s.updPool pool f) := by
  refine ⟨rfl, fun k id ⟨q, hq, hno⟩ => ?_⟩
  by_cases hk : k = pool
  · subst hk
    exact ⟨f q, poolSt?_updPool hq (hid q), by rwa [hw]⟩
  · refine ⟨q, Eq.trans ?_ hq, hno⟩
    exact find?_updFirst_of_ne (p := fun p : PoolSt => p.id == pool) (q := fun p : PoolSt => p.id == k) (f := f)
      (fun p hp => by have h : p.id = pool := by simpa using hp
                      simpa [h] using fun h => hk h.symm) (fun p => by rw [hid]) s.pools

/-- A job that leaves every list of waiting requests. -/
theorem waitsShrink_unwait (id : Nat) (s : State) : WaitsShrink s { s with pools := s.pools.map (PoolSt.unwait id) } := by
  refine ⟨rfl, fun k j ⟨q, hq, hno⟩ => ⟨q.unwait id, ?_, fun hj => hno (List.mem_filter.mp hj).1⟩⟩
  have hfind : (s.pools.map (PoolSt.unwait id)).find? (fun p => p.id == k) = (s.pools.find? fun p => p.id == k).map (PoolSt.unwait id) := by
    rw [List.find?_map]
    rfl
  exact hfind.trans (congrArg (Option.map (PoolSt.unwait id)) hq)

theorem waitsShrink_discardSectors (pool a n : Nat) (s : State) : WaitsShrink s (s.discardSectors pool a n) := by
  unfold State.discardSectors
  split
  · exact WaitsShrink.refl s
  · next p _ =>
    have hupd := waitsShrink_updPool pool (f := fun ps => { ps with
      used := cutRuns a (a + n) ps.used
      free := if s.onMappedOut p a then ps.free else joinFree p (insertRun (a, n) ps.free) }) (fun _ => rfl) (fun _ => rfl) s
    exact hupd.trans (waitsShrink_of_same (sameWork_writeMap ..).streams (State.writeMap_pools ..))

theorem waitsShrink_dropPlaces (l : List Part) (s : State) : WaitsShrink s (s.dropPlaces l) :=
  WaitsShrink.forAll (fun p t => by
    split
    · split
      · exact WaitsShrink.refl t
      · unfold State.sendRelease
        split
        · exact waitsShrink_discardSectors ..
        · exact waitsShrink_of_same (sameWork_sendRing _ t).streams (by unfold State.sendRing; split <;> rfl)
    · exact WaitsShrink.refl t) l s

theorem waitsShrink_cancelRead (j : RJob) (s : State) : WaitsShrink s (s.cancelRead j) := waitsShrink_of_same rfl rfl

/-- A tile behind a stop is retained or released. -/
theorem waitsShrink_stopTile (intake : Bool) (w : WJob) (s : State) : WaitsShrink s (s.stopTile intake w) := by
  have hdrop : ∀ l, WaitsShrink s (State.dropPlaces w.parts (forAll l (fun j t => State.cancelRead j t) s)) := fun l =>
    (WaitsShrink.forAll (fun j t => waitsShrink_cancelRead j t) l s).trans (waitsShrink_dropPlaces w.parts _)
  have hend : ∀ (v : State) (q : Purpose → Bool), WaitsShrink s v →
      WaitsShrink s { (v.forgetAsk w.id).dropReqs q with pools := ((v.forgetAsk w.id).dropReqs q).pools.map (PoolSt.unwait w.id) } :=
    fun v q h => h.trans ((waitsShrink_of_same rfl rfl).trans (waitsShrink_unwait w.id ((v.forgetAsk w.id).dropReqs q)))
  unfold State.stopTile
  cases intake
  · exact (hend _ _ (hdrop _)).trans (waitsShrink_of_same rfl rfl)
  · exact (hend _ _ (hdrop _)).trans (waitsShrink_of_same rfl rfl)

/-- The tiles of a descriptor from a unit on, and their reads and accumulator tiles, are given up. -/
def State.stopUnits (n : Nat) (seq : Word) (u : Nat) (intake : Bool) (s : State) : State :=
  let mine := s.wjobs.filter fun w => w.stream == n && w.seq == seq && decide (u ≤ w.unit)
  let s1 := forAll mine (fun w s => s.stopTile intake w) s
  let s2 := forAll (s1.rjobs.filter fun j => j.stream == n && j.seq == seq && decide (u ≤ j.unit)) (fun j s => s.cancelRead j) s1
  { s2 with accs := s2.accs.filter fun a => !(a.stream == n && a.seq == seq && decide (u ≤ a.unit)) }

theorem waitsShrink_stopUnits (n : Nat) (seq : Word) (u : Nat) (intake : Bool) (s : State) : WaitsShrink s (s.stopUnits n seq u intake) :=
  ((WaitsShrink.forAll (fun w t => waitsShrink_stopTile intake w t) _ s).trans
    (WaitsShrink.forAll (fun j t => waitsShrink_cancelRead j t) _ _)).trans (waitsShrink_of_same rfl rfl)

/-- The stop record of a COMPRESS or RESUME that stops at unit u, with what an earlier stop of it has left. -/
def stopRecord (r : Run) (seq : Word) (u left accepted : Nat) : StopRec :=
  { seq := seq, unit := u, recAddr := dTensor r.desc, tile := r.tileOf u, remaining := r.total - u + left, source := dSource r.desc,
    srcAddr := dSrcAddr r.desc, firstTile := r.baseTile, accepted := accepted }

/-- A COMPRESS or RESUME that has not stopped, with nothing started behind it, stops with a stop record. -/
theorem State.stopRun_record {s : State} {n u : Nat} {seq : Word} {x : Stream} {r : Run} (hx : s.stream? n = some x) (hr : s.run? n seq = some r)
    (hk : r.kind = 2 ∨ r.kind = 3) (hlater : ((x.runs.dropWhile fun y => !y.named seq).drop 1).any Run.begun = false) :
    ∃ (b : Bool) (left acc : Nat) (intake : Bool), (x.stop = none → left = 0) ∧
      s.stopRun n seq u = (whenB b (State.bump .spaceStops) ((s.stopUnits n seq u intake).updRun n seq (Run.stopped u))).updStream n fun y =>
        { y with stop := some (stopRecord r seq u left acc) } := by
  have hcomp : (r.kind == 2 || r.kind == 3) = true := by simpa using hk
  unfold State.stopRun
  simp only [hx, hr, hcomp, hlater, Bool.not_false, Bool.and_self, Bool.not_true, Bool.false_eq_true, if_false]
  refine ⟨_, _, _, _, fun hnone => ?_, rfl⟩
  rw [hnone]

/-- The request of a tile that finds no sectors. -/
theorem State.serveRequest_fails {s : State} {id pool : Nat} {sizes : List (Nat × Nat)} {w : WJob} {p : Pool} {ps : PoolSt}
    (hw : s.wjob? id = some w) (hreq : w.request = some (pool, sizes)) (hp : s.pool? pool = some p) (hps : s.poolSt? pool = some ps)
    (hal : s.tryAlloc p ps w.recAddr w.tile sizes = .fails) :
    s.serveRequest id = (s.updPool pool (PoolSt.unwait id)).stopRun w.stream w.seq w.unit := by
  unfold State.serveRequest
  simp only [hw, hreq, hp, hps, hal]

/-- Settles O42: the three answers of the allocator. -/
theorem allocationRequest : Obligations.AllocationRequest := by
  unfold Obligations.AllocationRequest
  intro t id pool sizes w p ps s hw hturn hstream hreq hp hps hclk
  refine ⟨fun starts free skew hal => ?_, fun hal => ?_, fun x r hal hx hr hk hstop hlater => ?_⟩
  · exact settles_of_eq (exec_allocationRequest hclk hw hturn hstream) rfl (State.serveRequest_granted (s := s.timed t) hw hreq hp hps hal)
  · exact settles_of_eq (exec_allocationRequest hclk hw hturn hstream) rfl (State.serveRequest_waits (s := s.timed t) hw hreq hp hps hal)
  · generalize hv : (s.timed t).updPool pool (PoolSt.unwait id) = v
    have hvx : v.stream? w.stream = some x := by rw [← hv]; exact hx
    have hvr : v.run? w.stream w.seq = some r := by rw [← hv]; exact hr
    have hnot : v.NotAwaited pool id := by
      rw [← hv]
      exact ⟨_, poolSt?_updPool (s := s.timed t) (f := PoolSt.unwait id) hps rfl, by simp [PoolSt.unwait]⟩
    obtain ⟨b, left, acc, intake, hleft, he⟩ := State.stopRun_record (u := w.unit) hvx hvr hk hlater
    have hunits := waitsShrink_stopUnits w.stream w.seq w.unit intake v
    have hux := (State.stream?_congr hunits.1 w.stream).trans hvx
    have hur := (State.run?_congr hunits.1 w.stream w.seq).trans hvr
    generalize v.stopUnits w.stream w.seq w.unit intake = z at *
    have hbump : ∀ y : State, (whenB b (State.bump .spaceStops) y).streams = y.streams ∧ (whenB b (State.bump .spaceStops) y).pools = y.pools :=
      fun y => by cases b <;> exact ⟨rfl, rfl⟩
    have hstreams := (hbump (z.updRun w.stream w.seq (Run.stopped w.unit))).1
    have hstopped := (State.stream?_congr hstreams w.stream).trans (State.stream?_updRun hux w.seq (Run.stopped w.unit))
    have hrun := run?_updRun (f := Run.stopped w.unit) hur rfl rfl
    have hend := stream?_updStream (f := fun y => { y with stop := some (stopRecord r w.seq w.unit left acc) }) hstopped rfl
    refine settles_of_eq (exec_allocationRequest hclk hw hturn hstream)
      ((State.serveRequest_fails (s := s.timed t) hw hreq hp hps hal).trans (by rw [hv, he])) ⟨⟨r.stopped w.unit, ?_, rfl, rfl, rfl⟩, ?_, ?_⟩
    · unfold State.run? at hrun ⊢
      rw [State.stream?_updRun hux w.seq (Run.stopped w.unit)] at hrun
      rw [hend]
      exact hrun
    · exact ⟨_, _, hend, rfl, rfl, rfl, rfl, rfl, rfl, rfl, fun h => by rw [stopRecord, hleft h]; rfl⟩
    · obtain ⟨q, hq, hno⟩ := hunits.2 pool id hnot
      exact ⟨q, (State.poolSt?_congr (hbump (z.updRun w.stream w.seq (Run.stopped w.unit))).2 pool).trans hq, hno⟩

end Sys2Proof.Machine
end

section
/-! SUPPORT. A commit without a rival (02_tile_container R54; 05_streams_and_order R188; 10_memory_channels R390). -/

namespace Sys2Proof.Machine

theorem exec_tileCommit {t : Time} {img : Image} {s : State} (hc : s.clksLost [.eclk] = false) (hp : s.portsUp = true) :
    exec (.tileCommit t img none) s = .next ((s.timed t).takeCommit img).settle :=
  congrArg (fun u : State => Host.Outcome.next u.settle) (State.fromMemory_of_up (s := s.timed t) hp hc)

theorem laterCommit_self (c : Commit) : laterCommit c c = c := by simp [laterCommit]

/-- A commit that has been written, with what its entry and its presence sector held. -/
def Commit.taken (c : Commit) (img : Image) : Commit :=
  { c with written := true, old := BitVec.ofNat 128 (imgNat img c.entryAddr 16), presence := imgRead img (c.mapAddr / 64 * 64) 64 }

theorem State.takeCommit_held {s : State} {img : Image} {c : Commit} (hc : s.commits = [c]) (hheld : s.commitHeld c = true) :
    s.takeCommit img = s := by
  unfold State.takeCommit
  simp only [hc, List.find?_cons, List.find?_nil, hheld, Bool.not_true, Bool.and_false, Option.filter_none]

/-- The only commit, whose entry and presence word can be read, is written. -/
theorem State.takeCommit_alone {s : State} {img : Image} {c : Commit} (hc : s.commits = [c]) (hw : c.written = false) (he : c.expect = none)
    (hlock : s.lockedOut c = false) (hheld : s.commitHeld c = false) (hmap : s.spanBad img (c.mapAddr / 64 * 64) 64 = false)
    (hent : s.spanBad img c.entryAddr 16 = false) (hst : entState c.entry ≠ 0) :
    ∃ n, s.takeCommit img = ((s.bumpN .memPoison n).updCommit c.id fun d => { d with
      written := true, old := BitVec.ofNat 128 (imgNat img c.entryAddr 16), presence := imgRead img (c.mapAddr / 64 * 64) 64 }).write16
        c.entryAddr (leBytes 16 c.entry.toNat) (.entryWrite c.id) := by
  have hzero : ∀ old sector, c.alreadyZero old sector = false := fun old sector => by
    simp [Commit.alreadyZero, hst]
  have hself : ({ s with commits := [c] } : State) = s := by rw [← hc]
  unfold State.takeCommit
  simp only [hc, List.find?_cons, hw, hlock, hheld, he, Bool.not_false, Bool.and_self, Option.filter_some, List.any_cons, List.any_nil,
    Bool.false_and, Bool.or_self, if_true, Option.isSome_none, Option.isNone_none, Bool.false_eq_true, if_false, List.filter_cons, beq_self_eq_true,
    List.filter_nil, List.foldl_cons, List.foldl_nil, laterCommit_self, Bool.true_or, bne_self_eq_false, forAll_nil, hmap, hent, Option.any_none,
    hzero, hself]
  exact ⟨_, rfl⟩

/-- Settles O43. -/
theorem tileCommit : Obligations.TileCommit := by
  unfold Obligations.TileCommit
  intro t img c s hc hw he hlock hp hclk
  refine ⟨fun hheld => ?_, fun hheld hmap hent hst => ?_⟩
  · rw [exec_tileCommit hclk hp, State.takeCommit_held (s := s.timed t) hc hheld]
    rfl
  · obtain ⟨n, htake⟩ := State.takeCommit_alone (s := s.timed t) hc hw he hlock hheld hmap hent hst
    generalize hv : ((s.timed t).bumpN .memPoison n).updCommit c.id _ = v at htake
    have hcommits : v.commits = [c.taken img] := by
      rw [← hv]
      change updFirst _ _ (s.commits) = _
      rw [hc]
      simp [updFirst, Commit.taken]
    refine settles_of_eq (exec_tileCommit hclk hp) htake ⟨?_, c.taken img, ?_, rfl, rfl, rfl⟩
    · exact (State.write16_asked c.entryAddr (leBytes 16 c.entry.toNat) (.entryWrite c.id) v).congr (by rw [← hv]; rfl) (by rw [← hv]; rfl) rfl rfl
    · exact (sameWork_write16 ..).commits.trans hcommits

end Sys2Proof.Machine
end

section
/-! SUPPORT. Messages of other clusters of the die (01_five_levels R19 to R25; 16_integration R562). -/

namespace Sys2Proof.Machine

theorem State.sendRing_eq (m : RingMsg) (s : State) : s.sendRing m = { s with ring := s.ringAfter m } := by
  unfold State.sendRing State.ringAfter
  split <;> rfl

theorem State.answer_eq (cluster job : Nat) (a : RingAnswer) (s : State) :
    s.answer cluster job a = { s with ring := s.ringAfter (.answer cluster job a) } := State.sendRing_eq ..

/-! ### Commits and locks -/

theorem exec_dieRingCommit {t : Time} {c : RemoteCommit} {s : State} (h : s.clksLost [.eclk] = false) :
    exec (.dieRingCommit t c []) s = .next ((s.timed t).queueRemote c).settle :=
  congrArg (fun u : State => Host.Outcome.next u.settle) (State.clocked_of_running (s := s.timed t) h)

theorem State.queueRemote_write {s : State} {c : RemoteCommit} (ho : c.op = .write) :
    s.queueRemote c = if s.turnsAway c then s.answer c.cluster c.job .unavailable
      else { s.numbered with commits := s.commits ++ [Commit.ofRemote s.nextId c] } := by
  unfold State.queueRemote
  rw [ho]

theorem State.queueRemote_lock {s : State} {c : RemoteCommit} (ho : c.op = .lock) :
    s.queueRemote c = if s.turnsAway c || s.lockTaken c then s.answer c.cluster c.job .unavailable
      else { s with remoteLocks := (s.remoteLocks.erase (c.cluster, c.entryAddr)) ++ [(c.cluster, c.entryAddr)] }.answer c.cluster c.job
        (.committed none) := by
  unfold State.queueRemote
  rw [ho]

theorem State.queueRemote_unlock {s : State} {c : RemoteCommit} (ho : c.op = .unlock) :
    s.queueRemote c = { s with remoteLocks := s.remoteLocks.erase (c.cluster, c.entryAddr) } := by
  unfold State.queueRemote
  rw [ho]

/-! ### Sectors -/

theorem exec_dieRingSectorRequest {t : Time} {r : RemoteRequest} {s : State} (h : s.clksLost [.eclk] = false) :
    exec (.dieRingSectorRequest t r none) s = .next ((s.timed t).ringRequest r).settle :=
  congrArg (fun u : State => Host.Outcome.next u.settle) (State.crossing_of_running (s := s.timed t) h)

theorem State.ringRequest_unavailable {s : State} {r : RemoteRequest}
    (h : s.unavailable = true ∨ ∃ ps, s.poolSt? r.pool = some ps ∧ s.poolReady ps = false) :
    s.ringRequest r = s.answer r.cluster r.job .unavailable := by
  unfold State.ringRequest
  split
  · next ps hps =>
    refine if_pos ?_
    obtain h | ⟨q, hq, hr⟩ := h
    · rw [h, Bool.true_or]
    · rw [hps] at hq
      cases hq
      rw [hr, Bool.not_false, Bool.or_true]
  · rfl

/-- A request that finds sectors is granted once its map bits are written. -/
theorem State.ringRequest_granted {s : State} {r : RemoteRequest} {p : Pool} {ps : PoolSt} {starts : List Nat} {free : List (Nat × Nat)} {skew : Nat}
    (hun : s.unavailable = false) (hp : s.pool? r.pool = some p) (hps : s.poolSt? r.pool = some ps) (hready : s.poolReady ps = true)
    (hal : s.tryAlloc p ps r.recAddr r.tile r.sizes = .granted starts free skew) :
    (s.ringRequest r).grants = s.grants ++ [(r.cluster, r.job, starts, mapWrites (grantRuns starts r.sizes))] ∧
      ∃ q, (s.ringRequest r).poolSt? r.pool = some q ∧ q.free = free := by
  unfold State.ringRequest State.serveRemote
  simp only [hun, hp, hps, hready, hal, Bool.not_true, Bool.or_self, Bool.false_eq_true, if_false]
  refine ⟨(sameWork_takeGrant ..).field State.grants, ?_⟩
  rw [State.poolSt?_congr (State.takeGrant_pools ..)]
  exact ⟨_, poolSt?_updPool (f := fun q => { q with free := free, used := (grantRuns starts r.sizes).foldl (fun l r => insertRun r l) q.used }) hps rfl,
    rfl⟩

theorem exec_dieRingRelease_unnamed {t : Time} {pool a n : Nat} {s : State} (h : s.clksLost [.eclk] = false) :
    exec (.dieRingSectorRelease t pool a n true none) s = .next ((s.timed t).discardSectors pool a n).settle :=
  congrArg (fun u : State => Host.Outcome.next u.settle) (State.crossing_of_running (s := s.timed t) h)

/-- Sectors that no entry named, on a channel that is not mapped out, are free at once. -/
theorem State.poolSt?_discardSectors {s : State} {id a n : Nat} {p : Pool} {ps : PoolSt} (hp : s.pool? id = some p)
    (hps : s.poolSt? id = some ps) (ho : s.onMappedOut p a = false) :
    (s.discardSectors id a n).poolSt? id =
      some { ps with used := cutRuns a (a + n) ps.used, free := joinFree p (insertRun (a, n) ps.free) } := by
  unfold State.discardSectors
  simp only [hp, ho, Bool.false_eq_true, if_false]
  rw [State.poolSt?_congr ((State.writeMap_pools ..).trans (State.found_pools ..))]
  exact poolSt?_updPool (f := fun ps => { ps with used := cutRuns a (a + n) ps.used, free := joinFree p (insertRun (a, n) ps.free) }) hps rfl

/-- A read that waits for an entry that has changed does not fill the cache. -/
theorem State.entryChanged_noFill {a : Nat} {s : State} {j : RJob} (hj : j ∈ (s.entryChanged a).rjobs) (hst : j.stage = .entry)
    (ha : entryAddr j.trec j.tile = a) : j.noFill = true := by
  obtain ⟨k, -, rfl⟩ := List.mem_map.mp hj
  by_cases hk : (k.stage == .entry && entryAddr k.trec k.tile == a) = true
  · rw [if_pos hk]
  · rw [if_neg hk] at hst ha
    exact absurd (by simp [hst, ha]) hk

/-- Settles O44. -/
theorem dieRingMessages : Obligations.DieRingMessages := by
  unfold Obligations.DieRingMessages
  intro t s hclk
  refine ⟨fun c ho ha => ?_, fun c ho ha => ?_, fun c ho ha hl => ?_, fun c ho h => ?_, fun c ho => ?_, fun r h => ?_,
    fun r p ps starts free skew hun hp hps hready hal => ?_, fun a => ?_, fun p q hq => ?_, fun pool start size p ps hp hps ho => ?_⟩
  · refine settles_of_eq (exec_dieRingCommit hclk) ((State.queueRemote_write ho).trans (if_neg fun h => Bool.false_ne_true (ha.symm.trans h))) ?_
    exact ⟨_, rfl, rfl, rfl, rfl, rfl, rfl, rfl, rfl, rfl, rfl, rfl⟩
  · refine settles_of_eq (exec_dieRingCommit hclk) (((State.queueRemote_write ho).trans (if_pos ha)).trans (State.answer_eq ..)) ?_
    exact ⟨rfl, rfl⟩
  · have hno : ((s.timed t).turnsAway c || (s.timed t).lockTaken c) = false := by
      rw [Bool.or_eq_false_iff]
      exact ⟨ha, hl⟩
    refine settles_of_eq (exec_dieRingCommit hclk)
      (((State.queueRemote_lock ho).trans (if_neg (by rw [hno]; exact Bool.false_ne_true))).trans (State.answer_eq ..)) ?_
    exact ⟨rfl, List.mem_append_right _ (List.mem_singleton.mpr rfl), rfl⟩
  · have hyes : ((s.timed t).turnsAway c || (s.timed t).lockTaken c) = true := by
      rw [Bool.or_eq_true]
      exact h
    refine settles_of_eq (exec_dieRingCommit hclk) (((State.queueRemote_lock ho).trans (if_pos hyes)).trans (State.answer_eq ..)) ?_
    exact ⟨rfl, rfl, rfl⟩
  · exact settles_of_eq (exec_dieRingCommit hclk) (State.queueRemote_unlock ho) ⟨rfl, rfl, rfl⟩
  · refine settles_of_eq (exec_dieRingSectorRequest hclk) ((State.ringRequest_unavailable (s := s.timed t) h).trans (State.answer_eq ..)) ?_
    exact ⟨rfl, rfl⟩
  · exact settles_of_eq (exec_dieRingSectorRequest hclk) rfl (State.ringRequest_granted (s := s.timed t) hun hp hps hready hal)
  · refine runs_of_eq (congrArg Host.Outcome.next (State.crossing_of_running (s := s.timed t) hclk)) rfl ⟨rfl, fun j hj hst ha => ?_⟩
    exact State.entryChanged_noFill hj hst ha
  · refine congrArg Host.Outcome.next ((State.crossing_of_running (s := s.timed t) hclk).trans ?_)
    unfold State.ringIdent
    simp only [show (s.timed t).ownIdent = some q from hq, State.sendRing_eq]
    rfl
  · exact settles_of_eq (exec_dieRingRelease_unnamed hclk) rfl ⟨_, State.poolSt?_discardSectors (s := s.timed t) hp hps ho, rfl, rfl, rfl⟩

end Sys2Proof.Machine
end

section
/-! SUPPORT. A contribution of another cluster (01_five_levels R19, R35; 08_accumulation R294). -/

namespace Sys2Proof.Machine

/-! ### Requests that are not for some work -/

/-- No outstanding request is for the work that p names. -/
def State.NoReqs (p : Purpose → Bool) (s : State) : Prop := ∀ q ∈ s.reqs, p q.purpose = false

theorem State.NoReqs.of_reqs {p : Purpose → Bool} {s t : State} (h : s.NoReqs p) (ht : t.reqs = s.reqs) : t.NoReqs p := by
  unfold State.NoReqs
  rw [ht]
  exact h

theorem State.NoReqs.issue {p : Purpose → Bool} {s : State} (h : s.NoReqs p) {r : MemReq} (hr : p r.purpose = false) : (s.issue r).NoReqs p := by
  unfold State.issue
  split
  · dsimp only
    split <;> exact h
  · split
    · intro q hq
      obtain hq | hq := List.mem_append.mp hq
      · exact h q hq
      · rw [List.mem_singleton.mp hq]
        exact hr
    · exact h

theorem State.noReqs_forAll {α : Type} {p : Purpose → Bool} {f : α → State → State} (hf : ∀ a t, State.NoReqs p t → State.NoReqs p (f a t))
    (l : List α) {s : State} (h : s.NoReqs p) : State.NoReqs p (forAll l f s) :=
  keeps_foldl (R := State.NoReqs p) (fun t a h => hf a t h) h

theorem State.NoReqs.readSpan {p : Purpose → Bool} {s : State} (h : s.NoReqs p) (addr n : Nat) {why : Nat → Purpose}
    (hw : ∀ a, p (why a) = false) : (s.readSpan addr n why).NoReqs p :=
  State.noReqs_forAll (fun q _ ht => ht.issue (r := newReq q.1 .read q.2.1 q.2.2 [] (why q.2.1)) (hw q.2.1)) _ (s := s.choseN _) h

theorem State.NoReqs.writeSpan {p : Purpose → Bool} {s : State} (h : s.NoReqs p) (addr : Nat) (data : List Byte) {why : Purpose}
    (hw : p why = false) : (s.writeSpan addr data why).NoReqs p :=
  State.noReqs_forAll (fun q _ ht => ht.issue
    (r := newReq q.1 .write q.2.1 q.2.2 (slice data (q.2.1 - addr) (64 * q.2.2)) why) hw) _ (s := s.choseN _) h

/-- What is written to a space and read back from it serves the space. -/
theorem State.NoReqs.spillGo {p : Purpose → Bool} {s : State} (h : s.NoReqs p) (id : Nat) (hw : p (.spillWrite id) = false)
    (hr : p (.spillRead id) = false) : (s.spillGo id).NoReqs p := by
  unfold State.spillGo
  split
  · exact h
  · next x _ =>
    dsimp only
    split
    · exact h
    · generalize hv : forAll x.dirty _ _ = v
      have hvp : v.NoReqs p := by
        rw [← hv]
        exact State.noReqs_forAll (fun _ t ht => State.NoReqs.writeSpan (s := t.updSpill _ _) ht _ _ hw) _ (s := s.updSpill _ _) h
      split
      · exact hvp
      · exact State.NoReqs.readSpan (s := v.updSpill _ _) hvp _ _ fun _ => hr

theorem State.NoReqs.spillStore {p : Purpose → Bool} {s : State} (h : s.NoReqs p) (o : SpillOf) (off n : Nat)
    (hw : ∀ id, p (.spillWrite id) = false) (hr : ∀ id, p (.spillRead id) = false) : (s.spillStore o off n).NoReqs p := by
  unfold State.spillStore
  split
  · exact h
  · exact State.NoReqs.spillGo (s := s.updSpill _ _) h _ (hw _) (hr _)

/-- The requests of some work that are withdrawn are gone. -/
theorem State.noReqs_dropReqs {p : Purpose → Bool} (hd : p .discarded = false) (s : State) : (s.dropReqs p).NoReqs p := by
  intro q hq
  obtain ⟨r, -, rfl⟩ := List.mem_map.mp hq
  by_cases hr : p r.purpose = true
  · rw [if_pos hr]
    exact hd
  · rw [if_neg hr]
    exact Bool.eq_false_iff.mpr hr

/-! ### The contribution -/

theorem exec_dieRingContribution {t : Time} {acc k : Nat} {entry : BitVec 128} {payload : List Byte} {s : State} (h : s.clksLost [.eclk] = false) :
    exec (.dieRingContribution t acc k entry payload none) s = .next ((s.timed t).contribution acc k entry payload).settle :=
  congrArg (fun u : State => Host.Outcome.next u.settle) (State.crossing_of_running (s := s.timed t) h)

/-- The read of an addend. -/
def RJob.addendOf (acc k : Nat) (j : RJob) : Bool :=
  match j.use with
  | .addend a x _ => a == acc && x == k
  | _ => false

/-- The read of the addend that has come is not made any more. -/
def State.addendComes (j : RJob) (entry : BitVec 128) (s : State) : State :=
  (s.dropReqs (Purpose.ofRead j.id)).updR j.id fun x => { x with entry := entry }

/-- A read whose payload is there. -/
def RJob.holds (entry : BitVec 128) (payload : List Byte) (j : RJob) : RJob :=
  { j with stage := .ready, buf := (List.range (entLen entry)).map fun i => (i, slice payload (64 * i) 64) }

section
variable {s : State} {acc k : Nat} {entry : BitVec 128} {j : RJob} (payload : List Byte)
  (hj : s.rjobs.find? (RJob.addendOf acc k) = some j)
include hj

theorem State.contribution_zero (he : entState entry = 0) :
    s.contribution acc k entry payload = (s.addendComes j entry).readEnds { j with entry := entry } .zero := by
  unfold State.contribution
  split
  · next hnone => exact absurd (hj.symm.trans hnone) nofun
  · next i hi =>
    obtain rfl : j = i := Option.some.inj (hj.symm.trans hi)
    exact if_pos he

theorem State.contribution_room {t : State} (he : entState entry ≠ 0) (hroom : s.makeRoomFor (.payload j.id) (64 * entLen entry) 1 = (t, true)) :
    s.contribution acc k entry payload =
      (((t.addendComes j entry).spillFound j.stream).updR j.id (RJob.holds entry payload)).spillStore (.payload j.id) 0 (entLen entry) := by
  unfold State.contribution
  split
  · next hnone => exact absurd (hj.symm.trans hnone) nofun
  · next i hi =>
    obtain rfl : j = i := Option.some.inj (hj.symm.trans hi)
    rw [hroom]
    exact if_neg he

theorem State.contribution_noRoom {t : State} (he : entState entry ≠ 0) (hroom : s.makeRoomFor (.payload j.id) (64 * entLen entry) 1 = (t, false)) :
    s.contribution acc k entry payload = t.spillStall j.stream true := by
  unfold State.contribution
  split
  · next hnone => exact absurd (hj.symm.trans hnone) nofun
  · next i hi =>
    obtain rfl : j = i := Option.some.inj (hj.symm.trans hi)
    rw [hroom]
    exact if_neg he

end

/-- The reading of an addend ends: its read is over, and the addend of its accumulator tile has it. -/
theorem State.readEnds_addend {s : State} {j : RJob} {acc k part : Nat} {d : Dec} (hu : j.use = .addend acc k part) :
    (∀ z ∈ (s.readEnds j d).rjobs, z.id ≠ j.id) ∧ ∀ a r, s.acc? acc = some a → s.run? j.stream j.seq = some r →
      (s.readEnds j d).acc? acc =
        some { a with held := updWhere (fun p => p.k == k) (Addend.got part d (decMaxExp (recType j.trec) d)) a.held } := by
  have hzero : s.zeroDensity j d = s := by
    unfold State.zeroDensity
    rw [hu]
    cases d <;> rfl
  have hdrop : ∀ z ∈ (s.dropR j.id).rjobs, z.id ≠ j.id := fun z hz => by
    simpa using (List.mem_filter.mp hz).2
  have hhold : ∀ v : State, (v.holdSource acc k j).rjobs = v.rjobs ∧ (v.holdSource acc k j).accs = v.accs := fun v => by
    unfold State.holdSource
    dsimp only
    split <;> exact ⟨rfl, rfl⟩
  unfold State.readEnds
  rw [hzero]
  dsimp only
  split
  · next hnone => exact ⟨hdrop, fun a r _ hr => absurd (hr.symm.trans hnone) nofun⟩
  · simp only [hu]
    refine ⟨fun z hz => hdrop z ((hhold (s.dropR j.id)).1 ▸ hz), fun a r ha _ => ?_⟩
    refine acc?_updA (f := fun x => { x with held := updWhere (fun p => p.k == k) (Addend.got part d (decMaxExp (recType j.trec) d)) x.held }) ?_ rfl
    rw [State.acc?, (hhold (s.dropR j.id)).2]
    exact ha

theorem Purpose.ofRead_discarded (id : Nat) : Purpose.ofRead id .discarded = false := rfl

/-- Settles O47: the entry, and the room for its payload. -/
theorem dieRingContribution : Obligations.DieRingContribution := by
  unfold Obligations.DieRingContribution
  intro t acc k part entry payload j s hfind hu hj hclk
  refine ⟨fun he => ?_, fun he hroom => ?_, fun he hroom => ?_⟩
  · exact settles_of_eq (exec_dieRingContribution hclk) (State.contribution_zero (s := s.timed t) payload hfind he)
      (State.readEnds_addend (s := (s.timed t).addendComes j entry) (j := { j with entry := entry }) hu)
  · cases hv : (s.timed t).makeRoomFor (.payload j.id) (64 * entLen entry) 1 with
    | mk v b =>
      obtain rfl : b = true := (congrArg Prod.snd hv).symm.trans hroom
      have hsame := sameWork_makeRoomFor (.payload j.id) (64 * entLen entry) 1 (s.timed t)
      rw [hv] at hsame
      have hcome : (v.addendComes j entry).rjob? j.id = some { j with entry := entry } :=
        rjob?_updR (s := v.dropReqs (Purpose.ofRead j.id)) (f := fun x => { x with entry := entry }) ((hsame.rjob? j.id).trans hj) rfl
      refine settles_of_eq (exec_dieRingContribution hclk) (State.contribution_room (s := s.timed t) payload hfind he hv) ⟨?_, ?_⟩
      · rw [(sameWork_spillStore ..).rjob?]
        exact ⟨_, rjob?_updR (s := (v.addendComes j entry).spillFound j.stream) (f := RJob.holds entry payload) hcome rfl, rfl, rfl, rfl⟩
      · exact State.NoReqs.spillStore (p := Purpose.ofRead j.id)
          (s := ((v.addendComes j entry).spillFound j.stream).updR j.id (RJob.holds entry payload))
          (State.noReqs_dropReqs (Purpose.ofRead_discarded j.id) v) _ _ _ (fun _ => rfl) fun _ => rfl
  · cases hv : (s.timed t).makeRoomFor (.payload j.id) (64 * entLen entry) 1 with
    | mk v b =>
      obtain rfl : b = false := (congrArg Prod.snd hv).symm.trans hroom
      have hsame := sameWork_makeRoomFor (.payload j.id) (64 * entLen entry) 1 (s.timed t)
      rw [hv] at hsame
      refine settles_of_eq (exec_dieRingContribution hclk) (State.contribution_noRoom (s := s.timed t) payload hfind he hv) ?_
      have hstall : (v.spillStall j.stream true).rjobs = v.rjobs ∧ (v.spillStall j.stream true).accs = v.accs := by
        unfold State.spillStall State.spillRec
        dsimp only
        split <;> simp
      exact ⟨hstall.1.trans hsame.rjobs, hstall.2.trans hsame.accs⟩

end Sys2Proof.Machine
end

section
/-! SUPPORT. Accumulator tiles: addition, recomputation and drain (08_accumulation R292 to R312; 11_integrity R427). -/

namespace Sys2Proof.Machine

/-! ### Addition -/

theorem exec_accumulatorAdd {t : Time} {id k : Nat} {s : State} (h : s.clksLost [.eclk] = false) :
    exec (.accumulatorAdd t id k []) s = .next ((s.timed t).accAdd id k []).settle :=
  congrArg (fun u : State => Host.Outcome.next u.settle) (State.clocked_of_running (s := s.timed t) h)

/-- An accumulator tile to which an addend has been added. -/
def AccTile.added (p : Addend) (a : AccTile) : AccTile :=
  ({ a with acc := (a.acc.add p false).acc, held := updWhere (fun q => q.k == p.k) (fun q => { q with added := true }) a.held } : AccTile).checked

theorem AccTile.checked_fields (a : AccTile) :
    a.checked.id = a.id ∧ a.checked.acc = a.acc ∧ a.checked.core = a.core ∧ a.checked.failed = a.failed ∧ a.checked.held = a.held := by
  unfold AccTile.checked
  split <;> exact ⟨rfl, rfl, rfl, rfl, rfl⟩

theorem AccTile.checked_faulted {a : AccTile} (h : a.faulted = none) :
    a.checked.faulted = (mismatch a.acc.content a.acc.residue).map fun e => (4, e, 0) := by
  unfold AccTile.checked
  split
  · next e he => rw [he]; rfl
  · next he => rw [he, h]; rfl

theorem State.accAdd_held {s : State} {id k : Nat} {a : AccTile} {p : Addend} (ha : s.acc? id = some a) (hw : s.accWorks a = true)
    (hfix : a.fixedAdds = []) (hp : (a.held.find? fun x => x.k == k && x.complete && !x.bad && !x.added) = some p) (hlost : p.lost = false)
    (hanchor : (a.acc.integer && p.wrongAnchor) = false) :
    s.accAdd id k [] = (s.addCounts (a.acc.add p false)).updA a.id fun x => ({ x with
      acc := (a.acc.add p false).acc, held := updWhere (fun q => q.k == p.k) (fun q => { q with added := true }) x.held } : AccTile).checked := by
  unfold State.accAdd
  simp only [ha, hw, hfix, hp, State.addHeld, hlost, hanchor, Bool.not_true, Bool.false_eq_true, if_false, or_self]
  rfl

/-! ### Recomputation -/

theorem exec_recomputeDone {t : Time} {id : Nat} {pass : Bool} {s : State} (h : s.clksLost [.eclk] = false) :
    exec (.recomputeDone t id pass) s = .next ((s.timed t).recomputed id pass).settle :=
  congrArg (fun u : State => Host.Outcome.next u.settle) (State.clocked_of_running (s := s.timed t) h)

theorem State.acc?_congr {s t : State} (h : t.accs = s.accs) (id : Nat) : t.acc? id = s.acc? id := by
  simp only [State.acc?, h]

theorem State.coreFault_accs (c : Fin 16) (s : State) : (s.coreFault c).accs = s.accs := by
  unfold State.coreFault
  dsimp only
  split
  · rfl
  · simp

theorem State.coreFaults_accs (l : List (Fin 16)) (s : State) : (forAll l (fun c s => s.coreFault c) s).accs = s.accs :=
  keeps_foldl (R := fun t : State => t.accs = s.accs) (fun t c h => (t.coreFault_accs c).trans h) rfl

theorem State.recomputeRec_accs (a : AccTile) (sev : Sev) (recAddr : Nat) (s : State) : (s.recomputeRec a sev recAddr).accs = s.accs := by
  unfold State.recomputeRec
  split
  · rfl
  · exact (sameButErr_workReport ..).accs

/-- An accumulator tile after the record of a recomputation and the fault counts of cores. -/
theorem State.acc?_recomputed {s : State} {id : Nat} {a : AccTile} (ha : s.acc? id = some a) (l : List (Fin 16)) (sev : Sev) (recAddr : Nat)
    {f : AccTile → AccTile} (hf : (f a).id = a.id) :
    (forAll l (fun c s => s.coreFault c) ((s.recomputeRec a sev recAddr).updA id f)).acc? id = some (f a) :=
  (State.acc?_congr (State.coreFaults_accs l _) id).trans
    (acc?_updA ((State.acc?_congr (State.recomputeRec_accs a sev recAddr s) id).trans ha) hf)

/-- The core role that the recomputation of an accumulator tile needs. -/
def State.accNeed (s : State) (a : AccTile) : Need :=
  reduceNeed (((s.run? a.stream a.seq).map Run.desc).bind fun x => if dKind x = 0x21 then descPort x else none)

/-- A recomputation whose sources are back on a core: it passes, is done once more, or fails the tile. -/
theorem State.recomputed_decides {s : State} {id : Nat} {a : AccTile} {fault : Nat × Nat × Nat} {c : Fin 16} (ha : s.acc? id = some a)
    (hf : a.faulted = some fault) (hback : ∀ x ∈ s.stagedSources id, x.came = true ∧ x.poison = none)
    (hc : s.recomputeCore a (s.accNeed a) = some c) (pass : Bool) :
    ∃ b, (s.recomputed id pass).acc? id = some b ∧
      b = if (pass && !a.held.any fun p => p.lost) = true then { a with acc := a.acc.recomputed, core := c, faulted := none, cores := [], tries := 0 }
        else if a.tries = 0 ∧ (!a.held.any fun p => p.lost) = true then { a with cores := a.cores ++ [c], tries := 1 }
        else { a with failed := true, faulted := none } := by
  have hcame : ((s.stagedSources id).any fun x => !x.came) = false := List.any_eq_false.mpr fun x hx => by simp [(hback x hx).1]
  have hpoison : ((s.stagedSources id).any fun x => x.poison.isSome) = false := List.any_eq_false.mpr fun x hx => by simp [(hback x hx).2]
  have hc' : s.recomputeCore a (reduceNeed (((s.run? a.stream a.seq).map Run.desc).bind fun x =>
    if dKind x = 0x21 then descPort x else none)) = some c := hc
  unfold State.recomputed
  simp only [ha, hf, Option.isNone_some, hcame, hpoison, Bool.or_false, Bool.false_eq_true, if_false, hc']
  split
  · exact ⟨_, State.acc?_recomputed ha _ _ _ (f := fun x => { x with
      acc := x.acc.recomputed, core := c, faulted := none, cores := [], tries := 0 }) rfl, rfl⟩
  · split
    · exact ⟨_, acc?_updA (f := fun x => { x with cores := x.cores ++ [c], tries := 1 }) ha rfl, by rw [← hf]⟩
    · exact ⟨_, State.acc?_recomputed ha _ _ _ (f := fun x => { x with failed := true, faulted := none }) rfl, rfl⟩

/-! ### Write jobs that join -/

/-- What a write job is for. -/
def WJob.what (w : WJob) : WFrom × Nat × Nat × BitVec 1024 := (w.src, w.tile, w.unit, w.trec)

/-- From s to t write jobs for the tiles of a list have joined; but for records, requests, free lists and counters nothing else has changed. -/
def JobsJoin (l : List (WFrom × Nat × Nat × BitVec 1024)) (s t : State) : Prop :=
  SameButErr { s with wjobs := t.wjobs } t ∧ t.wjobs.map WJob.what = s.wjobs.map WJob.what ++ l

theorem JobsJoin.trans {l m : List (WFrom × Nat × Nat × BitVec 1024)} {s t u : State} (h : JobsJoin l s t) (k : JobsJoin m t u) :
    JobsJoin (l ++ m) s u := by
  refine ⟨SameButErr.trans (t := { t with wjobs := u.wjobs }) ?_ k.1, by rw [k.2, h.2, List.append_assoc]⟩
  have h' : ({ t.offMemory with wjobs := u.wjobs } : State) =
      { ({ ({ s with wjobs := t.wjobs } : State) with err := t.err } : State).offMemory with wjobs := u.wjobs } :=
    congrArg (fun v : State => ({ v with wjobs := u.wjobs } : State)) h.1
  exact h'

theorem SameButErr.jobsJoin {s t : State} (h : SameButErr s t) : JobsJoin [] s t := by
  have hw := h.wjobs
  change t.wjobs = s.wjobs at hw
  refine ⟨?_, by rw [hw, List.append_nil]⟩
  rw [hw]
  exact h

theorem SameWork.jobsJoin {s t : State} (h : SameWork s t) : JobsJoin [] s t := h.sameButErr.jobsJoin

theorem jobsJoin_updW (id : Nat) {f : WJob → WJob} (hf : ∀ w, (f w).what = w.what) (s : State) : JobsJoin [] s (s.updW id f) :=
  ⟨SameButErr.refl _, by rw [List.append_nil]; exact map_updFirst_same hf s.wjobs⟩

theorem jobsJoin_addW (w : WJob) (s : State) : JobsJoin [w.what] s (s.addW w) := ⟨SameButErr.refl _, by simp [State.addW]⟩

theorem jobsJoin_forAll {α : Type} {g : α → WFrom × Nat × Nat × BitVec 1024} {f : α → State → State} (hf : ∀ a t, JobsJoin [g a] t (f a t))
    (l : List α) (s : State) : JobsJoin (l.map g) s (forAll l f s) := by
  induction l generalizing s with
  | nil => exact (SameButErr.refl s).jobsJoin
  | cons a l ih => exact (hf a s).trans (ih (f a s))

theorem sameWork_quantCounts (q : QTile) (s : State) : SameWork s (s.quantCounts q) :=
  ((sameWork_bumpN .quantDirected _ s).trans (sameWork_bumpN .quantNonfinite _ _)).trans (sameWork_bumpN .quantGroups _ _)

/-- A tile that is quantised without a fault waits for an engine or for its residual tiles. -/
theorem jobsJoin_quantiseTile (id : Nat) (s : State) : JobsJoin [] s (s.quantiseTile id []) := by
  have hready : ∀ (v : State) (img : List Byte) (q : Nat) (rs : List (List Byte)), SameWork s v →
      JobsJoin [] s ((v.updW id fun x => x.imageReady img q rs).storeImage id) := fun v img q rs hv =>
    (hv.jobsJoin.trans (jobsJoin_updW id (f := fun x => x.imageReady img q rs) (fun _ => rfl) v)).trans (sameWork_spillStore ..).jobsJoin
  unfold State.quantiseTile
  split
  · exact (SameButErr.refl s).jobsJoin
  · dsimp only
    split
    · exact hready s _ _ _ (SameWork.refl s)
    · split
      · exact jobsJoin_updW id (f := fun x => { x with stage := .carry 0 }) (fun _ => rfl) s
      · have hq : s.quantFaults id [] = (s, true) := rfl
        rw [hq]
        exact hready _ _ _ _ (sameWork_quantCounts _ s)

theorem sameButErr_boundRec (n : Nat) (seq : Word) (recAddr tile : Nat) (b : Option (Int × Int)) (s : State) :
    SameButErr s (s.boundRec n seq recAddr tile b) := by
  unfold State.boundRec
  split
  · exact SameButErr.refl s
  · exact (sameWork_bumpN .plausFlag 1 s).sameButErr.trans (sameButErr_workReport ..)

/-! ### Drain -/

theorem exec_accumulatorDrain {t : Time} {id : Nat} {s : State} (h : s.clksLost [.eclk] = false) :
    exec (.accumulatorDrain t id []) s = .next ((s.timed t).accDrain id []).settle :=
  congrArg (fun u : State => Host.Outcome.next u.settle) (State.clocked_of_running (s := s.timed t) h)

theorem sameWork_makeRooms (used k : Nat) (l : List (SpillOf × Nat)) (s : State) : SameWork s (s.makeRooms used k l).1 := by
  induction l generalizing used k s with
  | nil => exact sameWork_bumpN ..
  | cons x l ih =>
    unfold State.makeRooms
    split
    · exact ih ..
    · split
      · exact ih ..
      · have h := sameWork_spillSpace x.1 (ceilDiv x.2 64) s
        split
        · next t ht => rw [ht] at h; exact SameWork.trans (t := t) h (ih ..)
        · next t ht => rw [ht] at h; exact h

theorem sameWork_imageRooms (n : Nat) (s : State) : SameWork s (s.imageRooms n).1 := by
  have h := sameWork_makeRooms 0 0 ((List.range n).map fun i => (.image (s.nextId + i), 4096)) { s with nextId := s.nextId + n }
  unfold State.imageRooms
  split
  · next t ht => rw [ht] at h; exact SameWork.trans (t := { s with nextId := s.nextId + n }) rfl h
  · next t ht => rw [ht] at h; exact SameWork.trans (t := { s with nextId := s.nextId + n }) rfl h

theorem State.spillStall_work (n : Nat) (staging : Bool) (s : State) :
    (s.spillStall n staging).accs = s.accs ∧ (s.spillStall n staging).wjobs = s.wjobs := by
  unfold State.spillStall State.spillRec
  dsimp only
  split <;> simp

/-- An accumulator tile that drains to its tensor. -/
theorem State.accDrain_own {s : State} {id : Nat} {a : AccTile} (ha : s.acc? id = some a) (hw : s.accWorks a = true) (hin : a.allIn = true)
    (hchunk : a.chunk = none) : s.accDrain id [] = (s.drainOwn a []).1 := by
  unfold State.accDrain
  simp only [ha, hw, hin, Bool.not_true, Bool.or_self, Bool.false_eq_true, if_false]
  change s.drainDue a [] = _
  unfold State.drainDue
  rw [hchunk]

theorem State.drainOwn_noRoom {s : State} {a : AccTile} (h : (s.imageRooms a.dests.length).2 = none) :
    (s.drainOwn a []).1 = (s.imageRooms a.dests.length).1.spillStall a.stream true := by
  unfold State.drainOwn State.drainRoom
  cases hr : s.imageRooms a.dests.length with
  | mk t o =>
    rw [hr] at h
    obtain rfl : o = none := h
    rfl

theorem State.drainOwn_room {s : State} {a : AccTile} (hchunk : a.chunk = none) (h : (s.imageRooms a.dests.length).2.isSome = true) :
    ∃ base, (s.drainOwn a []).1 = ((s.imageRooms a.dests.length).1.spillFound a.stream).drainAcc a base [] := by
  unfold State.drainOwn State.drainRoom
  rw [hchunk]
  cases hr : s.imageRooms a.dests.length with
  | mk t o =>
    rw [hr] at h
    obtain ⟨base, hb⟩ := Option.isSome_iff_exists.mp h
    obtain rfl : o = some base := hb
    exact ⟨base, rfl⟩

/-- Each tile that an accumulator tile covers becomes a write job. -/
theorem State.drainAcc_after {s : State} {a : AccTile} {r : Run} (base : Nat) (hr : s.run? a.stream a.seq = some r) :
    JobsJoin ((List.zip (a.acc.drain a.etype) a.dests).zipIdx.map fun x => (.drain a.id, x.1.2, a.unit + x.2, r.rec1)) (s.dropA a.id)
      (s.drainAcc a base []) := by
  unfold State.drainAcc
  simp only [hr]
  refine JobsJoin.trans (l := []) (t := State.dropA a.id (State.bumpN .intSat _ (State.bumpN .drainOvf _ s))) ?_
    (jobsJoin_forAll (fun x v => ?_) _ _)
  · exact SameWork.jobsJoin rfl
  · exact (((sameButErr_boundRec ..).jobsJoin.trans (jobsJoin_addW _ _)).trans (jobsJoin_quantiseTile _ _))

/-- Settles O48. -/
theorem accumulatorSteps : Obligations.AccumulatorSteps := by
  unfold Obligations.AccumulatorSteps
  intro t id a s ha hclk
  have haid : a.id = id := by simpa using List.find?_some ha
  refine ⟨fun k p hw hfix hp hlost hanchor => ?_, fun fault c hf hback hc => ⟨fun hl => ?_, fun hl pass => ?_, fun hl htry => ?_, fun htry => ?_⟩,
    fun hw hin hchunk hroom => ?_, fun r hw hin hchunk hr hroom => ?_⟩
  · have hworks := hw
    simp only [State.accWorks, Bool.and_eq_true, Bool.not_eq_true', Option.isNone_iff_eq_none] at hworks
    obtain ⟨⟨⟨⟨⟨hfailed, -⟩, hfault⟩, -⟩, -⟩, -⟩ := hworks
    have hk : p.k = k := by
      have h := List.find?_some hp
      simp only [Bool.and_eq_true, beq_iff_eq] at h
      exact h.1.1.1
    obtain ⟨h1, h2, h3, h4, h5⟩ := AccTile.checked_fields { a with
      acc := (a.acc.add p false).acc, held := updWhere (fun q => q.k == p.k) (fun q => { q with added := true }) a.held }
    refine settles_of_eq (exec_accumulatorAdd hclk) (State.accAdd_held (s := s.timed t) ha hw hfix hp hlost hanchor) ⟨a.added p, ?_, h2, h3,
      h4.trans hfailed, AccTile.checked_faulted hfault, fun x hx hxk => ?_⟩
    · rw [haid]
      exact acc?_updA (s := (s.timed t).addCounts _) (f := fun x => ({ x with
        acc := (a.acc.add p false).acc, held := updWhere (fun q => q.k == p.k) (fun q => { q with added := true }) x.held } : AccTile).checked) ha h1
    · rw [AccTile.added, h5] at hx
      obtain ⟨y, -, rfl⟩ := List.mem_map.mp hx
      by_cases hy : (y.k == p.k) = true
      · rw [if_pos hy]
      · rw [if_neg hy] at hxk
        exact absurd (by simp [hxk, hk]) hy
  · obtain ⟨b, hb, rfl⟩ := State.recomputed_decides (s := s.timed t) ha hf hback hc true
    rw [hl] at hb
    exact settles_of_eq (exec_recomputeDone hclk) rfl ⟨_, hb, rfl, rfl, rfl, rfl⟩
  · obtain ⟨b, hb, rfl⟩ := State.recomputed_decides (s := s.timed t) ha hf hback hc pass
    simp only [hl, Bool.not_true, Bool.and_false, Bool.false_eq_true, and_false, if_false] at hb
    exact settles_of_eq (exec_recomputeDone hclk) rfl ⟨_, hb, rfl, rfl⟩
  · obtain ⟨b, hb, rfl⟩ := State.recomputed_decides (s := s.timed t) ha hf hback hc false
    simp only [hl, htry, Bool.not_false, Bool.false_and, Bool.false_eq_true, and_self, if_false, if_true] at hb
    exact settles_of_eq (exec_recomputeDone hclk) rfl ⟨_, hb, hf, rfl, rfl, rfl⟩
  · obtain ⟨b, hb, rfl⟩ := State.recomputed_decides (s := s.timed t) ha hf hback hc false
    simp only [htry, Bool.false_and, Bool.false_eq_true, false_and, if_false] at hb
    exact settles_of_eq (exec_recomputeDone hclk) rfl ⟨_, hb, rfl, rfl⟩
  · have hsame := sameWork_imageRooms a.dests.length (s.timed t)
    obtain ⟨h1, h2⟩ := State.spillStall_work a.stream true ((s.timed t).imageRooms a.dests.length).1
    exact settles_of_eq (exec_accumulatorDrain hclk)
      ((State.accDrain_own (s := s.timed t) ha hw hin hchunk).trans (State.drainOwn_noRoom hroom)) ⟨h1.trans hsame.accs, h2.trans hsame.wjobs⟩
  · have hsame := sameWork_imageRooms a.dests.length (s.timed t)
    obtain ⟨base, hbase⟩ := State.drainOwn_room (s := s.timed t) hchunk hroom
    have hrun := (hsame.contextsMove.trans (contextsMove_spillFound a.stream _)).run? (n := a.stream) (q := a.seq) (r := r) hr
    obtain ⟨hjoin, hmap⟩ := State.drainAcc_after base hrun
    generalize ((s.timed t).imageRooms a.dests.length).1 = v at *
    refine settles_of_eq (exec_accumulatorDrain hclk) ((State.accDrain_own (s := s.timed t) ha hw hin hchunk).trans hbase) ⟨fun b hb => ?_, ?_,
      fun i x d hi => ?_⟩
    · rw [show State.accs _ = _ from hjoin.accs] at hb
      simpa using (List.mem_filter.mp hb).2
    · have hlen := congrArg List.length hmap
      simp only [List.length_map, List.length_append, List.length_zipIdx, List.length_zip] at hlen
      rw [hlen]
      exact congrArg (fun l : List WJob => l.length + _) hsame.wjobs
    · have hmem : (WFrom.drain a.id, d, a.unit + i, r.rec1) ∈ ((v.spillFound a.stream).drainAcc a base []).wjobs.map WJob.what := by
        rw [hmap]
        refine List.mem_append_right _ (List.mem_map.mpr ⟨((x, d), i), ?_, rfl⟩)
        exact List.mem_zipIdx_iff_getElem?.mpr hi
      obtain ⟨w, hw, hwhat⟩ := List.mem_map.mp hmem
      simp only [WJob.what, Prod.mk.injEq] at hwhat
      obtain ⟨h1, h2, h3, h4⟩ := hwhat
      exact ⟨w, hw, h1, h2, h3, h4⟩

end Sys2Proof.Machine
end

section
/-! SUPPORT. SCATTER_ACC and the Atoll (05_streams_and_order Table 5-16; 08_accumulation R320 to R330, Table 8-6). -/

namespace Sys2Proof.Machine

/-! ### Reading -/

theorem State.runInside_none (n k : Nat) (s : State) : s.runInside n k (fun _ => false) = none := by
  unfold State.runInside
  cases s.stream? n with
  | none => rfl
  | some x => exact List.find?_eq_none.mpr fun r _ => by simp

theorem exec_scatterAcc {t : Time} {n : Nat} {r : Run} {s : State} (hw : s.working = true) (hf : s.frontRun n (· == 0x11) = some r)
    (hs : r.started = true) (hr : s.run? n r.seq = some r) (hport : s.portOpen r.desc = true) :
    exec (.scatterAcc t n) s = .next ((s.timed t).scatterGo n r).settle := by
  have hwork : (s.timed t).workRun n 0x11 (fun _ => false) = some r := by
    unfold State.workRun
    rw [State.runInside_none]
    exact hf
  exact congrArg (fun u : State => Host.Outcome.next u.settle)
    (State.goOn_started (s := s.timed t) (go := State.scatterGo n) hw hwork hs (by decide) hr hport)

/-- The next read of a SCATTER_ACC leaves what holds the Atoll and what reads, and counts while updates are left. -/
theorem State.scatterRead_after {s : State} {n : Nat} {r : Run} (hr : s.run? n r.seq = some r) :
    (s.scatterRead n r).readers = s.readers ∧ (s.scatterRead n r).scatter = s.scatter ∧
      (r.sub / (1 + segsPerTile r.rec2 / 16) * segsPerTile r.rec2 < dCount r.desc →
        ∃ y, (s.scatterRead n r).run? n r.seq = some y ∧ y.sub = r.sub + 1) := by
  have hy : (s.updRun n r.seq fun x => { x with sub := x.sub + 1 }).run? n r.seq = some { r with sub := r.sub + 1 } :=
    run?_updRun (f := fun x => { x with sub := x.sub + 1 }) hr rfl rfl
  have hjoin : ∀ {l} {v : State}, ReadsJoin l (s.updRun n r.seq fun x => { x with sub := x.sub + 1 }) v →
      v.readers = s.readers ∧ v.scatter = s.scatter ∧ (r.sub / (1 + segsPerTile r.rec2 / 16) * segsPerTile r.rec2 < dCount r.desc →
        ∃ y, v.run? n r.seq = some y ∧ y.sub = r.sub + 1) := fun h =>
    ⟨h.1.field State.readers, h.1.field State.scatter, fun _ => ⟨_, (h.run? n r.seq).trans hy, rfl⟩⟩
  unfold State.scatterRead
  dsimp only
  split
  · next hover => exact ⟨rfl, rfl, fun h => absurd h (Nat.not_lt.mpr hover)⟩
  · split
    · exact hjoin ((readsJoin_startRead ..).trans (readsJoin_updR _
        (f := fun j => { j with replay := (s.scat? n).any Scatter.replay }) (fun _ => rfl) _))
    · split
      · exact hjoin (SameWork.refl _).readsJoin
      · exact hjoin (sameWork_readSpan ..).readsJoin

/-! ### The Atoll is asked for, and taken -/

/-- A list of operations that keep P reaches Q, when the one for x does and the others keep it. -/
theorem forAll_reaches {α : Type} {P Q : State → Prop} {f : α → State → State} {x : α} {l : List α} (hP : ∀ a t, P t → P (f a t))
    (hQ : ∀ a t, Q t → Q (f a t)) (hx : ∀ t, P t → Q (f x t)) {s : State} (h : P s) (hmem : x ∈ l) : Q (forAll l f s) := by
  induction l generalizing s with
  | nil => cases hmem
  | cons a l ih =>
    rw [forAll_cons]
    obtain rfl | hmem := List.mem_cons.mp hmem
    · exact keeps_foldl (R := Q) (fun t b ht => hQ b t ht) (hx s h)
    · exact ih (hP a s h) hmem

theorem State.unitWait_keeps (res n kind : Nat) (s : State) :
    (s.unitWait res n kind).streams = s.streams ∧ ∀ w ∈ s.unitWaits, w ∈ (s.unitWait res n kind).unitWaits := by
  unfold State.unitWait
  dsimp only
  split
  · exact ⟨rfl, fun _ hw => hw⟩
  · exact ⟨rfl, fun _ hw => List.mem_append_left _ hw⟩

/-- One whose first update has come asks for the Atoll. -/
theorem State.atollWants_asks {s : State} {x : Scatter} {r : Run} (hr : s.run? x.stream x.seq = some r) (hx : x ∈ s.readers)
    (hcome : x.classify r x.next ≠ .waits) : UnitWait.mk resAtoll x.stream 0x11 ∈ s.atollWants.unitWaits := by
  unfold State.atollWants
  refine forAll_reaches (P := fun t => t.streams = s.streams) (Q := fun t => UnitWait.mk resAtoll x.stream 0x11 ∈ t.unitWaits) (x := x)
    (fun a t ht => ?_) (fun a t ht => ?_) (fun t ht => ?_) rfl (List.mem_filter.mpr ⟨hx, by rw [hr]; rfl⟩)
  · split
    · split
      · exact ht
      · exact (State.unitWait_keeps ..).1.trans ht
    · exact ht
  · split
    · split
      · exact ht
      · exact (State.unitWait_keeps ..).2 _ ht
    · exact ht
  · have hrun := (State.run?_congr ht x.stream x.seq).trans hr
    simp only [hrun, hcome, if_false]
    exact State.mem_unitWait ..

/-! ### One update -/

theorem exec_atollUpdate {t : Time} {n : Nat} {s : State} (h : s.clksLost [.eclk] = false) :
    exec (.atollUpdate t n []) s = .next ((s.timed t).atollUpdate n []).settle :=
  congrArg (fun u : State => Host.Outcome.next u.settle) (State.clocked_of_running (s := s.timed t) h)

section
variable {s : State} {x : Scatter} {r : Run} (hx : s.scatter = some x) (hr : s.run? x.stream x.seq = some r) (hd : x.draining = false)
  (hl : x.limit = false) (hm : s.atollMismatch = none)
include hx hr hd hl hm

theorem State.atollUpdate_cycle (n : Nat) : s.atollUpdate n [] = s.atollCycle x r n := by
  have hfault : s.atollFault (residueOf []) = s := rfl
  unfold State.atollUpdate
  simp only [hx, hr, hd, hl, hfault, hm, Bool.false_eq_true, or_self, if_false]

end

/-- The state after a cycle of one update, whose keys have entered. -/
def State.cycleEnds (x : Scatter) (r : Run) (drops : Nat) (s : State) : State :=
  { ((s.bumpN .dropIndex drops).spillFound x.stream).updRun x.stream x.seq fun y => { y with
      inBytes := y.inBytes + 32 * (elemBits (recType r.rec1) / 8) * 1 } with
    scatter := s.scatter.map fun y => y.passed r.rec2 1 (decide (0 < drops)) }

theorem State.cycleEnds_after {s : State} {y : Scatter} (x : Scatter) (r : Run) (drops : Nat) (hy : s.scatter = some y) :
    (s.cycleEnds x r drops).atoll = s.atoll ∧
      ∃ z, (s.cycleEnds x r drops).scatter = some z ∧ z.next = y.next + 1 ∧ z.dropped = (y.dropped || decide (0 < drops)) :=
  ⟨rfl, y.passed r.rec2 1 (decide (0 < drops)), congrArg (Option.map fun y : Scatter => y.passed r.rec2 1 (decide (0 < drops))) hy, rfl, rfl⟩

section
variable {s : State} {x : Scatter} {r : Run} (hleft : x.next < dCount r.desc)
include hleft

theorem cycle_one : min (min 1 4) (dCount r.desc - x.next) = 1 := by omega

theorem State.atollCycle_drops (h : x.classify r x.next = .dropped) : s.atollCycle x r 1 = s.cycleEnds x r 1 := by
  unfold State.atollCycle
  simp only [cycle_one hleft, List.range_one, List.map_cons, List.map_nil, Nat.add_zero, h]
  rfl

theorem State.atollCycle_nothing (h : x.classify r x.next = .nothing) : s.atollCycle x r 1 = s.cycleEnds x r 0 := by
  unfold State.atollCycle
  simp only [cycle_one hleft, List.range_one, List.map_cons, List.map_nil, Nat.add_zero, h]
  rfl

/-- An update whose entry may take it, and that no spill record holds, enters. -/
theorem State.atollCycle_enters {key : Word} {vs : List Num} (h : x.classify r x.next = .enters key vs) (hfull : s.keyFull key 1 = false)
    (hspill : s.spillKeys [] [(key, [vs])] = []) : s.atollCycle x r 1 = (s.enterKey r key [vs]).cycleEnds x r 0 := by
  have hcome : [Upd.enters key vs].takeWhile (fun c => c != .waits) = [.enters key vs] := rfl
  have hcls : [Upd.enters key vs].takeWhile (fun c => !s.updFull c) = [.enters key vs] := by
    simp [State.updFull, hfull]
  have hkeys : byKey [(key, vs)] = [(key, [vs])] := rfl
  unfold State.atollCycle
  simp only [cycle_one hleft, List.range_one, List.map_cons, List.map_nil, Nat.add_zero, h, hcome, hcls, List.filterMap_cons,
    List.filterMap_nil, hkeys, hspill]
  rfl

end

theorem State.setEntry_mem (e : AtollEntry) (s : State) : e ∈ (s.setEntry e).atoll := mem_upsert

/-- The sum of one update's elements. -/
def oneSum (vs : List Num) : List Num := List.zipWith Num.plus (List.replicate 32 Num.zero) vs

theorem State.enterKey_hits {s : State} {x : Scatter} {e : AtollEntry} (r : Run) {key : Word} (vs : List Num) (hx : s.scatter = some x)
    (he : (s.atoll.find? fun e => e.bucket == atollBucket key && e.key == key) = some e) :
    (e.update (oneSum vs) 1).1 ∈ (s.enterKey r key [vs]).atoll ∧ (s.enterKey r key [vs]).scatter = some x := by
  unfold State.enterKey
  simp only [hx, he, List.foldl_cons, List.foldl_nil]
  exact ⟨State.setEntry_mem .., hx⟩

theorem State.enterKey_new {s : State} {x : Scatter} {w : Nat} (r : Run) {key : Word} (vs : List Num) (hx : s.scatter = some x)
    (he : (s.atoll.find? fun e => e.bucket == atollBucket key && e.key == key) = none)
    (hw : ((List.range 4).find? fun w => !s.atoll.any fun e => e.bucket == atollBucket key && e.way == w) = some w) :
    ((AtollEntry.fresh (atollBucket key) w key (oneSum vs)).update (oneSum vs) 1).1 ∈ (s.enterKey r key [vs]).atoll ∧
      (s.enterKey r key [vs]).scatter = some x := by
  have hway : s.wayOf key = some w := by
    unfold State.wayOf
    simp only [he]
    exact hw
  unfold State.enterKey
  simp only [hx, he, hway, List.foldl_cons, List.foldl_nil]
  exact ⟨State.setEntry_mem .., hx⟩

/-- A key with an entry, or with a way free in its bucket, goes to no spill record. -/
theorem State.spillKeys_none {s : State} {k : Word × List (List Num)}
    (h : (s.atoll.any fun e => e.bucket == atollBucket k.1 && e.key == k.1) = true ∨ (s.atoll.filter fun e => e.bucket == atollBucket k.1).length < 4) :
    s.spillKeys [] [k] = [] := by
  unfold State.spillKeys
  dsimp only
  split
  · rfl
  · next hno => exact if_pos (h.resolve_left hno)

/-! ### The drain -/

theorem exec_atollDrain {t : Time} {s : State} (h : s.clksLost [.eclk] = false) :
    exec (.atollDrain t []) s = .next ((s.timed t).atollDrain).settle :=
  congrArg (fun u : State => Host.Outcome.next u.settle) (State.clocked_of_running (s := s.timed t) h)

/-- The Atoll drains a partition, with those of a list to come. -/
def State.Drains (p : Option Nat) (rest : List Nat) (s : State) : Prop :=
  ∃ y, s.scatter = some y ∧ y.draining = true ∧ y.running = p ∧ y.parts = rest

/-- Tiles that take cores leave the partitions. -/
theorem State.drainTiles_drains {p : Option Nat} {rest : List Nat} (fuel : Nat) {s : State} (h : s.Drains p rest) : (s.drainTiles fuel).Drains p rest := by
  induction fuel generalizing s with
  | zero => exact h
  | succ fuel ih =>
    obtain ⟨y, hy, h1, h2, h3⟩ := h
    unfold State.drainTiles
    simp only [hy]
    split
    · exact ih ⟨_, rfl, h1, h2, h3⟩
    · unfold State.unitWait
      dsimp only
      split <;> exact ⟨y, hy, h1, h2, h3⟩
    · exact ⟨y, hy, h1, h2, h3⟩

section
variable {s : State} {x : Scatter} {r : Run} (hx : s.scatter = some x) (hr : s.run? x.stream x.seq = some r) (hd : x.draining = false)
  (hover : x.updatesOver r = true) (hrun : x.running = none)
include hx hr hd hover hrun

theorem State.atollDrain_begins {p : Nat} {rest : List Nat} (hp : s.heldParts x r.rec1 = p :: rest) : s.atollDrain.Drains (some p) rest := by
  unfold State.atollDrain
  simp only [hx, hr, hd, hover, hrun, hp, Bool.not_true, Bool.false_eq_true, if_false]
  split
  · exact State.drainTiles_drains 16 ⟨_, rfl, rfl, rfl, rfl⟩
  · exact ⟨_, rfl, rfl, rfl, rfl⟩

theorem State.atollDrain_empty (hp : s.heldParts x r.rec1 = []) : s.atollDrain.Drains none [] := by
  unfold State.atollDrain
  simp only [hx, hr, hd, hover, hrun, hp, Bool.not_true, Bool.false_eq_true, if_false, if_true]
  exact State.drainTiles_drains 16 ⟨_, rfl, rfl, rfl, rfl⟩

end

/-- Settles O49. -/
theorem scatterAndAtoll : Obligations.ScatterAndAtoll := by
  unfold Obligations.ScatterAndAtoll
  refine ⟨fun t n r s hw hf hs hr hport => ⟨fun hnone => ?_, fun x hx hseq hl => ?_⟩, fun x r s hr => ⟨State.atollWants_asks hr, fun hx => ?_⟩,
    fun t x r s hx hr hd hclk => ⟨fun hl hm hleft => ⟨fun h => ?_, fun h => ?_, fun key vs h hfull => ⟨fun e he => ?_, fun w he hway hroom => ?_⟩⟩,
      fun hover hrun => ⟨fun p rest hp => ?_, fun hp => ?_⟩⟩⟩
  · have hgo : (s.timed t).scatterGo n r = ({ s.timed t with readers := s.readers ++ [Scatter.new n r.seq] } : State).scatterRead n r := by
      unfold State.scatterGo
      simp only [show (s.timed t).scat? n = none from hnone]
      rfl
    exact settles_of_eq (exec_scatterAcc hw hf hs hr hport) hgo
      (State.scatterRead_after (s := { s.timed t with readers := s.readers ++ [Scatter.new n r.seq] }) hr)
  · have hgo : (s.timed t).scatterGo n r = (s.timed t).scatterRead n r := by
      unfold State.scatterGo
      simp only [show (s.timed t).scat? n = some x from hx, hseq, hl, Bool.not_false, and_self, if_true]
    exact settles_of_eq (exec_scatterAcc hw hf hs hr hport) hgo (State.scatterRead_after (s := s.timed t) hr)
  · unfold State.scatterTake
    rw [hx]
    exact ⟨rfl, rfl⟩
  · have hcycle := (State.atollUpdate_cycle (s := s.timed t) hx hr hd hl hm 1).trans (State.atollCycle_drops hleft h)
    obtain ⟨h1, z, hz, hnext, hdrop⟩ := State.cycleEnds_after x r 1 (s := s.timed t) hx
    exact settles_of_eq (exec_atollUpdate hclk) hcycle ⟨h1, z, hz, hnext, hdrop.trans (Bool.or_true _)⟩
  · have hcycle := (State.atollUpdate_cycle (s := s.timed t) hx hr hd hl hm 1).trans (State.atollCycle_nothing hleft h)
    obtain ⟨h1, z, hz, hnext, hdrop⟩ := State.cycleEnds_after x r 0 (s := s.timed t) hx
    exact settles_of_eq (exec_atollUpdate hclk) hcycle ⟨h1, z, hz, hnext, hdrop.trans (Bool.or_false _)⟩
  · have hany : (s.atoll.any fun e => e.bucket == atollBucket key && e.key == key) = true :=
      List.any_eq_true.mpr ⟨e, List.mem_of_find?_eq_some he,
        List.find?_some (p := fun e : AtollEntry => e.bucket == atollBucket key && e.key == key) he⟩
    have hcycle := (State.atollUpdate_cycle (s := s.timed t) hx hr hd hl hm 1).trans
      (State.atollCycle_enters hleft h hfull (State.spillKeys_none (s := s.timed t) (.inl hany)))
    obtain ⟨h1, h2⟩ := State.enterKey_hits (s := s.timed t) r vs hx he
    obtain ⟨h3, z, hz, hnext, -⟩ := State.cycleEnds_after x r 0 h2
    exact settles_of_eq (exec_atollUpdate hclk) hcycle ⟨by rw [h3]; exact h1, z, hz, hnext⟩
  · have hcycle := (State.atollUpdate_cycle (s := s.timed t) hx hr hd hl hm 1).trans
      (State.atollCycle_enters hleft h hfull (State.spillKeys_none (s := s.timed t) (.inr hroom)))
    obtain ⟨h1, h2⟩ := State.enterKey_new (s := s.timed t) r vs hx he hway
    obtain ⟨h3, z, hz, hnext, -⟩ := State.cycleEnds_after x r 0 h2
    exact settles_of_eq (exec_atollUpdate hclk) hcycle ⟨by rw [h3]; exact h1, z, hz, hnext⟩
  · exact settles_of_eq (exec_atollDrain hclk) rfl (State.atollDrain_begins (s := s.timed t) hx hr hd hover hrun hp)
  · exact settles_of_eq (exec_atollDrain hclk) rfl (State.atollDrain_empty (s := s.timed t) hx hr hd hover hrun hp)

end Sys2Proof.Machine
end

section
/-! SUPPORT. Acknowledgements, the timers of the error records, and the management port (11_integrity R443 to R449; 01_five_levels R35;
05_streams_and_order R567). -/

namespace Sys2Proof.Machine

theorem exec_errAckWrite {t : Time} {p : Port} {w : Word} {s : State} (hr : s.regsOpen = true) (hc : s.clksLost [.hclk] = false) :
    exec (.errAckWrite t p w none) s = .next ((s.timed t).errAck w) :=
  congrArg Host.Outcome.next ((State.crossing_of_running (s := s.timed t) hc).trans (if_pos hr))

theorem exec_svcAckWrite {t : Time} {p : Port} {w : Word} {s : State} (hr : s.regsOpen = true) (hc : s.clksLost [.hclk] = false) :
    exec (.svcAckWrite t p w none) s = .next ((s.timed t).svcAckWrite w) :=
  congrArg Host.Outcome.next ((State.crossing_of_running (s := s.timed t) hc).trans (if_pos hr))

theorem exec_spillFull {t : Time} {n : Nat} {s : State} (h : s.clksLost [.eclk] = false) :
    exec (.spillFull t n) s = .next ((s.timed t).spillRepeat n) :=
  congrArg Host.Outcome.next (State.clocked_of_running (s := s.timed t) h)

theorem exec_roleWait {t : Time} {n : Nat} {s : State} (h : s.clksLost [.eclk] = false) :
    exec (.roleWait t n) s = .next ((s.timed t).roleRepeat n) :=
  congrArg Host.Outcome.next (State.clocked_of_running (s := s.timed t) h)

theorem exec_mgRecordOut (t : Time) (s : State) : exec (.mgRecordOut t none) s = .next (s.timed t).recordOut :=
  congrArg Host.Outcome.next (State.crossing_of_running (s := s.timed t) (l := []) rfl)

/-- An acknowledgement that is refused has its record and leaves DJ_ERR_ACK (R443). -/
theorem State.errAck_refused {s : State} {w : Word} (h : (laterSeq w s.err.ack && !laterSeq w s.err.head) = false) :
    Sent s (s.errAck w) 0x14 .corrected ∧ (s.errAck w).err.ack = s.err.ack := by
  have hs : s.errAck w =
      s.report { reason := 0x14, sev := .corrected, detailA := w.toNat, detailB := s.err.head.toNat } :=
    if_neg fun hw => Bool.false_ne_true (h.symm.trans hw)
  obtain ⟨hack, -⟩ := ErrState.place_keeps s.err
    (s.formRec { reason := 0x14, sev := .corrected, detailA := w.toNat, detailB := s.err.head.toNat })
  exact ⟨hs ▸ sent_report s _, by rw [hs, State.report_err]; exact hack⟩

/-- The record of an open request: it is one of the records that close the request, and starts its interval again (R449). -/
theorem State.sendDegraded_after (s : State) (first : Word) (again : Bool) :
    Sent s (s.sendDegraded first again) 0x11 .service ∧ (s.sendDegraded first again).err.svcOpen = true ∧
      (s.sendDegraded first again).err.svcRecs = s.err.svcRecs ++ [s.err.head] ∧
        (s.sendDegraded first again).err.svcNext = s.time + s.svcInterval := by
  refine ⟨sent_report s _, rfl, ?_, rfl⟩
  obtain ⟨-, -, -, hrecs, -⟩ := ErrState.place_keeps s.err
    (s.formRec { reason := 0x11, sev := .service, rep := again, detailA := s.err.causeBits, detailB := first.toNat })
  unfold State.sendDegraded
  simp only [State.report_err, hrecs]

/-- A SPILL_FULL record is sent again when its interval has passed, and not before (R35). -/
theorem State.spillRepeat_due {s : State} {n pool : Nat} {last : Time} {x : Stream} (hx : s.stream? n = some x)
    (hp : x.stallSpill = some (pool, last)) (hd : last + s.svcAfter last ≤ s.time) :
    Sent s (s.spillRepeat n) 0x13 .corrected ∧
      (s.spillRepeat n).stream? n = some { x with stallSpill := some (pool, s.time) } := by
  have hs : s.spillRepeat n =
      (s.updStream n fun y => { y with stallSpill := some (pool, s.time) }).spillRec n pool true := by
    unfold State.spillRepeat
    simp only [hx, Option.bind_some, hp, if_pos hd]
  rw [hs]
  refine ⟨sent_congr (s := s.updStream n _) rfl rfl (sent_report _ _), ?_⟩
  exact (State.stream?_congr (by simp only [State.spillRec, State.report_fields]) n).trans
    (stream?_updStream (f := fun y => { y with stallSpill := some (pool, s.time) }) hx rfl)

theorem State.spillRepeat_early {s : State} {n pool : Nat} {last : Time} {x : Stream} (hx : s.stream? n = some x)
    (hp : x.stallSpill = some (pool, last)) (hd : s.time < last + s.svcAfter last) : s.spillRepeat n = s := by
  unfold State.spillRepeat
  simp only [hx, Option.bind_some, hp, if_neg (Nat.not_le.mpr hd)]

/-- A ROLE_WAIT record is sent again when its interval has passed, and not before (R567). -/
theorem State.roleRepeat_due {s : State} {n role port : Nat} {last : Time} {x : Stream} {r : Run} (hx : s.stream? n = some x)
    (hp : x.stallRole = some (role, port, last)) (hr : s.lacksCore x = some r) (hd : last + s.svcAfter last ≤ s.time) :
    Sent s (s.roleRepeat n) 0x16 .corrected ∧
      (s.roleRepeat n).stream? n = some { x with stallRole := some (role, port, s.time) } := by
  have hs : s.roleRepeat n =
      (s.updStream n fun y => { y with stallRole := some (role, port, s.time) }).roleRecord r role port true := by
    unfold State.roleRepeat
    simp only [hx, hp, hr, if_pos hd]
  rw [hs]
  refine ⟨sent_congr (s := s.updStream n _) rfl rfl (sent_report _ _), ?_⟩
  exact (State.stream?_congr (by simp only [State.roleRecord, State.report_fields]) n).trans
    (stream?_updStream (f := fun y => { y with stallRole := some (role, port, s.time) }) hx rfl)

theorem State.roleRepeat_early {s : State} {n role port : Nat} {last : Time} {x : Stream} {r : Run} (hx : s.stream? n = some x)
    (hp : x.stallRole = some (role, port, last)) (hr : s.lacksCore x = some r) (hd : s.time < last + s.svcAfter last) :
    s.roleRepeat n = s := by
  unfold State.roleRepeat
  simp only [hx, hp, hr, if_neg (Nat.not_le.mpr hd)]

/-- Settles O57: each command by the condition that it tests; the timers compare with the time of the command. -/
theorem errorCommands : Obligations.ErrorCommands := by
  intro t p w s
  refine ⟨fun hr hc => ⟨fun h => ?_, fun h => ?_, fun ho hm => ?_, fun h => ?_⟩,
    fun hp => ⟨fun ho hn => ?_, fun h => ?_, fun h => ?_, fun h => ?_, fun r rest hq => ?_⟩, fun hq => ?_,
    fun n x hx hc => ⟨fun pool last hst => ⟨fun hd => ?_, fun hd => ?_⟩, fun role port last r hst hl => ⟨fun hd => ?_, fun hd => ?_⟩⟩⟩
  · exact (exec_errAckWrite hr hc).trans (congrArg Host.Outcome.next (if_pos h))
  · exact ⟨_, exec_errAckWrite hr hc, State.errAck_refused (s := s.timed t) h⟩
  · exact (exec_svcAckWrite hr hc).trans (congrArg Host.Outcome.next (if_pos (Bool.and_eq_true_iff.mpr ⟨ho, hm⟩)))
  · exact (exec_svcAckWrite hr hc).trans (congrArg Host.Outcome.next (if_neg fun ha => by
      obtain ⟨ho, hm⟩ := Bool.and_eq_true_iff.mp ha
      exact h.elim (fun h => Bool.false_ne_true (h.symm.trans ho)) fun h => Bool.false_ne_true (h.symm.trans hm)))
  · have hs : (s.timed t).svcRepeat = (s.timed t).sendDegraded (s.err.svcRecs.headD 0) true := by
      unfold State.svcRepeat
      exact if_pos (by rw [Bool.and_eq_true, Bool.and_eq_true, decide_eq_true_iff]; exact ⟨⟨hp, ho⟩, hn⟩)
    exact runs_of_eq rfl hs (State.sendDegraded_after (s.timed t) _ _)
  · refine congrArg Host.Outcome.next (if_neg fun ha => ?_)
    rw [Bool.and_eq_true, Bool.and_eq_true, decide_eq_true_iff] at ha
    obtain ⟨⟨-, ho⟩, hn⟩ := ha
    exact h.elim (fun h => Bool.false_ne_true (h.symm.trans ho)) fun h => Nat.not_le.mpr h hn
  · exact congrArg Host.Outcome.next (if_pos (Bool.and_eq_true_iff.mpr ⟨hp, decide_eq_true h⟩))
  · exact congrArg Host.Outcome.next (if_neg fun ha =>
      Nat.not_le.mpr h (of_decide_eq_true (Bool.and_eq_true_iff.mp ha).2))
  · refine (exec_mgRecordOut t s).trans (congrArg Host.Outcome.next ?_)
    unfold State.recordOut
    simp only [show (s.timed t).err.mgq = r :: rest from hq, if_pos (show (s.timed t).powered = true from hp)]
    rfl
  · refine (exec_mgRecordOut t s).trans (congrArg Host.Outcome.next ?_)
    unfold State.recordOut
    simp only [show (s.timed t).err.mgq = [] from hq]
    rfl
  · exact ⟨_, exec_spillFull hc, State.spillRepeat_due (s := s.timed t) hx hst hd⟩
  · exact (exec_spillFull hc).trans (congrArg Host.Outcome.next (State.spillRepeat_early (s := s.timed t) hx hst hd))
  · exact ⟨_, exec_roleWait hc, State.roleRepeat_due (s := s.timed t) hx hst hl hd⟩
  · exact (exec_roleWait hc).trans (congrArg Host.Outcome.next (State.roleRepeat_early (s := s.timed t) hx hst hl hd))

end Sys2Proof.Machine
end

section
/-! SUPPORT. The register window: which accesses reach it, and what a read or a write of it does (15_register_map R535 to R554). -/

namespace Sys2Proof.Machine

/-! ### When an access reaches the registers -/

theorem clksLost_portClks {s : State} (p : Port) (off : Nat) (h : s.clksLost [.hclk, .eclk] = false) :
    s.clksLost (portClks p off) = false := by
  have hh : s.clksLost [.hclk] = false := by
    simp only [State.clksLost, List.any_cons, List.any_nil, Bool.or_eq_false_iff] at h ⊢
    exact ⟨h.1, trivial⟩
  cases p with
  | host => exact h
  | mgmt =>
    unfold portClks
    dsimp only
    split
    · exact hh
    · split
      · rfl
      · split
        · exact h
        · exact hh

/-- A read of a port that reaches the registers. -/
theorem exec_loRegisterRead {t : Time} {p : Port} {off : BitVec 20} {be : BitVec 4} {s : State} (h : s.reached = true) :
    exec (.loRegisterRead t p off be none) s = .next ((s.timed t).readAccess p off be) :=
  congrArg Host.Outcome.next (State.clocked_of_running (s := s.timed t) (clksLost_portClks p off.toNat (State.reached_iff.mp h).2))

theorem exec_ctxdbgSnapshot {t : Time} {off : BitVec 20} {s : State} (h : s.reached = true) :
    exec (.ctxdbgSnapshot t off none) s = .next ((s.timed t).readAccess .host off 0xF) :=
  congrArg Host.Outcome.next (State.clocked_of_running (s := s.timed t) (State.reached_iff.mp h).2)

/-- A write of a port that reaches the registers. -/
theorem exec_registerWrite {t : Time} {p : Port} {off : BitVec 20} {be : BitVec 4} {w : Word} {s : State} (h : s.reached = true) :
    exec (.registerWrite t p off be w none) s = .next ((s.timed t).writeAccess p off be w).settle :=
  congrArg (fun u : State => Host.Outcome.next u.settle)
    (State.crossing_of_running (s := s.timed t) (clksLost_portClks p off.toNat (State.reached_iff.mp h).2))

/-! ### Reads -/

theorem State.not_regsOpen {s : State} (h : s.reached = true) : (!s.regsOpen) = false := by
  rw [(State.reached_iff.mp h).1]; rfl

/-- A read that is no aligned 32-bit one returns zero and sets BAD_SIZE (R536). -/
theorem State.readAccess_badSize {s : State} {p : Port} {off : BitVec 20} {be : BitVec 4} (h : s.reached = true)
    (hg : goodSize off be = false) :
    s.readAccess p off be = { s with regs := (s.regs.flag p true false false).answer p 0 } := by
  unfold State.readAccess
  simp only [State.not_regsOpen h, hg, Bool.false_eq_true, if_false, Bool.not_false, if_true]

/-- A read of a register that is there returns its value, or what the latch of the port holds of it (R540). -/
theorem State.readAccess_reads {s : State} {p : Port} {off : BitVec 20} {be : BitVec 4} {v : Word} (h : s.reached = true)
    (hg : goodSize off be = true) (hp : reaches p off.toNat = true) (hv : s.readReg off.toNat = some v) :
    s.readAccess p off be = { s.afterRead p off.toNat with
      regs := (s.afterRead p off.toNat).regs.answer p (s.readValue p off.toNat v) } := by
  unfold State.readAccess
  simp only [State.not_regsOpen h, hg, hp, hv, Bool.false_eq_true, if_false, Bool.not_true, if_true]

/-- The offsets of the low words of pairs are no neighbours (R540). -/
theorem isLo_before {off : Nat} (h : isLo off = true) : (isLo (off - 4) && decide (4 ≤ off)) = false := by
  simp only [isLo, fixedPairs, List.contains_cons, List.contains_nil, Bool.or_false, Bool.or_eq_true, Bool.and_eq_true,
    beq_iff_eq, decide_eq_true_eq] at h
  rw [← Bool.not_eq_true]
  simp only [isLo, fixedPairs, List.contains_cons, List.contains_nil, Bool.or_false, Bool.or_eq_true, Bool.and_eq_true,
    beq_iff_eq, decide_eq_true_eq]
  omega

theorem isLo_of_debug {off : Nat} (h : 0x40000 ≤ off) (hm : off % 64 = 0) : isLo off = false ∧ isLo (off - 4) = false := by
  simp only [isLo, fixedPairs, List.contains_cons, List.contains_nil, Bool.or_false, Bool.or_eq_false_iff, Bool.and_eq_false_iff,
    beq_eq_false_iff_ne, decide_eq_false_iff_not]
  omega

/-- The read of a low word loads the latch of the port with the high word. -/
theorem State.afterRead_latches {s : State} {p : Port} {off : Nat} {hi : Word} (h : isLo off = true)
    (hv : s.readReg (off + 4) = some hi) : s.afterRead p off = { s with regs := s.regs.setLatch p (off, hi) } := by
  unfold State.afterRead
  rw [if_pos h, hv]
  rfl

/-- The read of the first word of a slot of the debug window latches its view (R553). -/
theorem State.afterRead_snapshot {s : State} {p : Port} {off : Nat} (h : 0x40000 ≤ off) (hm : off % 64 = 0) :
    s.afterRead p off = { s with regs := { s.regs with
      dbgLatch := some ((off - 0x40000) / 64, s.slotView ((off - 0x40000) / 64)) } } := by
  unfold State.afterRead
  rw [if_neg (by simp [(isLo_of_debug h hm).1]), if_pos ⟨h, hm⟩]

/-- The first word of a slot is live. -/
theorem State.readReg_debug {s : State} {off : Nat} (h : 0x40000 ≤ off) (hl : off < 0x80000) (hm : off % 64 = 0) :
    s.readReg off = some (BitVec.extractLsb' 0 32 (s.slotView ((off - 0x40000) / 64))) := by
  obtain ⟨n, hn⟩ : ∃ n, off / 4096 = n + 64 := ⟨off / 4096 - 64, by omega⟩
  have hview : s.viewFor ((off - 0x40000) / 64) 0 = s.slotView ((off - 0x40000) / 64) := by
    unfold State.viewFor
    cases s.regs.dbgLatch with
    | none => rfl
    | some x => exact if_neg fun hx => hx.1 rfl
  unfold State.readReg
  rw [hn]
  show (if 16 ≤ n + 64 ∧ n + 64 < 32 then _ else if 32 ≤ n + 64 ∧ n + 64 < 64 then _
    else if 64 ≤ n + 64 ∧ n + 64 < 128 then _ else _) = _
  rw [if_neg (by omega), if_neg (by omega), if_pos (by omega)]
  unfold State.dbgWord
  simp only [hm, Nat.zero_div, Nat.mul_zero, hview]

/-! ### Writes -/

theorem State.writeAccess_badSize {s : State} {p : Port} {off : BitVec 20} {be : BitVec 4} {w : Word} (h : s.reached = true)
    (hg : goodSize off be = false) : s.writeAccess p off be w = { s with regs := s.regs.flag p true false false } := by
  unfold State.writeAccess
  simp only [State.not_regsOpen h, hg, Bool.false_eq_true, if_false, Bool.not_false, if_true]

theorem State.writeAccess_denied {s : State} {off : BitVec 20} {be : BitVec 4} {w : Word} (h : s.reached = true)
    (hg : goodSize off be = true) (hm : mgWrites off.toNat = false) :
    s.writeAccess .mgmt off be w = { s with regs := s.regs.flag .mgmt false true true } := by
  unfold State.writeAccess
  simp only [State.not_regsOpen h, hg, hm, Bool.false_eq_true, if_false, Bool.not_true, Bool.not_false, and_self, if_true]

/-- A host write that reaches an offset: it is reserved, or the register takes the value or does what belongs to it. -/
theorem State.writeAccess_host {s : State} {off : BitVec 20} {be : BitVec 4} {w : Word} (h : s.reached = true)
    (hg : goodSize off be = true) :
    (s.readReg off.toNat = none → s.writeAccess .host off be w = { s with regs := s.regs.flag .host false true false }) ∧
      ∀ v, s.readReg off.toNat = some v → s.writeAccess .host off be w = s.writeReg .host off.toNat w := by
  unfold State.writeAccess
  simp only [State.not_regsOpen h, hg, Bool.false_eq_true, if_false, Bool.not_true, reduceCtorEq, false_and]
  exact ⟨fun hv => by rw [hv], fun v hv => by rw [hv]⟩

/-- A plain register can be read. -/
theorem State.readReg_of_store {s : State} {off : Nat} {w : Word} {r : Regs} (h : s.regs.store off w = some r) :
    ∃ v, s.readReg off = some v := by
  unfold Regs.store at h
  split at h
  case h_22 => cases h
  all_goals exact ⟨_, rfl⟩

/-- A write that stays what it is: the value of a register access that reaches the registers. -/
theorem register_next {t : Time} {s : State} {f : State → State} (h : s.reached = true) :
    (Host.Outcome.next ((s.timed t).register none (State.whenOpen f)) : Host.Outcome State Fault Refusal) = .next (f (s.timed t)) :=
  congrArg Host.Outcome.next (State.register_whenOpen (s := s.timed t) h)

/-- Settles O59: each access by the condition that decides it. -/
theorem registerAccesses : Obligations.RegisterAccesses := by
  intro t p off be w now s h
  have ht : (s.timed t).reached = true := h
  refine ⟨fun hb => (register_next h).trans (congrArg Host.Outcome.next (if_pos hb)), register_next h, fun hm hlo hhi => ?_,
    fun lo hi hg hp hlo hv hnext => ?_, register_next h, (register_next h).trans ?_, register_next h, fun hg => ?_, fun hg => ?_,
    fun hg hm => ?_, fun hg hv => ?_, fun r hg hr => ?_⟩
  · have hread := State.readAccess_reads (p := .host) (be := 0xF) ht (by simp [goodSize]; omega) rfl
      (State.readReg_debug (s := s.timed t) hlo hhi hm)
    rw [State.afterRead_snapshot (s := s.timed t) hlo hm] at hread
    refine ⟨_, (exec_ctxdbgSnapshot h).trans (congrArg Host.Outcome.next hread), rfl, ?_, rfl⟩
    show (s.timed t).readValue .host off.toNat _ = _
    unfold State.readValue
    rw [(isLo_of_debug hlo hm).2]
    rfl
  · have hread := State.readAccess_reads (be := be) ht hg hp hv
    rw [State.afterRead_latches (s := s.timed t) hlo hnext] at hread
    have hval : (s.timed t).readValue p off.toNat lo = lo := by
      unfold State.readValue
      rw [isLo_before hlo]
      rfl
    rw [hval] at hread
    refine ⟨_, (exec_loRegisterRead h).trans (congrArg Host.Outcome.next hread), ?_⟩
    cases p <;> exact ⟨rfl, rfl⟩
  · simp only [State.cqClear, Bool.false_eq_true, if_false, Nat.pow_zero, Nat.mul_one]
    rfl
  · refine ⟨_, (exec_loRegisterRead h).trans (congrArg Host.Outcome.next (State.readAccess_badSize ht hg)), ?_⟩
    cases p <;> exact ⟨rfl, Bool.or_true _, rfl⟩
  · exact (exec_registerWrite h).trans (congrArg (fun u : State => Host.Outcome.next u.settle) (State.writeAccess_badSize ht hg))
  · exact (exec_registerWrite h).trans (congrArg (fun u : State => Host.Outcome.next u.settle) (State.writeAccess_denied ht hg hm))
  · exact (exec_registerWrite h).trans
      (congrArg (fun u : State => Host.Outcome.next u.settle) ((State.writeAccess_host ht hg).1 hv))
  · obtain ⟨v, hv⟩ := State.readReg_of_store (s := s.timed t) hr
    refine (exec_registerWrite h).trans (congrArg (fun u : State => Host.Outcome.next u.settle)
      (((State.writeAccess_host ht hg).2 v hv).trans ?_))
    unfold State.writeReg
    rw [show (s.timed t).regs.store off.toNat w = some r from hr]
    rfl

end Sys2Proof.Machine
end

section
/-! SUPPORT. Events of the event port and holds that last (10_memory_channels Tables 10-4, 10-8, R388 to R393, R411). -/

namespace Sys2Proof.Machine

theorem State.chan_congr {s t : State} (h : t.chans = s.chans) (ch : Nat) : t.chan ch = s.chan ch := by rw [State.chan, h]; rfl

/-- From s to t no record has been sent and no thermal group has changed. -/
def SameHeat (s t : State) : Prop := t.err = s.err ∧ t.therms = s.therms

theorem SameHeat.refl (s : State) : SameHeat s s := ⟨rfl, rfl⟩

theorem SameHeat.trans {s t u : State} (h : SameHeat s t) (k : SameHeat t u) : SameHeat s u :=
  ⟨k.1.trans h.1, k.2.trans h.2⟩

theorem SameHeat.forAll {α : Type} {f : α → State → State} (hf : ∀ a t, SameHeat t (f a t)) (l : List α) (s : State) :
    SameHeat s (forAll l f s) :=
  keeps_foldl (R := SameHeat s) (fun t a h => h.trans (hf a t)) (SameHeat.refl s)

/-- A collective that parks gives up reads and tiles; it sends no record. -/
theorem sameHeat_parkColl (c : Coll) (r : Run) (s : State) : SameHeat s (s.parkColl c r) := by
  unfold State.parkColl
  dsimp only
  split
  · have hreads : ∀ l t, SameHeat t (forAll l (fun j u => State.cancelRead j u) t) :=
      SameHeat.forAll fun _ _ => ⟨rfl, rfl⟩
    exact ⟨(hreads _ _).1, (hreads _ _).2⟩
  · exact ⟨rfl, rfl⟩

theorem sameHeat_thermPark (group : Nat) (s : State) : SameHeat s (s.thermPark group) := by
  refine SameHeat.trans (t := { s with
    colls := s.colls.map fun c => { c with crit := group :: c.crit.filter fun g => g != group && s.therm g == .crit } }) ⟨rfl, rfl⟩ ?_
  refine SameHeat.forAll (fun c t => ?_) _ _
  split
  · exact SameHeat.refl t
  · next r _ =>
    split
    · exact sameHeat_parkColl c r t
    · exact SameHeat.refl t

/-! ### What an event does -/

/-- A bad event is counted and reported, whatever its row does (R389). -/
theorem State.event_bad {s : State} {ev : Dword} (code : Nat) (act : State → State) (hon : s.evOn = true) (hb : s.evBad ev = true) :
    Sent s (s.event code ev act) 0x69 .corrected ∧ (s.event code ev act).chans = s.chans ∧ (s.event code ev act).therms = s.therms := by
  have he : s.event code ev act = (s.bump .evBad).report { reason := 0x69, sev := .corrected, unit := .eventPort } := by
    unfold State.event
    rw [hon, hb]
    rfl
  rw [he]
  exact ⟨sent_congr (s := s.bump .evBad) rfl rfl (sent_report _ _), by simp only [State.report_fields]; rfl,
    by simp only [State.report_fields]; rfl⟩

/-- A good event of its row acts. -/
theorem State.event_good {s : State} {ev : Dword} {code : Nat} {act : State → State} (hon : s.evOn = true) (hb : s.evBad ev = false)
    (hc : evCode ev = code) : s.event code ev act = act s := by
  unfold State.event
  rw [hon, hb, if_pos hc]
  rfl

/-- An event, or a bad one, crosses while both clocks run. -/
theorem settles_event {t : Time} {c : Instr} {s : State} {code : Nat} {ev : Dword} {act : State → State} {P : State → Prop}
    (hc : s.clksLost [.hclk, .eclk] = false)
    (he : exec c s = .next ((s.timed t).crossing [.hclk, .eclk] (.eventPort, 0) none (State.event code ev act)).settle)
    (hp : P ((s.timed t).event code ev act)) : Settles c s P :=
  settles_of_eq he (State.crossing_of_running (s := s.timed t) hc) hp

/-- A thermal event of a group: its state, and a record when WARN or CRIT is new (R411). -/
theorem State.thermEvent_after (s : State) (group : Nat) (x : Therm) :
    (s.thermEvent group x).therm group = x ∧
      (x ≠ .normal → s.therm group ≠ x → Sent s (s.thermEvent group x) 0x68 .corrected) ∧
      (x = .normal ∨ s.therm group = x → (s.thermEvent group x).err = s.err) := by
  unfold State.thermEvent
  dsimp only
  generalize hs0 : (if (x != .normal && s.therms.all fun t => t.st == .normal) = true then s.warnBegins else s) = s0
  have herr0 : s0.err = s.err := by
    rw [← hs0]
    split <;> rfl
  generalize hent : (x != .normal && s.therm group != x) = entry
  have hpark : ∀ u : State, SameHeat u (if x = .crit ∧ entry = true then u.thermPark group else u) := fun u => by
    split
    · exact sameHeat_thermPark group u
    · exact SameHeat.refl u
  have herr1 : (s0.setTherm group x).err = s.err := by
    rw [← herr0]
    rfl
  cases entry with
  | false =>
    obtain ⟨herr, htherm⟩ := hpark (s0.setTherm group x)
    refine ⟨?_, fun hn hx => ?_, fun _ => herr.trans herr1⟩
    · exact (congrFun (State.therm_congr htherm) group).trans (therm_setTherm s0 group x)
    · simp [hn, hx] at hent
  | true =>
    obtain ⟨herr, htherm⟩ := hpark ((s0.setTherm group x).report { reason := 0x68, sev := .corrected })
    refine ⟨?_, fun _ _ => ?_, fun h => ?_⟩
    · exact (congrFun (State.therm_congr (htherm.trans (by simp only [State.report_fields]))) group).trans (therm_setTherm s0 group x)
    · exact sent_congr herr1 herr.symm (sent_report _ _)
    · rcases h with h | h <;> simp [h] at hent

/-- HOLD_LONG of a held channel whose limit has passed again (R392). -/
theorem State.holdLong_due {s : State} {ch limit : Nat} (hl : s.holdLimit ch = some limit) (hh : (s.chan ch).held = true)
    (hd : (s.chan ch).holdAt + ((s.chan ch).holdReps + 1) * limit ≤ s.time) :
    Sent s (s.holdLong ch) 0x62 .corrected ∧
      (s.holdLong ch).chan ch = { s.chan ch with holdReps := (s.chan ch).holdReps + 1 } := by
  have hs : s.holdLong ch = (s.updChan ch fun x => { x with holdReps := x.holdReps + 1 }).report
      { reason := 0x62, sev := .corrected, rep := decide (0 < (s.chan ch).holdReps), detailA := ch } := by
    unfold State.holdLong
    rw [hl]
    exact if_pos ⟨hh, hd⟩
  rw [hs]
  exact ⟨sent_congr (s := s.updChan ch _) rfl rfl (sent_report _ _),
    (State.chan_congr (by simp only [State.report_fields]) ch).trans
      (chan_updChan s ch (fun x => { x with holdReps := x.holdReps + 1 }) (chan_id s ch))⟩

theorem State.holdLong_early {s : State} {ch limit : Nat} (hl : s.holdLimit ch = some limit)
    (h : (s.chan ch).held = false ∨ s.time < (s.chan ch).holdAt + ((s.chan ch).holdReps + 1) * limit) : s.holdLong ch = s := by
  unfold State.holdLong
  rw [hl]
  exact if_neg fun ha => h.elim (fun hh => Bool.false_ne_true (hh.symm.trans ha.1)) fun hd => Nat.not_le.mpr hd ha.2

theorem exec_holdLong {t : Time} {ch : Nat} {s : State} (h : s.clksLost [.eclk] = false) :
    exec (.holdLong t ch) s = .next ((s.timed t).holdLong ch) :=
  congrArg Host.Outcome.next (State.clocked_of_running (s := s.timed t) h)

/-- Settles O53: a bad event is one case for all rows; a good one does what its row says; a hold is compared with its limit. -/
theorem channelEvents : Obligations.ChannelEvents := by
  intro t ev s hclk
  have heclk : s.clksLost [.eclk] = false := by
    simp only [State.clksLost, List.any_cons, List.any_nil, Bool.or_eq_false_iff] at hclk ⊢
    exact ⟨hclk.2.1, trivial⟩
  refine ⟨fun hon hb c hc => ?_, fun hon hb => ⟨fun hc => ?_, fun hc => ?_, fun hc => ?_, fun hc => ?_, fun hc => ?_, fun hc => ?_⟩,
    fun ch limit hl => ⟨fun hh hd => ?_, fun h => ?_⟩⟩
  · have hbad := fun code act => State.event_bad (s := s.timed t) code act hon hb
    simp only [List.mem_cons, List.not_mem_nil, or_false] at hc
    rcases hc with rfl | rfl | rfl | rfl | rfl | rfl
    · exact settles_event hclk rfl (hbad 1 _)
    · exact settles_event hclk rfl (hbad 2 _)
    · exact settles_event hclk rfl (hbad 3 _)
    · exact settles_event hclk rfl (hbad 4 _)
    · exact settles_event hclk rfl (hbad 5 _)
    · exact settles_event hclk rfl (hbad 6 _)
  · refine settles_event hclk rfl ?_
    rw [State.event_good (s := s.timed t) hon hb hc]
    have hchan := chan_updChan (s.timed t) (evTarget ev) (fun c =>
      { c with held := true, holdUs := evArg ev, holdAt := if c.held then c.holdAt else t,
               holdReps := if c.held then c.holdReps else 0 }) (chan_id s _)
    refine ⟨rfl, congrArg Chan.held hchan, congrArg Chan.holdUs hchan, Eq.trans (congrArg Chan.dead hchan) rfl, fun hh => ⟨?_, ?_⟩⟩
    · exact (congrArg Chan.holdAt hchan).trans (if_neg fun h => Bool.false_ne_true (hh.symm.trans h))
    · exact (congrArg Chan.holdReps hchan).trans (if_neg fun h => Bool.false_ne_true (hh.symm.trans h))
  · refine settles_event hclk rfl ?_
    rw [State.event_good (s := s.timed t) hon hb hc]
    have hchan := chan_updChan (s.timed t) (evTarget ev) (fun c => { c with held := false, holdUs := 0, holdReps := 0, dead := false })
      (chan_id s _)
    exact ⟨rfl, congrArg Chan.held hchan, congrArg Chan.holdUs hchan, congrArg Chan.dead hchan⟩
  · refine settles_event hclk rfl ?_
    rw [State.event_good (s := s.timed t) hon hb hc]
    refine ⟨sent_congr (s := (s.timed t).updChan _ _) rfl rfl (sent_report _ _), ?_⟩
    exact congrArg Chan.dead ((State.chan_congr (by simp only [State.killChan, State.report_fields]) _).trans
      (chan_updChan (s.timed t) (evTarget ev) (fun c => { c with dead := true }) (chan_id s _)))
  · refine settles_event hclk rfl ?_
    rw [State.event_good (s := s.timed t) hon hb hc]
    obtain ⟨hst, -, herr⟩ := State.thermEvent_after (s.timed t) (evTarget ev) .normal
    exact ⟨hst, herr (.inl rfl)⟩
  · refine settles_event hclk rfl ?_
    rw [State.event_good (s := s.timed t) hon hb hc]
    obtain ⟨hst, hsent, herr⟩ := State.thermEvent_after (s.timed t) (evTarget ev) .warn
    exact ⟨hst, hsent (by decide), fun h => herr (.inr h)⟩
  · refine settles_event hclk rfl ?_
    rw [State.event_good (s := s.timed t) hon hb hc]
    obtain ⟨hst, hsent, herr⟩ := State.thermEvent_after (s.timed t) (evTarget ev) .crit
    exact ⟨hst, hsent (by decide), fun h => herr (.inr h)⟩
  · exact ⟨_, exec_holdLong heclk, State.holdLong_due (s := s.timed t) hl hh hd⟩
  · exact (exec_holdLong heclk).trans (congrArg Host.Outcome.next (State.holdLong_early (s := s.timed t) hl h))

end Sys2Proof.Machine
end

section
/-! SUPPORT. MAP_OUT and MAP_IN (10_memory_channels R394 to R396, R401, R402). -/

namespace Sys2Proof.Machine

theorem SameButErr.chans {s t : State} (h : SameButErr s t) : t.chans = s.chans := h.field State.chans

theorem sameButErr_sendDegraded (first : Word) (again : Bool) (s : State) : SameButErr s (s.sendDegraded first again) := by
  unfold State.sendDegraded
  exact (sameButErr_report _ s).trans (SameWork.refl _)

theorem sameButErr_degrade (c : Cause) (s : State) : SameButErr s (s.degrade c) := by
  unfold State.degrade
  dsimp only
  split
  · exact SameWork.refl _
  · exact SameButErr.trans (t := { s with err := { s.err.withCause c with svcRecs := [] } }) (SameWork.refl _)
      (sameButErr_sendDegraded _ _ _)

/-- The channel that DJ_CHAN_ARG names. -/
def State.namedChan (s : State) : Nat := bits s.regs.chanArg.toNat 11 0

/-- A MAP_OUT of this state waits until its list can be read (log 90). -/
def State.listWaits (s : State) : Bool := s.listBytes != 0 && s.chanList % 64 == 0 && s.spanHeld s.chanList s.listBytes

theorem State.listWaits_iff (s : State) :
    s.listWaits = true ↔ s.listBytes ≠ 0 ∧ s.chanList % 64 = 0 ∧ s.spanHeld s.chanList s.listBytes = true := by
  simp only [State.listWaits, Bool.and_eq_true, bne_iff_ne, beq_iff_eq, and_assoc]

theorem State.listed_of {s : State} (hh : s.chart.held = false) (hp : s.ownPools s.namedChan ≠ []) :
    ¬ (s.chart.held = true ∨ s.ownPools s.namedChan = []) := by simp [hh, hp]

theorem State.not_isSome_causeway {s : State} (h : s.causeway = none) : ¬ s.causeway.isSome = true := by simp [h]

/-! ### MAP_OUT -/

section
variable {s : State} {img : Image}

theorem State.mapOut_notListed (h : s.chart.held = true ∨ s.ownPools s.namedChan = []) : s.mapOut img = s.chanResult 1 := if_pos h

/-- A MAP_OUT that is not refused as NOT_LISTED or ALREADY_OUT: it waits for its list, or the list and the Causeway decide. -/
theorem State.mapOut_listed (hh : s.chart.held = false) (hp : s.ownPools s.namedChan ≠ [])
    (ho : (s.chan s.namedChan).out = false ∨ (s.chan s.namedChan).unfinished = true) :
    s.mapOut img =
      if s.listWaits then { s with mapWait := some img }
      else if s.badList img then (s.bumpN .memPoison (s.spanLost img s.chanList s.listBytes)).chanResult 4
      else if s.causeway.isSome then s.chanResult 5
      else
        { if (s.chan s.namedChan).out then s
          else ((s.updChan s.namedChan fun x => { x with out := true }).shrink s.namedChan).degrade .channel with
          causeway := some ⟨s.namedChan, s.tensorList img, 0, false, none, none, 0, none, 0⟩
          cwChannel := s.namedChan }.chanResult 0 := by
  have ha : ¬ ((s.chan s.namedChan).out && !(s.chan s.namedChan).unfinished &&
      !(s.causeway.any fun k => k.chan == s.namedChan)) = true := by
    rcases ho with ho | ho <;> simp [ho]
  simp only [State.listWaits_iff]
  exact (if_neg (State.listed_of hh hp)).trans (if_neg ha)

theorem State.mapOut_alreadyOut (hh : s.chart.held = false) (hp : s.ownPools s.namedChan ≠ [])
    (ho : (s.chan s.namedChan).out = true) (hu : (s.chan s.namedChan).unfinished = false) (hc : s.causeway = none) :
    s.mapOut img = s.chanResult 2 := by
  have ha : ((s.chan s.namedChan).out && !(s.chan s.namedChan).unfinished &&
      !(s.causeway.any fun k => k.chan == s.namedChan)) = true := by
    simp [ho, hu, hc]
  exact (if_neg (State.listed_of hh hp)).trans (if_pos ha)

/-- The channel leaves: free sectors and DEGRADED follow, and the registers and what else is known of the channel stand (R394). -/
theorem State.chanLeaves_after (s : State) (ch : Nat) :
    let u := ((s.updChan ch fun x => { x with out := true }).shrink ch).degrade .channel
    u.regs = s.regs ∧ u.chan ch = { s.chan ch with out := true } := by
  have hshrink : ∀ v : State, SameWork v (v.shrink ch) := fun v =>
    SameWork.forAll (fun (p : Pool) t => sameWork_updPool p.id _ t) _ v
  have hall := (hshrink (s.updChan ch fun x => { x with out := true })).sameButErr.trans (sameButErr_degrade .channel _)
  exact ⟨hall.regs, (State.chan_congr hall.chans ch).trans (chan_updChan s ch (fun x => { x with out := true }) (chan_id s ch))⟩

end

/-! ### MAP_IN -/

section
variable {s : State}

theorem State.mapIn_notListed (h : s.chart.held = true ∨ s.ownPools s.namedChan = []) : s.mapIn = s.chanResult 1 := if_pos h

theorem State.mapIn_notOut (hl : ¬ (s.chart.held = true ∨ s.ownPools s.namedChan = [])) (ho : (s.chan s.namedChan).out = false) :
    s.mapIn = s.chanResult 3 :=
  (if_neg hl).trans (if_pos (by rw [show (s.chan (bits s.regs.chanArg.toNat 11 0)).out = false from ho]; rfl))

/-- A MAP_IN of a channel of an own pool that is out. -/
theorem State.mapIn_out (hl : ¬ (s.chart.held = true ∨ s.ownPools s.namedChan = [])) (ho : (s.chan s.namedChan).out = true) :
    s.mapIn =
      if s.causeway.isSome then s.chanResult 5
      else if (s.chan s.namedChan).dead then s.chanResult 6
      else (forAll (s.ownPools s.namedChan) (fun p t => t.updPool p.id (regrow p s.namedChan))
        (s.updChan s.namedChan fun x => { x with out := false, unfinished := false })).chanResult 0 :=
  (if_neg hl).trans (if_neg (by rw [show (s.chan (bits s.regs.chanArg.toNat 11 0)).out = true from ho]; exact Bool.false_ne_true))

/-- The channel comes back with its pools' sectors (R401). -/
theorem State.chanReturns_after (s : State) (ch : Nat) :
    SameWork (s.updChan ch fun x => { x with out := false, unfinished := false })
      (forAll (s.ownPools ch) (fun p t => t.updPool p.id (regrow p ch))
        (s.updChan ch fun x => { x with out := false, unfinished := false })) :=
  SameWork.forAll (fun (p : Pool) t => sameWork_updPool p.id _ t) _ _

end

/-- A write of DJ_CHAN_CMD that reaches the registers of a running block, with the OP of its row. -/
theorem exec_mapOut {t : Time} {w : Word} {img : Image} {s : State} (hph : s.phase = .run) (h : s.reached = true)
    (hw : bits w.toNat 1 0 = 1) : exec (.mapOut t w img none) s = .next ((s.timed t).mapOut img).settle :=
  congrArg (fun u : State => Host.Outcome.next u.settle)
    ((State.register_of_reached (s := s.timed t) h).trans (if_pos (show (s.timed t).phase = .run ∧ _ from ⟨hph, hw⟩)))

theorem exec_mapIn {t : Time} {w : Word} {s : State} (hph : s.phase = .run) (h : s.reached = true)
    (hw : bits w.toNat 1 0 = 2) : exec (.mapIn t w none) s = .next ((s.timed t).mapIn).settle :=
  congrArg (fun u : State => Host.Outcome.next u.settle)
    ((State.register_of_reached (s := s.timed t) h).trans (if_pos (show (s.timed t).phase = .run ∧ _ from ⟨hph, hw⟩)))

/-- Settles O54: the refusals in their order, then the channel that leaves or comes back. -/
theorem mapOutAndMapIn : Obligations.MapOutAndMapIn := by
  rintro t w img ch waits s hph hr rfl rfl
  refine ⟨fun hw => ⟨fun h => ?_, fun hh hp => ⟨fun ho hu hc => ?_, fun ho hl => ?_, fun ho hl hb => ?_, fun ho hl hb hc => ?_,
    fun ho hl hb hc => ?_⟩⟩, fun hw => ⟨fun h => ?_, fun hh hp => ⟨fun ho => ?_, fun ho hc => ?_, fun ho hc hd => ?_, fun ho hc hd => ?_⟩⟩⟩
  · exact (exec_mapOut hph hr hw).trans
      (congrArg (fun u : State => Host.Outcome.next u.settle) (State.mapOut_notListed (s := s.timed t) h))
  · exact (exec_mapOut hph hr hw).trans
      (congrArg (fun u : State => Host.Outcome.next u.settle) (State.mapOut_alreadyOut (s := s.timed t) hh hp ho hu hc))
  · exact (exec_mapOut hph hr hw).trans (congrArg (fun u : State => Host.Outcome.next u.settle)
      ((State.mapOut_listed (s := s.timed t) hh hp (.inl ho)).trans (if_pos hl)))
  · have hwaits : ¬ (s.timed t).listWaits = true := fun h => Bool.false_ne_true (Eq.trans (Eq.symm hl) h)
    exact settles_of_eq (exec_mapOut hph hr hw) ((State.mapOut_listed (s := s.timed t) hh hp (.inl ho)).trans
      ((if_neg hwaits).trans (if_pos hb))) ⟨rfl, rfl, rfl⟩
  · have hwaits : ¬ (s.timed t).listWaits = true := fun h => Bool.false_ne_true (Eq.trans (Eq.symm hl) h)
    exact (exec_mapOut hph hr hw).trans (congrArg (fun u : State => Host.Outcome.next u.settle)
      ((State.mapOut_listed (s := s.timed t) hh hp (.inl ho)).trans ((if_neg hwaits).trans
        ((if_neg fun h => Bool.false_ne_true (Eq.trans (Eq.symm hb) h)).trans (if_pos hc)))))
  · have hwaits : ¬ (s.timed t).listWaits = true := fun h => Bool.false_ne_true (Eq.trans (Eq.symm hl) h)
    refine settles_of_eq (exec_mapOut hph hr hw) ((State.mapOut_listed (s := s.timed t) hh hp ho).trans ((if_neg hwaits).trans
        ((if_neg fun h => Bool.false_ne_true (Eq.trans (Eq.symm hb) h)).trans (if_neg (State.not_isSome_causeway hc))))) ?_
    obtain ⟨hregs, hchan⟩ := State.chanLeaves_after (s.timed t) (s.timed t).namedChan
    by_cases hout : ((s.timed t).chan (s.timed t).namedChan).out = true
    · rw [if_pos hout]
      exact ⟨rfl, hout, rfl, rfl, rfl⟩
    · rw [if_neg hout]
      exact ⟨congrArg (fun r : Regs => { r with chanResult := 0 }) hregs, congrArg Chan.out hchan, Eq.trans (congrArg Chan.unfinished hchan) rfl, rfl, rfl⟩
  · exact (exec_mapIn hph hr hw).trans
      (congrArg (fun u : State => Host.Outcome.next u.settle) (State.mapIn_notListed (s := s.timed t) h))
  · exact (exec_mapIn hph hr hw).trans
      (congrArg (fun u : State => Host.Outcome.next u.settle) (State.mapIn_notOut (State.listed_of (s := s.timed t) hh hp) ho))
  · exact (exec_mapIn hph hr hw).trans
      (congrArg (fun u : State => Host.Outcome.next u.settle) ((State.mapIn_out (State.listed_of (s := s.timed t) hh hp) ho).trans (if_pos hc)))
  · exact (exec_mapIn hph hr hw).trans (congrArg (fun u : State => Host.Outcome.next u.settle)
      ((State.mapIn_out (State.listed_of (s := s.timed t) hh hp) ho).trans ((if_neg (State.not_isSome_causeway hc)).trans (if_pos hd))))
  · have hsame := State.chanReturns_after (s.timed t) (s.timed t).namedChan
    have hchan := (State.chan_congr hsame.chans (s.timed t).namedChan).trans
      (chan_updChan (s.timed t) _ (fun x => { x with out := false, unfinished := false }) (chan_id _ _))
    refine settles_of_eq (exec_mapIn hph hr hw) ((State.mapIn_out (State.listed_of (s := s.timed t) hh hp) ho).trans ((if_neg (State.not_isSome_causeway hc)).trans
      (if_neg fun h => Bool.false_ne_true (Eq.trans (Eq.symm hd) h)))) ?_
    exact ⟨congrArg (fun r : Regs => { r with chanResult := 0 }) hsame.regs, congrArg Chan.out hchan, congrArg Chan.unfinished hchan,
      hsame.err⟩

end Sys2Proof.Machine
end

section
/-! SUPPORT. The Causeway: what its two commands do (10_memory_channels Table 10-10, R397 to R400, R404). -/

namespace Sys2Proof.Machine

theorem exec_causewayTile {t : Time} {img : Image} {s : State} (hp : s.portsUp = true) (hc : s.clksLost [.eclk] = false) :
    exec (.causewayTile t img none) s = .next ((s.timed t).causewayTile img).settle :=
  congrArg (fun u : State => Host.Outcome.next u.settle) (State.fromMemory_of_up (s := s.timed t) hp hc)

theorem exec_causewaySpace {t : Time} {s : State} (hc : s.clksLost [.eclk] = false) :
    exec (.causewaySpace t) s = .next ((s.timed t).causewaySpace).settle :=
  congrArg (fun u : State => Host.Outcome.next u.settle) (State.clocked_of_running (s := s.timed t) hc)

/-! ### The next tile -/

/-- The Causeway goes on: its tile is unlocked, and the next one is begun. -/
theorem State.causewayNext_after {s : State} {k : Causeway} (hk : s.causeway = some k) :
    s.causewayNext.causeway = some { k with tile := k.tile + 1, spaceSent := false, locked := none, job := none, lock := none } ∧
      s.causewayNext.wjobs = s.wjobs := by
  have hun : SameWork s s.causewayUnlock := by
    unfold State.causewayUnlock
    split
    · exact sameWork_sendRing _ s
    · exact SameWork.refl s
  refine ⟨?_, hun.wjobs⟩
  unfold State.causewayNext
  rw [hk]
  rfl

/-- The end of the list: sectors left on the channel are reported (R400). -/
theorem State.causewayEnds_after (s : State) (ch : Nat) :
    (s.causewayEnds ch).causeway = none ∧ ((s.causewayEnds ch).chan ch).unfinished = false ∧
      (s.residueOn ch = 0 → (s.causewayEnds ch).err = s.err) ∧
      (s.residueOn ch ≠ 0 → Sent s (s.causewayEnds ch) 0x67 .contained) := by
  have hchan := chan_updChan { s with causeway := none } ch (fun x => { x with unfinished := false }) (chan_id _ ch)
  unfold State.causewayEnds
  dsimp only
  split
  · next h => exact ⟨rfl, congrArg Chan.unfinished hchan, fun _ => rfl, fun hn => absurd h hn⟩
  · next h =>
    refine ⟨by simp only [State.report_fields]; rfl, ?_, fun he => absurd he h, fun _ => ?_⟩
    · exact congrArg Chan.unfinished ((State.chan_congr (by simp only [State.report_fields]) ch).trans hchan)
    · exact sent_congr (s := ({ s with causeway := none } : State).updChan ch fun x => { x with unfinished := false }) rfl rfl
        (sent_report _ _)

/-- What the Causeway does next in a running block, with no tile in progress and no page on its channel. -/
theorem State.causewayTile_of_free {s : State} {k : Causeway} {img : Image} (hk : s.causeway = some k) (hph : s.phase = .run)
    (hj : k.job = none) (hpages : s.pagesOn k.chan = []) :
    (k.list = [] → s.causewayTile img = s.causewayEnds k.chan) ∧
      ∀ a rest, k.list = a :: rest → s.readWaits a = false → s.spanLost img a 128 = 0 → recordBad s.poolIds (imgRec img a) = false →
        (recTiles (imgRec img a) ≤ k.tile → s.causewayTile img = { s with causeway := some { k with list := rest, tile := 0 } }) ∧
          (k.tile < recTiles (imgRec img a) → s.causewayTile img = s.causewayRead k a (imgRec img a) img) := by
  have hfree : ¬ (s.phase ≠ .run ∨ k.job.isSome = true) := by simp [hph, hj]
  unfold State.causewayTile
  simp only [hk, if_neg hfree, hpages, ne_eq, not_true_eq_false, if_false]
  refine ⟨fun hl => by rw [hl], fun a rest hl hw hs hb => ?_⟩
  simp only [hl, hw, hs, hb, Bool.false_eq_true, if_false, not_true_eq_false, false_or]
  exact ⟨fun h => if_pos h, fun h => if_neg (Nat.not_le.mpr h)⟩

/-- A tile whose presence bit is 0 is passed over. -/
theorem State.causewayRead_absent {s : State} {k : Causeway} {a : Nat} {trec : BitVec 1024} {img : Image}
    (hw : s.readWaits (presenceAddr trec k.tile) = false) (hd : s.deadAddr (presenceAddr trec k.tile) = false)
    (hp : imgPoison img (presenceAddr trec k.tile) 8 = false)
    (hb : (imgNat img (presenceAddr trec k.tile) 8).testBit (k.tile % 64) = false) :
    s.causewayRead k a trec img = (s.bumpN .memPoison (s.spanLost img (presenceAddr trec k.tile) 8)).causewayNext := by
  unfold State.causewayRead
  simp only [hw, hd, hp, hb, Bool.or_false, Bool.false_and, Bool.false_eq_true, or_self, if_false, Bool.not_false, if_true]

/-- A live tile on a dead channel becomes LOST once its home cluster has locked it. -/
theorem State.causewayRead_lost {s : State} {k : Causeway} {a : Nat} {trec : BitVec 1024} {img : Image} {e : BitVec 128} {p : Pool}
    {ps : PoolSt} (hw : s.readWaits (presenceAddr trec k.tile) = false) (hd : s.deadAddr (presenceAddr trec k.tile) = false)
    (hp : imgPoison img (presenceAddr trec k.tile) 8 = false)
    (hb : (imgNat img (presenceAddr trec k.tile) 8).testBit (k.tile % 64) = true)
    (hwe : s.readWaits (entryAddr trec k.tile) = false) (hde : s.deadAddr (entryAddr trec k.tile) = false)
    (hpe : imgPoison img (entryAddr trec k.tile) 16 = false) (he : e = BitVec.ofNat 128 (imgNat img (entryAddr trec k.tile) 16))
    (hf : entryFail e = 0) (hst : entState e = 1 ∨ entState e = 2) (hpool : s.pool? (recPool trec) = some p)
    (hps : s.poolSt? (recPool trec) = some ps) (hon : onChannel p k.chan (entAddr e) (entLen e) = true)
    (hdead : (s.chan k.chan).dead = true) (hhome : recHomeCluster trec = s.clusterNo ∨ k.locked.isSome = true) :
    s.causewayRead k a trec img =
      ({ s.bumpN .memPoison (s.spanLost img (presenceAddr trec k.tile) 8) with
        causeway := some { k with expect := e } }).causewayLost a trec k.tile e := by
  have h3 : entState e ≠ 3 := by omega
  have h0 : entState e ≠ 0 := by omega
  unfold State.causewayRead
  simp only [hw, hd, hp, hb, hwe, hde, hpe, ← he, hf, hpool, hps, hon, h3, h0, Bool.or_true, Bool.or_false, Bool.true_and,
    Bool.false_eq_true, or_self, if_false, Bool.not_true, ne_eq, not_true_eq_false]
  unfold State.causewayTakes
  rw [if_pos (show recHomeCluster trec = (s.bumpN .memPoison _).clusterNo ∨ _ from hhome)]
  unfold State.causewayMove
  exact if_pos hdead

/-- The write job of a tile that becomes LOST, and its lock. -/
theorem State.causewayLost_after {s : State} {k : Causeway} (hk : s.causeway = some k) (a : Nat) (trec : BitVec 1024) (tile : Nat)
    (e : BitVec 128) :
    ∃ w q, (s.causewayLost a trec tile e).wjobs = s.wjobs ++ [w] ∧ w.parts = [q] ∧ w.stage = .writing ∧ w.tile = tile ∧
      w.recAddr = a ∧ q.template = some (entWord0 (withState e 3)) ∧
        ∃ z, (s.causewayLost a trec tile e).causeway = some z ∧ z.job = some w.id ∧ z.locked = some (entryAddr trec tile) := by
  refine ⟨_, _, rfl, rfl, rfl, rfl, rfl, rfl, { k with locked := some (entryAddr trec tile), job := some s.nextId }, ?_, rfl, rfl⟩
  exact (congrArg (Option.map fun z : Causeway => { z with locked := some (entryAddr trec tile), job := some s.nextId }) hk).trans rfl

/-! ### Waiting for space -/

/-- The request of the tile in progress, tried once its epoch has passed. -/
theorem State.causewaySpace_tries {s : State} {k : Causeway} {id : Nat} {w : WJob} (hk : s.causeway = some k) (hj : k.job = some id) (hw : s.wjob? id = some w) (hst : w.stage = .spaceWait)
    (he : k.askedAt < s.epoch) : s.causewaySpace = s.causewayAlloc id := by
  unfold State.causewaySpace
  simp only [hk, if_neg (Nat.not_le.mpr he), hj, hw, Option.any_some, hst]
  rfl

/-- Sectors that can be had end the wait (R399). -/
theorem State.causewayAlloc_granted {s : State} {k : Causeway} {id pool : Nat} {w : WJob} {sizes : List (Nat × Nat)} {p : Pool}
    {ps : PoolSt} {starts : List Nat} {free : List (Nat × Nat)} {skew : Nat} (hk : s.causeway = some k) (hw : s.wjob? id = some w)
    (hr : w.request = some (pool, sizes)) (hp : s.pool? pool = some p) (hps : s.poolSt? pool = some ps)
    (h : s.tryAlloc p ps w.recAddr w.tile sizes = .granted starts free skew) :
    (∃ v, (s.causewayAlloc id).wjob? id = some v ∧ v.stage = .mapping (mapWrites (grantRuns starts sizes))) ∧
      ∃ z, (s.causewayAlloc id).causeway = some z ∧ z.spaceSent = false := by
  obtain ⟨arbs, ctrs, hu⟩ := State.unitTaken_after (resSectors pool) causewayStream 0 false s
  unfold State.causewayAlloc
  simp only [hw, hr, hp, hps, h, hu]
  refine ⟨?_, { k with spaceSent := false }, ?_, rfl⟩
  · rw [(sameWork_takeGrant ..).wjob?]
    exact ⟨_, wjob?_updW (s := { s with arbs := arbs, counters := ctrs })
      (f := fun x => { (x.placed pool (List.zipWith (fun z r => (z.1, r.1, r.2)) sizes (grantRuns starts sizes))) with
        stage := .mapping (mapWrites (grantRuns starts sizes)) }) hw rfl, rfl⟩
  · rw [(sameWork_takeGrant ..).causeway]
    exact congrArg (Option.map fun z : Causeway => { z with spaceSent := false }) hk

theorem State.causewayAlloc_waits {s : State} {k : Causeway} {id pool : Nat} {w : WJob} {sizes : List (Nat × Nat)} {p : Pool}
    {ps : PoolSt} (hk : s.causeway = some k) (hw : s.wjob? id = some w)
    (hr : w.request = some (pool, sizes)) (hp : s.pool? pool = some p) (hps : s.poolSt? pool = some ps)
    (h : s.tryAlloc p ps w.recAddr w.tile sizes = .waits) :
    (∃ v, (s.causewayAlloc id).wjob? id = some v ∧ v.stage = .spaceWait) ∧
      (s.causewayAlloc id).causeway = some { k with spaceSent := true, askedAt := s.epoch } ∧
      (k.spaceSent = false → Sent s (s.causewayAlloc id) 0x66 .corrected) ∧
      (k.spaceSent = true → (s.causewayAlloc id).err = s.err) := by
  have hs : s.causewayAlloc id = (s.updW id fun x => { x with stage := .spaceWait }).causewayWaits w.recAddr (BitVec.ofNat 32 w.tile) := by
    unfold State.causewayAlloc
    simp only [hw, hr, hp, hps, h]
  have hjob := wjob?_updW (s := s) (f := fun x => { x with stage := .spaceWait }) hw rfl
  have hmap : s.causeway.map (fun z => { z with spaceSent := true, askedAt := s.epoch }) =
      some { k with spaceSent := true, askedAt := s.epoch } := by rw [hk]; rfl
  rw [hs]
  unfold State.causewayWaits
  simp only [show (s.updW id fun x => { x with stage := .spaceWait }).causeway.any Causeway.spaceSent = k.spaceSent by
    rw [show (s.updW id fun x => { x with stage := .spaceWait }).causeway = some k from hk]; rfl]
  cases ht : k.spaceSent with
  | true => exact ⟨⟨_, hjob, rfl⟩, hmap, fun h => Bool.noConfusion h, fun _ => rfl⟩
  | false =>
    refine ⟨⟨{ w with stage := .spaceWait }, ?_, rfl⟩, ?_, fun _ => ?_, fun h => Bool.noConfusion h⟩
    · exact Eq.trans (by simp only [State.wjob?, Bool.false_eq_true, if_false, State.report_fields]) hjob
    · exact Eq.trans (by simp only [Bool.false_eq_true, if_false, State.report_fields]; rfl) hmap
    · exact sent_congr rfl rfl (sent_report _ _)

/-- Settles O55: the end, the next tile and the tries of a request, each by the branch that its hypotheses choose. -/
theorem causewaySteps : Obligations.CausewaySteps := by
  intro t img k s hk hclk
  refine ⟨fun hp hph hj hpages => ?_, fun id w pool sizes p ps hj hw hst hr hp hps he => ⟨fun starts free skew h => ?_, fun h => ?_⟩⟩
  · obtain ⟨hend, hnext⟩ := State.causewayTile_of_free (s := s.timed t) (img := img) hk hph hj hpages
    refine ⟨fun hl => ?_, fun a rest hl hs hb hall => ?_⟩
    · exact settles_of_eq (exec_causewayTile hp hclk) (hend hl) (State.causewayEnds_after (s.timed t) k.chan)
    · obtain ⟨hwa, -⟩ := hall a (by simp)
      obtain ⟨hwp, hdp⟩ := hall (presenceAddr (imgRec img a) k.tile) (by simp)
      obtain ⟨hwe, hde⟩ := hall (entryAddr (imgRec img a) k.tile) (by simp)
      obtain ⟨hover, hread⟩ := hnext a rest hl hwa hs hb
      refine ⟨fun ht => ?_, fun ht hpo hbit => ?_, fun e p ps ht hpo hbit hpe he hf hes hpool hps hon hdead hhome => ?_⟩
      · exact settles_of_eq (exec_causewayTile hp hclk) (hover ht) ⟨rfl, rfl⟩
      · exact settles_of_eq (exec_causewayTile hp hclk) ((hread ht).trans (State.causewayRead_absent (s := s.timed t) hwp hdp hpo hbit))
          (State.causewayNext_after (s := (s.timed t).bumpN _ _) hk)
      · exact settles_of_eq (exec_causewayTile hp hclk) ((hread ht).trans
          (State.causewayRead_lost (s := s.timed t) hwp hdp hpo hbit hwe hde hpe he hf hes hpool hps hon hdead hhome))
          (State.causewayLost_after (s := { (s.timed t).bumpN _ _ with causeway := some { k with expect := e } }) rfl a _ _ e)
  · exact settles_of_eq (exec_causewaySpace hclk) (State.causewaySpace_tries (s := s.timed t) hk hj hw hst he)
      (State.causewayAlloc_granted (s := s.timed t) hk hw hr hp hps h)
  · exact settles_of_eq (exec_causewaySpace hclk) (State.causewaySpace_tries (s := s.timed t) hk hj hw hst he)
      (State.causewayAlloc_waits (s := s.timed t) hk hw hr hp hps h)

end Sys2Proof.Machine
end

section
/-! SUPPORT. Loading a Chart: the Chart-load page, the end of validation and the switch to an UPDATE (12_chart R471 to R486). -/

namespace Sys2Proof.Machine

/-! ### Validation -/

/-- A check of Table 12-16 passes, or ends the validation. -/
theorem need_bind {α : Type} (b : Bool) (f : ChartFail) (k : Unit → Checked α) :
    (need b f >>= k) = if b then k () else .error f := by
  cases b <;> rfl

/-- Bytes beyond the limit end every validation, unless the header ends it (R474). -/
theorem validateChart_surplus (x : ChartCtx) (upd : Bool) (data : List Byte) :
    ∃ f, validateChart x upd true data = .error f ∧ (f.reason = 0x70 ∨ f.reason = 0x71) := by
  unfold validateChart
  dsimp only
  rw [need_bind]
  split
  · rw [need_bind]
    split
    · rw [need_bind]
      split
      · exact ⟨_, rfl, .inr rfl⟩
      · exact ⟨_, rfl, .inl rfl⟩
    · exact ⟨_, rfl, .inl rfl⟩
  · exact ⟨_, rfl, .inl rfl⟩

/-! ### What staging and spilling leave alone -/

theorem forAll_ring {α : Type} {f : α → State → State} (hf : ∀ a t, (f a t).ring = t.ring) (l : List α) (s : State) :
    (forAll l f s).ring = s.ring :=
  keeps_foldl (R := fun u : State => u.ring = s.ring) (fun t a h => (hf a t).trans h) rfl

theorem State.issue_ring (r : MemReq) (s : State) : (s.issue r).ring = s.ring := by
  unfold State.issue
  split
  · dsimp only
    split <;> rfl
  · split <;> rfl

theorem State.readSpan_ring (addr n : Nat) (why : Nat → Purpose) (s : State) : (s.readSpan addr n why).ring = s.ring :=
  (forAll_ring (fun _ t => State.issue_ring _ t) _ (s.choseN _)).trans rfl

theorem State.writeSpan_ring (addr : Nat) (data : List Byte) (why : Purpose) (s : State) : (s.writeSpan addr data why).ring = s.ring :=
  (forAll_ring (fun _ t => State.issue_ring _ t) _ (s.choseN _)).trans rfl

theorem State.spillGo_ring (id : Nat) (s : State) : (s.spillGo id).ring = s.ring := by
  unfold State.spillGo
  split
  · rfl
  · next x _ =>
    dsimp only
    split
    · rfl
    · generalize hv : forAll x.dirty _ _ = v
      have hring : v.ring = s.ring := by
        rw [← hv]
        exact (forAll_ring (fun _ t => (State.writeSpan_ring _ _ _ (t.updSpill _ _)).trans rfl) _ (s.updSpill _ _)).trans rfl
      split
      · exact hring
      · exact (State.readSpan_ring _ _ _ (v.updSpill _ _)).trans hring

theorem State.spillLoad_ring (o : SpillOf) (s : State) : (s.spillLoad o).ring = s.ring := by
  unfold State.spillLoad
  split
  · rfl
  · split
    · rfl
    · exact (State.spillGo_ring _ _).trans rfl

theorem sameWork_admitHeld (o : SpillOf) (n tiles : Nat) (s : State) : SameWork s (s.admitHeld o n tiles).1 := by
  unfold State.admitHeld
  split
  · exact SameWork.refl s
  · have hspace := sameWork_spillSpace o (ceilDiv n 64) s
    split
    · next t h => rw [h] at hspace; exact hspace
    · next t h => rw [h] at hspace; exact hspace

/-- Staged pieces move to the staging region; the load goes on. -/
theorem sameWork_stageChart (s : State) : SameWork s s.stageChart := by
  unfold State.stageChart
  split
  · exact SameWork.refl s
  · refine SameWork.forAll (fun i t => ?_) _ _
    unfold State.stagePiece
    split
    · exact SameWork.refl t
    · exact (sameWork_admitHeld _ _ _ t).trans (sameWork_spillStore _ _ _ _)

/-! ### The Chart-load page -/

/-- A write of DJ_CHART_CMD that reaches the registers, with the OP of its row. -/
theorem State.register_chartCmd {op : Nat} {w : Word} {f : State → State} {s : State} (h : s.reached = true) (hw : bits w.toNat 1 0 = op) :
    s.register none (State.chartCmd op w f) = f s :=
  (State.register_of_reached h).trans (if_pos ⟨(State.reached_iff.mp h).1, hw⟩)

/-- One whose command leaves the state has no effect. -/
theorem State.register_chartCmd_idle {op : Nat} {w : Word} {f : State → State} {s : State} (h : s.reached = true) (hf : f s = s) :
    s.register none (State.chartCmd op w f) = s := by
  rw [State.register_of_reached h]
  unfold State.chartCmd
  rw [hf, ite_self]

theorem sameWork_chartFetch (s : State) : SameWork { s with chart := { s.chart with
    len := s.regs.chartLen.toNat, dmaLeft := ceilDiv s.regs.chartLen.toNat 64 } } s.chartFetch := by
  unfold State.chartFetch
  exact SameWork.forAll (fun _ t => sameWork_issue _ t) _ _

/-- START that is not refused opens a load (R472). -/
theorem State.chartStart_opens {s : State} (h : s.startCode = 0) :
    s.chartStart.chart.load = .loading ∧ s.chartStart.chart.isUpdate = s.ctlUpdate ∧ s.chartStart.chart.result = 0 ∧
      s.chartStart.chart.count = 0 ∧ s.chartStart.chart.staged = [] ∧ s.chartStart.chart.applied = s.chart.applied ∧
        s.chartStart.chart.held = s.chart.held ∧
          s.chartStart.chart.dmaLeft = if s.ctlDma then ceilDiv s.regs.chartLen.toNat 64 else 0 := by
  unfold State.chartStart
  simp only [h, OfNat.zero_ne_ofNat, if_false, ne_eq, not_true_eq_false]
  split
  · rw [(sameWork_chartFetch _).chart]
    exact ⟨rfl, rfl, rfl, rfl, rfl, rfl, rfl, rfl⟩
  · exact ⟨rfl, rfl, rfl, rfl, rfl, rfl, rfl, rfl⟩

theorem State.chartStart_locked {s : State} (h : s.startCode = 5) :
    s.chartStart.chart = { s.chart with result := 5 } ∧ Sent s s.chartStart 0x82 .corrected := by
  have hs : s.chartStart = (s.chartResult 5).report { reason := 0x82, sev := .corrected, detailA := s.lc + 8 * b2n s.lcInvalid } :=
    if_pos h
  rw [hs]
  exact ⟨by simp only [State.report_fields]; rfl, sent_congr (s := s.chartResult 5) rfl rfl (sent_report _ _)⟩

theorem State.chartStart_refused {s : State} {n : Nat} (h : s.startCode = n) (h0 : n ≠ 0) (h5 : n ≠ 5) :
    s.chartStart = s.chartResult n := by
  unfold State.chartStart
  simp only [h, if_neg h5, if_pos h0]

/-- Four bytes of a window load (R474). -/
theorem State.chartData_appends {s : State} {w : Word} (hl : s.chart.load = .loading) (hd : s.chart.dmaLeft = 0)
    (hn : s.chart.staged.length + 4 ≤ chartLimit s.chart.isUpdate) :
    SameWork { s with chart := { s.chart with
      staged := s.chart.staged ++ leBytes 4 w.toNat, count := BitVec.ofNat 32 (s.chart.staged.length + 4) } } (s.chartData w) := by
  unfold State.chartData
  simp only [hl, hd, ne_eq, not_true_eq_false, or_self, if_false, if_neg (Nat.not_lt.mpr hn)]
  exact sameWork_stageChart _

theorem State.chartData_surplus {s : State} {w : Word} (hl : s.chart.load = .loading) (hd : s.chart.dmaLeft = 0)
    (hn : chartLimit s.chart.isUpdate < s.chart.staged.length + 4) :
    s.chartData w = { s with chart := { s.chart with overflow := true } } := by
  unfold State.chartData
  simp only [hl, hd, ne_eq, not_true_eq_false, or_self, if_false, if_pos hn]

/-- FINISH starts validation and asks for the identity of the other clusters (R474). -/
theorem State.chartFinish_after {s : State} (hl : s.chart.load = .loading) (hd : s.chart.dmaLeft = 0) :
    s.chartFinish.chart = { s.chart with load := .validating, result := 0 } ∧ s.chartFinish.ring = s.ringAfter .identCheck := by
  have hs : s.chartFinish = ({ s with chart := { s.chart with result := 0 } } : State).validateNow := if_pos ⟨hl, hd⟩
  have hload : ∀ l t, SameWork t (forAll l State.spillLoad t) := SameWork.forAll fun o t => sameWork_spillLoad o t
  rw [hs]
  unfold State.validateNow
  rw [State.sendRing_eq]
  refine ⟨(hload _ _).chart, ?_⟩
  unfold State.ringAfter
  rw [(hload _ _).params, forAll_ring State.spillLoad_ring]

/-- What the Chart-load page does outside a load. -/
theorem State.chartPage_idle {s : State} (h : s.chart.load ≠ .loading) (w : Word) :
    s.chartData w = s ∧ s.chartFinish = s ∧ s.chartAbort = s :=
  ⟨if_pos (.inl h), if_neg fun ha => h ha.1, if_neg h⟩

/-- ABORT discards what was staged and the reads of the load. -/
theorem State.chartAbort_after {s : State} (hl : s.chart.load = .loading) :
    s.chartAbort.chart = { s.chart.emptied with result := 0 } ∧ (∀ q ∈ s.chartAbort.reqs, q.purpose.isChart = false) ∧
      ∀ q ∈ s.chartAbort.holdq, q.purpose.isChart = false := by
  have hs : s.chartAbort = { (s.dropReqs Purpose.isChart) with chart := { s.chart.emptied with result := 0 } } := if_pos hl
  rw [hs]
  refine ⟨rfl, State.noReqs_dropReqs rfl s, fun q hq => ?_⟩
  simpa using (List.mem_filter.mp hq).2

/-! ### The end of validation -/

/-- What validation finds, once every spilled piece is back. -/
def State.validation (s : State) (peers : List Peer) : Checked (Chart × List Nat) :=
  validateChart ⟨s.params, s.retiredCores, s.chart.applied, peers⟩ s.chart.isUpdate s.chart.overflow s.chart.staged

section
variable {s : State} {peers : List Peer} {img : Image} (hl : s.chart.load = .validating) (hp : s.chartPieces.all s.inPlace = true)
include hl hp

theorem State.validated_fails {f : ChartFail} (h : s.validation peers = .error f) : s.validated peers img = s.failRamp.loadFails f := by
  unfold State.validation at h
  unfold State.validated
  simp only [hl, hp, ne_eq, not_true_eq_false, Bool.not_true, Bool.false_eq_true, or_self, if_false, h]

theorem State.validated_passes {c : Chart} {tags : List Nat} (h : s.validation peers = .ok (c, tags)) (hon : s.cluster.st = .on) :
    s.validated peers img =
      if s.chart.isUpdate then
        { s with chart := { s.chart.emptied with
          load := .switching, update := some (c, tags.contains 7 || tags.contains 8, tags) } }
      else if s.mapsHeld c then s
      else s.applyFull c img := by
  unfold State.validation at h
  unfold State.validated
  simp only [hl, hp, hon, ne_eq, not_true_eq_false, Bool.not_true, Bool.false_eq_true, or_self, if_false, h]

end

/-- A FULL Chart, or an UPDATE in HELD, that fails leaves the cluster HELD (R477, R481). -/
theorem State.loadFails_held {s : State} (f : ChartFail) (h : s.chart.isUpdate = false ∨ s.chart.held = true) (hon : s.cluster.st = .on) :
    (s.loadFails f).chart.held = true ∧ (s.loadFails f).chart.load = .none ∧ (s.loadFails f).chart.result = 5 ∧
      (s.loadFails f).chart.reason = f.reason ∧ (s.loadFails f).streams = [] ∧ Sent s (s.loadFails f) f.reason .contained := by
  have hu : ¬ (s.chart.isUpdate && !s.chart.held) = true := by rcases h with h | h <;> simp [h]
  unfold State.loadFails
  dsimp only
  rw [if_neg hu, if_pos hon]
  generalize hv : State.report _ _ = v
  obtain ⟨k, m, r, c, he⟩ := State.workEnds_after v
  have hchart : v.chart = { s.chart.emptied with
      result := 5, reason := f.reason, errOff := if f.reason = 0x7B then s.chart.errOff else BitVec.ofNat 32 f.off } := by
    rw [← hv, (sameButErr_report _ _).chart]
  unfold State.enterHeld
  rw [he]
  refine ⟨rfl, rfl, congrArg ChartSt.result hchart, rfl, rfl, ?_⟩
  have hsent : Sent s v f.reason .contained := by
    rw [← hv]
    exact sent_congr rfl rfl (sent_report _ _)
  exact sent_congr rfl rfl hsent

theorem State.failRamp_after (s : State) : ∃ p, s.failRamp = { s with power := p } := by
  unfold State.failRamp
  split
  · exact ⟨s.power, rfl⟩
  · exact ⟨_, rfl⟩

/-- A valid FULL Chart is applied (R479). -/
theorem State.applyFull_after (s : State) (c : Chart) (img : Image) :
    (s.applyFull c img).chart.applied = some c ∧ (s.applyFull c img).chart.held = false ∧ (s.applyFull c img).chart.load = .none ∧
      (s.applyFull c img).chart.chartId = c.chartId ∧ (s.applyFull c img).lfsr = c.lfsrSeed ∧
        (s.applyFull c img).pools.map PoolSt.id = (c.pools.filter fun p => decide (p.allocCluster = c.cluster)).map Pool.id ∧
          Sent s (s.applyFull c img) 0x7D .corrected := by
  unfold State.applyFull
  dsimp only
  generalize hv : State.report _ _ = v
  have hchart : v.chart = { s.chart.emptied with
      held := false, reason := if s.chart.reason = 0x7C then 0 else s.chart.reason, chartId := c.chartId, applied := some c,
      tcPast := [], svcPast := [] } := by
    rw [← hv]
    exact (sameButErr_report _ _).chart
  rw [hchart]
  refine ⟨rfl, rfl, rfl, rfl, ?_, ?_, ?_⟩
  · rw [← hv]
    simp only [State.report_fields]
    rfl
  · rw [← hv]
    simp only [State.report_fields, List.map_map]
    rfl
  · rw [← hv]
    exact sent_congr rfl rfl (sent_report _ _)

/-- The switch to an UPDATE (Table 12-19). -/
theorem State.updateSwitch_after {s : State} {c : Chart} {held : Bool} {tags : List Nat} (hu : s.chart.update = some (c, held, tags))
    (h : held = true → s.enginesEmpty = true) :
    s.updateSwitch.chart.applied = some c ∧ s.updateSwitch.chart.update = none ∧ s.updateSwitch.chart.load = .none ∧
      s.updateSwitch.pools = s.pools ∧ Sent s s.updateSwitch 0x7D .corrected := by
  have hgo : ¬ (held && !s.enginesEmpty) = true := by
    rw [Bool.and_eq_true]
    rintro ⟨hh, he⟩
    rw [h hh] at he
    exact Bool.false_ne_true he
  unfold State.updateSwitch
  simp only [hu, if_neg hgo]
  refine ⟨?_, ?_, ?_, ?_, sent_congr rfl rfl (sent_report _ _)⟩
  · rw [(sameButErr_report _ _).chart]
  · rw [(sameButErr_report _ _).chart]
    rfl
  · rw [(sameButErr_report _ _).chart]
    rfl
  · simp only [State.report_fields]

theorem exec_chartValidationDone {t : Time} {peers : List Peer} {img : Image} {s : State} (h : s.clksLost [.eclk] = false) :
    exec (.chartValidationDone t peers img none) s = .next ((s.timed t).validated peers img).settle :=
  congrArg (fun u : State => Host.Outcome.next u.settle) (State.crossing_of_running (s := s.timed t) h)

theorem exec_updateSwitch {t : Time} {s : State} (h : s.clksLost [.eclk] = false) :
    exec (.updateSwitch t) s = .next ((s.timed t).updateSwitch).settle :=
  congrArg (fun u : State => Host.Outcome.next u.settle) (State.clocked_of_running (s := s.timed t) h)

/-- Settles O56: the page by its commands, then what validation finds, then the switch. -/
theorem chartLoad : Obligations.ChartLoad := by
  intro t w s
  refine ⟨fun hr hw => ⟨fun h => ?_, fun n h h0 h5 => ?_, fun h => ?_⟩, fun hr hl hd => ⟨fun hn => ?_, fun hn => ?_, fun hw => ?_⟩,
    fun hr hl => ?_, fun hr hl hw => ?_, fun peers img hl hp hc => ⟨fun f hv hon hu => ?_, fun c tags hv hon => ⟨fun hu hm => ?_,
    fun hu hm => ?_, fun hu => ?_⟩⟩, validateChart_surplus, fun c held tags hu he hc => ?_⟩
  · exact runs_of_eq rfl (State.register_chartCmd (s := s.timed t) hr hw) (State.chartStart_locked (s := s.timed t) h)
  · exact congrArg Host.Outcome.next ((State.register_chartCmd (s := s.timed t) hr hw).trans
      (State.chartStart_refused (s := s.timed t) h h0 h5))
  · exact runs_of_eq rfl (State.register_chartCmd (s := s.timed t) hr hw) (State.chartStart_opens (s := s.timed t) h)
  · have hsame := State.chartData_appends (s := s.timed t) (w := w) hl hd hn
    exact runs_of_eq rfl (State.register_whenOpen (s := s.timed t) hr) ⟨hsame.chart, hsame.regs⟩
  · exact congrArg Host.Outcome.next ((State.register_whenOpen (s := s.timed t) hr).trans
      (State.chartData_surplus (s := s.timed t) hl hd hn))
  · exact runs_of_eq rfl (State.register_chartCmd (s := s.timed t) hr hw) (State.chartFinish_after (s := s.timed t) hl hd)
  · obtain ⟨hdata, hfinish, habort⟩ := State.chartPage_idle (s := s.timed t) hl w
    exact ⟨congrArg Host.Outcome.next ((State.register_whenOpen (s := s.timed t) hr).trans hdata),
      congrArg Host.Outcome.next (State.register_chartCmd_idle (s := s.timed t) hr hfinish),
      congrArg Host.Outcome.next (State.register_chartCmd_idle (s := s.timed t) hr habort)⟩
  · exact runs_of_eq rfl (State.register_chartCmd (s := s.timed t) hr hw) (State.chartAbort_after (s := s.timed t) hl)
  · obtain ⟨p, hramp⟩ := State.failRamp_after (s.timed t)
    refine settles_of_eq (exec_chartValidationDone hc) ((State.validated_fails (s := s.timed t) hl hp hv).trans
      (congrArg (State.loadFails f) hramp)) ?_
    exact State.loadFails_held (s := { s.timed t with power := p }) f hu hon
  · exact (exec_chartValidationDone hc).trans (congrArg (fun u : State => Host.Outcome.next u.settle)
      ((State.validated_passes (s := s.timed t) hl hp hv hon).trans
        ((if_neg fun h => Bool.false_ne_true (hu.symm.trans h)).trans (if_pos hm))))
  · exact settles_of_eq (exec_chartValidationDone hc) ((State.validated_passes (s := s.timed t) hl hp hv hon).trans
      ((if_neg fun h => Bool.false_ne_true (hu.symm.trans h)).trans (if_neg fun h => Bool.false_ne_true (hm.symm.trans h))))
      (State.applyFull_after (s.timed t) c img)
  · exact settles_of_eq (exec_chartValidationDone hc) ((State.validated_passes (s := s.timed t) hl hp hv hon).trans (if_pos hu))
      ⟨rfl, rfl, rfl, rfl⟩
  · exact settles_of_eq (exec_updateSwitch hc) rfl (State.updateSwitch_after (s := s.timed t) hu he)

end Sys2Proof.Machine
end

section
/-! SUPPORT. Field test: the Ferry's timer, the parts of a core test, pattern packages and test access (14_field_test R517 to R534). -/

namespace Sys2Proof.Machine

/-! ### Choices -/

theorem mem_of_pick {α : Type} {l : List α} {n : Nat} {x : α} (h : pick l n = some x) : x ∈ l := List.mem_of_getElem? h

theorem pick_of_ne_nil {α : Type} {l : List α} (h : l ≠ []) (n : Nat) : ∃ x, pick l n = some x :=
  ⟨_, List.getElem?_eq_getElem (Nat.mod_lt n (List.length_pos_iff.mpr h))⟩

/-! ### The Ferry and the start of a test -/

/-- The Ferry's test waits behind a running one once its interval has passed (R521). -/
theorem State.ferryTimer_due {s : State} {x : CoreTest} (hph : s.phase = .run) (hi : s.chartVal Chart.ferryInterval 0 ≠ 0)
    (hw : (s.test.waiting.any fun x => x.cause == 0) = false) (hx : s.test.running = some x)
    (hd : s.test.ferryAt + s.chartVal Chart.ferryInterval 0 * 1000000000 ≤ s.time) :
    s.ferryTimer.test.running = some x ∧
      s.ferryTimer.test.waiting = queueTest (CoreTest.new 17 0 true true true 0) s.test.waiting := by
  have hruns : (!s.testsRun) = false := by simp [State.testsRun, hph]
  have hgo : ¬ ((!s.testsRun) = true ∨ s.chartVal Chart.ferryInterval 0 * 1000000000 = 0 ∨
      s.time < s.test.ferryAt + s.chartVal Chart.ferryInterval 0 * 1000000000 ∨
      (s.test.waiting.any fun x => x.cause == 0) = true) := by
    rw [hruns, hw]
    rintro (h | h | h | h)
    · exact Bool.false_ne_true h
    · omega
    · exact Nat.not_lt.mpr hd h
    · exact Bool.false_ne_true h
  have hs : s.ferryTimer = { s with test := { s.test with
      waiting := queueTest (CoreTest.new 17 0 true true true 0) s.test.waiting } } := by
    unfold State.ferryTimer
    simp only [if_neg hgo]
    unfold State.startTest
    simp only [hx]
  rw [hs]
  exact ⟨hx, rfl⟩

theorem State.ferryTimer_early {s : State} (h : s.chartVal Chart.ferryInterval 0 = 0 ∨
    s.time < s.test.ferryAt + s.chartVal Chart.ferryInterval 0 * 1000000000) : s.ferryTimer = s := by
  refine if_pos (.inr ?_)
  rcases h with h | h
  · exact .inl (by rw [h])
  · exact .inr (.inl h)

/-- The first waiting test starts on its core, which is taken down (R519). -/
theorem State.coreTestStart_begins {s : State} {x : CoreTest} {rest : List CoreTest} {c : Fin 16} (hph : s.phase = .run)
    (hn : s.test.running = none) (hw : s.test.waiting = x :: rest) (hc : x.core = c.val)
    (he : x.cause = 1 ∨ s.eligibleCore c = true) (hr : s.testReady x c = true) :
    s.coreTestStart.test.running = some { x with man := if s.test.pkgValid then some s.test.pkgManifest else none } ∧
      s.coreTestStart.test.waiting = rest ∧
        (s.coreTestStart.core c).fn = ⟨if (s.core c).keepOff then .shutting else .pendingOn, .before⟩ := by
  have hlt : x.core < 16 := hc ▸ c.isLt
  have hfin : (⟨x.core, hlt⟩ : Fin 16) = c := Fin.ext hc
  have hvoid : ¬ (x.cause ≠ 1 ∧ (!s.eligibleCore c) = true) := by rcases he with h | h <;> simp [h]
  have hs : s.coreTestStart = s.beginTest x c := by
    unfold State.coreTestStart State.startTest State.startOn
    simp only [State.testsRun, hph, hn, hw, dif_pos hlt, hfin, if_neg hvoid, hr, BEq.rfl, if_true]
  rw [hs]
  refine ⟨?_, ?_, congrArg Core.fn (State.core_updCore ..)⟩
  · unfold State.beginTest State.updCore
    simp only [← hc]
  · unfold State.beginTest State.updCore
    simp only [hw, List.drop_succ_cons, List.drop_zero]

/-! ### Parts -/

/-- The pattern port is taken by a SCAN part, if it is free; nothing else changes. -/
theorem State.scanReads_pkg (s : State) : ∃ g, s.scanReads = { s with test := { s.test with pkg := g } } ∧
    (s.test.pkg = none → ∀ z, g = some z → z.stream = none) := by
  unfold State.scanReads
  split
  · split
    · exact ⟨_, rfl, fun _ z hz => by cases hz; rfl⟩
    · exact ⟨s.test.pkg, rfl, fun hn z hz => by rw [hn] at hz; cases hz⟩
  · exact ⟨s.test.pkg, rfl, fun hn z hz => by rw [hn] at hz; cases hz⟩

/-- A test enters its next part. -/
theorem State.enterPart_after (x : CoreTest) (p : Nat) (s : State) : ∃ g, s.enterPart x p =
    { s with test := { s.test with running := some { x with part := s.partFrom x p }, pkg := g } } := by
  obtain ⟨g, hg, -⟩ :=
    State.scanReads_pkg { s with test := { s.test with running := some { x with part := s.partFrom x p } } }
  exact ⟨g, hg⟩

/-- Behind SCAN comes the wipe. -/
theorem State.enterPart_wipe (x : CoreTest) (s : State) :
    s.enterPart x 3 = { s with test := { s.test with running := some { x with part := 3 } } } := rfl

/-- Which parts a test has rests on the Chart. -/
theorem State.partFrom_congr {s t : State} (h : t.chart = s.chart) (x : CoreTest) (p : Nat) : t.partFrom x p = s.partFrom x p := by
  have hruns : t.runsPart x = s.runsPart x := by
    funext q
    unfold State.runsPart State.chartVal
    rw [h]
  unfold State.partFrom
  rw [hruns]

/-- LBIST passes by its signature, or fails with its record (R517). -/
theorem State.lbistDone_after {s : State} {x : CoreTest} {misr : Dword} (hx : s.test.running = some x) (hp : x.part = 0) :
    (s.lbistDone misr).test.misr = misr ∧
      (misr = Config.lbistRef s.params.hardening → (s.lbistDone misr).err = s.err ∧
        (s.lbistDone misr).test.running = some { x.after true with part := s.partFrom (x.after true) 1 }) ∧
      (misr ≠ Config.lbistRef s.params.hardening → Sent s (s.lbistDone misr) 0x91 .contained ∧
        (s.lbistDone misr).test.running = some { x.after false with part := s.partFrom (x.after false) 1 }) := by
  have hs : s.lbistDone misr =
      (if (misr == Config.lbistRef s.params.hardening) = true then { s with test := { s.test with misr := misr } }
        else State.report { reason := 0x91, sev := .contained, unit := .core, unitIndex := x.core, detailA := bits misr.toNat 31 0,
                            detailB := bits misr.toNat 63 32 } { s with test := { s.test with misr := misr } }).enterPart
          (x.after (misr == Config.lbistRef s.params.hardening)) 1 := by
    unfold State.lbistDone
    rw [hx]
    exact if_neg fun h => h hp
  rw [hs]
  by_cases h : misr = Config.lbistRef s.params.hardening
  · rw [if_pos (beq_iff_eq.mpr h), beq_iff_eq.mpr h]
    obtain ⟨g, he⟩ := State.enterPart_after (x.after true) 1 { s with test := { s.test with misr := misr } }
    rw [he]
    exact ⟨rfl, fun _ => ⟨rfl, rfl⟩, fun hn => absurd h hn⟩
  · rw [if_neg (by simp [h]), beq_eq_false_iff_ne.mpr h]
    generalize hv : State.report _ _ = v
    have hsent : Sent s v 0x91 .contained := by
      rw [← hv]
      exact sent_congr rfl rfl (sent_report _ _)
    have hsame : SameButErr { s with test := { s.test with misr := misr } } v := hv ▸ sameButErr_report _ _
    obtain ⟨g, he⟩ := State.enterPart_after (x.after false) 1 v
    rw [he, State.partFrom_congr (s := s) hsame.chart]
    exact ⟨congrArg TestSt.misr hsame.test, fun hn => absurd hn h, fun _ => ⟨sent_congr rfl rfl hsent, rfl⟩⟩

/-! ### MBIST -/

/-- From s to t the repairs of some words have been loaded and reported, one record each (R526). -/
structure Repaired (ws : List Word) (s t : State) : Prop where
  head : t.err.head = s.err.head + BitVec.ofNat 32 ws.length
  spares : ∀ w ∈ ws, spareOf w ∈ t.test.spares
  stay : ∀ z ∈ s.test.spares, z ∈ t.test.spares
  mbistFail : t.test.mbistFail = s.test.mbistFail
  chart : t.chart = s.chart

theorem repaired_one (u : UnitId) (i : Nat) (w : Word) (s : State) : Repaired [w] s (s.repaired u i w) := by
  unfold State.repaired
  generalize hv : State.report _ _ = v
  have hsame := hv ▸ sameButErr_report _ _
  have hsent := hv ▸ sent_report _ _
  have hspares : v.test.spares = if s.test.spares.contains (spareOf w) then s.test.spares else s.test.spares ++ [spareOf w] :=
    congrArg TestSt.spares hsame.test
  refine ⟨hsent.1, fun x hx => ?_, fun z hz => ?_, Eq.trans (congrArg TestSt.mbistFail hsame.test) rfl,
    hsame.chart⟩
  · rw [List.mem_singleton.mp hx, hspares]
    split
    · next h => exact List.contains_iff_mem.mp h
    · exact List.mem_append_right _ (List.mem_singleton.mpr rfl)
  · rw [hspares]
    split
    · exact hz
    · exact List.mem_append_left _ hz

theorem repaired_all (u : UnitId) (i : Nat) (ws : List Word) (s : State) :
    Repaired ws s (forAll ws (fun w t => t.repaired u i w) s) := by
  induction ws generalizing s with
  | nil => exact ⟨(BitVec.add_zero _).symm, fun _ h => absurd h List.not_mem_nil, fun _ h => h, rfl, rfl⟩
  | cons w ws ih =>
    have h1 := repaired_one u i w s
    have h2 := ih (s.repaired u i w)
    refine ⟨?_, fun x hx => ?_, fun z hz => h2.stay z (h1.stay z hz), h2.mbistFail.trans h1.mbistFail, h2.chart.trans h1.chart⟩
    · rw [forAll_cons, h2.head, h1.head, List.length_singleton, List.length_cons]
      bv_omega
    · obtain rfl | hx := List.mem_cons.mp hx
      · exact h2.stay _ (h1.spares x (List.mem_singleton.mpr rfl))
      · exact h2.spares x hx

/-- SRAMs without a failing cell pass. -/
theorem State.mbistAll_clean (u : UnitId) (i : Nat) {results : List MbistResult} (h : ∀ r ∈ results, r.cells = []) (s : State) :
    s.mbistAll u i results = (s, none) := by
  induction results with
  | nil => rfl
  | cons r rest ih =>
    have hone : s.mbistOne u i r = (s, none) := if_pos (h r List.mem_cons_self)
    unfold State.mbistAll
    simp only [hone, ih fun x hx => h x (List.mem_cons_of_mem r hx)]
    rfl

/-- One that fails and has no spares left fails its test; one whose spares cover it is repaired, and its second test decides. -/
theorem State.mbistAll_one (u : UnitId) (i : Nat) {r : MbistResult} (hr : r.cells ≠ []) (s : State) :
    (s.spareCovers r.arr r.cells = [] → s.mbistAll u i [r] = (s, some (r.arr, r.addr))) ∧
      (s.spareCovers r.arr r.cells ≠ [] → ∃ ws ∈ s.spareCovers r.arr r.cells, s.mbistAll u i [r] =
        (forAll ws (fun w t => t.repaired u i w) s.chosen, if r.again then some (r.arr, r.addr) else none)) := by
  have hall : s.mbistAll u i [r] = ((s.mbistOne u i r).1, (s.mbistOne u i r).2.map fun a => (r.arr, a)) := by
    unfold State.mbistAll State.mbistAll
    exact Prod.ext rfl (Option.or_none)
  rw [hall]
  unfold State.mbistOne
  rw [if_neg hr]
  refine ⟨fun h => ?_, fun h => ?_⟩
  · rw [h]
    rfl
  · obtain ⟨ws, hws⟩ := pick_of_ne_nil h s.choice
    refine ⟨ws, mem_of_pick hws, ?_⟩
    rw [hws]
    cases r.again <;> rfl

section
variable {s v : State} {x : CoreTest} {results : List MbistResult} (hx : s.test.running = some x) (hp : x.part = 1) (hc : x.core < 16)
include hx hp hc

theorem State.mbistDone_passes (h : s.mbistAll .core x.core results = (v, none)) : s.mbistDone results = v.enterPart (x.after true) 2 := by
  have hshared : decide (16 ≤ x.core) = false := decide_eq_false (Nat.not_le.mpr hc)
  unfold State.mbistDone
  simp only [hx, hp, hshared, ne_eq, not_true_eq_false, Bool.false_eq_true, if_false, h]

theorem State.mbistDone_fails {a addr : Nat} (h : s.mbistAll .core x.core results = (v, some (a, addr))) :
    s.mbistDone results = (State.report { reason := 0x92, sev := .contained, unit := .core, unitIndex := x.core, detailA := a, detailB := addr }
      { v with test := { v.test with mbistFail := v.test.mbistFail ||| BitVec.ofNat 17 (2 ^ x.core) } }).enterPart (x.after false) 2 := by
  have hshared : decide (16 ≤ x.core) = false := decide_eq_false (Nat.not_le.mpr hc)
  unfold State.mbistDone
  simp only [hx, hp, hshared, ne_eq, not_true_eq_false, Bool.false_eq_true, if_false, h, whenB]

end

/-- The bit of a core is set in DJ_MBIST_FAIL. -/
theorem testBit_mbistFail (b : BitVec 17) {c : Nat} (h : c < 16) : (b ||| BitVec.ofNat 17 (2 ^ c)).toNat.testBit c = true := by
  rw [BitVec.toNat_or, Nat.testBit_or, BitVec.toNat_ofNat, Nat.mod_eq_of_lt (Nat.pow_lt_pow_right (by decide) (by omega)),
    Nat.testBit_two_pow_self, Bool.or_true]

/-- What a failed MBIST adds to the state in which its repairs are loaded. -/
theorem State.mbistFails_after (x : CoreTest) (hc : x.core < 16) (a addr : Nat) {s v : State} (hch : v.chart = s.chart) :
    let u := (State.report { reason := 0x92, sev := .contained, unit := .core, unitIndex := x.core, detailA := a, detailB := addr }
      { v with test := { v.test with mbistFail := v.test.mbistFail ||| BitVec.ofNat 17 (2 ^ x.core) } }).enterPart (x.after false) 2
    Sent v u 0x92 .contained ∧ u.test.mbistFail.toNat.testBit x.core = true ∧ u.test.spares = v.test.spares ∧
      u.test.running = some { x.after false with part := s.partFrom (x.after false) 2 } := by
  dsimp only
  generalize hv : State.report _ _ = w
  have hsent : Sent v w 0x92 .contained := by
    rw [← hv]
    exact sent_congr rfl rfl (sent_report _ _)
  have hsame : SameButErr { v with test := { v.test with mbistFail := v.test.mbistFail ||| BitVec.ofNat 17 (2 ^ x.core) } } w := by
    rw [← hv]
    exact sameButErr_report _ _
  obtain ⟨g, he⟩ := State.enterPart_after (x.after false) 2 w
  rw [he, State.partFrom_congr (s := s) (hsame.chart.trans hch)]
  have hspares := congrArg TestSt.spares hsame.test
  refine ⟨sent_congr rfl rfl hsent, ?_, hspares, rfl⟩
  exact (congrArg (fun z : TestSt => z.mbistFail.toNat.testBit x.core) hsame.test).trans (testBit_mbistFail _ hc)

/-! ### SCAN and packages -/

section
variable {s : State} {x : CoreTest} {p : PkgLoad} {seen : List ScanSeen} (hx : s.test.running = some x) (hg : s.test.pkg = some p)
  (hp : x.part = 2) (hn : p.stream = none)
include hx hg hp hn

/-- SCAN whose package has come whole and with its digest counts its failing patterns (R531). -/
theorem State.scanDone_counts (he : p.err = false) (hl : p.len ≤ p.bytes.length)
    (hd : sha384 (p.bytes.take (manLength p.manifest)) = manDigest p.manifest) :
    (packageScan (p.bytes.take (manLength p.manifest)) seen = [] → (s.scanDone seen).err = s.err ∧ (s.scanDone seen).test.pkg = none ∧
      (s.scanDone seen).test.running = some { x.after true with part := 3 }) ∧
    (packageScan (p.bytes.take (manLength p.manifest)) seen ≠ [] → Sent s (s.scanDone seen) 0x93 .contained ∧
      (s.scanDone seen).test.failLog = ((packageScan (p.bytes.take (manLength p.manifest)) seen).take 16).map failEntry ∧
      (s.scanDone seen).test.running = some { x.after false with part := 3 }) := by
  have hgo : ¬ (x.part ≠ 2 ∨ p.stream.isSome = true ∨ p.bytes.length < p.len ∧ (!p.err) = true) := by
    rw [hn]
    rintro (h | h | h)
    · exact h hp
    · exact Bool.false_ne_true h
    · exact Nat.not_lt.mpr hl h.1
  have hok : ¬ (p.err = true ∨ sha384 (p.bytes.take (manLength p.manifest)) ≠ manDigest p.manifest) := by
    rw [he]
    exact fun h => h.elim Bool.false_ne_true fun h => h hd
  obtain ⟨c, f, hdec⟩ := State.packageDecoded_after (p.bytes.take (manLength p.manifest)) { s with test := { s.test with pkg := none } }
  unfold State.scanDone
  rw [hx, hg]
  dsimp only
  rw [if_neg hgo, if_neg hok, hdec]
  cases packageScan (p.bytes.take (manLength p.manifest)) seen with
  | nil =>
    exact ⟨fun _ => ⟨rfl, rfl, rfl⟩, fun h => absurd rfl h⟩
  | cons z zs =>
    refine ⟨fun h => absurd h (List.cons_ne_nil z zs), fun _ => ?_⟩
    dsimp only
    generalize hv : State.report _ _ = v
    have hsent : Sent s v 0x93 .contained := by
      rw [← hv]
      exact sent_congr rfl rfl (sent_report _ _)
    have htest : v.test.failLog = ((z :: zs).take 16).map failEntry := by
      rw [← hv, (sameButErr_report _ _).test]
    rw [State.enterPart_wipe]
    exact ⟨sent_congr rfl rfl hsent, htest, rfl⟩

/-- One whose package came with an error, or with another digest, does not count (R530). -/
theorem State.scanDone_spoilt (h : p.err = true ∨ p.len ≤ p.bytes.length ∧
    sha384 (p.bytes.take (manLength p.manifest)) ≠ manDigest p.manifest) :
    Sent s (s.scanDone seen) 0x94 .corrected ∧ (s.scanDone seen).test.pkg = none ∧
      (s.scanDone seen).test.running = some { x with part := 3 } := by
  have hgo : ¬ (x.part ≠ 2 ∨ p.stream.isSome = true ∨ p.bytes.length < p.len ∧ (!p.err) = true) := by
    rw [hn]
    rintro (ha | ha | ha)
    · exact ha hp
    · exact Bool.false_ne_true ha
    · rcases h with h | h
      · rw [h] at ha
        exact Bool.false_ne_true ha.2
      · exact Nat.not_lt.mpr h.1 ha.1
  have hbad : p.err = true ∨ sha384 (p.bytes.take (manLength p.manifest)) ≠ manDigest p.manifest := h.imp id And.right
  obtain ⟨c, f, hdec⟩ := State.packageDecoded_after (p.bytes.take (manLength p.manifest)) { s with test := { s.test with pkg := none } }
  unfold State.scanDone
  rw [hx, hg]
  dsimp only
  rw [if_neg hgo, if_pos hbad, hdec]
  generalize hv : State.report _ _ = v
  have hsent : Sent s v 0x94 .corrected := by
    rw [← hv]
    exact sent_congr rfl rfl (sent_report _ _)
  have htest : v.test.pkg = none := by
    rw [← hv, (sameButErr_report _ _).test]
  rw [State.enterPart_wipe]
  exact ⟨sent_congr rfl rfl hsent, htest, rfl⟩

end

/-- A package that has been read whole: it becomes the current one, or is rejected; the pattern port is free for SCAN again (R529). -/
theorem State.packageRead_after (n : Nat) (m pkg : List Byte) (err : Bool) (s : State) :
    (∀ z, (s.packageRead n m pkg err).test.pkg = some z → z.stream = none) ∧ (s.packageRead n m pkg err).err.irqTest = true ∧
      (packageFails s.params.hardening m pkg err = none → (s.packageRead n m pkg err).test.pkgValid = true ∧
        (s.packageRead n m pkg err).test.pkgId = manId m ∧ (s.packageRead n m pkg err).test.pkgVersion = manVersion m ∧
          Sent s (s.packageRead n m pkg err) 0x97 .corrected) ∧
      ∀ c, packageFails s.params.hardening m pkg err = some c → (s.packageRead n m pkg err).test.pkgValid = s.test.pkgValid ∧
        Sent s (s.packageRead n m pkg err) 0x95 .corrected := by
  obtain ⟨g, hscan, hstream⟩ := State.scanReads_pkg { s with test := { s.test with pkg := none } }
  unfold State.packageRead
  rw [hscan]
  obtain ⟨c, f, hdec⟩ := State.packageDecoded_after pkg { s with test := { s.test with pkg := g } }
  rw [show State.packageDecoded pkg { ({ s with test := { s.test with pkg := none } } : State) with
    test := { s.test with pkg := g } } = _ from hdec]
  dsimp only
  cases packageFails s.params.hardening m pkg err with
  | none =>
    dsimp only
    generalize hv : State.report _ _ = v
    have hsent : Sent s v 0x97 .corrected := by
      rw [← hv]
      exact sent_congr rfl rfl (sent_report _ _)
    have htest : v.test = { s.test with
        pkg := g, pkgValid := true, pkgId := manId m, pkgVersion := manVersion m, pkgCount := byteBits (slice pkg 0 64) 159 128
        pkgManifest := m } := by
      rw [← hv, (sameButErr_report _ _).test]
    refine ⟨fun z hz => hstream rfl z ?_, rfl, fun _ => ⟨?_, ?_, ?_, hsent⟩, fun c hc => nomatch hc⟩
    · exact (congrArg TestSt.pkg htest).symm.trans hz
    · exact congrArg TestSt.pkgValid htest
    · exact congrArg TestSt.pkgId htest
    · exact congrArg TestSt.pkgVersion htest
  | some k =>
    dsimp only
    generalize hv : State.report _ _ = v
    have hsent : Sent s v 0x95 .corrected := by
      rw [← hv]
      exact sent_congr rfl rfl (sent_report _ _)
    have htest : v.test = { s.test with pkg := g } := by
      rw [← hv, (sameButErr_report _ _).test]
    have hvalid := congrArg TestSt.pkgValid htest
    refine ⟨fun z hz => hstream rfl z ?_, rfl, fun h => (nomatch h), fun c hc => ⟨hvalid, hsent⟩⟩
    exact (congrArg TestSt.pkg htest).symm.trans hz

/-- Bytes of a package: more are missing, or the package of a descriptor has come whole. -/
theorem State.patternBytes_of {s : State} {data : List Byte} {err : Bool} {p : PkgLoad} (hp : s.test.pkg = some p) :
    (((p.bytes ++ data).take p.len).length < p.len → s.patternBytes data err =
      { s with test := { s.test with pkg := some { p with bytes := (p.bytes ++ data).take p.len, err := p.err || err } } }) ∧
    ∀ n, p.stream = some n → p.len ≤ ((p.bytes ++ data).take p.len).length → s.patternBytes data err =
      State.packageRead n p.manifest (((p.bytes ++ data).take p.len).take (manLength p.manifest)) (p.err || err)
        { s with test := { s.test with pkg := some { p with bytes := (p.bytes ++ data).take p.len, err := p.err || err } } } := by
  unfold State.patternBytes
  rw [hp]
  dsimp only
  refine ⟨fun h => ?_, fun n hn h => ?_⟩
  · split
    · rfl
    · exact if_pos h
  · rw [hn]
    exact if_neg (Nat.not_lt.mpr h)

/-! ### Test access -/

/-- An opening that the life-cycle state allows (R532). -/
theorem State.testAccess_opens {s : State} (b : Nat) {k : TestAccess} (hp : s.powered = true) (h : s.accessOpen k = true) :
    (b, k) ∈ (s.testAccess b k).test.segments ∧
      (∀ c, k = .directScan c → ∃ w ∈ (s.testAccess b k).test.wrappers, w.core = c) ∧ (s.testAccess b k).err = s.err ∧
        (s.testAccess b k).counters = s.counters := by
  have hs : s.testAccess b k = s.segmentOpens b k := by
    unfold State.testAccess
    rw [hp, h]
    rfl
  rw [hs]
  refine ⟨List.mem_append_right _ (List.mem_singleton.mpr rfl), fun c hc => ?_, rfl, rfl⟩
  subst hc
  exact ⟨_, List.mem_append_right _ (List.mem_singleton.mpr rfl), rfl⟩

/-- A refused one is counted, and has its record once its millisecond has passed. -/
theorem State.testAccess_refused {s : State} (b : Nat) {k : TestAccess} (hp : s.powered = true) (h : s.accessOpen k = false) :
    ((∀ x, s.test.lastRefusal = some x → x + 1000000 ≤ s.time) → Sent s (s.testAccess b k) 0x9A .corrected ∧
      (s.testAccess b k).test.lastRefusal = some s.time) ∧
    ∀ x, s.test.lastRefusal = some x → s.time < x + 1000000 → s.testAccess b k = s.bump .testRefused := by
  unfold State.testAccess
  rw [hp, h]
  dsimp only
  refine ⟨fun hd => ?_, fun x hx hd => ?_⟩
  · have hreport : ∀ u : State, ∀ n : Note, n.reason = 0x9A → n.sev = .corrected → u.err = s.err →
        u.test.lastRefusal = some s.time → Sent s (u.report n) 0x9A .corrected ∧ (u.report n).test.lastRefusal = some s.time := by
      intro u n hr hs he ht
      refine ⟨sent_congr he rfl (hr ▸ hs ▸ sent_report u n), ?_⟩
      rw [(sameButErr_report n u).test]
      exact ht
    cases hl : s.test.lastRefusal with
    | none => exact hreport _ _ rfl rfl rfl rfl
    | some x =>
      simp only [decide_eq_true (hd x hl)]
      exact hreport _ _ rfl rfl rfl rfl
  · rw [hx]
    simp only [decide_eq_false (Nat.not_le.mpr hd)]
    rfl

/-! ### The commands -/

theorem exec_ferryTimer {t : Time} {s : State} (h : s.clksLost [.hclk, .eclk] = false) :
    exec (.ferryTimer t) s = .next ((s.timed t).ferryTimer).settle :=
  congrArg (fun u : State => Host.Outcome.next u.settle) (State.clocked_of_running (s := s.timed t) h)

theorem exec_coreTestStart {t : Time} {s : State} (h : s.clksLost [.eclk] = false) :
    exec (.coreTestStart t) s = .next ((s.timed t).coreTestStart).settle :=
  congrArg (fun u : State => Host.Outcome.next u.settle) (State.clocked_of_running (s := s.timed t) h)

theorem exec_lbistDone {t : Time} {misr : Dword} {s : State} (h : s.clksLost [.eclk] = false) :
    exec (.lbistDone t misr) s = .next ((s.timed t).lbistDone misr) :=
  congrArg Host.Outcome.next (State.clocked_of_running (s := s.timed t) h)

theorem exec_mbistDone {t : Time} {results : List MbistResult} {s : State} (h : s.clksLost [.eclk] = false) :
    exec (.mbistDone t results) s = .next ((s.timed t).mbistDone results) :=
  congrArg Host.Outcome.next (State.clocked_of_running (s := s.timed t) h)

theorem exec_scanDone {t : Time} {seen : List ScanSeen} {s : State} (h : s.clksLost [.eclk] = false) :
    exec (.scanDone t seen) s = .next ((s.timed t).scanDone seen).settle :=
  congrArg (fun u : State => Host.Outcome.next u.settle) (State.clocked_of_running (s := s.timed t) h)

theorem exec_ppResponse {t : Time} {data : List Byte} {err : Bool} {s : State} (h : s.clksLost [.eclk] = false) :
    exec (.ppResponse t data err none) s = .next ((s.timed t).patternBytes data err).settle :=
  congrArg (fun u : State => Host.Outcome.next u.settle) (State.crossing_of_running (s := s.timed t) h)

theorem exec_testAccess (t : Time) (b : Nat) (k : TestAccess) (s : State) :
    exec (.testAccess t b k none) s = .next ((s.timed t).testAccess b k) :=
  congrArg Host.Outcome.next (State.crossing_of_running (s := s.timed t) (l := []) rfl)

/-- Settles O58: each command by its own rule; MBIST by what the spares of the failing SRAM cover. -/
theorem fieldTestCommands : Obligations.FieldTestCommands := by
  intro t s hclk
  have heclk : s.clksLost [.eclk] = false := by
    simp only [State.clksLost, List.any_cons, List.any_nil, Bool.or_eq_false_iff] at hclk ⊢
    exact ⟨hclk.2.1, trivial⟩
  refine ⟨fun hph hi hw x hx hd => ?_, fun h => ?_, fun x rest c hph hn hw hc he hr => ?_, fun x misr hx hp => ?_,
    fun x hx hp hc => ⟨fun results hr => ?_, fun r hr h => ?_, fun r hr h => ?_⟩,
    fun x p fails seen hx hg hp hn hf => ⟨fun he hl hd => ?_, fun h => ?_⟩,
    fun p data err all hp hall => ⟨fun hl => ?_, fun n hn hl => ⟨fun hf => ?_, fun c hf => ?_⟩⟩,
    fun b k => ⟨fun hp h => ?_, fun hp h hd => ?_, fun x hp h hx hd => ?_⟩⟩
  · exact settles_of_eq (exec_ferryTimer hclk) rfl (State.ferryTimer_due (s := s.timed t) hph hi hw hx hd)
  · exact (exec_ferryTimer hclk).trans (congrArg (fun u : State => Host.Outcome.next u.settle) (State.ferryTimer_early (s := s.timed t) h))
  · exact settles_of_eq (exec_coreTestStart heclk) rfl (State.coreTestStart_begins (s := s.timed t) hph hn hw hc he hr)
  · exact runs_of_eq (exec_lbistDone heclk) rfl (State.lbistDone_after (s := s.timed t) hx hp)
  · obtain ⟨g, he⟩ := State.enterPart_after (x.after true) 2 (s.timed t)
    exact runs_of_eq (exec_mbistDone heclk) ((State.mbistDone_passes (s := s.timed t) hx hp hc
      (State.mbistAll_clean .core x.core hr (s.timed t))).trans he) ⟨rfl, rfl, rfl⟩
  · exact runs_of_eq (exec_mbistDone heclk) (State.mbistDone_fails (s := s.timed t) hx hp hc
      ((State.mbistAll_one .core x.core hr (s.timed t)).1 h)) (State.mbistFails_after x hc r.arr r.addr (s := s.timed t) rfl)
  · obtain ⟨ws, hws, hall⟩ := (State.mbistAll_one .core x.core hr (s.timed t)).2 h
    obtain ⟨hhead, hspares, -, hfail, hchart⟩ := repaired_all .core x.core ws (s.timed t).chosen
    generalize forAll ws (fun w t => State.repaired .core x.core w t) (s.timed t).chosen = v at *
    cases ha : r.again with
    | false =>
      rw [ha, if_neg Bool.false_ne_true] at hall
      obtain ⟨g, he⟩ := State.enterPart_after (x.after true) 2 v
      refine runs_of_eq (exec_mbistDone heclk) ((State.mbistDone_passes (s := s.timed t) hx hp hc hall).trans he) ⟨ws, hws, hspares, ?_, ?_⟩
      · refine fun _ => ⟨hhead, hfail, ?_⟩
        rw [State.partFrom_congr (s := s) hchart]
      · exact fun h => nomatch h
    | true =>
      rw [ha, if_pos rfl] at hall
      obtain ⟨hsent, hbit, hsp, hrun⟩ := State.mbistFails_after x hc r.arr r.addr (s := s) (v := v) hchart
      refine runs_of_eq (exec_mbistDone heclk) (State.mbistDone_fails (s := s.timed t) hx hp hc hall)
        ⟨ws, hws, fun w hw => hsp ▸ hspares w hw, fun h => (nomatch h), fun _ => ⟨?_, hbit, hrun⟩⟩
      rw [hsent.1, hhead]
      show s.err.head + _ + 1 = _
      bv_omega
  · subst hf
    obtain ⟨hok, hbad⟩ := State.scanDone_counts (s := s.timed t) (seen := seen) hx hg hp hn he hl hd
    exact ⟨fun h => settles_of_eq (exec_scanDone heclk) rfl (hok h), fun h => settles_of_eq (exec_scanDone heclk) rfl (hbad h)⟩
  · exact settles_of_eq (exec_scanDone heclk) rfl (State.scanDone_spoilt (s := s.timed t) hx hg hp hn h)
  · subst hall
    exact settles_of_eq (exec_ppResponse heclk) ((State.patternBytes_of (s := s.timed t) hp).1 hl) ⟨rfl, rfl⟩
  · subst hall
    obtain ⟨hstream, hirq, hok, -⟩ := State.packageRead_after n p.manifest (((p.bytes ++ data).take p.len).take (manLength p.manifest))
      (p.err || err) { s.timed t with test := { s.test with pkg := some { p with
        bytes := (p.bytes ++ data).take p.len, err := p.err || err } } }
    obtain ⟨hvalid, hid, hversion, hsent⟩ := hok hf
    exact settles_of_eq (exec_ppResponse heclk) ((State.patternBytes_of (s := s.timed t) hp).2 n hn hl)
      ⟨hstream, hvalid, hid, hversion, hirq, hsent⟩
  · subst hall
    obtain ⟨hstream, hirq, -, hbad⟩ := State.packageRead_after n p.manifest (((p.bytes ++ data).take p.len).take (manLength p.manifest))
      (p.err || err) { s.timed t with test := { s.test with pkg := some { p with
        bytes := (p.bytes ++ data).take p.len, err := p.err || err } } }
    obtain ⟨hvalid, hsent⟩ := hbad c hf
    exact settles_of_eq (exec_ppResponse heclk) ((State.patternBytes_of (s := s.timed t) hp).2 n hn hl) ⟨hstream, hvalid, hirq, hsent⟩
  · exact ⟨_, exec_testAccess t b k s, State.testAccess_opens (s := s.timed t) b hp h⟩
  · exact ⟨_, exec_testAccess t b k s, (State.testAccess_refused (s := s.timed t) b hp h).1 hd⟩
  · exact (exec_testAccess t b k s).trans (congrArg Host.Outcome.next ((State.testAccess_refused (s := s.timed t) b hp h).2 x hx hd))

end Sys2Proof.Machine
end

section
/-! SUPPORT. Collectives, their chunks and their link ports, and the projected delay of a collective (09_collectives R366 to R368;
10_memory_channels R411). -/

namespace Sys2Proof.Machine

/-! ### Collectives and link ports -/

theorem State.coll?_key {s : State} {n : Nat} {q : Word} {c : Coll} (h : s.coll? n q = some c) : c.stream = n ∧ c.seq = q := by
  simpa using List.find?_some (p := fun x : Coll => x.stream == n && x.seq == q) h

theorem State.coll?_congr {s t : State} (h : t.colls = s.colls) (n : Nat) (q : Word) : t.coll? n q = s.coll? n q := by
  rw [State.coll?, h]
  rfl

theorem State.rankNo_congr {s t : State} (h : t.chart = s.chart) : t.rankNo = s.rankNo := by
  unfold State.rankNo State.chartVal
  rw [h]

theorem State.run?_seq {s : State} {n : Nat} {q : Word} {r : Run} (h : s.run? n q = some r) : r.seq = q := by
  obtain ⟨x, -, hr⟩ := Option.bind_eq_some_iff.mp h
  have hn := List.find?_some hr
  simp only [Run.named, Bool.and_eq_true, beq_iff_eq] at hn
  exact hn.2

theorem State.lport_updLport (s : State) (p : Fin 2) (f : LPort → LPort) : (s.updLport p f).lports[p] = f s.lports[p] := by
  simp [State.updLport]

/-- A message joins the queue of its port. -/
theorem State.lport_queueMsg (s : State) (p : Fin 2) (isChunk : Bool) (n c : Nat) (m : Man) :
    (s.queueMsg p isChunk n c m).lports[p].tx = s.lports[p].tx ++ [(isChunk, n, c, ⟨m.dst, m.bytes, []⟩)] :=
  congrArg LPort.tx (State.lport_updLport s p _)

/-- The record of a collective is one record, and changes nothing else but the counters. -/
theorem sent_collRec (n : Nat) (q : Word) (reason : Nat) (sev : Sev) (chunk : Option Nat) (s : State) :
    Sent s (s.collRec n q reason sev chunk) reason sev := sent_workReport ..

theorem sameButErr_collRec (n : Nat) (q : Word) (reason : Nat) (sev : Sev) (chunk : Option Nat) (s : State) :
    SameButErr s (s.collRec n q reason sev chunk) := sameButErr_workReport ..

theorem SameButErr.lports {s t : State} (h : SameButErr s t) : t.lports = s.lports := h.field State.lports

theorem SameButErr.coll? {s t : State} (h : SameButErr s t) (n : Nat) (q : Word) : t.coll? n q = s.coll? n q :=
  State.coll?_congr h.colls n q

/-! ### Projection -/

/-- The message that announces a delay. -/
def State.lateNotice (s : State) (c : Coll) (r : Run) (d : Nat) : Man :=
  { Man.plain 4 s.rankNo (dPeer r.desc) (dGroup r.desc) (dStep r.desc) (c.nextOf r) with late := true, lateNs := d }

/-- A delay beyond the slack, or one that has grown by half of it, is announced; the first time with a record (R366). -/
theorem State.announce_after {s : State} {n : Nat} {c x : Coll} {r : Run} {d : Nat} (hn : c.stream = n)
    (hc : s.coll? n c.seq = some x) (hd : dSlack r.desc < d)
    (hg : c.lateSent = false ∨ c.late < d ∧ dSlack r.desc ≤ 2 * (d - c.late)) :
    (∃ y, (s.announce c r d).coll? n c.seq = some y ∧ y.late = d ∧ y.lateSent = true ∧ y.projAt = x.projAt) ∧
      (s.announce c r d).lports[lportOf (dLport r.desc)].tx =
        s.lports[lportOf (dLport r.desc)].tx ++ [(false, n, c.nextOf r, ⟨dPeer r.desc, (s.lateNotice c r d).bytes, []⟩)] ∧
      (c.lateSent = false → Sent s (s.announce c r d) 0x55 .corrected) ∧ (c.lateSent = true → (s.announce c r d).err = s.err) := by
  have hgo : dSlack r.desc < d ∧ ((!c.lateSent) = true ∨ c.late < d ∧ dSlack r.desc ≤ 2 * (d - c.late)) :=
    ⟨hd, hg.imp (fun h => by rw [h]; rfl) id⟩
  subst hn
  have hs : s.announce c r d = whenB (!c.lateSent) (State.collRec c.stream c.seq 0x55 .corrected (some (c.nextOf r)))
      ((s.updColl c.stream c.seq fun x => { x with late := d, lateSent := true }).notice c r fun m => { m with late := true, lateNs := d }) :=
    if_pos hgo
  rw [hs]
  generalize hv : ((s.updColl c.stream c.seq fun x => { x with late := d, lateSent := true }).notice c r fun m =>
    { m with late := true, lateNs := d }) = v
  have hcoll : v.coll? c.stream c.seq = some { x with late := d, lateSent := true, spoke := true } := by
    rw [← hv]
    exact coll?_updColl (s := s.updColl c.stream c.seq _) (f := fun z => { z with spoke := true })
      (coll?_updColl (f := fun z => { z with late := d, lateSent := true }) hc rfl rfl) rfl rfl
  have htx : v.lports[lportOf (dLport r.desc)].tx =
      s.lports[lportOf (dLport r.desc)].tx ++ [(false, c.stream, c.nextOf r, ⟨dPeer r.desc, (s.lateNotice c r d).bytes, []⟩)] := by
    rw [← hv]
    exact State.lport_queueMsg _ _ _ _ _ _
  have herr : v.err = s.err := by rw [← hv]; rfl
  cases hl : c.lateSent with
  | false =>
    have hsame := sameButErr_collRec c.stream c.seq 0x55 .corrected (some (c.nextOf r)) v
    refine ⟨⟨_, (hsame.coll? _ _).trans hcoll, rfl, rfl, rfl⟩, ?_, fun _ => sent_congr herr rfl (sent_collRec ..), fun h => nomatch h⟩
    exact (congrArg (fun l : Vector LPort 2 => l[lportOf (dLport r.desc)].tx) hsame.lports).trans htx
  | true => exact ⟨⟨_, hcoll, rfl, rfl, rfl⟩, htx, fun h => (nomatch h), fun _ => herr⟩

theorem State.announce_not {s : State} {c : Coll} {r : Run} {d : Nat}
    (h : d ≤ dSlack r.desc ∨ c.lateSent = true ∧ (d ≤ c.late ∨ 2 * (d - c.late) < dSlack r.desc)) : s.announce c r d = s := by
  refine if_neg ?_
  rintro ⟨hd, hg⟩
  rcases h with h | ⟨hl, h⟩
  · exact Nat.not_le.mpr hd h
  · rcases hg with hg | ⟨h1, h2⟩
    · rw [hl] at hg
      exact Bool.false_ne_true hg
    · omega

section
variable {s : State} {n : Nat} {c : Coll} {r : Run} (hf : (s.colls.filter fun x => x.stream == n) = [c])
  (hr : s.run? n c.seq = some r)
include hf hr

/-- Within 10 µs a collective is not projected again. -/
theorem State.project_early (h : s.time < c.projAt + 10000) : s.project n = s := by
  unfold State.project
  dsimp only
  rw [hf, forAll_cons, forAll_nil, hr]
  exact if_pos (.inr h)

/-- A projection of a collective: its own delay while a group is in THERM_WARN, with what the peer of its pair has announced (R366, R368). -/
theorem State.project_due {own peer : Nat} (hp : peer = ((s.pairedRecv c).map fun y => s.lateOf (dPeer y.desc)).getD 0)
    (ho : (s.therms.any fun x => x.st == .warn) = true ∧ s.delayOf c r = some own ∨
      (s.therms.any fun x => x.st == .warn) = false ∧ peer ≠ 0 ∧ own = 0) (hd : c.projAt + 10000 ≤ s.time) :
    ∃ v, SameWork s v ∧ s.project n =
      (v.updColl n c.seq fun x => { x with projAt := s.time }).announce c r (min (2 ^ 32 - 1) (own + peer)) := by
  subst hp
  unfold State.project
  dsimp only
  rw [hf, forAll_cons, forAll_nil, hr]
  dsimp only
  rcases ho with ⟨hw, ho⟩ | ⟨hw, hne, rfl⟩
  · refine ⟨s.chosen, sameWork_chosen s, ?_⟩
    rw [hw, ho]
    exact if_neg (by simp [Nat.not_lt.mpr hd])
  · refine ⟨s, SameWork.refl s, ?_⟩
    rw [hw]
    exact if_neg (by simp [hne, Nat.not_lt.mpr hd])

end

/-! ### The rate of a group -/

/-- A group that events have moved keeps the beginning of its window at every time. -/
theorem State.groupTherm_timed {s : State} {group : Nat} (h : (s.groupTherm group).st ≠ .normal) (t : Time) :
    (s.timed t).groupTherm group = s.groupTherm group := by
  unfold State.groupTherm at h ⊢
  show (s.therms.find? fun z => z.group == group).getD _ = _
  cases hf : s.therms.find? fun z => z.group == group with
  | none =>
    rw [hf] at h
    exact absurd rfl h
  | some x => rfl

theorem State.groupTherm_updTherm {s : State} {group : Nat} {f : GroupTherm → GroupTherm} (h : (f (s.groupTherm group)).group = group) :
    (s.updTherm group f).groupTherm group = f (s.groupTherm group) := by
  have hf : (s.updTherm group f).therms.find? (fun z => z.group == group) = some (f (s.groupTherm group)) := find?_upsert (by simp [h])
  conv => lhs; unfold State.groupTherm
  rw [hf]
  rfl

theorem exec_collProjection {t : Time} {n : Nat} {s : State} (h : s.clksLost [.eclk] = false) :
    exec (.collProjection t n) s = .next ((s.timed t).project n).settle :=
  congrArg (fun u : State => Host.Outcome.next u.settle) (State.clocked_of_running (s := s.timed t) h)

theorem exec_rateMeasure {t : Time} {group : Nat} {s : State} (h : s.clksLost [.eclk] = false) :
    exec (.rateMeasure t group) s = .next ((s.timed t).measureRate group) :=
  congrArg Host.Outcome.next (State.clocked_of_running (s := s.timed t) h)

/-- Settles O52: a projection that is due announces its delay or only notes its time; a window that is over gives the rate. -/
theorem projectionAndRate : Obligations.ProjectionAndRate := by
  intro t s hclk
  refine ⟨fun n c r own peer d hf hc hr hp ho hd hpr => ⟨fun hs hg => ?_, fun h => ?_⟩, fun n c r hf hr h => ?_, fun group h => ?_,
    fun group hst hd => ?_⟩
  · obtain ⟨v, hv, he⟩ := State.project_due (s := s.timed t) hf hr hp ho hpr
    rw [← hd] at he
    have hcoll := coll?_updColl (s := v) (n := n) (q := c.seq) (f := fun x => { x with projAt := t })
      ((State.coll?_congr hv.colls n c.seq).trans hc) rfl rfl
    obtain ⟨hx, htx, hsent, hsilent⟩ := State.announce_after (State.coll?_key hc).1 hcoll hs hg
    refine settles_of_eq (exec_collProjection hclk) he ⟨hx, ?_, fun h => sent_congr hv.err rfl (hsent h), fun h => (hsilent h).trans hv.err⟩
    refine Eq.trans htx ?_
    show v.lports[lportOf (dLport r.desc)].tx ++ [(false, n, c.nextOf r, ⟨dPeer r.desc, (v.lateNotice c r d).bytes, []⟩)] = _
    rw [hv.lports, State.lateNotice, State.rankNo_congr hv.chart]
    rfl
  · obtain ⟨v, hv, he⟩ := State.project_due (s := s.timed t) hf hr hp ho hpr
    rw [← hd, State.announce_not h] at he
    refine settles_of_eq (exec_collProjection hclk) he ⟨?_, hv.lports, hv.err⟩
    exact coll?_updColl (s := v) (n := n) (q := c.seq) (f := fun x => { x with projAt := t })
      ((State.coll?_congr hv.colls n c.seq).trans hc) rfl rfl
  · exact (exec_collProjection hclk).trans (congrArg (fun u : State => Host.Outcome.next u.settle)
      (State.project_early (s := s.timed t) hf hr h))
  · exact (exec_rateMeasure hclk).trans (congrArg Host.Outcome.next (if_pos h))
  · have hg := State.groupTherm_timed hst t
    have hs : (s.timed t).measureRate group = (s.timed t).updTherm group (GroupTherm.measured t) := by
      refine if_neg ?_
      rw [hg]
      rintro (h | h)
      · exact hst h
      · exact Nat.not_lt.mpr hd h
    refine ⟨_, (exec_rateMeasure hclk).trans (congrArg Host.Outcome.next hs), ?_, ?_⟩
    · rw [State.groupTherm_updTherm (groupTherm_group _ _), hg]
      rfl
    · exact congrFun (therm_updTherm (s := s.timed t) (f := GroupTherm.measured t) (groupTherm_group _ _) rfl) group

end Sys2Proof.Machine
end

section
/-! SUPPORT. The chunks of a SEND, and the timers of a collective (09_collectives R345, R359 to R362; Table 9-6). -/

namespace Sys2Proof.Machine

/-! ### Chunks of a SEND -/

/-- The chunk of a collective with a number. -/
def Coll.chunk? (c : Coll) (k : Nat) : Option SendChunk := c.send.find? fun x => x.chunk == k

theorem Coll.chunk?_key {c : Coll} {k : Nat} {x : SendChunk} (h : c.chunk? k = some x) : x.chunk = k ∧ x ∈ c.send :=
  ⟨by simpa using List.find?_some (p := fun x : SendChunk => x.chunk == k) h, List.mem_of_find?_eq_some h⟩

/-- A chunk is changed, and stays under its number. -/
theorem State.chunk_updChunk {s : State} {n : Nat} {q : Word} {c : Coll} {k : Nat} {x : SendChunk} {f : SendChunk → SendChunk}
    (hc : s.coll? n q = some c) (hx : c.chunk? k = some x) (hf : (f x).chunk = x.chunk) :
    ∃ d, (s.updChunk n q k f).coll? n q = some d ∧ d.chunk? k = some (f x) := by
  refine ⟨{ c with send := updFirst (fun y => y.chunk == k) f c.send }, ?_, ?_⟩
  · exact coll?_updColl (f := fun z => { z with send := updFirst (fun y => y.chunk == k) f z.send }) hc rfl rfl
  · exact find?_updFirst hx (by rw [hf]; exact beq_iff_eq.mpr (Coll.chunk?_key hx).1)

/-- Tiles of a chunk that fail leave the chunk in its place, without a record. -/
theorem State.chunkFails_after {s : State} {n : Nat} {q : Word} {c : Coll} {k : Nat} {x : SendChunk} (hc : s.coll? n q = some c)
    (hx : c.chunk? k = some x) :
    (s.chunkFails n q k).err = s.err ∧ ∃ d y, (s.chunkFails n q k).coll? n q = some d ∧ d.chunk? k = some y := by
  unfold State.chunkFails
  split
  · exact ⟨rfl, c, x, hc, hx⟩
  · next r _ =>
    refine ⟨rfl, ?_⟩
    obtain ⟨d, hd, hy⟩ := State.chunk_updChunk (s := (s.updRun n q fun x => { x with errTiles := x.errTiles + chunkStored r.rec1 k }).flagRun
      n q RunFlags.tileErr) (f := fun y => { y with failed := true, tiles := [], msg := ⟨0, [], []⟩ }) hc hx rfl
    exact ⟨d, _, hd, hy⟩

/-- A chunk that is given up has its record and stays, as given up (R359, R361). -/
theorem State.giveUp_after {s : State} {n : Nat} {r : Run} {c : Coll} {k : SendChunk} (hc : s.coll? n r.seq = some c)
    (hk : c.chunk? k.chunk = some k) (c' : Coll) (reason : Nat) :
    Sent s (s.giveUp n r c' k reason) reason .contained ∧ ∃ d, (s.giveUp n r c' k reason).coll? n r.seq = some d ∧
      ∃ j ∈ d.send, j.chunk = k.chunk ∧ j.st = .givenUp := by
  have hfail : (whenB (!k.failed) (State.chunkFails n r.seq k.chunk) s).err = s.err ∧
      ∃ d y, (whenB (!k.failed) (State.chunkFails n r.seq k.chunk) s).coll? n r.seq = some d ∧ d.chunk? k.chunk = some y := by
    cases k.failed with
    | true => exact ⟨rfl, c, k, hc, hk⟩
    | false => exact State.chunkFails_after hc hk
  unfold State.giveUp
  dsimp only
  generalize whenB (!k.failed) (State.chunkFails n r.seq k.chunk) s = v at hfail
  obtain ⟨herr, d, y, hd, hy⟩ := hfail
  obtain ⟨z, hz, hj⟩ := State.chunk_updChunk (s := v) (f := fun x => { x with st := .givenUp }) hd hy rfl
  refine ⟨sent_congr herr rfl (sent_collRec ..), z, ?_, _, (Coll.chunk?_key hj).2, (Coll.chunk?_key hj).1, rfl⟩
  exact ((sameButErr_collRec ..).coll? n r.seq).trans hz

/-! ### Sending -/

theorem exec_chunkSend {t : Time} {port : Fin 2} {s : State} (h : s.clksLost [.eclk, .lclk] = false) :
    exec (.chunkSend t port none) s = .next ((s.timed t).chunkSend port).settle :=
  congrArg (fun u : State => Host.Outcome.next u.settle) (State.crossing_of_running (s := s.timed t) h)

/-- A waiting ACK, NACK or NOTICE leaves its port in front of every chunk (R347). -/
theorem State.chunkSend_control {s : State} {p : Fin 2} {x : Bool × Nat × Nat × LinkMsg} (hon : s.linkOn p = true)
    (hx : (s.lports[p].tx.find? fun x => !x.1 && !s.paused x.2.2.2.rank) = some x) :
    s.chunkSend p = (s.updLport p fun y => { y with tx := y.tx.erase x }).sendMsg p x.2.2.2 := by
  unfold State.chunkSend
  rw [hon]
  dsimp only
  rw [hx]
  rfl

/-! ### Timers of a SEND -/

section
variable {s : State} {n chunk : Nat} {x : Coll} {k : SendChunk} (hf : (s.colls.filter fun x => x.stream == n && x.isSend) = [x])
  (hc : s.coll? n x.seq = some x) (hk : x.chunk? chunk = some k)
include hf hk

/-- A chunk without an answer in T_C is sent again, or given up after its third sending (R361). -/
theorem State.sendTimeout_due {since : Time} {r : Run} (hst : k.st = .sent since) (hr : s.run? n x.seq = some r)
    (hp : s.paused (dPeer r.desc) = false) (hd : since + s.collTimeout since + s.lateOf (dPeer r.desc) ≤ s.time) :
    s.sendTimeout n chunk = if 3 ≤ k.sends then s.giveUp n r x k 0x52 else s.updChunk n x.seq chunk fun y => { y with st := .ready } := by
  unfold State.sendTimeout
  rw [hf, forAll_cons, forAll_nil, show (x.send.find? fun k => k.chunk == chunk) = some k from hk, hr]
  dsimp only
  rw [hst]
  refine if_neg ?_
  rw [hp]
  exact fun h => h.elim Bool.false_ne_true (Nat.not_lt.mpr hd)

include hc

/-- 10 µs after a NACK NO_SPACE the chunk is ready again (R359). -/
theorem State.noSpaceResend_due {since : Time} (hst : k.st = .noSpace since) (hd : since + 10000 ≤ s.time) :
    ∃ d, (s.noSpaceResend n chunk).coll? n x.seq = some d ∧ d.chunk? chunk = some { k with st := .ready } := by
  have hs : s.noSpaceResend n chunk = s.updChunk n x.seq chunk fun y => { y with st := .ready } := by
    unfold State.noSpaceResend
    rw [hf, forAll_cons, forAll_nil, show (x.send.find? fun k => k.chunk == chunk) = some k from hk]
    dsimp only
    rw [hst]
    exact if_pos hd
  rw [hs]
  exact State.chunk_updChunk (f := fun y => { y with st := .ready }) hc hk rfl

end

/-! ### The timer of a RECV -/

/-- The NACK MISSING of a RECV for its next chunk. -/
def State.missing (s : State) (c : Coll) (r : Run) : Man :=
  { Man.plain 3 s.rankNo (dPeer r.desc) (dGroup r.desc) (dStep r.desc) (c.nextOf r) with nack := 4 }

section
variable {s : State} {n : Nat} {c : Coll} {r : Run} {h : Nat} (hf : (s.colls.filter fun x => x.stream == n && !x.isSend) = [c])
  (hc : s.coll? n c.seq = some c) (hr : s.run? n c.seq = some r) (hh : r.head = some h) (ht : r.takesChunk (c.nextOf r) = true)
  (hp : s.paused (dPeer r.desc) = false) (hn : c.nextOf r < dFirst r.desc + dChunks r.desc)
  (hd : max h c.timer + s.collTimeout (max h c.timer) + s.lateOf (dPeer r.desc) ≤ s.time)
include hf hr hh ht hp hn hd

theorem State.recvTimeout_due : s.recvTimeout n =
    if 2 ≤ c.expiries then
      ((s.chunkTaken n c.seq (RecvChunk.lost (c.nextOf r))).chunkErr n r (c.nextOf r)).collRec n c.seq 0x52 .contained (some (c.nextOf r))
    else
      (s.updColl n c.seq fun x => { x with expiries := x.expiries + 1, timer := s.time, spoke := true }).queueMsg (lportOf (dLport r.desc))
        false n (c.nextOf r) (s.missing c r) := by
  unfold State.recvTimeout
  rw [hf, forAll_cons, forAll_nil, hr]
  dsimp only
  rw [hh]
  refine if_neg ?_
  rw [hp, ht]
  rintro (h | h | h | h)
  · exact Bool.false_ne_true h
  · exact Nat.not_le.mpr hn h
  · exact Bool.false_ne_true h
  · exact Nat.not_lt.mpr hd h

include hc

/-- An expected chunk is asked for (R360). -/
theorem State.recvTimeout_asks (he : c.expiries < 2) :
    (∃ d, (s.recvTimeout n).coll? n c.seq = some d ∧ d.expiries = c.expiries + 1 ∧ d.timer = s.time) ∧
      ∃ x ∈ (s.recvTimeout n).lports[lportOf (dLport r.desc)].tx, x.2.2.2.rank = dPeer r.desc ∧ x.2.2.2.man = (s.missing c r).bytes := by
  rw [State.recvTimeout_due hf hr hh ht hp hn hd, if_neg (Nat.not_le.mpr he)]
  refine ⟨⟨_, coll?_updColl (f := fun x => { x with expiries := x.expiries + 1, timer := s.time, spoke := true }) hc rfl rfl, rfl, rfl⟩,
    (false, n, c.nextOf r, ⟨(s.missing c r).dst, (s.missing c r).bytes, []⟩), ?_, rfl, rfl⟩
  rw [State.lport_queueMsg]
  exact List.mem_append_right _ (List.mem_singleton.mpr rfl)

/-- At the third expiry it is lost (R362). -/
theorem State.recvTimeout_loses (he : 2 ≤ c.expiries) :
    Sent s (s.recvTimeout n) 0x52 .contained ∧
      ∃ d, (s.recvTimeout n).coll? n c.seq = some d ∧ c.nextOf r ∈ d.accepted ∧ d.expiries = 0 := by
  rw [State.recvTimeout_due hf hr hh ht hp hn hd, if_pos he]
  refine ⟨sent_congr (s := (s.chunkTaken n c.seq (RecvChunk.lost (c.nextOf r))).chunkErr n r (c.nextOf r)) rfl rfl (sent_collRec ..), ?_⟩
  have hcoll := coll?_updColl (f := fun d => { d with
    accepted := d.accepted ++ [c.nextOf r], recv := d.recv ++ [RecvChunk.lost (c.nextOf r)], gone := d.gone + b2n true, timer := s.time, expiries := 0 })
    hc rfl rfl
  exact ⟨_, ((sameButErr_collRec ..).coll? n c.seq).trans hcoll, List.mem_append_right _ (List.mem_singleton.mpr rfl), rfl⟩

end

theorem exec_noSpaceResend {t : Time} {n chunk : Nat} {s : State} (h : s.clksLost [.eclk] = false) :
    exec (.noSpaceResend t n chunk) s = .next ((s.timed t).noSpaceResend n chunk).settle :=
  congrArg (fun u : State => Host.Outcome.next u.settle) (State.clocked_of_running (s := s.timed t) h)

theorem exec_sendTimeout {t : Time} {n chunk : Nat} {s : State} (h : s.clksLost [.eclk] = false) :
    exec (.sendTimeout t n chunk) s = .next ((s.timed t).sendTimeout n chunk).settle :=
  congrArg (fun u : State => Host.Outcome.next u.settle) (State.clocked_of_running (s := s.timed t) h)

theorem exec_recvTimeout {t : Time} {n : Nat} {s : State} (h : s.clksLost [.eclk] = false) :
    exec (.recvTimeout t n) s = .next ((s.timed t).recvTimeout n).settle :=
  congrArg (fun u : State => Host.Outcome.next u.settle) (State.clocked_of_running (s := s.timed t) h)

/-- Settles O51: the sending of a control message, then the timers of a SEND's chunk and of a RECV's next chunk. -/
theorem collectiveTimers : Obligations.CollectiveTimers := by
  intro t n s heclk
  refine ⟨fun port x hclk hon hx => ?_, fun chunk x k hf hc hk => ⟨fun since hst hd => ?_, fun since r hst hr hp hd => ⟨fun hs => ?_, fun hs => ?_⟩⟩,
    fun c r h hf hc hr hh ht hp hn hd => ⟨fun he => ?_, fun he => ?_⟩⟩
  · refine settles_of_eq (exec_chunkSend hclk) (State.chunkSend_control (s := s.timed t) hon hx) ⟨?_, ?_, rfl⟩
    · exact congrArg LPort.out (State.lport_updLport ..)
    · exact (congrArg LPort.tx (State.lport_updLport ..)).trans (congrArg LPort.tx (State.lport_updLport (s.timed t) port _))
  · exact settles_of_eq (exec_noSpaceResend heclk) rfl (State.noSpaceResend_due (s := s.timed t) hf hc hk hst hd)
  · exact settles_of_eq (exec_sendTimeout heclk) ((State.sendTimeout_due (s := s.timed t) hf hk hst hr hp hd).trans
      (if_neg (Nat.not_le.mpr hs))) (State.chunk_updChunk (s := s.timed t) (f := fun y => { y with st := .ready }) hc hk rfl)
  · have hchunk := (Coll.chunk?_key hk).1
    have hseq := State.run?_seq hr
    obtain ⟨hsent, d, hd', hj⟩ := State.giveUp_after (s := s.timed t) (n := n) (r := r) (c := x) (k := k) (by rw [hseq]; exact hc)
      (by rw [hchunk]; exact hk) x 0x52
    rw [hseq] at hd'
    rw [hchunk] at hj
    exact settles_of_eq (exec_sendTimeout heclk) ((State.sendTimeout_due (s := s.timed t) hf hk hst hr hp hd).trans (if_pos hs))
      ⟨hsent, d, hd', hj⟩
  · exact settles_of_eq (exec_recvTimeout heclk) rfl (State.recvTimeout_asks (s := s.timed t) hf hc hr hh ht hp hn hd he)
  · exact settles_of_eq (exec_recvTimeout heclk) rfl (State.recvTimeout_loses (s := s.timed t) hf hc hr hh ht hp hn hd he)

end Sys2Proof.Machine
end

section
/-! SUPPORT. What a link port does with a message that arrives (09_collectives Table 9-4, R357 to R361, R370). -/

namespace Sys2Proof.Machine

/-! ### Arrival -/

/-- The port shows the beats of a message. -/
def State.shown (p : Fin 2) (rank : Nat) (man payload : List Byte) (s : State) : State :=
  s.updLport p fun x => { x with rx := (⟨rank, man, payload⟩ : LinkMsg).beats }

theorem State.lport_shown (p : Fin 2) (rank : Nat) (man payload : List Byte) (s : State) :
    (s.shown p rank man payload).lports[p] = { s.lports[p] with rx := (⟨rank, man, payload⟩ : LinkMsg).beats } :=
  State.lport_updLport s p _

theorem exec_chunk {t : Time} {p : Fin 2} {rank : Nat} {man payload : List Byte} {s : State} (h : s.clksLost [.lclk, .eclk] = false) :
    exec (.chunk t p rank man payload none) s = .next ((s.timed t).receive p rank man payload).settle :=
  congrArg (fun u : State => Host.Outcome.next u.settle) (State.crossing_of_running (s := s.timed t) h)

theorem exec_ack {t : Time} {p : Fin 2} {rank : Nat} {man : List Byte} {s : State} (h : s.clksLost [.lclk, .eclk] = false) :
    exec (.ack t p rank man none) s = .next ((s.timed t).receive p rank man []).settle :=
  congrArg (fun u : State => Host.Outcome.next u.settle) (State.crossing_of_running (s := s.timed t) h)

theorem exec_nack {t : Time} {p : Fin 2} {rank : Nat} {man : List Byte} {s : State} (h : s.clksLost [.lclk, .eclk] = false) :
    exec (.nack t p rank man none) s = .next ((s.timed t).receive p rank man []).settle :=
  congrArg (fun u : State => Host.Outcome.next u.settle) (State.crossing_of_running (s := s.timed t) h)

theorem exec_notice {t : Time} {p : Fin 2} {rank : Nat} {man : List Byte} {s : State} (h : s.clksLost [.lclk, .eclk] = false) :
    exec (.notice t p rank man none) s = .next ((s.timed t).receive p rank man []).settle :=
  congrArg (fun u : State => Host.Outcome.next u.settle) (State.crossing_of_running (s := s.timed t) h)

section
variable {s : State} {p : Fin 2} {rank : Nat} {man payload : List Byte} (hon : s.linkOn p = true)
include hon

/-- A manifest that is not intact (step 1). -/
theorem State.receive_corrupt (hm : manOk rank man = false) :
    Sent s (s.receive p rank man payload) 0x50 .corrected ∧
      (s.receive p rank man payload).lports[p].rx = (LinkMsg.mk rank man payload).beats := by
  have hs : s.receive p rank man payload =
      ((s.shown p rank man payload).bump .linkCrcErr).report { reason := 0x50, sev := .corrected, unit := .linkPort, unitIndex := p.val } := by
    unfold State.receive
    rw [hon, hm]
    rfl
  rw [hs]
  refine ⟨sent_congr (s := (s.shown p rank man payload).bump .linkCrcErr) rfl rfl (sent_report _ _), ?_⟩
  rw [(sameButErr_report _ _).lports]
  exact congrArg LPort.rx (State.lport_shown p rank man payload s)

/-- One for another rank (step 2). -/
theorem State.receive_unmatched (hm : manOk rank man = true) (hd : (Man.parse man).dst ≠ s.rankNo) :
    Sent s (s.receive p rank man payload) 0x53 .corrected := by
  have hs : s.receive p rank man payload = (s.shown p rank man payload).report
      { reason := 0x53, sev := .corrected, unit := .linkPort, unitIndex := p.val, tile := BitVec.ofNat 32 (Man.parse man).chunk,
        group := (Man.parse man).group, step := (Man.parse man).step } := by
    unfold State.receive
    rw [hon, hm]
    exact if_pos hd
  rw [hs]
  exact sent_congr (s := s.shown p rank man payload) rfl rfl (sent_report _ _)

variable (hm : manOk rank man = true) (hd : (Man.parse man).dst = s.rankNo)
include hm hd

theorem State.receive_control (hk : (Man.parse man).kind ≠ 1) :
    s.receive p rank man payload = (s.shown p rank man payload).gotControl p (Man.parse man) := by
  unfold State.receive
  rw [hon, hm]
  exact (if_neg Bool.false_ne_true).trans ((if_neg Bool.false_ne_true).trans ((if_neg fun h => h hd).trans (if_pos hk)))

/-- A chunk of a peer that has not paused, without an announcement. -/
theorem State.receive_chunk (hk : (Man.parse man).kind = 1) (hp : s.paused (Man.parse man).src = false) (hl : (Man.parse man).late = false) :
    s.receive p rank man payload = (s.shown p rank man payload).gotChunk p (Man.parse man) ⟨rank, man, payload⟩ false := by
  have hres : (s.shown p rank man payload).peerResumes (Man.parse man).src = s.shown p rank man payload :=
    if_pos (by rw [show (s.shown p rank man payload).paused (Man.parse man).src = false from hp]; rfl)
  have hann : (s.shown p rank man payload).announced (Man.parse man) = s.shown p rank man payload :=
    if_neg fun h => Bool.false_ne_true (hl.symm.trans h)
  unfold State.receive
  rw [hon, hm]
  refine (if_neg Bool.false_ne_true).trans ((if_neg Bool.false_ne_true).trans ((if_neg fun h => h hd).trans ((if_neg fun h => h hk).trans ?_)))
  exact congrArg (State.gotChunk p (Man.parse man) ⟨rank, man, payload⟩ false) ((congrArg (State.announced (Man.parse man)) hres).trans hann)

end

/-! ### Answers to a SEND -/

/-- What an answer belongs to: the SEND, its run and the chunk of that number. -/
theorem State.sendOf_chunk {s : State} {p : Fin 2} {m : Man} {c : Coll} {r : Run} {k : SendChunk} (h : s.sendOf p m = some (c, r, k)) :
    c.chunk? k.chunk = some k := by
  obtain ⟨a, -, ha⟩ := List.exists_of_findSome?_eq_some h
  split at ha
  · cases ha
  · obtain ⟨y, -, hy⟩ := Option.bind_eq_some_iff.mp ha
    split at hy
    · obtain ⟨z, hz, he⟩ := Option.map_eq_some_iff.mp hy
      cases he
      have hkey := (Coll.chunk?_key (c := c) (k := m.chunk) hz).1
      rw [hkey]
      exact hz
    · cases hy

section
variable {s : State} {n : Nat} {c : Coll} {r : Run} {k : SendChunk} (hc : s.coll? n r.seq = some c) (hk : c.chunk? k.chunk = some k)
  (hst : k.st ≠ .acked ∧ k.st ≠ .givenUp ∧ k.st ≠ .reading)
include hc hk hst

/-- An ACK counts the chunk (R365). -/
theorem State.chunkAcked_after (hr : s.run? n r.seq = some r) :
    (∃ y, (s.chunkAcked n r k).run? n r.seq = some y ∧ y.outCount = r.outCount + 1) ∧
      ∃ d, (s.chunkAcked n r k).coll? n r.seq = some d ∧ ∃ j ∈ d.send, j.chunk = k.chunk ∧ j.st = .acked := by
  obtain ⟨h1, h2, h3⟩ := hst
  unfold State.chunkAcked
  split
  · next h => exact absurd h h1
  · next h => exact absurd h h2
  · next h => exact absurd h h3
  · obtain ⟨d, hd, hj⟩ := State.chunk_updChunk (f := fun x => { x with st := .acked, tiles := [], msg := ⟨0, [], []⟩ }) hc hk rfl
    exact ⟨⟨_, run?_updRun (s := s.updChunk n r.seq k.chunk _)
      (f := fun x => { x with outCount := x.outCount + 1, inBytes := x.inBytes + 4096 * chunkStored r.rec1 k.chunk }) hr rfl rfl, rfl⟩,
      d, hd, _, (Coll.chunk?_key hj).2, (Coll.chunk?_key hj).1, rfl⟩

variable (hsent : k.chunk - dFirst r.desc < r.doneUnits)
include hsent

/-- A NACK for space makes the chunk wait (R359). -/
theorem State.chunkNacked_space (c' : Coll) :
    ∃ d, (s.chunkNacked n r c' k 3).coll? n r.seq = some d ∧ ∃ j ∈ d.send, j.chunk = k.chunk ∧ j.st = .noSpace s.time ∧ j.nacks = k.nacks := by
  obtain ⟨h1, h2, h3⟩ := hst
  unfold State.chunkNacked
  rw [decide_eq_true hsent]
  split
  · next h => exact absurd h h1
  · next h => exact absurd h h2
  · next h => exact absurd h h3
  · obtain ⟨d, hd, hj⟩ := State.chunk_updChunk (f := fun x => { x with st := .noSpace s.time, sends := 0 }) hc hk rfl
    exact ⟨d, hd, _, (Coll.chunk?_key hj).2, (Coll.chunk?_key hj).1, rfl, rfl⟩

end

/-- Another NACK makes it ready again, until it has had two. -/
theorem State.chunkNacked_other {s : State} {n : Nat} {r : Run} {k : SendChunk} (hst : k.st ≠ .acked ∧ k.st ≠ .givenUp ∧ k.st ≠ .reading)
    (hsent : k.chunk - dFirst r.desc < r.doneUnits) (c' : Coll) {reason : Nat} (hreason : reason = 1 ∨ reason = 2 ∨ reason = 4) :
    s.chunkNacked n r c' k reason =
      if 2 ≤ k.nacks then s.giveUp n r c' k (if reason = 2 then 0x51 else 0x50)
      else s.updChunk n r.seq k.chunk fun x => { x with st := .ready, nacks := x.nacks + 1, sends := 0 } := by
  obtain ⟨h1, h2, h3⟩ := hst
  have h3' : reason ≠ 3 := by omega
  unfold State.chunkNacked
  rw [decide_eq_true hsent]
  split
  · next h => exact absurd h h1
  · next h => exact absurd h h2
  · next h => exact absurd h h3
  · exact (if_neg Bool.false_ne_true).trans ((if_neg h3').trans (if_pos hreason))

/-! ### Notices -/

/-- A peer that pauses has its record, and one that resumes has none (R370). -/
theorem State.peerPauses_after {s : State} {rank : Nat} (hp : s.paused rank = false) (n : Nat) (q : Word) (chunk : Nat) :
    (s.peerPauses rank n q chunk).paused rank = true ∧ Sent s (s.peerPauses rank n q chunk) 0x57 .corrected := by
  have hs : s.peerPauses rank n q chunk =
      ({ s with peerPaused := s.peerPaused ++ [rank] } : State).collRec n q 0x57 .corrected (some chunk) :=
    if_neg fun h => Bool.false_ne_true (hp.symm.trans h)
  rw [hs]
  refine ⟨?_, sent_congr (s := { s with peerPaused := s.peerPaused ++ [rank] }) rfl rfl (sent_collRec ..)⟩
  have hsame := (sameButErr_collRec n q 0x57 .corrected (some chunk) { s with peerPaused := s.peerPaused ++ [rank] }).field State.peerPaused
  refine (congrArg (fun l : List Nat => l.contains rank) hsame).trans ?_
  exact List.contains_iff_mem.mpr (List.mem_append_right _ (List.mem_singleton.mpr rfl))

theorem State.peerResumes_after (s : State) (rank : Nat) : (s.peerResumes rank).paused rank = false ∧ (s.peerResumes rank).err = s.err := by
  unfold State.peerResumes
  split
  · next h => exact ⟨by simpa using h, rfl⟩
  · refine ⟨?_, rfl⟩
    rw [← Bool.not_eq_true]
    intro h
    have hmem := List.contains_iff_mem.mp h
    simpa using (List.mem_filter.mp hmem).2

/-- A NOTICE of a collective: what it says of the peer's pause. -/
theorem State.gotControl_notice {s : State} {p : Fin 2} {m : Man} {c : Coll} {r : Run} (hk : m.kind = 4) (hn : s.noticeOf p m = some (c, r))
    (hl : m.late = false) :
    (m.pause = true → m.resumed = false → s.gotControl p m = s.peerPauses m.src c.stream c.seq m.chunk) ∧
      (m.pause = false → m.resumed = true → s.gotControl p m = s.peerResumes m.src) := by
  have hann : s.announced m = s := if_neg fun h => Bool.false_ne_true (hl.symm.trans h)
  unfold State.gotControl
  rw [if_pos hk, hn]
  dsimp only
  rw [hann]
  refine ⟨fun hp hr => ?_, fun hp hr => ?_⟩
  · rw [hp, hr]
    rfl
  · rw [hp, hr]
    rfl

/-- An answer to a chunk of a SEND. -/
theorem State.gotControl_answer {s : State} {p : Fin 2} {m : Man} {c : Coll} {r : Run} {k : SendChunk} (hs : s.sendOf p m = some (c, r, k)) :
    (m.kind = 2 → s.gotControl p m = s.chunkAcked c.stream r k) ∧ (m.kind = 3 → s.gotControl p m = s.chunkNacked c.stream r c k m.nack) := by
  unfold State.gotControl
  refine ⟨fun hk => ?_, fun hk => ?_⟩
  · rw [hk, hs]
    rfl
  · rw [hk, hs]
    rfl

/-! ### Chunks -/

/-- The RECV of a chunk, and its run. -/
theorem State.recvOf_run {s : State} {p : Fin 2} {m : Man} {c : Coll} {r : Run} (h : s.recvOf p m = some (c, r)) :
    s.run? c.stream c.seq = some r := by
  obtain ⟨a, -, ha⟩ := List.exists_of_findSome?_eq_some h
  split at ha
  · cases ha
  · obtain ⟨y, hy, he⟩ := Option.bind_eq_some_iff.mp ha
    split at he
    · cases he
      exact hy
    · cases he

/-- The answer of this cluster to a chunk. -/
def State.answerMan (s : State) (m : Man) (nack : Nat) : Man :=
  { Man.plain (if nack = 0 then 2 else 3) s.rankNo m.src m.group m.step m.chunk with nack := nack }

/-- An early chunk without room for it (R358). -/
theorem State.gotChunk_noRoom {s : State} {p : Fin 2} {m : Man} (msg : LinkMsg) (h : s.recvOf p m = none) (he : 4 ≤ s.lports[p].early.length) :
    (s.gotChunk p m msg false).lports[p].tx = s.lports[p].tx ++ [(false, 65536, m.chunk, ⟨m.src, (s.answerMan m 3).bytes, []⟩)] := by
  have hs : s.gotChunk p m msg false = s.answerChunk p m 3 := by
    unfold State.gotChunk
    rw [h]
    exact (if_neg Bool.false_ne_true).trans (if_neg (Nat.not_lt.mpr he))
  rw [hs]
  exact State.lport_queueMsg ..

theorem State.gotChunk_known {s : State} {p : Fin 2} {m : Man} {c : Coll} {r : Run} (msg : LinkMsg) (early : Bool)
    (h : s.recvOf p m = some (c, r)) : s.gotChunk p m msg early = s.takeChunk p m msg.man msg.payload c r := by
  unfold State.gotChunk
  rw [h]

/-- An answer of a RECV: the collective has spoken, and the message waits on the port. -/
theorem State.answerFor_after {s : State} {n : Nat} {q : Word} {c : Coll} (hc : s.coll? n q = some c) (p : Fin 2) (m : Man) (nack : Nat) :
    (s.answerFor n q p m nack).coll? n q = some { c with spoke := true } ∧ (s.answerFor n q p m nack).lports[p].tx =
      s.lports[p].tx ++ [(false, 65536, m.chunk, ⟨m.src, (s.answerMan m nack).bytes, []⟩)] :=
  ⟨coll?_updColl (f := fun c => { c with spoke := true }) hc rfl rfl, State.lport_queueMsg ..⟩

/-- A chunk that is accepted or lost restarts the timer (R360). -/
theorem State.chunkTaken_after {s : State} {n : Nat} {q : Word} {c : Coll} (hc : s.coll? n q = some c) (k : RecvChunk) :
    ∃ d, (s.chunkTaken n q k).coll? n q = some d ∧ k.chunk ∈ d.accepted ∧ d.timer = s.time ∧ d.expiries = 0 :=
  ⟨_, coll?_updColl (f := fun c => { c with
    accepted := c.accepted ++ [k.chunk], recv := c.recv ++ [k], gone := c.gone + b2n k.failed, timer := s.time, expiries := 0 }) hc rfl rfl,
    List.mem_append_right _ (List.mem_singleton.mpr rfl), rfl, rfl⟩

/-- The element type of the transported tiles of a chunk. -/
def Man.wireElem (m : Man) : Nat := if m.wide then 14 else m.elem

/-- The transported tiles of a chunk, decoded (step 9). -/
def State.wireTiles (s : State) (r : Run) (m : Man) (payload : List Byte) : List (BitVec 128 × List Byte × Dec) :=
  (List.range (wireCount r.rec1 m)).map (s.wireTile m.wireElem (recStride r.rec1) payload)

/-- The signature of a logical tile of a chunk (R352). -/
def wireSig (r : Run) (m : Man) (tiles : List (BitVec 128 × List Byte × Dec)) (i : Nat) : Dword :=
  tileSignature m.wireElem (((tiles.drop (perTransport (recType r.rec1) m.wide * i)).take (perTransport (recType r.rec1) m.wide)).map
    fun x => decImage x.2.2)

theorem State.wireDecoded_after (r : Run) (tiles : List (BitVec 128 × List Byte × Dec)) (s : State) :
    ∃ c f, s.wireDecoded r tiles = { s with cores := c, freeCtr := f } := by
  unfold State.wireDecoded
  split
  · exact ⟨_, _, rfl⟩
  · exact ⟨s.cores, s.freeCtr, rfl⟩

/-- Where the data of a name has not been spilled, its new name changes no space. -/
theorem State.spill?_renameSpill {s : State} {a : SpillOf} (h : s.spill? a = none) (b o : SpillOf) : (s.renameSpill a b).spill? o = s.spill? o := by
  unfold State.spill? at h ⊢
  unfold State.renameSpill updWhere
  dsimp only
  revert h
  induction s.lagoon with
  | nil => exact fun _ => rfl
  | cons x xs ih =>
    intro h
    have hx := List.find?_eq_none.mp h x List.mem_cons_self
    have hrest := ih (List.find?_eq_none.mpr fun y hy => List.find?_eq_none.mp h y (List.mem_cons_of_mem x hy))
    rw [List.map_cons]
    by_cases ha : (x.of_ == a) = true
    · have hasked : x.asked = true := by
        rw [ha, Bool.true_and, Bool.not_eq_true', Bool.not_eq_false] at hx
        exact hx
      rw [if_pos ha, List.find?_cons_of_neg (by simp [hasked]), List.find?_cons_of_neg (by simp [hasked]), hrest]
    · rw [if_neg ha, List.find?_cons, List.find?_cons, hrest]

/-- What the Harbour holds rests on what is staged and what is spilled. -/
theorem State.harbourUse_congr {s t : State} (hi : t.harbourItems = s.harbourItems) (hs : ∀ o, t.spill? o = s.spill? o) :
    t.harbourUse = s.harbourUse := by
  unfold State.harbourUse
  simp only [hi, hs]

theorem State.harbourItems_shown (p : Fin 2) (rank : Nat) (man payload : List Byte) (s : State) :
    (s.shown p rank man payload).harbourItems = s.harbourItems := by
  have hearly : ∀ q : Fin 2, (s.shown p rank man payload).lports[q].early = s.lports[q].early := fun q => by
    by_cases hq : q = p
    · rw [hq]
      exact Eq.trans (congrArg LPort.early (State.lport_shown p rank man payload s)) rfl
    · have hne : p.val ≠ q.val := fun h => hq (Fin.ext h.symm)
      exact congrArg LPort.early (Vector.getElem_set_ne p.isLt q.isLt hne)
  unfold State.harbourItems
  simp only [hearly]
  rfl

/-- Received bytes for which the Harbour has room are staged there (R357). -/
theorem State.stageBytes_fits {s : State} (o : SpillOf) {bytes : Nat} (tiles : Nat)
    (h : s.harbourUse + bytes ≤ harbourBytes s.params.hardening) :
    s.stageBytes o bytes tiles = (s.spillStore o 0 (ceilDiv bytes 64), true) := by
  have hroom : s.makeRoomFor o bytes tiles = (s, true) := if_pos (.inl h)
  unfold State.stageBytes
  rw [hroom]

theorem State.chunkCounts_colls (n : Nat) (r : Run) (c : Nat) (s : State) : (s.chunkCounts n r c).colls = s.colls := rfl

theorem State.chunkErr_colls (n : Nat) (r : Run) (c : Nat) (s : State) : (s.chunkErr n r c).colls = s.colls := rfl

/-- What a RECV keeps of a chunk that it has accepted. -/
def Man.kept (m : Man) (tiles : List (BitVec 128 × List Byte × Dec)) : RecvChunk :=
  { chunk := m.chunk, wide := m.wide, elem := m.wireElem, failed := false, spoilt := false,
    tiles := tiles.map fun x => (x.1, x.2.1, decImage x.2.2), sigs := m.sigs }

/-- A chunk of a RECV that is right in every check (steps 5 to 9). -/
structure ChunkRight (s : State) (m : Man) (payload : List Byte) (c : Coll) (r : Run) : Prop where
  fresh : c.accepted.contains m.chunk = false
  inside : r.takesChunk m.chunk = true
  length : payload.length = 64 * m.sectors
  crc : m.tcrc = if payload = [] then 0 else crc64 payload
  sent : m.failed = false
  fits : wireFits r m = true
  decoded : ((s.wireTiles r m payload).any fun x => x.2.2.isErr) = false
  tiles : m.tiles = chunkTiles r.rec1 m.chunk
  signed : ∀ i, i < 16 → wireSig r m (s.wireTiles r m payload) i = nth m.sigs i 0
  room : (c.recv.filter fun k => !k.failed).length < 8

section
variable {s : State} {p : Fin 2} {m : Man} {man payload : List Byte} {c : Coll} {r : Run}

/-- A chunk that was accepted before is acknowledged again. -/
theorem State.takeChunk_again (ha : c.accepted.contains m.chunk = true) :
    s.takeChunk p m man payload c r = s.answerFor c.stream r.seq p m 0 := if_pos ha

/-- One that its sender has given up is accepted as failed. -/
theorem State.takeChunk_givenUp (ha : c.accepted.contains m.chunk = false) (ht : r.takesChunk m.chunk = true) (hp : payload = [])
    (hs : m.sectors = 0) (hcrc : m.tcrc = 0) (hf : m.failed = true) :
    s.takeChunk p m man payload c r = s.acceptFailed p c.stream r m := by
  subst hp
  unfold State.takeChunk
  dsimp only
  rw [ha, ht, hs, hcrc, hf, if_neg Bool.false_ne_true, if_neg (by simp), if_neg (by simp), if_pos rfl]

/-- One that is right and finds room is accepted. -/
theorem State.takeChunk_right (h : ChunkRight s m payload c r) {v : State}
    (hv : ((s.wireDecoded r (s.wireTiles r m payload)).renameSpill (.early p man) (.received c.stream m.chunk)).stageBytes
      (.received c.stream m.chunk) payload.length (s.wireTiles r m payload).length = (v, true)) :
    s.takeChunk p m man payload c r = (((v.spillFound c.stream).answerFor c.stream r.seq p m 0).chunkTaken c.stream r.seq
      (m.kept (s.wireTiles r m payload))).chunkCounts c.stream r m.chunk := by
  have hsum : ¬ (payload.length ≠ 64 * m.sectors ∨ m.tcrc ≠ if payload = [] then 0 else crc64 payload) :=
    fun hn => hn.elim (fun hn => hn h.length) fun hn => hn h.crc
  have hok : ¬ (((s.wireTiles r m payload).any fun x => x.2.2.isErr) = true ∨ m.tiles ≠ chunkTiles r.rec1 m.chunk ∨
      ((List.range 16).any fun i => wireSig r m (s.wireTiles r m payload) i != nth m.sigs i 0) = true) := by
    rintro (hn | hn | hn)
    · exact Bool.false_ne_true (h.decoded.symm.trans hn)
    · exact hn h.tiles
    · obtain ⟨i, hi, hne⟩ := List.any_eq_true.mp hn
      exact bne_iff_ne.mp hne (h.signed i (List.mem_range.mp hi))
  unfold State.wireTiles wireSig Man.wireElem at hok
  unfold State.wireTiles Man.wireElem at hv
  unfold State.takeChunk Man.kept State.wireTiles Man.wireElem
  dsimp only at hok hv ⊢
  rw [h.fresh, h.inside, h.sent, h.fits, if_neg Bool.false_ne_true, if_neg (by simp), if_neg hsum, if_neg Bool.false_ne_true,
    if_neg (by simp), if_neg hok, if_neg (Nat.not_le.mpr h.room), hv]

variable (hc : s.coll? c.stream r.seq = some c)
include hc

/-- Either way the timer starts again. -/
theorem State.takeChunk_failed (ha : c.accepted.contains m.chunk = false) (ht : r.takesChunk m.chunk = true) (hp : payload = [])
    (hs : m.sectors = 0) (hcrc : m.tcrc = 0) (hf : m.failed = true) :
    ∃ d, (s.takeChunk p m man payload c r).coll? c.stream r.seq = some d ∧ m.chunk ∈ d.accepted ∧ d.timer = s.time ∧ d.expiries = 0 := by
  rw [State.takeChunk_givenUp ha ht hp hs hcrc hf]
  unfold State.acceptFailed
  rw [State.coll?_congr (State.chunkErr_colls ..), State.coll?_congr (State.chunkCounts_colls ..)]
  exact State.chunkTaken_after (State.answerFor_after hc p m 0).1 (RecvChunk.lost m.chunk)

theorem State.takeChunk_accepts (h : ChunkRight s m payload c r) (hspill : s.spill? (.early p man) = none)
    (hroom : s.harbourUse + payload.length ≤ harbourBytes s.params.hardening) :
    ∃ d, (s.takeChunk p m man payload c r).coll? c.stream r.seq = some d ∧ m.chunk ∈ d.accepted ∧ d.timer = s.time ∧ d.expiries = 0 := by
  obtain ⟨cores, f, hdec⟩ := State.wireDecoded_after r (s.wireTiles r m payload) s
  generalize hw : (s.wireDecoded r (s.wireTiles r m payload)).renameSpill (.early p man) (.received c.stream m.chunk) = w
  have huse : w.harbourUse = s.harbourUse := by
    rw [← hw, hdec]
    exact State.harbourUse_congr rfl (State.spill?_renameSpill (s := { s with cores := cores, freeCtr := f }) hspill _)
  have hparams : w.params = s.params ∧ w.colls = s.colls ∧ w.time = s.time := by
    rw [← hw, hdec]
    exact ⟨rfl, rfl, rfl⟩
  obtain ⟨hparams, hcolls, htime⟩ := hparams
  have hstage := State.stageBytes_fits (s := w) (.received c.stream m.chunk) (s.wireTiles r m payload).length (bytes := payload.length)
    (by rw [huse, hparams]; exact hroom)
  rw [State.takeChunk_right h (by rw [hw]; exact hstage), State.coll?_congr (State.chunkCounts_colls ..)]
  have hsame := sameWork_spillStore (.received c.stream m.chunk) 0 (ceilDiv payload.length 64) w
  generalize w.spillStore (.received c.stream m.chunk) 0 (ceilDiv payload.length 64) = v at hsame
  have hcv : (v.spillFound c.stream).coll? c.stream r.seq = some c :=
    (State.coll?_congr (hsame.colls.trans hcolls) c.stream r.seq).trans hc
  obtain ⟨d, hd, hacc, ht, hexp⟩ := State.chunkTaken_after (State.answerFor_after hcv p m 0).1 (m.kept (s.wireTiles r m payload))
  exact ⟨d, hd, hacc, ht.trans (hsame.time.trans htime), hexp⟩

end

/-! ### The four messages -/

section
variable {t : Time} {port : Fin 2} {rank : Nat} {man payload : List Byte} {s : State} (hon : s.linkOn port = true)
  (hclk : s.clksLost [.lclk, .eclk] = false) (hm : manOk rank man = true) (hd : (Man.parse man).dst = s.rankNo)
include hon hclk hm hd

/-- An ACK or a NACK is taken to the chunk that it answers. -/
theorem settles_answer {c : Coll} {r : Run} {k : SendChunk} {P : State → Prop} (hs : s.sendOf port (Man.parse man) = some (c, r, k)) :
    ((Man.parse man).kind = 2 → P (((s.timed t).shown port rank man []).chunkAcked c.stream r k) →
      Settles (.ack t port rank man none) s P) ∧
    ((Man.parse man).kind = 3 → P (((s.timed t).shown port rank man []).chunkNacked c.stream r c k (Man.parse man).nack) →
      Settles (.nack t port rank man none) s P) := by
  obtain ⟨hack, hnack⟩ := State.gotControl_answer (s := (s.timed t).shown port rank man []) (p := port) (m := Man.parse man) hs
  refine ⟨fun hk hp => ?_, fun hk hp => ?_⟩
  · exact settles_of_eq (exec_ack hclk)
      ((State.receive_control (s := s.timed t) hon hm hd (by rw [hk]; decide)).trans (hack hk)) hp
  · exact settles_of_eq (exec_nack hclk)
      ((State.receive_control (s := s.timed t) hon hm hd (by rw [hk]; decide)).trans (hnack hk)) hp

/-- A CHUNK of a peer that has not paused is taken to its RECV, if there is one. -/
theorem settles_chunk {P : State → Prop} (hk : (Man.parse man).kind = 1) (hp : s.paused (Man.parse man).src = false)
    (hl : (Man.parse man).late = false)
    (h : P (((s.timed t).shown port rank man payload).gotChunk port (Man.parse man) ⟨rank, man, payload⟩ false)) :
    Settles (.chunk t port rank man payload none) s P :=
  settles_of_eq (exec_chunk hclk) (State.receive_chunk (s := s.timed t) hon hm hd hk hp hl) h

end

/-- Settles O50: the message is looked at in the order of Table 9-4, and what it belongs to answers. -/
theorem linkMessages : Obligations.LinkMessages := by
  intro t port rank man payload s hon hclk
  refine ⟨fun hm => ⟨?_, ?_, ?_, ?_⟩, fun hm hd => ⟨?_, ?_, ?_, ?_⟩, fun hm hd => ⟨fun c r k hs hc hr hst => ⟨fun hk => ?_,
    fun hk hsent => ⟨fun hn => ?_, fun hn => ⟨fun h2 => ?_, fun h2 => ?_⟩⟩⟩, fun c r hk hn hl => ⟨fun hp hr hpa => ?_, fun hp hr => ?_⟩,
    fun hk hp hl => ⟨fun hno he => ?_, fun c r hre hc ha => ?_, fun c r hre hc ht ha hpay hsec hcrc hf => ?_,
    fun c r tiles hre hc hlen ht ha hpay hcrc hf hw htl hbad hct hsig hsp hroom => ?_⟩⟩⟩
  · exact settles_of_eq (exec_chunk hclk) rfl (State.receive_corrupt (s := s.timed t) hon hm)
  · exact settles_of_eq (exec_ack hclk) rfl (State.receive_corrupt (s := s.timed t) hon hm).1
  · exact settles_of_eq (exec_nack hclk) rfl (State.receive_corrupt (s := s.timed t) hon hm).1
  · exact settles_of_eq (exec_notice hclk) rfl (State.receive_corrupt (s := s.timed t) hon hm).1
  · exact settles_of_eq (exec_chunk hclk) rfl (State.receive_unmatched (s := s.timed t) hon hm hd)
  · exact settles_of_eq (exec_ack hclk) rfl (State.receive_unmatched (s := s.timed t) hon hm hd)
  · exact settles_of_eq (exec_nack hclk) rfl (State.receive_unmatched (s := s.timed t) hon hm hd)
  · exact settles_of_eq (exec_notice hclk) rfl (State.receive_unmatched (s := s.timed t) hon hm hd)
  · have hseq := State.run?_seq hr
    rw [← hseq] at hc hr ⊢
    exact (settles_answer hon hclk hm hd hs).1 hk
      (State.chunkAcked_after (s := (s.timed t).shown port rank man []) hc (State.sendOf_chunk hs) hst hr)
  · have hseq := State.run?_seq hr
    rw [← hseq] at hc ⊢
    refine (settles_answer hon hclk hm hd hs).2 hk ?_
    rw [hn]
    exact State.chunkNacked_space (s := (s.timed t).shown port rank man []) hc (State.sendOf_chunk hs) hst hsent c
  · have hseq := State.run?_seq hr
    rw [← hseq] at hc ⊢
    refine (settles_answer hon hclk hm hd hs).2 hk ?_
    rw [State.chunkNacked_other hst hsent c hn, if_neg (Nat.not_le.mpr h2)]
    obtain ⟨d, hd', hj⟩ := State.chunk_updChunk (s := (s.timed t).shown port rank man [])
      (f := fun x => { x with st := .ready, nacks := x.nacks + 1, sends := 0 }) hc (State.sendOf_chunk hs) rfl
    exact ⟨d, hd', _, (Coll.chunk?_key hj).2, (Coll.chunk?_key hj).1, rfl, rfl⟩
  · have hseq := State.run?_seq hr
    rw [← hseq] at hc ⊢
    refine (settles_answer hon hclk hm hd hs).2 hk ?_
    rw [State.chunkNacked_other hst hsent c hn, if_pos h2]
    exact State.giveUp_after (s := (s.timed t).shown port rank man []) hc (State.sendOf_chunk hs) c _
  · have hgo := (State.gotControl_notice (s := (s.timed t).shown port rank man []) hk hn hl).1 hp hr
    exact settles_of_eq (exec_notice hclk) ((State.receive_control (s := s.timed t) hon hm hd (by rw [hk]; decide)).trans hgo)
      (State.peerPauses_after (s := (s.timed t).shown port rank man []) hpa c.stream c.seq (Man.parse man).chunk)
  · have hgo := (State.gotControl_notice (s := (s.timed t).shown port rank man []) hk hn hl).2 hp hr
    exact settles_of_eq (exec_notice hclk) ((State.receive_control (s := s.timed t) hon hm hd (by rw [hk]; decide)).trans hgo)
      (State.peerResumes_after ((s.timed t).shown port rank man []) (Man.parse man).src)
  · have hport := State.lport_shown port rank man payload (s.timed t)
    refine settles_chunk hon hclk hm hd hk hp hl ?_
    rw [State.gotChunk_noRoom (s := (s.timed t).shown port rank man payload) _ hno (by rw [hport]; exact he), hport]
    rfl
  · have hseq := State.run?_seq (State.recvOf_run hre)
    rw [← hseq] at hc
    have hport := State.lport_shown port rank man payload (s.timed t)
    obtain ⟨hcoll, htx⟩ := State.answerFor_after (s := (s.timed t).shown port rank man payload) hc port (Man.parse man) 0
    refine settles_chunk hon hclk hm hd hk hp hl ?_
    rw [State.gotChunk_known (s := (s.timed t).shown port rank man payload) _ _ hre, State.takeChunk_again ha]
    refine ⟨(congrArg (fun q => State.coll? _ c.stream q) hseq.symm).trans hcoll, htx.trans ?_⟩
    rw [hport]
    rfl
  · have hseq := State.run?_seq (State.recvOf_run hre)
    rw [← hseq] at hc ⊢
    refine settles_chunk hon hclk hm hd hk hp hl ?_
    rw [State.gotChunk_known (s := (s.timed t).shown port rank man payload) _ _ hre]
    exact State.takeChunk_failed (s := (s.timed t).shown port rank man payload) hc ha ht hpay hsec hcrc hf
  · have hseq := State.run?_seq (State.recvOf_run hre)
    rw [← hseq] at hc ⊢
    refine settles_chunk hon hclk hm hd hk hp hl ?_
    rw [State.gotChunk_known (s := (s.timed t).shown port rank man payload) _ _ hre]
    subst htl
    refine State.takeChunk_accepts (s := (s.timed t).shown port rank man payload) hc ⟨ha, ht, hpay, hcrc, hf, hw, hbad, hct, hsig, hlen⟩ hsp ?_
    rw [State.harbourUse_congr (s := s.timed t) (State.harbourItems_shown ..) fun _ => rfl]
    exact hroom

end Sys2Proof.Machine
end

section
/-! SUPPORT. The messages that a cluster has sent over the die ring stay sent while it settles (01_five_levels R19, R23): each operation
that a pass is made of leaves the ring (`ring_…`), or adds messages behind those that stand there (`ring_grows_…`). -/

namespace Sys2Proof.Machine

variable {l : List RingMsg}

/-! ### Lists of operations and pairs -/

theorem ring_grows_forAll {α : Type} {f : α → State → State} {L : List α} {s : State}
    (hf : ∀ a t, t.ring <+: (f a t).ring) (hs : l <+: s.ring) : l <+: (forAll L f s).ring :=
  keeps_foldl (R := fun u : State => l <+: u.ring) (fun t a h => h.trans (hf a t)) hs

theorem ring_grows_of_fst {β : Type} {q : State × β} {t : State} {b : β} (h : q = (t, b)) (hq : l <+: q.1.ring) :
    l <+: t.ring := by
  rw [h] at hq
  exact hq

theorem ring_foldl_fst {α β : Type} {f : State × β → α → State × β} (hf : ∀ p a, (f p a).1.ring = p.1.ring) (L : List α)
    (p : State × β) : (L.foldl f p).1.ring = p.1.ring :=
  keeps_foldl (R := fun q : State × β => q.1.ring = p.1.ring) (fun q a h => (hf q a).trans h) rfl

/-! ### Messages, sectors and spills (01_five_levels R35) -/

@[simp] theorem State.ring_codedOn (c) (n) (s : State) : (State.codedOn c n s).ring = s.ring := rfl
@[simp] theorem State.ring_decodedOn (c) (n) (s : State) : (State.decodedOn c n s).ring = s.ring := rfl

@[simp] theorem State.ring_grows_sendRing (m) {s : State} (hs : l <+: s.ring) : l <+: (State.sendRing m s).ring := by
  unfold State.sendRing
  split
  · exact hs
  · exact hs.trans (List.prefix_append _ _)

@[simp] theorem State.ring_replayedFrom (c) (n) (s : State) : (State.replayedFrom c n s).ring = s.ring := rfl

@[simp] theorem State.ring_grows_ask (o) (r) {s : State} (hs : l <+: s.ring) : l <+: (State.ask o r s).ring :=
  State.ring_grows_sendRing _ hs

@[simp] theorem State.ring_writeMap (pool) (a) (n) (why) (s : State) : (State.writeMap pool a n why s).ring = s.ring := by
  unfold State.writeMap
  (repeat' split) <;> simp [State.writeSpan_ring, forAll_ring]

@[simp] theorem State.ring_grows_spillSpaceFor (moving) (o) (n) {s : State} (hs : l <+: s.ring) :
    l <+: (State.spillSpaceFor moving o n s).1.ring := by
  unfold State.spillSpaceFor
  dsimp only
  (repeat' split) <;> simp [hs]

@[simp] theorem State.ring_cacheTouch (addr) (e) (s : State) : (State.cacheTouch addr e s).ring = s.ring := rfl
@[simp] theorem State.ring_found (pool) (a) (n) (s : State) : (State.found pool a n s).ring = s.ring := by simp [State.found]

@[simp] theorem State.ring_discardSectors (pool) (a) (n) (s : State) : (State.discardSectors pool a n s).ring = s.ring := by
  unfold State.discardSectors
  (repeat' split) <;> simp

@[simp] theorem State.ring_releaseSectors (pool) (a) (n) (s : State) : (State.releaseSectors pool a n s).ring = s.ring := by
  unfold State.releaseSectors
  (repeat' split) <;> simp [forAll_ring]

@[simp] theorem State.ring_grows_sendRelease (pool) (a) (n) (discard) {s : State} (hs : l <+: s.ring) :
    l <+: (State.sendRelease pool a n discard s).ring := by
  unfold State.sendRelease
  split
  · split <;> simpa using hs
  · exact State.ring_grows_sendRing _ hs

@[simp] theorem State.ring_grows_spillDrop (x) {s : State} (hs : l <+: s.ring) : l <+: (State.spillDrop x s).ring := by
  unfold State.spillDrop
  (repeat' split) <;> simp [hs]

@[simp] theorem State.ring_grows_spillSpace (o) (n) {s : State} (hs : l <+: s.ring) : l <+: (State.spillSpace o n s).1.ring := by
  simp [State.spillSpace, hs]

@[simp] theorem State.ring_spillStore (o) (off) (n) (s : State) : (State.spillStore o off n s).ring = s.ring := by
  unfold State.spillStore
  (repeat' split) <;> simp [State.spillGo_ring]

@[simp] theorem State.ring_write16 (addr) (data) (why) (s : State) : (State.write16 addr data why s).ring = s.ring := by
  simp [State.write16, State.issue_ring]

@[simp] theorem State.ring_granted (a) (forced) (s : State) : (State.granted a forced s).ring = s.ring := by
  simp [State.granted, whenB, apply_ite State.ring]

/-! ### Roles, units and the work of a core -/

@[simp] theorem State.ring_roleFound (n) (s : State) : (State.roleFound n s).ring = s.ring := rfl

@[simp] theorem State.ring_roleRecord (r) (role) (port) (again) (s : State) : (State.roleRecord r role port again s).ring = s.ring := by
  simp [State.roleRecord]

@[simp] theorem State.ring_roleStall (n) (seq) (need) (s : State) : (State.roleStall n seq need s).ring = s.ring := by
  unfold State.roleStall
  (repeat' split) <;> simp

@[simp] theorem State.ring_unitTaken (res) (n) (seq) (again) (s : State) : (State.unitTaken res n seq again s).ring = s.ring := by
  unfold State.unitTaken
  (repeat' split) <;> simp

@[simp] theorem State.ring_unitWait (res) (n) (kind) (s : State) : (State.unitWait res n kind s).ring = s.ring := by
  simp [State.unitWait, apply_ite State.ring]

@[simp] theorem State.ring_coreFault (c) (s : State) : (State.coreFault c s).ring = s.ring := by
  simp [State.coreFault, apply_ite State.ring]

@[simp] theorem State.ring_grows_dropPlaces (parts) {s : State} (hs : l <+: s.ring) : l <+: (State.dropPlaces parts s).ring := by
  unfold State.dropPlaces
  refine ring_grows_forAll (fun a t => ?_) hs
  (repeat' split) <;> simp

@[simp] theorem State.ring_errTile (n) (seq) (s : State) : (State.errTile n seq s).ring = s.ring := rfl
@[simp] theorem State.ring_forgetAsk (id) (s : State) : (State.forgetAsk id s).ring = s.ring := by simp [State.forgetAsk]

@[simp] theorem State.ring_issuedNow (n) (seq) (s : State) : (State.issuedNow n seq s).ring = s.ring := by
  unfold State.issuedNow
  (repeat' split) <;> simp [whenB, apply_ite State.ring]

@[simp] theorem State.ring_recallCommit (id) (s : State) : (State.recallCommit id s).ring = s.ring := by simp [State.recallCommit]

@[simp] theorem State.ring_replayRead (j) (avoid) (s : State) : (State.replayRead j avoid s).ring = s.ring := by
  unfold State.replayRead
  (repeat' split) <;> simp

@[simp] theorem State.ring_grows_replayWrite (j) (avoid) {s : State} (hs : l <+: s.ring) : l <+: (State.replayWrite j avoid s).ring := by
  unfold State.replayWrite
  (repeat' split) <;> simp [hs]

@[simp] theorem State.ring_unitEnds (n) (seq) (bytes) (s : State) : (State.unitEnds n seq bytes s).ring = s.ring := rfl

@[simp] theorem State.ring_workReport (n) (seq) (x) (s : State) : (State.workReport n seq x s).ring = s.ring := by
  unfold State.workReport
  (repeat' split) <;> simp

@[simp] theorem State.ring_addDone (n) (seq) (unit) (s : State) : (State.addDone n seq unit s).ring = s.ring := by simp [State.addDone]

/-! ### The reading of a tile -/

@[simp] theorem State.ring_cancelRead (j) (s : State) : (State.cancelRead j s).ring = s.ring := by simp [State.cancelRead]

@[simp] theorem State.ring_carryLost (j) (reason) (s : State) : (State.carryLost j reason s).ring = s.ring := by
  unfold State.carryLost
  (repeat' split) <;> simp

@[simp] theorem State.ring_carryRead (j) (w) (k) (d) (s : State) : (State.carryRead j w k d s).ring = s.ring := by
  simp [State.carryRead, apply_ite State.ring]

@[simp] theorem State.ring_collReads (j) (s : State) : (State.collReads j s).ring = s.ring := by simp [State.collReads]

@[simp] theorem State.ring_copyTile (j) (img) (recAddr) (trec) (s : State) : (State.copyTile j img recAddr trec s).ring = s.ring := by
  simp [State.copyTile]

@[simp] theorem State.ring_readFails (j) (reason) (a) (b) (corrupt) (s : State) :
    (State.readFails j reason a b corrupt s).ring = s.ring := by
  unfold State.readFails
  (repeat' split) <;> simp

@[simp] theorem State.ring_grows_recordDensity (n) (r) (tile) (code) {s : State} (hs : l <+: s.ring) :
    l <+: (State.recordDensity n r tile code s).ring := by
  have hroom := fun m k => State.ring_grows_spillSpace (.history n (recLayerKey r) m) k hs
  unfold State.recordDensity
  dsimp only
  split
  · exact hs
  · split_ifs
    · exact hs
    · simpa using hs
    · split <;> rename_i h <;> simpa [h] using hroom (tile / 1024) 64

@[simp] theorem State.ring_grows_zeroDensity (j) (d) {s : State} (hs : l <+: s.ring) : l <+: (State.zeroDensity j d s).ring := by
  unfold State.zeroDensity
  (repeat' split) <;> simp [hs]

@[simp] theorem State.ring_deliverRead (j) (r) (d) (s : State) : (State.deliverRead j r d s).ring = s.ring := by
  unfold State.deliverRead
  dsimp only
  (repeat' split) <;> simp [whenB]

@[simp] theorem State.ring_updScat (n) (f) (s : State) : (State.updScat n f s).ring = s.ring := by
  unfold State.updScat
  (repeat' split) <;> simp

@[simp] theorem State.ring_holdSource (a) (k) (j) (s : State) : (State.holdSource a k j s).ring = s.ring := by
  simp [State.holdSource, apply_ite State.ring]

@[simp] theorem State.ring_updateRead (n) (seq) (u) (d) (s : State) : (State.updateRead n seq u d s).ring = s.ring := by
  simp [State.updateRead, whenB, apply_ite State.ring]

@[simp] theorem State.ring_scrubRead (j) (r) (d) (s : State) : (State.scrubRead j r d s).ring = s.ring := by
  unfold State.scrubRead
  (repeat' split) <;> simp

@[simp] theorem State.ring_migrateRead (j) (r) (d) (s : State) : (State.migrateRead j r d s).ring = s.ring := by
  unfold State.migrateRead
  (repeat' split) <;> simp

@[simp] theorem State.ring_exportRead (j) (d) (s : State) : (State.exportRead j d s).ring = s.ring := by
  unfold State.exportRead
  (repeat' split) <;> simp

@[simp] theorem State.ring_grows_readEnds (j) (d) {s : State} (hs : l <+: s.ring) : l <+: (State.readEnds j d s).ring := by
  unfold State.readEnds
  dsimp only
  (repeat' split) <;> simp [hs]

@[simp] theorem State.ring_fillCache (id) (e) (b) (s : State) : (State.fillCache id e b s).ring = s.ring := by
  unfold State.fillCache
  (repeat' split) <;> simp

@[simp] theorem State.ring_grows_gotEntry (id) (e) (poison) {s : State} (hs : l <+: s.ring) :
    l <+: (State.gotEntry id e poison s).ring := by
  unfold State.gotEntry
  dsimp only
  (repeat' split) <;> simp [hs]

@[simp] theorem State.ring_grows_wantEntry (id) {s : State} (hs : l <+: s.ring) : l <+: (State.wantEntry id s).ring := by
  unfold State.wantEntry
  dsimp only
  (repeat' split) <;> simp [State.readSpan_ring, whenB, hs, apply_ite State.ring]

@[simp] theorem State.ring_grows_restartRead (id) {s : State} (hs : l <+: s.ring) : l <+: (State.restartRead id s).ring := by
  unfold State.restartRead
  (repeat' split) <;> simp [hs]

@[simp] theorem State.ring_grows_gotPayload (id) (base) (addr) (n) (port) (img) (dead) {s : State} (hs : l <+: s.ring) :
    l <+: (State.gotPayload id base addr n port img dead s).ring := by
  unfold State.gotPayload
  dsimp only
  (repeat' split) <;> simp [hs]

@[simp] theorem State.ring_grows_presenceIs (j) (word) {s : State} (hs : l <+: s.ring) : l <+: (State.presenceIs j word s).ring := by
  unfold State.presenceIs
  (repeat' split) <;> simp [hs]

@[simp] theorem State.ring_grows_gotPresence (id) (word) (poison) {s : State} (hs : l <+: s.ring) :
    l <+: (State.gotPresence id word poison s).ring := by
  unfold State.gotPresence
  (repeat' split) <;> simp [whenB, apply_ite State.ring, hs]

@[simp] theorem State.ring_readPresence (id) (trec) (tile) (s : State) : (State.readPresence id trec tile s).ring = s.ring := by
  unfold State.readPresence
  dsimp only
  (repeat' split) <;> simp [State.readSpan_ring]

@[simp] theorem State.ring_heldReads (s : State) : (State.heldReads s).ring = s.ring := by
  simp [State.heldReads, forAll_ring, apply_ite State.ring]

@[simp] theorem State.ring_openUnit (j) (s : State) : (State.openUnit j s).ring = s.ring := by
  unfold State.openUnit
  (repeat' split) <;> simp

@[simp] theorem State.ring_grows_presenceKnown {s : State} (hs : l <+: s.ring) : l <+: (State.presenceKnown s).ring := by
  unfold State.presenceKnown
  refine ring_grows_forAll (fun a t => ?_) hs
  (repeat' split) <;> simp [State.readSpan_ring]

@[simp] theorem State.ring_readPayload (j) (s : State) : (State.readPayload j s).ring = s.ring := by
  unfold State.readPayload
  (repeat' split) <;> simp [State.readSpan_ring]

@[simp] theorem State.ring_startRead (n) (seq) (unit) (use) (recAddr) (trec) (tile) (s : State) :
    (State.startRead n seq unit use recAddr trec tile s).ring = s.ring := by
  unfold State.startRead
  (repeat' split) <;> simp

/-! ### The coding of a tile and its room -/

@[simp] theorem State.ring_grows_abandonTile (w) {s : State} (hs : l <+: s.ring) : l <+: (State.abandonTile w s).ring := by
  simp [State.abandonTile, hs]

@[simp] theorem State.ring_grows_makeRoomFor (o) (n) (tiles) {s : State} (hs : l <+: s.ring) :
    l <+: (State.makeRoomFor o n tiles s).1.ring := by
  have hroom := State.ring_grows_spillSpace o (ceilDiv n 64) hs
  unfold State.makeRoomFor
  split
  · exact hs
  · split <;> rename_i h <;> simpa [h] using hroom

@[simp] theorem State.ring_grows_admitHeld (o) (n) (tiles) {s : State} (hs : l <+: s.ring) :
    l <+: (State.admitHeld o n tiles s).1.ring := by
  have hroom := State.ring_grows_spillSpace o (ceilDiv n 64) hs
  unfold State.admitHeld
  split
  · exact hs
  · split <;> rename_i h <;> simpa [h] using hroom

@[simp] theorem State.ring_grows_makeRooms (used) (k) (items) {s : State} (hs : l <+: s.ring) :
    l <+: (State.makeRooms used k items s).1.ring := by
  induction items generalizing used k s with
  | nil => simpa [State.makeRooms] using hs
  | cons x rest ih =>
    have hroom := State.ring_grows_spillSpace x.1 (ceilDiv x.2 64) hs
    unfold State.makeRooms
    split_ifs
    · exact ih _ _ hs
    · exact ih _ _ hs
    · split <;> rename_i h
      · exact ih _ _ (ring_grows_of_fst h hroom)
      · exact ring_grows_of_fst h hroom

@[simp] theorem State.ring_grows_imageRooms (n) {s : State} (hs : l <+: s.ring) : l <+: (State.imageRooms n s).1.ring := by
  unfold State.imageRooms
  split <;> rename_i h <;> exact ring_grows_of_fst h (State.ring_grows_makeRooms _ _ _ hs)

@[simp] theorem State.ring_storeImage (id) (s : State) : (State.storeImage id s).ring = s.ring := by simp [State.storeImage]

@[simp] theorem State.ring_failSource (u) (id) (reason) (detailA) (detailB) (s : State) :
    (State.failSource u id reason detailA detailB s).ring = s.ring := by
  unfold State.failSource
  (repeat' split) <;> simp

@[simp] theorem State.ring_quantFaults (id) (faults) (s : State) : (State.quantFaults id faults s).1.ring = s.ring := by
  refine ring_foldl_fst (fun p a => ?_) faults (s, true)
  dsimp only
  split
  · simp
  · split_ifs <;> simp

@[simp] theorem State.ring_quantCounts (q) (s : State) : (State.quantCounts q s).ring = s.ring := by simp [State.quantCounts]

@[simp] theorem State.ring_quantiseTile (id) (faults) (s : State) : (State.quantiseTile id faults s).ring = s.ring := by
  unfold State.quantiseTile
  split
  · rfl
  · dsimp only
    split_ifs <;> simp only [State.ring_storeImage, State.updW_fields, State.ring_quantCounts, State.ring_quantFaults]

@[simp] theorem State.ring_carryStep (w) (faults) (s : State) : (State.carryStep w faults s).ring = s.ring := by
  unfold State.carryStep
  dsimp only
  (repeat' split) <;> simp [forAll_ring]

@[simp] theorem State.ring_carrySteps (faults) (s : State) : (State.carrySteps faults s).ring = s.ring := by
  simp [State.carrySteps, forAll_ring]

@[simp] theorem State.ring_updPart (id) (i) (f) (s : State) : (State.updPart id i f s).ring = s.ring := rfl

@[simp] theorem State.ring_settleRec (w) (p) (reason) (sev) (core) (a) (b) (s : State) :
    (State.settleRec w p reason sev core a b s).ring = s.ring := by
  simp [State.settleRec]

@[simp] theorem State.ring_grows_noMajority (w) (i) (p) (a) (b) (c) (x) {s : State} (hs : l <+: s.ring) :
    l <+: (State.noMajority w i p a b c x s).ring := by
  unfold State.noMajority
  (repeat' split) <;> simp [hs]

@[simp] theorem State.ring_unloadedRec (w) (kind) (id) (s : State) : (State.unloadedRec w kind id s).ring = s.ring := by
  unfold State.unloadedRec
  (repeat' split) <;> simp

@[simp] theorem State.ring_unloadedRecs (w) (r) (s : State) : (State.unloadedRecs w r s).ring = s.ring := by
  unfold State.unloadedRecs
  (repeat' split) <;> simp [whenB, apply_ite State.ring]

@[simp] theorem State.ring_codePart (w) (recAddr) (r) (tile) (img) (quality) (s : State) :
    (State.codePart w recAddr r tile img quality s).1.ring = s.ring := by
  simp [State.codePart, apply_ite State.ring]

@[simp] theorem State.ring_codeParts (w) (rec2) (s : State) : (State.codeParts w rec2 s).1.ring = s.ring := by
  simp [State.codeParts, ring_foldl_fst]

@[simp] theorem State.ring_noChecker (w) (s : State) : (State.noChecker w s).ring = s.ring := by
  simp [State.noChecker, apply_ite State.ring]

@[simp] theorem State.ring_codeZero (w) (s : State) : (State.codeZero w s).ring = s.ring := by
  unfold State.codeZero
  (repeat' split) <;> simp

@[simp] theorem State.ring_gotSource (id) (base) (addr) (n) (port) (img) (dead) (faults) (s : State) :
    (State.gotSource id base addr n port img dead faults s).ring = s.ring := by
  unfold State.gotSource
  dsimp only
  (repeat' split) <;> simp

@[simp] theorem State.ring_readSource (id) (at_) (s : State) : (State.readSource id at_ s).ring = s.ring := by
  simp [State.readSource, State.readSpan_ring]

@[simp] theorem State.ring_allocWait (pool) (id) (s : State) : (State.allocWait pool id s).ring = s.ring := by
  unfold State.allocWait
  (repeat' split) <;> simp [whenB, apply_ite State.ring]

/-! ### Commits, stops and sector requests -/

@[simp] theorem State.ring_grows_answer (cluster) (job) (a) {s : State} (hs : l <+: s.ring) : l <+: (State.answer cluster job a s).ring :=
  State.ring_grows_sendRing _ hs

@[simp] theorem State.ring_grows_partFails (id) (i) (keep) {s : State} (hs : l <+: s.ring) : l <+: (State.partFails id i keep s).ring := by
  unfold State.partFails
  (repeat' split) <;> simp [hs]

@[simp] theorem State.ring_discardStop (n) (s : State) : (State.discardStop n s).ring = s.ring := by
  unfold State.discardStop
  (repeat' split) <;> simp

@[simp] theorem State.ring_updCommit (id) (f) (s : State) : (State.updCommit id f s).ring = s.ring := rfl

@[simp] theorem State.ring_grows_entryErr (id) {s : State} (hs : l <+: s.ring) : l <+: (State.entryErr id s).ring := by
  unfold State.entryErr
  dsimp only
  (repeat' split) <;> simp [hs]

@[simp] theorem State.ring_writeParts (id) (s : State) : (State.writeParts id s).ring = s.ring := by
  unfold State.writeParts
  split
  · rfl
  · refine (forAll_ring (fun x t => ?_) _ _).trans (by simp)
    split
    · split <;> simp [State.writeSpan_ring]
    · rfl

@[simp] theorem State.ring_grantReady (id) (s : State) : (State.grantReady id s).ring = s.ring := by
  unfold State.grantReady
  (repeat' split) <;> simp

@[simp] theorem State.ring_grows_stopTile (intake) (w) {s : State} (hs : l <+: s.ring) : l <+: (State.stopTile intake w s).ring := by
  unfold State.stopTile
  (repeat' split) <;> simp [forAll_ring, hs]

@[simp] theorem State.ring_grows_stopRun (n) (seq) (u0) {s : State} (hs : l <+: s.ring) : l <+: (State.stopRun n seq u0 s).ring := by
  unfold State.stopRun
  dsimp only
  (repeat' split) <;> simp [forAll_ring, whenB, ring_grows_forAll, hs, apply_ite State.ring]

@[simp] theorem State.ring_plausible (n) (seq) (recAddr) (r) (tile) (img) (counted) (s : State) :
    (State.plausible n seq recAddr r tile img counted s).ring = s.ring := by
  unfold State.plausible
  dsimp only
  (repeat' split) <;> simp [whenB, apply_ite State.ring]

@[simp] theorem State.ring_grows_releaseOlds (w) {s : State} (hs : l <+: s.ring) : l <+: (State.releaseOlds w s).ring := by
  simp [State.releaseOlds, ring_grows_forAll, hs]

@[simp] theorem State.ring_grows_retire (w) {s : State} (hs : l <+: s.ring) : l <+: (State.retire w s).ring := by
  simp [State.retire, whenB, apply_ite State.ring, hs]

@[simp] theorem State.ring_grows_sendCommit (w) (i) (p) {s : State} (hs : l <+: s.ring) : l <+: (State.sendCommit w i p s).ring := by
  unfold State.sendCommit
  dsimp only
  split
  · simpa [apply_ite State.ring] using hs
  · exact State.ring_grows_sendRing _ (by simpa [apply_ite State.ring] using hs)

@[simp] theorem State.ring_takeGrant (pool) (runs) (free) (skew) (why) (s : State) :
    (State.takeGrant pool runs free skew why s).ring = s.ring := by
  simp [State.takeGrant, forAll_ring]

@[simp] theorem State.ring_grows_serveRemote (r) (fresh) {s : State} (hs : l <+: s.ring) : l <+: (State.serveRemote r fresh s).ring := by
  unfold State.serveRemote
  (repeat' split) <;> simp [hs]

@[simp] theorem State.ring_grows_serveRequest (id) {s : State} (hs : l <+: s.ring) : l <+: (State.serveRequest id s).ring := by
  unfold State.serveRequest
  (repeat' split) <;> simp [hs]

/-! ### Accumulator tiles and the Atoll -/

@[simp] theorem State.ring_addCounts (r) (s : State) : (State.addCounts r s).ring = s.ring := by simp [State.addCounts]

@[simp] theorem State.ring_dropAccReads (id) (s : State) : (State.dropAccReads id s).ring = s.ring := by
  simp [State.dropAccReads, forAll_ring]

@[simp] theorem State.ring_accFails (a) (s : State) : (State.accFails a s).ring = s.ring := by simp [State.accFails, forAll_ring]

@[simp] theorem State.ring_boundRec (n) (seq) (recAddr) (tile) (b) (s : State) : (State.boundRec n seq recAddr tile b s).ring = s.ring := by
  unfold State.boundRec
  (repeat' split) <;> simp

@[simp] theorem State.ring_spillRec (n) (pool) (again) (s : State) : (State.spillRec n pool again s).ring = s.ring := by
  simp [State.spillRec]

@[simp] theorem State.ring_spillStall (n) (staging) (s : State) : (State.spillStall n staging s).ring = s.ring := by
  unfold State.spillStall
  (repeat' split) <;> simp

@[simp] theorem State.ring_spillFound (n) (s : State) : (State.spillFound n s).ring = s.ring := rfl

@[simp] theorem State.ring_drainAcc (a) (base) (hw) (s : State) : (State.drainAcc a base hw s).ring = s.ring := by
  unfold State.drainAcc
  (repeat' split) <;> simp [forAll_ring]

@[simp] theorem State.ring_grows_drainRoom (a) (hw) {s : State} (hs : l <+: s.ring) : l <+: (State.drainRoom a hw s).1.ring := by
  have hroom := State.ring_grows_imageRooms a.dests.length hs
  unfold State.drainRoom
  split <;> rename_i h <;> simpa [h] using hroom

@[simp] theorem State.ring_loadPreload (a) (s : State) : (State.loadPreload a s).ring = s.ring := by
  unfold State.loadPreload
  (repeat' split) <;> simp

@[simp] theorem State.ring_moveAcc (a) (s : State) : (State.moveAcc a s).ring = s.ring := by
  unfold State.moveAcc
  dsimp only
  (repeat' split) <;> simp

@[simp] theorem State.ring_readParts (a) (nd) (use) (recAddr) (trec) (first) (s : State) :
    (State.readParts a nd use recAddr trec first s).ring = s.ring := by
  simp [State.readParts, forAll_ring]

@[simp] theorem State.ring_readPreload (a) (nd) (recAddr) (trec) (first) (s : State) :
    (State.readPreload a nd recAddr trec first s).ring = s.ring := by
  simp [State.readPreload]

@[simp] theorem State.ring_reduceOn (n) (r) (s : State) : (State.reduceOn n r s).ring = s.ring := by
  unfold State.reduceOn
  (repeat' split) <;> simp

@[simp] theorem State.ring_reduceStart (n) (r) (s : State) : (State.reduceStart n r s).ring = s.ring := by
  unfold State.reduceStart
  (repeat' split) <;> simp

@[simp] theorem State.ring_releaseSources (s : State) : (State.releaseSources s).ring = s.ring := by simp [State.releaseSources]
@[simp] theorem State.ring_atollAgain (x) (s : State) : (State.atollAgain x s).ring = s.ring := by simp [State.atollAgain, forAll_ring]
@[simp] theorem State.ring_countStop (n) (seq) (s : State) : (State.countStop n seq s).ring = s.ring := by simp [State.countStop]

@[simp] theorem State.ring_drainTile (x) (r) (tile) (c) (s : State) : (State.drainTile x r tile c s).ring = s.ring := by
  simp [State.drainTile]

@[simp] theorem State.ring_drainTiles (fuel) (s : State) : (State.drainTiles fuel s).ring = s.ring := by
  induction fuel generalizing s with
  | zero => rfl
  | succ fuel ih =>
    unfold State.drainTiles
    dsimp only
    (repeat' split) <;> simp [ih]

@[simp] theorem State.ring_atollWants (s : State) : (State.atollWants s).ring = s.ring := by
  unfold State.atollWants
  refine forAll_ring (fun a t => ?_) _ _
  (repeat' split) <;> simp

@[simp] theorem State.ring_atollEnds (s : State) : (State.atollEnds s).ring = s.ring := by
  unfold State.atollEnds
  (repeat' split) <;> simp

@[simp] theorem State.ring_atollLost (word) (s : State) : (State.atollLost word s).ring = s.ring := by
  unfold State.atollLost
  (repeat' split) <;> simp

@[simp] theorem State.ring_gotIndex (n) (sector) (addr) (img) (poison) (s : State) :
    (State.gotIndex n sector addr img poison s).ring = s.ring := by
  unfold State.gotIndex
  (repeat' split) <;> simp

@[simp] theorem State.ring_scatterTake (n) (r) (s : State) : (State.scatterTake n r s).ring = s.ring := by
  unfold State.scatterTake
  (repeat' split) <;> simp

/-! ### MERGE groups -/

@[simp] theorem State.ring_choosePath (g) (r) (x) (kb) (s : State) : (State.choosePath g r x kb s).ring = s.ring := by
  unfold State.choosePath
  (repeat' split) <;> simp

@[simp] theorem State.ring_readBlock (g) (r) (kb) (s : State) : (State.readBlock g r kb s).ring = s.ring := by simp [State.readBlock]

@[simp] theorem State.ring_startBlock (g) (r) (x) (kb) (s : State) : (State.startBlock g r x kb s).ring = s.ring := by
  simp [State.startBlock]

@[simp] theorem State.ring_startGroup (n) (r) (x) (s : State) : (State.startGroup n r x s).ring = s.ring := by
  unfold State.startGroup
  (repeat' split) <;> simp

@[simp] theorem State.ring_groupStart (n) (r) (x) (s : State) : (State.groupStart n r x s).ring = s.ring := by
  unfold State.groupStart
  (repeat' split) <;> simp

@[simp] theorem State.ring_groupTails (s : State) : (State.groupTails s).ring = s.ring := by
  unfold State.groupTails
  refine forAll_ring (fun a t => ?_) _ _
  (repeat' split) <;> simp

@[simp] theorem State.ring_groupLeaves (g) (port) (s : State) : (State.groupLeaves g port s).ring = s.ring := by
  unfold State.groupLeaves
  (repeat' split) <;> simp [forAll_ring]

@[simp] theorem State.ring_replayGroup (g) (avoid) (s : State) : (State.replayGroup g avoid s).ring = s.ring := by
  unfold State.replayGroup
  dsimp only
  (repeat' split) <;> simp

@[simp] theorem State.ring_replayTile (j) (avoid) (s : State) : (State.replayTile j avoid s).ring = s.ring := by
  unfold State.replayTile
  dsimp only
  (repeat' split) <;> simp

/-! ### Streams, fences and collectives -/

@[simp] theorem State.ring_grows_parkContext (n) (m) {s : State} (hs : l <+: s.ring) : l <+: (State.parkContext n m s).1.ring := by
  have hroom := State.ring_grows_spillSpace (.context m) 1 hs
  unfold State.parkContext
  split <;> rename_i h <;> simpa [h] using hroom

@[simp] theorem State.ring_breakMember (n) (s : State) : (State.breakMember n s).ring = s.ring := by
  unfold State.breakMember
  (repeat' split) <;> simp

@[simp] theorem State.ring_closeNow (n) (s : State) : (State.closeNow n s).ring = s.ring := by simp [State.closeNow]
@[simp] theorem State.ring_contextLost (n) (s : State) : (State.contextLost n s).ring = s.ring := by simp [State.contextLost]

@[simp] theorem State.ring_unfilled (s : State) : (State.unfilled s).ring = s.ring := by
  unfold State.unfilled
  (repeat' split) <;> simp [forAll_ring]

@[simp] theorem State.ring_fenceCheck (n) (r) (s : State) : (State.fenceCheck n r s).ring = s.ring := rfl

@[simp] theorem State.ring_grows_parkSelves {s : State} (hs : l <+: s.ring) : l <+: (State.parkSelves s).ring := by
  unfold State.parkSelves
  refine ring_grows_forAll (fun x t => ?_) hs
  split
  · exact List.prefix_rfl
  · simp [whenB, apply_ite State.ring]

@[simp] theorem State.ring_queueMsg (p) (isChunk) (n) (c) (m) (s : State) : (State.queueMsg p isChunk n c m s).ring = s.ring := rfl
@[simp] theorem State.ring_speaks (n) (seq) (s : State) : (State.speaks n seq s).ring = s.ring := by simp [State.speaks]
@[simp] theorem State.ring_notice (c) (r) (f) (s : State) : (State.notice c r f s).ring = s.ring := by simp [State.notice]

@[simp] theorem State.ring_collRec (n) (seq) (reason) (sev) (chunk) (s : State) :
    (State.collRec n seq reason sev chunk s).ring = s.ring := by
  simp [State.collRec]

@[simp] theorem State.ring_beginChunk (n) (seq) (c) (s : State) : (State.beginChunk n seq c s).ring = s.ring := by simp [State.beginChunk]

@[simp] theorem State.ring_chunkFails (n) (seq) (c) (s : State) : (State.chunkFails n seq c s).ring = s.ring := by
  unfold State.chunkFails
  (repeat' split) <;> simp

@[simp] theorem State.ring_parkSend (c) (r) (chunks) (s : State) : (State.parkSend c r chunks s).ring = s.ring := by
  simp [State.parkSend, forAll_ring]

@[simp] theorem State.ring_parkPairs (s : State) : (State.parkPairs s).ring = s.ring := by
  unfold State.parkPairs
  refine forAll_ring (fun a t => ?_) _ _
  (repeat' split) <;> simp

@[simp] theorem State.ring_relayPauses (s : State) : (State.relayPauses s).ring = s.ring := by
  unfold State.relayPauses
  refine forAll_ring (fun a t => ?_) _ _
  (repeat' split) <;> simp

@[simp] theorem State.ring_collNotices (s : State) : (State.collNotices s).ring = s.ring := by
  unfold State.collNotices
  refine (forAll_ring (fun c t => ?_) _ _).trans (by simp)
  dsimp only
  split
  · split_ifs <;> simp
  · rfl

@[simp] theorem State.ring_grows_stageChunk (n) (c) (tiles) {s : State} (hs : l <+: s.ring) :
    l <+: (State.stageChunk n c tiles s).1.ring := by
  unfold State.stageChunk
  dsimp only
  split <;> rename_i h <;> simpa using ring_grows_of_fst h (State.ring_grows_admitHeld _ _ _ hs)

@[simp] theorem State.ring_grows_formChunk (n) (r) (paired) (k) {s : State} (hs : l <+: s.ring) :
    l <+: (State.formChunk n r paired k s).ring := by
  unfold State.formChunk
  dsimp only
  split
  · split_ifs
    · simpa using hs
    · exact hs
    · simpa using hs
    all_goals split <;> rename_i h <;> simpa using ring_grows_of_fst h (State.ring_grows_stageChunk _ _ _ hs)
  · exact hs

@[simp] theorem State.ring_grows_formChunks {s : State} (hs : l <+: s.ring) : l <+: (State.formChunks s).ring := by
  unfold State.formChunks
  refine ring_grows_forAll (fun a t => ?_) hs
  (repeat' split) <;> simp [ring_grows_forAll]

@[simp] theorem State.ring_loadChunks (s : State) : (State.loadChunks s).ring = s.ring := by
  simp [State.loadChunks, State.spillLoad_ring, forAll_ring]

@[simp] theorem State.ring_parkColl (c) (r) (s : State) : (State.parkColl c r s).ring = s.ring := by
  unfold State.parkColl
  (repeat' split) <;> simp

@[simp] theorem State.ring_critParks (s : State) : (State.critParks s).ring = s.ring := by
  unfold State.critParks
  refine forAll_ring (fun a t => ?_) _ _
  (repeat' split) <;> simp

@[simp] theorem State.ring_redoSendTile (n) (r) (paired) (k) (i) (s : State) : (State.redoSendTile n r paired k i s).ring = s.ring := by
  unfold State.redoSendTile
  split
  · rfl
  · dsimp only
    split_ifs <;> rfl

@[simp] theorem State.ring_replaySendTile (n) (r) (paired) (k) (i) (core) (s : State) :
    (State.replaySendTile n r paired k i core s).ring = s.ring := by
  unfold State.replaySendTile
  (repeat' split) <;> simp

@[simp] theorem State.ring_replaySends (onGone) (s : State) : (State.replaySends onGone s).ring = s.ring := by
  unfold State.replaySends
  refine forAll_ring (fun a t => ?_) _ _
  (repeat' split) <;> simp [forAll_ring]

@[simp] theorem State.ring_chunkTile (n) (seq) (c) (i) (d) (e) (payload) (replay) (core) (s : State) :
    (State.chunkTile n seq c i d e payload replay core s).ring = s.ring := by
  simp [State.chunkTile]

@[simp] theorem State.ring_grows_sumTo (a) (c) {s : State} (hs : l <+: s.ring) : l <+: (State.sumTo a c s).ring := by
  unfold State.sumTo
  split
  · dsimp only
    split
    · exact hs
    · split <;> rename_i h <;> have ht := ring_grows_of_fst h (State.ring_grows_imageRooms _ hs)
      · simpa using ht
      · simp only [State.updColl_fields, forAll_ring fun _ _ => State.ring_addDone .., State.dropA_fields]
        rw [forAll_ring fun d t => ?_]
        · simpa [whenB, apply_ite State.ring] using ht
        · split <;> simp [whenB, apply_ite State.ring]
  · exact hs

@[simp] theorem State.ring_grows_drainOwn (a) (hw) {s : State} (hs : l <+: s.ring) : l <+: (State.drainOwn a hw s).1.ring := by
  have hroom := State.ring_grows_drainRoom a hw hs
  unfold State.drainOwn
  dsimp only
  split
  · rename_i h
    simpa [h, whenB, apply_ite State.ring] using hroom
  · exact hroom

@[simp] theorem State.ring_forwardFailed (n) (c) (chunk) (s : State) : (State.forwardFailed n c chunk s).ring = s.ring := by
  unfold State.forwardFailed
  (repeat' split) <;> simp

@[simp] theorem State.ring_accFailsNow (a) (s : State) : (State.accFailsNow a s).ring = s.ring := by
  unfold State.accFailsNow
  (repeat' split) <;> simp

@[simp] theorem State.ring_chunkErr (n) (r) (c) (s : State) : (State.chunkErr n r c s).ring = s.ring := by simp [State.chunkErr]
@[simp] theorem State.ring_chunkCounts (n) (r) (c) (s : State) : (State.chunkCounts n r c s).ring = s.ring := by simp [State.chunkCounts]
@[simp] theorem State.ring_chunkTaken (n) (seq) (k) (s : State) : (State.chunkTaken n seq k s).ring = s.ring := rfl
@[simp] theorem State.ring_answerChunk (p) (m) (nack) (s : State) : (State.answerChunk p m nack s).ring = s.ring := rfl

@[simp] theorem State.ring_answerFor (n) (seq) (p) (m) (nack) (s : State) : (State.answerFor n seq p m nack s).ring = s.ring := by
  simp [State.answerFor]

@[simp] theorem State.ring_acceptFailed (p) (n) (r) (m) (s : State) : (State.acceptFailed p n r m s).ring = s.ring := by
  simp [State.acceptFailed]

@[simp] theorem State.ring_wireDecoded (r) (tiles) (s : State) : (State.wireDecoded r tiles s).ring = s.ring := by
  unfold State.wireDecoded
  (repeat' split) <;> simp

@[simp] theorem State.ring_commitWire (n) (r) (tile) (x) (s : State) : (State.commitWire n r tile x s).ring = s.ring := by
  simp [State.commitWire]

@[simp] theorem State.ring_wireRecords (n) (r) (m) (tiles) (s : State) : (State.wireRecords n r m tiles s).ring = s.ring := by
  unfold State.wireRecords
  refine forAll_ring (fun a t => ?_) _ _
  (repeat' split) <;> simp

@[simp] theorem State.ring_grows_stageBytes (o) (bytes) (tiles) {s : State} (hs : l <+: s.ring) :
    l <+: (State.stageBytes o bytes tiles s).1.ring := by
  have hroom := State.ring_grows_makeRoomFor o bytes tiles hs
  unfold State.stageBytes
  split <;> rename_i h <;> simpa [h] using hroom

@[simp] theorem State.ring_renameSpill (a) (b) (s : State) : (State.renameSpill a b s).ring = s.ring := by simp [State.renameSpill]

@[simp] theorem State.ring_grows_takeChunk (p) (m) (man) (payload) (c) (r) {s : State} (hs : l <+: s.ring) :
    l <+: (State.takeChunk p m man payload c r s).ring := by
  unfold State.takeChunk
  dsimp only
  split_ifs
  any_goals simpa using hs
  all_goals
    split <;> rename_i h <;> simpa using ring_grows_of_fst h (State.ring_grows_stageBytes _ _ _ (by simpa using hs))

@[simp] theorem State.ring_grows_gotChunk (p) (m) (msg) (early) {s : State} (hs : l <+: s.ring) :
    l <+: (State.gotChunk p m msg early s).ring := by
  have hroom := State.ring_grows_stageBytes (.early p msg.man) msg.payload.length (entryCount m) hs
  unfold State.gotChunk
  split
  · exact State.ring_grows_takeChunk _ _ _ _ _ _ hs
  · split_ifs
    · exact hs
    · split <;> rename_i h <;> simpa [h] using hroom
    · exact hs

@[simp] theorem State.ring_grows_earlyChunks {s : State} (hs : l <+: s.ring) : l <+: (State.earlyChunks s).ring := by
  unfold State.earlyChunks
  refine ring_grows_forAll (fun p t => ring_grows_forAll (fun msg u => ?_) List.prefix_rfl) hs
  dsimp only
  split_ifs
  · exact List.prefix_rfl
  · rw [State.spillLoad_ring]
  · exact State.ring_grows_gotChunk _ _ _ _ List.prefix_rfl

@[simp] theorem State.ring_recvDone (s : State) : (State.recvDone s).ring = s.ring := by
  unfold State.recvDone
  refine forAll_ring (fun a t => ?_) _ _
  (repeat' split) <;> simp

@[simp] theorem State.ring_recvNext (n) (r) (stored) (s : State) : (State.recvNext n r stored s).ring = s.ring := by simp [State.recvNext]

@[simp] theorem State.ring_sumWire (n) (r) (k) (i) (core) (s : State) : (State.sumWire n r k i core s).ring = s.ring := by
  unfold State.sumWire
  (repeat' split) <;> simp [forAll_ring]

@[simp] theorem State.ring_recvSum (n) (r) (k) (i) (stored) (s : State) : (State.recvSum n r k i stored s).ring = s.ring := by
  unfold State.recvSum
  (repeat' split) <;> simp

@[simp] theorem State.ring_recvGo (n) (s : State) : (State.recvGo n s).ring = s.ring := by
  unfold State.recvGo
  dsimp only
  (repeat' split) <;> simp [State.spillLoad_ring, forAll_ring]

@[simp] theorem State.ring_grows_sumsGo {s : State} (hs : l <+: s.ring) : l <+: (State.sumsGo s).ring := by
  unfold State.sumsGo
  refine ring_grows_forAll (fun c t => ring_grows_forAll (fun a u => ?_) List.prefix_rfl) hs
  split_ifs
  · rw [State.spillLoad_ring]
  · exact State.ring_grows_sumTo _ _ List.prefix_rfl
  · split <;> rename_i h <;> simpa using ring_grows_of_fst h (State.ring_grows_drainOwn _ _ List.prefix_rfl)

/-! ### The Causeway, map-out, the end of work and the Chart load -/

@[simp] theorem State.ring_causewayWaits (recAddr) (tile) (s : State) : (State.causewayWaits recAddr tile s).ring = s.ring := by
  simp [State.causewayWaits, apply_ite State.ring]

@[simp] theorem State.ring_causewayAlloc (id) (s : State) : (State.causewayAlloc id s).ring = s.ring := by
  unfold State.causewayAlloc
  (repeat' split) <;> simp

@[simp] theorem State.ring_grows_causewayUnlock {s : State} (hs : l <+: s.ring) : l <+: (State.causewayUnlock s).ring := by
  unfold State.causewayUnlock
  split
  · exact State.ring_grows_sendRing _ hs
  · exact hs

@[simp] theorem State.ring_grows_causewayNext {s : State} (hs : l <+: s.ring) : l <+: (State.causewayNext s).ring := by
  simp [State.causewayNext, hs]

@[simp] theorem State.ring_grows_causewayDone {s : State} (hs : l <+: s.ring) : l <+: (State.causewayDone s).ring := by
  unfold State.causewayDone
  (repeat' split) <;> simp [hs]

@[simp] theorem State.ring_degrade (c : Cause) (s : State) : (s.degrade c).ring = s.ring := by
  unfold State.degrade State.sendDegraded
  dsimp only
  split_ifs <;> simp

@[simp] theorem State.ring_mapOut (img : Image) (s : State) : (State.mapOut img s).ring = s.ring := by
  have hshrink (ch : Nat) (t : State) : (t.shrink ch).ring = t.ring := by
    unfold State.shrink
    exact forAll_ring (fun p u => by simp) _ _
  unfold State.mapOut
  dsimp only
  split_ifs <;> simp [hshrink]

@[simp] theorem State.ring_mapAgain (s : State) : (State.mapAgain s).ring = s.ring := by
  unfold State.mapAgain
  split
  · split
    · rfl
    · exact State.ring_mapOut ..
  · rfl

@[simp] theorem State.ring_updTherm (g) (f) (s : State) : (State.updTherm g f s).ring = s.ring := by simp [State.updTherm]

@[simp] theorem State.ring_readBytes (addr) (sectors) (s : State) : (State.readBytes addr sectors s).ring = s.ring := by
  unfold State.readBytes
  split
  · split
    · rfl
    · simp
  · rfl

@[simp] theorem State.ring_grows_causewayStops {s : State} (hs : l <+: s.ring) : l <+: (State.causewayStops s).ring := by
  unfold State.causewayStops
  (repeat' split) <;> simp [hs]

@[simp] theorem State.ring_noChart (s : State) : (State.noChart s).ring = s.ring := by simp [State.noChart]
@[simp] theorem State.ring_rampTo (target) (s : State) : (State.rampTo target s).ring = s.ring := by simp [State.rampTo]

@[simp] theorem State.ring_grows_refuseRemote {s : State} (hs : l <+: s.ring) : l <+: (State.refuseRemote s).ring := by
  unfold State.refuseRemote
  refine ring_grows_forAll (fun r t => State.ring_grows_answer _ _ _ List.prefix_rfl) (ring_grows_forAll (fun c t => ?_) hs)
  split
  · exact State.ring_grows_answer _ _ _ List.prefix_rfl
  · exact List.prefix_rfl

@[simp] theorem State.ring_grows_workEnds {s : State} (hs : l <+: s.ring) : l <+: (State.workEnds s).ring := by simp [State.workEnds, hs]

@[simp] theorem State.ring_drainStream (n) (s : State) : (State.drainStream n s).ring = s.ring := by
  unfold State.drainStream
  (repeat' split) <;> simp

@[simp] theorem State.ring_startDrain (why) (s : State) : (State.startDrain why s).ring = s.ring := by
  unfold State.startDrain
  (repeat' split) <;> simp [forAll_ring]

@[simp] theorem State.ring_sramCleared (s : State) : (State.sramCleared s).ring = s.ring := by simp [State.sramCleared]

@[simp] theorem State.ring_grows_enterHeld (reason) {s : State} (hs : l <+: s.ring) : l <+: (State.enterHeld reason s).ring := by
  simp [State.enterHeld, hs]

@[simp] theorem State.ring_governs (s : State) : (State.governs s).ring = s.ring := by
  unfold State.governs
  (repeat' split) <;> simp

@[simp] theorem State.ring_grows_lifeEnd {s : State} (hs : l <+: s.ring) : l <+: (State.lifeEnd s).ring := by
  unfold State.lifeEnd
  (repeat' split) <;> simp [hs]

@[simp] theorem State.ring_grows_stagePiece (i) {s : State} (hs : l <+: s.ring) : l <+: (State.stagePiece i s).ring := by
  unfold State.stagePiece
  (repeat' split) <;> simp [hs]

@[simp] theorem State.ring_grows_stageChart {s : State} (hs : l <+: s.ring) : l <+: (State.stageChart s).ring := by
  unfold State.stageChart
  (repeat' split) <;> simp [ring_grows_forAll, hs]

@[simp] theorem State.ring_grows_validateNow {s : State} (hs : l <+: s.ring) : l <+: (State.validateNow s).ring :=
  State.ring_grows_sendRing _ ((forAll_ring (fun o => State.spillLoad_ring o) _ _).symm ▸ hs)

@[simp] theorem State.ring_grows_loadFails (f) {s : State} (hs : l <+: s.ring) : l <+: (State.loadFails f s).ring := by
  unfold State.loadFails
  dsimp only
  (repeat' split) <;> simp [hs]

@[simp] theorem State.ring_grows_chartPoison {s : State} (hs : l <+: s.ring) : l <+: (State.chartPoison s).ring := by
  unfold State.chartPoison
  (repeat' split) <;> simp [hs]

@[simp] theorem State.ring_grows_gotChart (base) (addr) (n) (img) (bad) {s : State} (hs : l <+: s.ring) :
    l <+: (State.gotChart base addr n img bad s).ring := by
  unfold State.gotChart
  dsimp only
  (repeat' split) <;> simp [hs]

/-! ### Answers of memory -/

@[simp] theorem State.ring_failParts (port) (s : State) : (State.failParts port s).ring = s.ring := by simp [State.failParts, forAll_ring]

@[simp] theorem State.ring_spillBack (id) (bad) (s : State) : (State.spillBack id bad s).ring = s.ring := by
  unfold State.spillBack
  (repeat' split) <;> simp

@[simp] theorem State.ring_grows_readData (r) (img) (dead) (faults) {s : State} (hs : l <+: s.ring) :
    l <+: (State.readData r img dead faults s).ring := by
  unfold State.readData
  (repeat' split) <;> simp [hs]

@[simp] theorem State.ring_grows_readAnswer (r) (img) (dead) (faults) {s : State} (hs : l <+: s.ring) :
    l <+: (State.readAnswer r img dead faults s).ring := by
  simp [State.readAnswer, whenB, apply_ite State.ring, hs]

@[simp] theorem State.ring_grows_replacePart (id) (i) {s : State} (hs : l <+: s.ring) : l <+: (State.replacePart id i s).ring := by
  unfold State.replacePart
  (repeat' split) <;> simp [hs]

@[simp] theorem State.ring_grows_deadAnswer (r) {s : State} (hs : l <+: s.ring) : l <+: (State.deadAnswer r s).ring := by
  unfold State.deadAnswer
  (repeat' split) <;> simp [hs]

@[simp] theorem State.ring_grows_answerDead {s : State} (hs : l <+: s.ring) : l <+: (State.answerDead s).ring := by
  simp [State.answerDead, ring_grows_forAll, hs]

/-! ### The allocator, engines, checkers and ports -/

@[simp] theorem State.ring_grows_serveAsk (x) {s : State} (hs : l <+: s.ring) : l <+: (State.serveAsk x s).ring := by
  unfold State.serveAsk
  (repeat' split) <;> simp [hs]

theorem State.ring_grows_allocOne (pool) {s : State} (hs : l <+: s.ring) {t : State} (ht : State.allocOne pool s = some t) :
    l <+: t.ring := by
  unfold State.allocOne at ht
  dsimp only at ht
  split at ht
  · cases ht
  · obtain ⟨x, -, rfl⟩ := Option.map_eq_some_iff.mp ht
    exact State.ring_grows_serveAsk _ (by simpa using hs)

@[simp] theorem State.ring_grows_allocAll (pool) (fuel) {s : State} (hs : l <+: s.ring) : l <+: (State.allocAll pool fuel s).ring := by
  induction fuel generalizing s with
  | zero => exact hs
  | succ fuel ih =>
    unfold State.allocAll
    split
    · exact hs
    · exact ih (State.ring_grows_allocOne _ hs ‹_›)

@[simp] theorem State.ring_grows_allocWaiting {s : State} (hs : l <+: s.ring) : l <+: (State.allocWaiting s).ring := by
  simp [State.allocWaiting, ring_grows_forAll, hs]

@[simp] theorem State.ring_askAgain (s : State) : (State.askAgain s).ring = s.ring := rfl

theorem State.ring_checkOne (s : State) {t : State} (ht : State.checkOne s = some t) : t.ring = s.ring := by
  unfold State.checkOne at ht
  dsimp only at ht
  split at ht
  · cases ht
  · split at ht
    · cases ht
    · obtain ⟨c, -, rfl⟩ := Option.map_eq_some_iff.mp ht
      simp

@[simp] theorem State.ring_assignCheckers (fuel) (s : State) : (State.assignCheckers fuel s).ring = s.ring := by
  induction fuel generalizing s with
  | zero => rfl
  | succ fuel ih =>
    unfold State.assignCheckers
    split
    · rfl
    · exact (ih _).trans (State.ring_checkOne _ ‹_›)

@[simp] theorem State.ring_takeEngine (w) (c) (e) (s : State) : (State.takeEngine w c e s).ring = s.ring := by
  unfold State.takeEngine
  (repeat' split) <;> simp

theorem State.ring_assignOne (s : State) {t : State} (ht : State.assignOne s = some t) : t.ring = s.ring := by
  unfold State.assignOne at ht
  dsimp only at ht
  split at ht
  · cases ht
  · split at ht
    · cases ht
    · obtain ⟨c, -, rfl⟩ := Option.map_eq_some_iff.mp ht
      simp

@[simp] theorem State.ring_assignEngines (fuel) (s : State) : (State.assignEngines fuel s).ring = s.ring := by
  induction fuel generalizing s with
  | zero => rfl
  | succ fuel ih =>
    unfold State.assignEngines
    split
    · rfl
    · exact (ih _).trans (State.ring_assignOne _ ‹_›)

@[simp] theorem State.ring_grows_checkersGone {s : State} (hs : l <+: s.ring) : l <+: (State.checkersGone s).ring := by
  unfold State.checkersGone
  refine ring_grows_forAll (fun w t => ring_grows_forAll (fun i u => ?_) List.prefix_rfl) hs
  (repeat' split) <;> simp

theorem State.ring_issueOne (m) (s : State) {t : State} (ht : State.issueOne m s = some t) : t.ring = s.ring := by
  unfold State.issueOne at ht
  dsimp only at ht
  split at ht
  · obtain ⟨x, -, rfl⟩ := Option.map_eq_some_iff.mp ht
    simp
  · cases ht

@[simp] theorem State.ring_issueAll (m) (fuel) (s : State) : (State.issueAll m fuel s).ring = s.ring := by
  induction fuel generalizing s with
  | zero => rfl
  | succ fuel ih =>
    unfold State.issueAll
    cases h : s.issueOne m with
    | none => rfl
    | some t => exact (ih t).trans (State.ring_issueOne m s h)

@[simp] theorem State.ring_issueWaiting (s : State) : (State.issueWaiting s).ring = s.ring := by simp [State.issueWaiting, forAll_ring]

@[simp] theorem State.ring_offer (p) (s : State) : (State.offer p s).ring = s.ring := by
  unfold State.offer
  dsimp only
  (repeat' split) <;> simp

@[simp] theorem State.ring_offers (s : State) : (State.offers s).ring = s.ring := by simp [State.offers, forAll_ring]

@[simp] theorem State.ring_roleStalls (s : State) : (State.roleStalls s).ring = s.ring := by
  unfold State.roleStalls
  refine forAll_ring (fun a t => ?_) _ _
  (repeat' split) <;> simp

/-! ### Spills that are lost -/

@[simp] theorem State.ring_addendLost (n) (chunk) (s : State) : (State.addendLost n chunk s).ring = s.ring := by simp [State.addendLost]

@[simp] theorem State.ring_sourceAgain (w) (s : State) : (State.sourceAgain w s).ring = s.ring := by
  unfold State.sourceAgain
  (repeat' split) <;> simp

@[simp] theorem State.ring_grows_imageLost (id) {s : State} (hs : l <+: s.ring) : l <+: (State.imageLost id s).ring := by
  unfold State.imageLost
  (repeat' split) <;> simp [hs]

@[simp] theorem State.ring_pageLost (n) (key) (page) (s : State) : (State.pageLost n key page s).ring = s.ring := by simp [State.pageLost]

@[simp] theorem State.ring_grows_payloadLost (id) {s : State} (hs : l <+: s.ring) : l <+: (State.payloadLost id s).ring := by
  unfold State.payloadLost
  (repeat' split) <;> simp [hs]

@[simp] theorem State.ring_stagedLost (n) (chunk) (s : State) : (State.stagedLost n chunk s).ring = s.ring := by
  unfold State.stagedLost
  refine forAll_ring (fun a t => ?_) _ _
  (repeat' split) <;> simp [forAll_ring, apply_ite State.ring]

@[simp] theorem State.ring_sumLost (id) (s : State) : (State.sumLost id s).ring = s.ring := by
  simp [State.sumLost, forAll_ring, apply_ite State.ring]

@[simp] theorem State.ring_heldAgain (acc) (i) (s : State) : (State.heldAgain acc i s).ring = s.ring := by
  unfold State.heldAgain
  (repeat' split) <;> simp [State.readSpan_ring]

@[simp] theorem State.ring_grows_spillLost (o) {s : State} (hs : l <+: s.ring) : l <+: (State.spillLost o s).ring := by
  unfold State.spillLost
  (repeat' split) <;> simp [hs]

@[simp] theorem State.ring_storeReport (x) (note) (s : State) : (State.storeReport x note s).ring = s.ring := by
  unfold State.storeReport
  (repeat' split) <;> simp

@[simp] theorem State.ring_grows_spillPoison (x) (addr) {s : State} (hs : l <+: s.ring) : l <+: (State.spillPoison x addr s).ring := by
  unfold State.spillPoison
  (repeat' split) <;> simp [hs]

@[simp] theorem State.ring_grows_spillPoisons {s : State} (hs : l <+: s.ring) : l <+: (State.spillPoisons s).ring := by
  unfold State.spillPoisons
  refine ring_grows_forAll (fun a t => ?_) hs
  (repeat' split) <;> simp

/-! ### The steps of a pass -/

@[simp] theorem State.ring_accSteps (s : State) : (State.accSteps s).ring = s.ring := by
  simp [State.accSteps, forAll_ring, apply_ite State.ring]

@[simp] theorem State.ring_codeZeros (s : State) : (State.codeZeros s).ring = s.ring := by
  simp [State.codeZeros, forAll_ring, apply_ite State.ring]

@[simp] theorem State.ring_grows_commitSends {s : State} (hs : l <+: s.ring) : l <+: (State.commitSends s).ring := by
  unfold State.commitSends
  refine ring_grows_forAll (fun a t => ?_) hs
  (repeat' split) <;> simp

@[simp] theorem State.ring_grows_evacuate {s : State} (hs : l <+: s.ring) : l <+: (State.evacuate s).ring := by
  unfold State.evacuate
  dsimp only
  rw [forAll_ring (fun g t => State.ring_replayGroup ..), forAll_ring (fun a t => State.ring_moveAcc ..), State.ring_replaySends]
  refine ring_grows_forAll (fun w t => ?_) ?_
  · split
    · split <;> simp
    · split <;> simp
  · rw [forAll_ring fun j t => ?_]
    · exact hs
    · split
      · split <;> simp
      · rfl

@[simp] theorem State.ring_grows_payloadOne {s : State} (hs : l <+: s.ring) : l <+: (State.payloadOne s).1.ring := by
  unfold State.payloadOne
  dsimp only
  split
  · exact hs
  · split
    · exact hs
    · split
      · exact State.ring_grows_restartRead _ hs
      · split <;> rename_i h <;> have ht := ring_grows_of_fst h (State.ring_grows_makeRoomFor _ _ _ hs)
        · simpa using ht
        · simpa [forAll_ring] using ht

@[simp] theorem State.ring_fencesWait (s : State) : (State.fencesWait s).ring = s.ring := by
  unfold State.fencesWait
  refine forAll_ring (fun a t => ?_) _ _
  (repeat' split) <;> simp

@[simp] theorem State.ring_headTimes (s : State) : (State.headTimes s).ring = s.ring := by simp [State.headTimes]

@[simp] theorem State.ring_grows_phaseStages {s : State} (hs : l <+: s.ring) : l <+: (State.phaseStages s).ring := by
  unfold State.phaseStages
  (repeat' split) <;> simp [hs]

@[simp] theorem State.ring_grows_readPayloads (fuel) {s : State} (hs : l <+: s.ring) : l <+: (State.readPayloads fuel s).ring := by
  induction fuel generalizing s with
  | zero => exact hs
  | succ fuel ih =>
    unfold State.readPayloads
    split <;> rename_i h
    · exact ih (ring_grows_of_fst h (State.ring_grows_payloadOne hs))
    · exact ring_grows_of_fst h (State.ring_grows_payloadOne hs)

theorem State.ring_grows_retireOne {s : State} (hs : l <+: s.ring) {t : State} (ht : State.retireOne s = some t) : l <+: t.ring := by
  obtain ⟨w, -, rfl⟩ := Option.map_eq_some_iff.mp ht
  exact State.ring_grows_retire _ hs

@[simp] theorem State.ring_grows_retireAll (fuel) {s : State} (hs : l <+: s.ring) : l <+: (State.retireAll fuel s).ring := by
  induction fuel generalizing s with
  | zero => exact hs
  | succ fuel ih =>
    unfold State.retireAll
    split
    · exact hs
    · exact ih (State.ring_grows_retireOne hs ‹_›)

@[simp] theorem State.ring_stagedBack (s : State) : (State.stagedBack s).ring = s.ring := by
  simp [State.stagedBack, State.spillLoad_ring, forAll_ring]

@[simp] theorem State.ring_grows_spillFrees {s : State} (hs : l <+: s.ring) : l <+: (State.spillFrees s).ring := by
  simp [State.spillFrees, ring_grows_forAll, hs]

@[simp] theorem State.ring_unitClean (s : State) : (State.unitClean s).ring = s.ring := by simp [State.unitClean]

@[simp] theorem State.ring_unitGo (w) (r) (s : State) : (State.unitGo w r s).ring = s.ring := by
  unfold State.unitGo
  (repeat' split) <;> simp

theorem State.ring_unitOne (res) (s : State) {t : State} (ht : State.unitOne res s = some t) : t.ring = s.ring := by
  unfold State.unitOne at ht
  dsimp only at ht
  split at ht
  · cases ht
  · obtain ⟨x, -, rfl⟩ := Option.map_eq_some_iff.mp ht
    simp

@[simp] theorem State.ring_unitAll (res) (fuel) (s : State) : (State.unitAll res fuel s).ring = s.ring := by
  induction fuel generalizing s with
  | zero => rfl
  | succ fuel ih =>
    unfold State.unitAll
    split
    · rfl
    · exact (ih _).trans (State.ring_unitOne _ _ ‹_›)

@[simp] theorem State.ring_unitsServe (s : State) : (State.unitsServe s).ring = s.ring := by
  unfold State.unitsServe
  (repeat' split) <;> simp

@[simp] theorem State.ring_shutStages (s : State) : (State.shutStages s).ring = s.ring := by
  simp [State.shutStages, forAll_ring, whenB, apply_ite State.ring]

@[simp] theorem State.ring_wipesEnd (s : State) : (State.wipesEnd s).ring = s.ring := by
  unfold State.wipesEnd
  refine forAll_ring (fun a t => ?_) _ _
  (repeat' split) <;> simp [apply_ite State.ring]

@[simp] theorem State.ring_grows_settlePass {s : State} (hs : l <+: s.ring) : l <+: (State.settlePass s).ring := by
  have h1 : l <+: s.headTimes.heldReads.presenceKnown.evacuate.answerDead.issueWaiting.spillPoisons.ring := by
    refine State.ring_grows_spillPoisons ?_
    rw [State.ring_issueWaiting]
    refine State.ring_grows_answerDead (State.ring_grows_evacuate (State.ring_grows_presenceKnown ?_))
    simpa using hs
  unfold State.settlePass
  dsimp only
  generalize s.headTimes.heldReads.presenceKnown.evacuate.answerDead.issueWaiting.spillPoisons = s1 at h1 ⊢
  have h2 : l <+: (((s1.carrySteps []).readPayloads s1.rjobs.length).stagedBack.codeZeros.accSteps).ring := by
    simpa using State.ring_grows_readPayloads s1.rjobs.length (s := s1.carrySteps []) (by simpa using h1)
  generalize ((s1.carrySteps []).readPayloads s1.rjobs.length).stagedBack.codeZeros.accSteps = s2 at h2 ⊢
  have h3 : l <+: (if s2.assignStopped || s2.heldBack then whenB s2.heldBack State.chosen s2 else s2.assignEngines 128).ring := by
    simpa [whenB, apply_ite State.ring] using h2
  generalize (if s2.assignStopped || s2.heldBack then whenB s2.heldBack State.chosen s2 else s2.assignEngines 128) = s3 at h3 ⊢
  have h4 : l <+: (if s2.heldBack then s3.checkersGone else s3.checkersGone.assignCheckers 16).askAgain.allocWaiting.ring := by
    refine State.ring_grows_allocWaiting ?_
    simpa [apply_ite State.ring] using State.ring_grows_checkersGone h3
  generalize (if s2.heldBack then s3.checkersGone else s3.checkersGone.assignCheckers 16).askAgain.allocWaiting = s4 at h4 ⊢
  have h5 : l <+: (s4.retireAll s4.wjobs.length).commitSends.formChunks.earlyChunks.sumsGo.ring :=
    State.ring_grows_sumsGo (State.ring_grows_earlyChunks (State.ring_grows_formChunks (State.ring_grows_commitSends
      (State.ring_grows_retireAll _ h4))))
  generalize (s4.retireAll s4.wjobs.length).commitSends.formChunks.earlyChunks.sumsGo = s5 at h5 ⊢
  have h6 : l <+: s5.recvDone.collNotices.loadChunks.mapAgain.causewayDone.critParks.releaseSources.groupTails.atollWants.ring := by
    simpa using State.ring_grows_causewayDone (s := s5.recvDone.collNotices.loadChunks.mapAgain) (by simpa using h5)
  generalize s5.recvDone.collNotices.loadChunks.mapAgain.causewayDone.critParks.releaseSources.groupTails.atollWants = s6 at h6 ⊢
  have h7 : l <+: (if s2.heldBack then s6 else s6.unitsServe).parkSelves.spillFrees.ring :=
    State.ring_grows_spillFrees (State.ring_grows_parkSelves (by simpa [apply_ite State.ring] using h6))
  simpa using State.ring_grows_phaseStages (s :=
    (if s2.heldBack then s6 else s6.unitsServe).parkSelves.spillFrees.fencesWait.unfilled.wipesEnd.roleStalls.shutStages)
    (by simpa using h7)

@[simp] theorem State.ring_grows_settle {s : State} (hs : l <+: s.ring) : l <+: s.settle.ring := by
  unfold State.settle
  split
  · exact hs
  · exact State.ring_grows_settlePass (State.ring_grows_settlePass hs)

end Sys2Proof.Machine
end

section
/-! SUPPORT. The repetition of a message that waits for another cluster (01_five_levels R23): a commit is formed anew at the time of its
repetition, with the class that its descriptor has by then (05_streams_and_order R193). -/

namespace Sys2Proof.Machine

/-- Messages stay sent while a state settles, so two states that settle to the same one, each with one message sent, have sent the same. -/
theorem State.message_eq_of_settle_eq {s u : State} {a b : RingMsg} (h : s.settle = u.settle) (hs : s.ring = [a]) (hu : u.ring = [b]) :
    a = b := by
  have ha : [a] <+: u.settle.ring := h ▸ State.ring_grows_settle (hs ▸ List.prefix_rfl)
  have hb : [b] <+: u.settle.ring := State.ring_grows_settle (hu ▸ List.prefix_rfl)
  have hab := (List.prefix_of_prefix_length_le ha hb le_rfl).eq_of_length rfl
  exact List.singleton_inj.mp hab

/-- The class of the commit that a message carries. -/
def RingMsg.commitCls : RingMsg → Option Nat
  | .commit c => some c.cls
  | _ => none

/-- A tensor record whose home is cluster 1. -/
def awayRec : BitVec 1024 := BitVec.ofNat 1024 (2 ^ 22)

/-- An EXPAND of stream 1, SEQ 7, with a deadline at 1,000 ns. -/
def urgentRun : Run :=
  Run.fetched (BitVec.ofNat 512 (pack [(32, 1), (32, 1), (32, 7), (32, 0), (64, 1000)])) 0 0
    ⟨awayRec, awayRec, awayRec, [], false, false, false, false, false, 0⟩

/-- A tile of that run whose commit was sent to cluster 1. -/
def awayJob : WJob :=
  { WJob.new 4 1 7 0 (.memory 0) 0 awayRec 0 (.queued 0) with parts := [Part.new 0 awayRec 0 [] 0 0 [] 0] }

/-- A machine on a die ring of two clusters at time 0, before that deadline is within its window of 0 us; the commit was last sent at 0. -/
def beforeDeadline : State :=
  { State.reset with
    params := { State.reset.params with drCount := 2 }
    streams := [{ Stream.opened 0x01000001 7 0 0 (some 0) true 0 with runs := [urgentRun] }]
    wjobs := [awayJob]
    remoteWaits := [⟨4, true, 1, 0, 0⟩] }

/-- The state in which a repetition settles. -/
def State.retried (t : Time) (id : Nat) (s : State) : State := (s.timed t).clocked [.eclk] (State.retryRemote id)

theorem exec_remoteWaitRetry (t : Time) (id : Nat) (s : State) : exec (.remoteWaitRetry t id) s = .next (s.retried t id).settle := rfl

/-- At time 0, the message is a commit of class 4. -/
theorem beforeDeadline_ringing : (beforeDeadline.ringing 4).map (fun x => x.msg.commitCls) = some (some 4) := by decide +kernel

/-- One epoch of 50 us later, the deadline is past, and the message that is sent is a commit of class 2. -/
theorem beforeDeadline_sends : (beforeDeadline.retried 50000 4).ring.map RingMsg.commitCls = [some 2] := by decide +kernel

/-- Refutes O46: the statement takes the message that is repeated from the state before the command's time, but the message is formed at that
time, and the class of a commit changes when the deadline of its descriptor comes within the window of its stream. (Only EXPAND and MERGE runs change class, and the model's own
commands give them no write job: the statement says nothing of that.) -/
theorem not_ringAnswers : ¬ Obligations.RingAnswers := by
  unfold Obligations.RingAnswers
  intro h
  obtain ⟨m, hm, hcls⟩ := Option.map_eq_some_iff.mp beforeDeadline_ringing
  obtain ⟨-, -, -, hretry⟩ := h 50000 4 beforeDeadline rfl
  obtain ⟨u, hu, hring, -⟩ := (hretry ⟨4, true, 1, 0, 0⟩ m rfl hm).1 (by decide)
  obtain ⟨sent, hsent, hsentCls⟩ := List.map_eq_singleton_iff.mp beforeDeadline_sends
  have hsettle : (beforeDeadline.retried 50000 4).settle = u.settle := Host.Outcome.next.inj hu
  have heq : sent = m.msg := State.message_eq_of_settle_eq hsettle hsent hring
  rw [heq, hcls] at hsentCls
  exact absurd hsentCls (by decide)

end Sys2Proof.Machine
end
